-- ==== Sys2Proof/Word.lean ====
section
/-! DEFINITION. The plain words of the ZT-4120: bytes on its ports and head streams, 20-bit samples. -/

namespace Sys2Proof

/-- One byte as a port or a head stream carries it (R178, R192). -/
abbrev Byte := BitVec 8

/-- One audio sample, a 20-bit two's-complement value (00_scope, "Sample pairs and rates"); also one data word of
a sector (R2). -/
abbrev Sample := BitVec 20

/-- The register of the sector check (R6). -/
abbrev Crc := BitVec 32

end Sys2Proof
end

