-- ==== Sys2Proof/Syntax.lean ====
section
/-! DEFINITION. The commands and events of the ZT-4120: one constructor of `Instr` per row of spec/opcode_table.json.

A row of a port command stands for the moment at which that port's framer takes the command (R182); its operands are
the parameter bytes of the catalogue (R185 to R188), so undefined codes and out-of-range numbers can be sent.  A row of
a line event or of a timer carries what the line delivers. -/

namespace Sys2Proof

/-- The three command ports (R183): port numbers 0, 1 and 2. -/
inductive Port where
  | deck | transport | studio
  deriving DecidableEq, Repr

/-- The two head streams, and the capture channels they feed (R47). -/
inductive HeadStream where
  | preRead | confidence
  deriving DecidableEq, Repr

/-- The two input lines that deliver sample pairs (R87). -/
inductive InputLine where
  | analog | digital
  deriving DecidableEq, Repr

/-- The two external clock references (R20); the third, INTERNAL, is the crystal and needs no event. -/
inductive RefLine where
  | word | digital
  deriving DecidableEq, Repr

/-- The two punch inputs (R169): input 0 is PUNCH A, input 1 is PUNCH B. -/
inductive PunchLine where
  | a | b
  deriving DecidableEq, Repr

/-- The level of a punch line (R169). -/
inductive Level where
  | high | low
  deriving DecidableEq, Repr

/-- The two sample rates (00_scope, "Sample pairs and rates"). -/
inductive Rate where
  | r48 | r44
  deriving DecidableEq, Repr

/-- The sixteen kinds of notice, in the order of their codes 1 to 16 (R195). -/
inductive NoticeKind where
  | cueFired | punchDetected | spliceEnded | programState
  | locateRequest | passEnd | flySwitch | flyStarved
  | writeFault | dropout | lockChange | clockLost
  | sourceStatus | recordRefused | storeOverrun | intakeSlip
  deriving DecidableEq, Repr

/-- One left and one right sample taken at the same instant. -/
structure SamplePair where
  left : Sample
  right : Sample
  deriving DecidableEq, Repr

/-- The parameter bytes of WRITE ENTRY after the place, in catalogue order (R187). -/
structure RawEntry where
  inAddr : BitVec 24
  inOffset : BitVec 16
  outAddr : BitVec 24
  outOffset : BitVec 16
  source : Byte
  method : Byte
  tcPresent : Byte
  tcHours : Byte
  tcMinutes : Byte
  tcSeconds : Byte
  tcFrames : Byte
  lay : Byte
  fadeIn : BitVec 16
  fadeOut : BitVec 16
  takePresent : Byte
  take : Byte
  notify : Byte
  deriving DecidableEq, Repr

/-- Every row of spec/opcode_table.json. -/
inductive Instr where
  /-- POWER_ON_RESET: power is applied. -/
  | powerOnReset
  /-- SELECT_FALL: the port's select line falls. -/
  | selectFall (p : Port)
  /-- SELECT_RISE: the port's select line rises. -/
  | selectRise (p : Port)
  /-- UNKNOWN_COMMAND: a command byte outside the catalogue completes. -/
  | unknownCommand (p : Port) (b : Byte)
  /-- POST_TRANSPORT: mode, direction, ratio in eighths or speed. -/
  | postTransport (p : Port) (mode dir arg : Byte)
  /-- QUERY_TIMELINE. -/
  | queryTimeline (p : Port)
  /-- SET_COAST_LIMIT: limit. -/
  | setCoastLimit (p : Port) (limit : Byte)
  /-- SET_REFERENCE: selection. -/
  | setReference (p : Port) (selection : Byte)
  /-- SET_RATE: rate. -/
  | setRate (p : Port) (rate : Byte)
  /-- CLEAR_CLOCK_LOST. -/
  | clearClockLost (p : Port)
  /-- QUERY_CLOCK. -/
  | queryClock (p : Port)
  /-- HOLD_FRAME: frame address. -/
  | holdFrame (p : Port) (addr : BitVec 24)
  /-- RELEASE_FRAME: frame address. -/
  | releaseFrame (p : Port) (addr : BitVec 24)
  /-- READ_AUDIO: frame address, channel, start sample, count. -/
  | readAudio (p : Port) (addr : BitVec 24) (channel : Byte) (start : BitVec 16) (count : Byte)
  /-- SET_JOG_WINDOW: length. -/
  | setJogWindow (p : Port) (length : Byte)
  /-- WRITE_FLY: bank, start pair position, pairs. -/
  | writeFly (p : Port) (bank : Byte) (start : BitVec 16) (pairs : List SamplePair)
  /-- WRITE_FLY_NEXT: bank, pairs. -/
  | writeFlyNext (p : Port) (bank : Byte) (pairs : List SamplePair)
  /-- CLOSE_BANK: bank, pair count, class, remaining, rate. -/
  | closeBank (p : Port) (bank : Byte) (count : BitVec 16) (cls remaining rate : Byte)
  /-- RELEASE_BANK: bank. -/
  | releaseBank (p : Port) (bank : Byte)
  /-- QUERY_BANKS. -/
  | queryBanks (p : Port)
  /-- QUERY_STATISTICS. -/
  | queryStatistics (p : Port)
  /-- CLEAR_STATISTICS. -/
  | clearStatistics (p : Port)
  /-- SET_CONCEAL: Bridge Limit, Hold Length, Fade Length, Recover Count. -/
  | setConceal (p : Port) (bridge hold : Byte) (fade : BitVec 16) (recover : Byte)
  /-- SET_MONITOR: selection. -/
  | setMonitor (p : Port) (selection : Byte)
  /-- SET_HEAD_GEOMETRY: D, C. -/
  | setHeadGeometry (p : Port) (d c : Byte)
  /-- SET_FAULT_LIMIT: limit. -/
  | setFaultLimit (p : Port) (limit : Byte)
  /-- SET_MANUAL_PUNCH: source, fade. -/
  | setManualPunch (p : Port) (source : Byte) (fade : BitVec 16)
  /-- SET_ANALOG_POLICY: copy mark (class, remaining). -/
  | setAnalogPolicy (p : Port) (cls remaining : Byte)
  /-- WRITE_GUARD_SPAN: place, first, last. -/
  | writeGuardSpan (p : Port) (place : Byte) (first last : BitVec 24)
  /-- ERASE_GUARD_SPAN: place. -/
  | eraseGuardSpan (p : Port) (place : Byte)
  /-- SET_GUARD_INVERT: flag. -/
  | setGuardInvert (p : Port) (flag : Byte)
  /-- SET_GUARD_LOCK. -/
  | setGuardLock (p : Port)
  /-- CLEAR_GUARD_LOCK, with the level the GUARD RELEASE line shows when the command is taken. -/
  | clearGuardLock (p : Port) (release : Bool)
  /-- QUERY_SOURCES, with the level the GUARD RELEASE line shows when the command is taken. -/
  | querySources (p : Port) (release : Bool)
  /-- WRITE_ENTRY: place, entry. -/
  | writeEntry (p : Port) (place : Byte) (entry : RawEntry)
  /-- ERASE_ENTRY: place. -/
  | eraseEntry (p : Port) (place : Byte)
  /-- READ_ENTRY: selector, place. -/
  | readEntry (p : Port) (selector place : Byte)
  /-- START_PROGRAM: mode, pass count, expected version. -/
  | startProgram (p : Port) (mode passes : Byte) (version : BitVec 16)
  /-- STOP_PROGRAM_NOW: STOP PROGRAM with NOW. -/
  | stopProgramNow (p : Port)
  /-- STOP_PROGRAM_AT_END: STOP PROGRAM with AT END. -/
  | stopProgramAtEnd (p : Port)
  /-- PUNCH_IN. -/
  | punchIn (p : Port)
  /-- PUNCH_OUT. -/
  | punchOut (p : Port)
  /-- QUERY_PROGRAM. -/
  | queryProgram (p : Port)
  /-- READ_RESULT: list position. -/
  | readResult (p : Port) (position : Byte)
  /-- CLEAR_RESULTS. -/
  | clearResults (p : Port)
  /-- SET_PREROLL: Preroll. -/
  | setPreroll (p : Port) (preroll : BitVec 16)
  /-- WRITE_CUE: entry, hours, minutes, seconds, frames, action, repeat, armed. -/
  | writeCue (p : Port) (entry hh mm ss ff action rep armed : Byte)
  /-- ERASE_CUE: entry. -/
  | eraseCue (p : Port) (entry : Byte)
  /-- ARM_CUE: entry, ARM, DISARM or KEEP. -/
  | armCue (p : Port) (entry arm : Byte)
  /-- CONFIGURE_PUNCH: input, active level, detection, sample period, repeat, action. -/
  | configurePunch (p : Port) (input active detection period rep action : Byte)
  /-- ARM_PUNCH: input, ARM or DISARM. -/
  | armPunch (p : Port) (input arm : Byte)
  /-- CLEAR_PUNCH: input. -/
  | clearPunch (p : Port) (input : Byte)
  /-- QUERY_PUNCH. -/
  | queryPunch (p : Port)
  /-- COLLECT_NOTICE. -/
  | collectNotice (p : Port)
  /-- SET_ROUTE: kind, route set. -/
  | setRoute (p : Port) (kind route : Byte)
  /-- SET_ATTENTION: flag. -/
  | setAttention (p : Port) (flag : Byte)
  /-- SET_EXPIRY: Expiry Time in seconds. -/
  | setExpiry (p : Port) (seconds : Byte)
  /-- RESET_PORT. -/
  | resetPort (p : Port)
  /-- RESET_DEVICE. -/
  | resetDevice (p : Port)
  /-- FRAME_MARK: one event on FMARK. -/
  | frameMark
  /-- SECTOR_ARRIVAL: the bytes of one sector as a head stream delivers them. -/
  | sectorArrival (ch : HeadStream) (bytes : List Byte)
  /-- SAMPLE_PAIR_ARRIVAL: a pair on the analog-side or the digital input. -/
  | samplePairArrival (line : InputLine) (pair : SamplePair)
  /-- DIGITAL_STATUS_RECORD: the status byte of the digital input. -/
  | digitalStatusRecord (record : Byte)
  /-- REFERENCE_LOST: four expected periods without an edge of the selected reference. -/
  | referenceLost
  /-- REFERENCE_ADOPTED: the selected reference's edges arrive at the rate in force. -/
  | referenceAdopted
  /-- MARK_TIMEOUT: two frame periods without a mark in PLAY. -/
  | markTimeout
  /-- SHUTTLE_TIMER_EXPIRY: one frame period without a valid header in SHUTTLE. -/
  | shuttleTimerExpiry
  /-- STATUS_TIMEOUT: 512 sample periods without a digital status record. -/
  | statusTimeout
  /-- NOTICE_EXPIRY: the deadline of the port's queued entry of this kind and subject is reached. -/
  | noticeExpiry (p : Port) (kind : NoticeKind) (subject : Nat)
  /-- PUNCH_SAMPLE: a punch input is sampled and shows this level. -/
  | punchSample (line : PunchLine) (level : Level)
  /-- OUTPUT_SAMPLE_PERIOD. -/
  | outputSamplePeriod
  /-- INTAKE_SAMPLE_PERIOD. -/
  | intakeSamplePeriod
  /-- DIGITAL_OUTPUT_BLOCK_END. -/
  | digitalOutputBlockEnd
  /-- INPUT_PAIR_TIMEOUT: no pair has arrived on this line for 4 sample periods. -/
  | inputPairTimeout (line : InputLine)
  /-- SECTOR_EMISSION: the write stream has emitted its next sector. -/
  | sectorEmission
  /-- CLOSE_OPERATION_COMPLETE: the close operation at the front of the channel's close list completes. -/
  | closeOperationComplete (ch : HeadStream)
  /-- CONCEALMENT_COMPLETE: the concealment operation in progress completes. -/
  | concealmentComplete
  /-- CODING_OPERATION_BEGIN: the coding operation at the front of the coding list begins. -/
  | codingOperationBegin
  /-- CODING_OPERATION_COMPLETE: the coding operation in progress completes. -/
  | codingOperationComplete
  /-- FETCH_COMPLETE: the port's fetch in flight completes. -/
  | fetchComplete (p : Port)
  /-- BYTE_COMPLETION: a byte completes on the port, with the byte clocked in. -/
  | byteCompletion (p : Port) (b : Byte)
  /-- REFERENCE_PRESENT: the reference's edges are recognised at the period of this rate. -/
  | referencePresent (ref : RefLine) (rate : Rate)
  /-- REFERENCE_ABSENT: no edge for four periods of the rate last measured. -/
  | referenceAbsent (ref : RefLine)
  deriving DecidableEq, Repr

end Sys2Proof
end

