-- ==== Sys2Proof/Decode.lean ====
section
/-! DEFINITION. Decoding by the table's bits.  spec/opcode_table.json gives no row any bits ("fields": [] throughout, and no
"fixed"), because a row of this block is a command or an event, not a word: so no word spells a command.  The bytes of a
port transaction are decoded by the framer (Machine/Ports.lean). -/

namespace Sys2Proof

/-- The command that a word spells by the opcode table's bits: none, since no row of the table gives bits. -/
def decodeTableWord (_nbits _w : Nat) : Option Instr := none

end Sys2Proof
end

