-- ==== Sys2Proof/Config.lean ====
section
/-! DEFINITION. The constants the spec fixes for the part, and the free values: constants with no body, for the few
values the spec does not state (log entries 3 to 6). -/

namespace Sys2Proof

/-- Legal frame addresses run from 0 to 2 591 999 (00_scope, "Positions and time on tape"; R7). -/
def Config.addrCount : Nat := 2592000

/-- The frame store has twenty slots (R25). -/
abbrev Config.slotCount : Nat := 20

/-- FREE VALUE (log entries 4, 5 and 6): a number the spec does not state, one for each value of `State.fresh`. -/
opaque Config.freeNat : Nat → Nat

/-- FREE VALUE (log entry 3): the sample read at a position beyond a slot's or a mix frame's own positions, which can be asked
for only after the clock rate in force has changed; `State.fresh`, channel, position. -/
opaque Config.freeSample : Nat → Nat → Nat → BitVec 20

end Sys2Proof
end

