-- ==== Sys2Proof/Machine/State.lean ====
section
/-! DEFINITION. The state of the ZT-4120: every register, flag, list and buffer that the spec names, as plain data, and its
value after power-on reset.  Each field cites the rule that names it; INVENTORY.md lists them all. -/

namespace Sys2Proof.Machine

/-! ### Small shapes -/

/-- One thing per port. -/
structure PerPort (α : Type) where
  deck : α
  transport : α
  studio : α
  deriving DecidableEq, Repr

/-- One thing per audio channel: 0 is left, 1 is right. -/
structure Stereo (α : Type) where
  left : α
  right : α
  deriving DecidableEq, Repr

/-- One of the two audio channels. -/
inductive Chan where
  | left | right
  deriving DecidableEq, Repr

/-- A buffer of 20-bit words in canonical form: addresses strictly rising, no listed word 0.  An unlisted address reads
as 0 (R25: a slot's places hold zero at allocation; R39: a pair not written since its bank was EMPTY holds zero). -/
abbrev Memory := List (Nat × Sample)

/-- The number of a frame store slot (R25). -/
abbrev SlotId := Fin Config.slotCount

/-- A fraction held exactly (R66, R184). -/
structure Frac where
  num : Nat
  den : Nat
  deriving DecidableEq, Repr

/-! ### Tape frames (01) -/

/-- Program timecode hh:mm:ss:ff (00_scope, "Positions and time on tape"). -/
structure Timecode where
  hh : Nat
  mm : Nat
  ss : Nat
  ff : Nat
  deriving DecidableEq, Repr

/-- A copy mark (R111): FREE, COUNTED with 0 to 3 copies remaining, or NEVER. -/
inductive CopyMark where
  | free
  | counted (remaining : Fin 4)
  | never
  deriving DecidableEq, Repr

/-- The splice mark of a frame header (R7). -/
inductive SpliceMark where
  | none | inPoint | outPoint | inOut | broken
  deriving DecidableEq, Repr

/-- A frame header (R7).  A decoded header always has its address; an inherited one may lack it (R59). -/
structure Header where
  addr : Option Nat
  tc : Option Timecode
  rate : Rate
  mark : CopyMark
  take : Nat
  splice : SpliceMark
  rework : Bool
  deriving DecidableEq, Repr

/-- Posted transport modes (R10). -/
inductive Mode where
  | stop | play | jog | shuttle | spool
  deriving DecidableEq, Repr

/-- Posted direction (R10). -/
inductive Dir where
  | forward | reverse
  deriving DecidableEq, Repr

/-- Timeline states (section 1.7). -/
inductive TlState where
  | parked | unlocked | acquiring | locked | coasting | laying
  deriving DecidableEq, Repr

/-- The timeline record (section 1.7), with the posted mode (R10) and what R8 and R17 carry from mark to mark. -/
structure Timeline where
  state : TlState
  position : Nat
  timecode : Option Timecode
  tapeRate : Option Rate
  coast : Nat
  candidate : Option Nat
  run : Nat
  generated : Option Nat
  coastLimit : Nat
  mode : Mode
  dir : Dir
  ratio : Nat
  speed : Nat
  /-- The write frame offered for coding at the previous mark (R8, R17). -/
  offered : Option Nat
  /-- The last address handed in the present or last lay (R17). -/
  handed : Option Nat
  /-- The frame the write head is in, when known (R8, R105). -/
  head : Option Nat
  /-- The frame the confidence head is in, when known (R8). -/
  confHead : Option Nat
  deriving DecidableEq, Repr

/-- The head geometry (R9). -/
structure Geometry where
  d : Nat
  c : Nat
  deriving DecidableEq, Repr

/-! ### Clock Monitor (01) -/

/-- The three references (R20). -/
inductive RefSel where
  | internal | word | digital
  deriving DecidableEq, Repr

/-- Presence of an external reference and the rate last measured (R20). -/
structure RefTrack where
  present : Bool
  measured : Option Rate
  deriving DecidableEq, Repr

/-- The Clock Monitor (R20 to R24). -/
structure Clock where
  selection : RefSel
  configured : Rate
  lost : Bool
  /-- The clock that times the part: INTERNAL is the crystal (R20, R21). -/
  running : RefSel
  /-- The clock rate in force (R20). -/
  rate : Rate
  word : RefTrack
  digital : RefTrack
  deriving DecidableEq, Repr

/-! ### Notices and ports (09, 10) -/

/-- Result codes (R191). -/
inductive Result where
  | done | accepted | busy | privilege | range | state | stale | held | full | unknown
  deriving DecidableEq, Repr

/-- A queued notice (R196, R198).  `deadline` is the Expiry Time given to an expiring entry when it joined. -/
structure Notice where
  kind : NoticeKind
  subject : Nat
  count : Nat
  addr : Option Nat
  code : Option Result
  deadline : Option Nat
  deriving DecidableEq, Repr

/-- The Notice Unit's record for one port (R198). -/
structure NoticePort where
  queue : List Notice
  overflow : Nat
  expired : Nat
  attention : Bool
  expiryTime : Nat
  deriving DecidableEq, Repr

/-- A framer (R179): PARAMETERS holds the bytes received, the command byte first; REPLY holds the bytes still to send. -/
inductive Framer where
  | idle
  | command
  | parameters (received : List Byte)
  | reply (remaining : List Byte)
  | draining
  deriving DecidableEq, Repr

/-! ### Edit Engine names used by other blocks -/

/-- A splice tag (R92): the program run, pass and entry index, or the manual punch, told apart by its take (log entry 14). -/
inductive SpliceTag where
  | program (run pass index : Nat)
  | manual (take : Nat)
  deriving DecidableEq, Repr

/-- Record sources (R86). -/
inductive Source where
  | analog | digital | fly
  deriving DecidableEq, Repr

/-- Splice methods (R132). -/
inductive Method where
  | insert | assemble
  deriving DecidableEq, Repr

/-! ### Frame Store (02) -/

inductive SlotState where
  | free | filling | decoded | concealed | ready | coded
  deriving DecidableEq, Repr

inductive Role where
  | preRead | confidence | intake | coded
  deriving DecidableEq, Repr

/-- A slot: its audio, its error map and its record (R25).  The error map lists the bad positions of each channel in rising
order; the bad counts are its sizes. -/
structure Slot where
  state : SlotState
  role : Option Role
  addr : Option Nat
  header : Option Header
  tag : Option SpliceTag
  inherited : Bool
  bad : Stereo (List Nat)
  concealed : Bool
  muted : Stereo Nat
  holders : PerPort Bool
  pinned : Bool
  due : Bool
  /-- 3200 word places: word j of data sector k at 400·k + j (R54). -/
  audio : Memory
  /-- The rate by which the sample positions lie in the places (R54, R57). -/
  layout : Rate
  deriving DecidableEq, Repr

/-- The jog window (R34 to R36); the scrub pointer is in eighths of a sample, and keeps its last value while no window is present (log
entry 32). -/
structure Jog where
  length : Nat
  window : Option Nat
  pointer : Nat
  deriving DecidableEq, Repr

/-- The parameters of a fetch (R37), with the slot it names. -/
structure FetchParams where
  addr : Nat
  chan : Chan
  start : Nat
  count : Nat
  slot : SlotId
  stale : Bool
  deriving DecidableEq, Repr

/-- A port's fetch record (R37, R38). -/
inductive Fetch where
  | empty
  | inFlight (f : FetchParams)
  | complete (f : FetchParams) (bad : Nat) (samples : List Sample)
  deriving DecidableEq, Repr

inductive BankState where
  | empty | loading | full | playing | spent
  deriving DecidableEq, Repr

/-- A fly bank (R39): pair n has its left sample at 2·n and its right sample at 2·n + 1. -/
structure Bank where
  state : BankState
  writePos : Nat
  count : Option Nat
  mark : Option CopyMark
  rate : Option Rate
  readPos : Nat
  pairs : Memory
  deriving DecidableEq, Repr

inductive BankId where
  | b0 | b1
  deriving DecidableEq, Repr

structure Banks where
  b0 : Bank
  b1 : Bank
  deriving DecidableEq, Repr

/-! ### Capture Decoder (03) -/

/-- A sector entry (R47).  A GOOD entry keeps the header copy it arrived with, whose take it records; a rebuilt one has none (R56). -/
inductive SectorEntry where
  | missing
  | failed
  | good (h : Header)
  | rebuilt
  deriving DecidableEq, Repr

/-- A frame in assembly, or one in the close list (R47): ten entries and its share of the parity store. -/
structure CaptureFrame where
  addr : Option Nat
  slot : Option SlotId
  entries : Vector SectorEntry 10
  p : Memory
  q : Memory
  deriving DecidableEq, Repr

/-- A frame whose close event has occurred (R49): how it came, the posted mode and direction then (R59), and how many judge
list entries the mark designated for this close (R106). -/
structure ClosingFrame where
  frame : CaptureFrame
  byMark : Bool
  mode : Mode
  dir : Dir
  designated : Nat
  deriving DecidableEq, Repr

/-- Capture statistics (R63). -/
structure CaptureStats where
  closed : Nat
  failed : Nat
  rebuilt : Nat
  unrecoverable : Nat
  mixed : Nat
  deriving DecidableEq, Repr

/-- A capture channel (R47); its state IDLE, ASSEMBLING or CLOSING is read off the first two fields. -/
structure Capture where
  assembly : Option CaptureFrame
  closing : List ClosingFrame
  reference : Option Header
  headless : Nat
  stats : CaptureStats
  deriving DecidableEq, Repr

/-! ### Concealment Unit and Monitor Selector (04) -/

inductive ConcealState where
  | clean | holding | fadingOut | muted | recovering | fadingIn
  deriving DecidableEq, Repr

/-- A fade in progress (R72, R74). -/
structure Fade where
  start : Frac
  length : Nat
  step : Nat
  deriving DecidableEq, Repr

/-- A channel's concealment record (R66). -/
structure ConcealRec where
  state : ConcealState
  gain : Frac
  lastGood : Sample
  carried : Option (Sample × Nat)
  hold : Nat
  fade : Option Fade
  recover : Nat
  bridged : Nat
  longRuns : Nat
  mutes : Nat
  deriving DecidableEq, Repr

/-- The four concealment parameters (R76). -/
structure ConcealParams where
  bridge : Nat
  hold : Nat
  fade : Nat
  recover : Nat
  deriving DecidableEq, Repr

/-- A frame in the concealment list (R67): its slot, or none for an absent frame, and the rate by which its close built the map. -/
structure ConcealJob where
  slot : Option SlotId
  rate : Rate
  deriving DecidableEq, Repr

/-- The Concealment Unit (R66, R67, R76): `op` holds the parameters that the operation in progress recorded. -/
structure Conceal where
  left : ConcealRec
  right : ConcealRec
  params : ConcealParams
  list : List ConcealJob
  op : Option ConcealParams
  deriving DecidableEq, Repr

inductive MonSel where
  | input | preRead | confidence | auto
  deriving DecidableEq, Repr

/-- A mix frame (R81), with the mark the Record Coder passes (R124). -/
structure Mix where
  addr : Nat
  pairs : List SamplePair
  rehearse : Bool
  mark : CopyMark
  deriving DecidableEq, Repr

/-- The Monitor Selector (R78) with the choices of the frame period (R80, R84) and the INPUT source's pairs (R82). -/
structure Monitor where
  stored : MonSel
  override : Bool
  current : Option Mix
  next : Option Mix
  outPos : Option Nat
  preSlot : Option SlotId
  confSlot : Option SlotId
  autoMix : Bool
  lastAnalog : Option SamplePair
  lastDigital : Option SamplePair
  deriving DecidableEq, Repr

/-- What the output lines last carried (R79, R124, R125, R103), and the output block so far (R125). -/
structure Outputs where
  pair : SamplePair
  mark : CopyMark
  blockCount : Nat
  blockMark : CopyMark
  status : Option Byte
  sector : Option (List Byte)
  deriving DecidableEq, Repr

/-! ### Record Coder (05) -/

/-- The four sources that have a status record (R112). -/
inductive SrcId where
  | analog | digital | fly0 | fly1
  deriving DecidableEq, Repr

/-- The tag of a pair (R87, R113): its source and epoch; no epoch is the lost-clock marker. -/
structure Tag where
  src : SrcId
  epoch : Option Nat
  deriving DecidableEq, Repr

/-- An intake frame (R86). `last` is the last pair it took, which R89 repeats. -/
structure IntakeFrame where
  slot : Option SlotId
  taken : Nat
  tags : List (Tag × Nat)
  slips : Nat
  starve : Option (Nat × BankId)
  rate : Rate
  last : Option (SamplePair × Tag)
  deriving DecidableEq, Repr

/-- The intake (R86). -/
structure Intake where
  source : Source
  fifo : List (SamplePair × Tag)
  priming : Bool
  flyStart : Option Nat
  frame : Option IntakeFrame
  deriving DecidableEq, Repr

/-- A closed intake frame as handed to coding (R88). -/
structure ClosedIntake where
  slot : Option SlotId
  tags : List (Tag × Nat)
  slips : Nat
  starve : Option (Nat × BankId)
  failed : Bool
  deriving DecidableEq, Repr

/-- A SPLICE plan (R92). `first` is the in-point offset when the in-point lies in this frame. -/
structure SplicePlan where
  tag : SpliceTag
  rehearse : Bool
  first : Option Nat
  origin : Int
  span : Nat
  fadeIn : Nat
  fadeOut : Nat
  final : Bool
  method : Method
  timecode : Option Timecode
  take : Nat
  mark : SpliceMark
  deriving DecidableEq, Repr

/-- Reasons of a refusal (R119, R123). -/
inductive Reason where
  | cls | unknown | rate | clock | guarded
  deriving DecidableEq, Repr

/-- Verdicts (R93, R120). -/
inductive Verdict where
  | permit
  | refusedAtIn (r : Reason)
  | guardedAtIn
  | refusedIn (r : Reason)
  | guardAhead
  | guardedHere
  deriving DecidableEq, Repr

/-- A coding operation that has begun (R91, R92): `slot` is its CODED slot, none once a cut has released it (R30, log entry 20); `plan`
is none for a TAPE plan; `finalReq` is a final-frame request taken for
it (R102), and `newMark` the mark its new audio was permitted with (R120, R121). -/
structure BegunOp where
  slot : Option SlotId
  plan : Option SplicePlan
  pre : Option SlotId
  verdict : Verdict
  newMark : CopyMark
  finalReq : Bool
  rate : Rate
  deriving DecidableEq, Repr

/-- An entry of the coding list (R91); `wait` counts the PRE-READ frames that must still be concealed. -/
structure CodingOp where
  addr : Nat
  intake : ClosedIntake
  wait : Nat
  begun : Option BegunOp
  deriving DecidableEq, Repr

inductive GateState where
  | closed | scheduled | opened | last
  deriving DecidableEq, Repr

/-- The write in progress (R100). -/
structure Write where
  addr : Nat
  slot : SlotId
  sectors : Nat
  deriving DecidableEq, Repr

/-- The record gate (R100) with the Fault Limit and the write-fault run count (R108). -/
structure Gate where
  state : GateState
  holder : Option SpliceTag
  first : Option Nat
  final : Option Nat
  write : Option Write
  pendingStop : Bool
  opening : Nat
  run : Nat
  faultLimit : Nat
  deriving DecidableEq, Repr

/-- An entry of the judge list (R106); `due` counts the marks still to come before its due mark. -/
structure JudgeEntry where
  addr : Nat
  take : Nat
  slot : SlotId
  tag : SpliceTag
  opening : Nat
  partly : Bool
  due : Nat
  designated : Bool
  deriving DecidableEq, Repr

/-- Manual punch settings (R109). -/
structure ManualSettings where
  source : Source
  fade : Nat
  deriving DecidableEq, Repr

/-! ### Copy Status Unit (06) -/

/-- What a source status record says (R112). -/
structure SourceStatus where
  valid : Bool
  mark : CopyMark
  rate : Option Rate
  deriving DecidableEq, Repr

/-- A source status record (R112): its history holds epochs with their statuses, oldest first. -/
structure SourceRec where
  status : SourceStatus
  epoch : Nat
  history : List (Nat × SourceStatus)
  deriving DecidableEq, Repr

/-- The source records, the Analog Policy and whether the DIGITAL status timeout has expired (R112, R114, R116). -/
structure Sources where
  analog : SourceRec
  digital : SourceRec
  fly0 : SourceRec
  fly1 : SourceRec
  policy : CopyMark
  timedOut : Bool
  deriving DecidableEq, Repr

/-- A guard span: first and last frame address (R126). -/
structure Span where
  first : Nat
  last : Nat
  deriving DecidableEq, Repr

/-- The guard table, invert flag and Guard Lock (R126, R129). -/
structure Guard where
  places : Vector (Option Span) 8
  invert : Bool
  lock : Bool
  deriving DecidableEq, Repr

/-! ### Edit Engine (07) -/

/-- A splice point: frame address and offset. -/
structure Point where
  addr : Nat
  offset : Nat
  deriving DecidableEq, Repr

/-- A draft list entry (R132). -/
structure Entry where
  inPoint : Point
  outPoint : Point
  source : Source
  method : Method
  timecode : Option Timecode
  lay : Bool
  fadeIn : Nat
  fadeOut : Nat
  take : Option Nat
  notify : Bool
  deriving DecidableEq, Repr

inductive Outcome where
  | done | broken | refused | guarded | starved | writeFault | lostLock | skipped
  deriving DecidableEq, Repr

/-- The state of an active entry (R134). -/
inductive EntryState where
  | pending | active | ended (o : Outcome)
  deriving DecidableEq, Repr

structure ActiveEntry where
  entry : Entry
  state : EntryState
  deriving DecidableEq, Repr

inductive EngState where
  | idle | armed | waiting | splicing | held | finishing | done | aborted
  deriving DecidableEq, Repr

inductive RunMode where
  | record | rehearse
  deriving DecidableEq, Repr

/-- An entry prepared to start (R140): start point, span counted from there, adjusted fades; `asked` when its bank has been
asked for (R142). -/
structure Prepared where
  index : Fin 16
  start : Point
  late : Bool
  span : Nat
  fadeIn : Nat
  fadeOut : Nat
  asked : Bool
  deriving DecidableEq, Repr

/-- The ACTIVE entry or the open punch, with its tally (R140, R143, R145, R155).  For a punch `start` is absent until its start frame is
known, `span` and `outPoint` are absent, and `finalReq` is a final-frame request that waits for the next operation (R102).  `entered` is
the last frame of a rehearsed splice that the write head has entered, the frame whose write a RECORD run would have begun (R153; log entry
55). -/
structure Splice where
  tag : SpliceTag
  index : Option (Fin 16)
  rehearse : Bool
  lay : Bool
  notify : Bool
  source : Source
  method : Method
  inFrame : Option Nat
  timecode : Option Timecode
  start : Option Point
  outPoint : Option Point
  span : Option Nat
  fadeIn : Nat
  fadeOut : Nat
  late : Bool
  take : Nat
  actualIn : Option Point
  final : Option Nat
  early : Option Point
  reason : Option (Outcome × Option Reason)
  mark : Option CopyMark
  faults : Nat
  reworked : Nat
  finalReq : Bool
  entered : Option Nat
  deriving DecidableEq, Repr

/-- A splice results entry (R159).  `tag` carries the entry index and the run; `pass` is 0 for RECORD and MANUAL. -/
structure SpliceResult where
  tag : SpliceTag
  run : Nat
  pass : Nat
  rehearse : Bool
  outcome : Outcome
  reason : Option Reason
  actualIn : Option Point
  actualOut : Option Point
  late : Bool
  take : Nat
  mark : Option CopyMark
  faults : Nat
  reworked : Nat
  deriving DecidableEq, Repr

/-- The Edit Engine (R132 to R161). -/
structure Engine where
  draft : Vector (Option Entry) 16
  version : Nat
  state : EngState
  run : Nat
  pass : Nat
  mode : Option RunMode
  passes : Option Nat
  runTake : Option Nat
  takeCounter : Nat
  active : Vector (Option ActiveEntry) 16
  prepared : List Prepared
  splice : Option Splice
  /-- The splice for which the PLAYING bank was asked (R43, R44). -/
  bankFor : Option SpliceTag
  locate : Nat
  /-- Marks still to come before the lay is asked for (R157). -/
  layWait : Option Nat
  results : List SpliceResult
  resultsLost : Nat
  preroll : Nat
  deriving DecidableEq, Repr

/-! ### Cue Unit (08) -/

inductive CueAction where
  | notify | startRecord | startRehearse | stopAtEnd | stopNow | punchToggle
  deriving DecidableEq, Repr

inductive CueRepeat where
  | oneShot | rep
  deriving DecidableEq, Repr

/-- A cue's last firing (R162, R167). -/
structure Firing where
  tc : Timecode
  addr : Option Nat
  answer : Result
  deriving DecidableEq, Repr

/-- A cue table entry (R162); a timecode part that is absent is ANY. -/
structure Cue where
  present : Bool
  armed : Bool
  hh : Option Nat
  mm : Option Nat
  ss : Option Nat
  ff : Option Nat
  action : CueAction
  rep : CueRepeat
  lastFiring : Option Firing
  deriving DecidableEq, Repr

inductive Detection where
  | edge | level
  deriving DecidableEq, Repr

inductive SamplePeriod where
  | ms2 | ms5 | ms10 | ms20
  deriving DecidableEq, Repr

inductive PunchRepeat where
  | single | continuous
  deriving DecidableEq, Repr

inductive PunchAction where
  | manualPunch | startRecord | stopAtEnd | stopNow | notify
  deriving DecidableEq, Repr

/-- A punch input record (R169). `last` is the last detection: ACTIVE (true) or INACTIVE (false), with the answer. -/
structure Punch where
  active : Level
  detection : Detection
  period : SamplePeriod
  rep : PunchRepeat
  action : PunchAction
  armed : Bool
  previous : Level
  filtered : Level
  detected : Bool
  last : Option (Bool × Result)
  deriving DecidableEq, Repr

/-! ### The whole part -/

/-- The state of the part, and the model's queue of pending commands and events. -/
structure State where
  /-- The model's own queue: commands and events waiting, the front first (log entry 9). -/
  pending : List Instr
  /-- The model's own counter that feeds the free values (log entry 3). -/
  fresh : Nat
  framers : PerPort Framer
  notices : PerPort NoticePort
  routes : Vector (PerPort Bool) 16
  tl : Timeline
  geo : Geometry
  clock : Clock
  slots : Vector Slot Config.slotCount
  /-- Slots in use, oldest first (R25). -/
  order : List SlotId
  jog : Jog
  fetch : PerPort Fetch
  banks : Banks
  pre : Capture
  conf : Capture
  conceal : Conceal
  mon : Monitor
  out : Outputs
  intake : Intake
  coding : List CodingOp
  /-- Address and timecode of the frame coded just before (R96). -/
  lastCoded : Option (Nat × Option Timecode)
  gate : Gate
  judge : List JudgeEntry
  manual : ManualSettings
  sources : Sources
  guard : Guard
  /-- The GUARD RELEASE line as last seen: active or not (R129). -/
  guardRelease : Bool
  eng : Engine
  cues : Vector Cue 24
  punchA : Punch
  punchB : Punch
  deriving DecidableEq, Repr

/-! ### Reset values -/

/-- A FREE slot (R25). -/
def Slot.reset : Slot where
  state := .free
  role := none
  addr := none
  header := none
  tag := none
  inherited := false
  bad := ⟨[], []⟩
  concealed := false
  muted := ⟨0, 0⟩
  holders := ⟨false, false, false⟩
  pinned := false
  due := false
  audio := []
  layout := .r48

/-- An EMPTY fly bank (R39). -/
def Bank.reset : Bank where
  state := .empty
  writePos := 0
  count := none
  mark := none
  rate := none
  readPos := 0
  pairs := []

/-- A capture channel after reset (R47). -/
def Capture.reset : Capture where
  assembly := none
  closing := []
  reference := none
  headless := 0
  stats := ⟨0, 0, 0, 0, 0⟩

/-- A concealment record after reset (R66). -/
def ConcealRec.reset : ConcealRec where
  state := .clean
  gain := ⟨1, 1⟩
  lastGood := 0
  carried := none
  hold := 0
  fade := none
  recover := 0
  bridged := 0
  longRuns := 0
  mutes := 0

/-- A source status record after reset (R112): one history entry, for epoch 0. -/
def SourceRec.reset (valid : Bool) : SourceRec where
  status := ⟨valid, .free, none⟩
  epoch := 0
  history := [(0, ⟨valid, .free, none⟩)]

/-- A cue table entry after reset (R162). -/
def Cue.reset : Cue where
  present := false
  armed := false
  hh := none
  mm := none
  ss := none
  ff := none
  action := .notify
  rep := .oneShot
  lastFiring := none

/-- A punch input after reset (R169). -/
def Punch.reset : Punch where
  active := .low
  detection := .edge
  period := .ms10
  rep := .single
  action := .notify
  armed := false
  previous := .high
  filtered := .high
  detected := false
  last := none

/-- A port's notice record after reset (R198). -/
def NoticePort.reset : NoticePort where
  queue := []
  overflow := 0
  expired := 0
  attention := true
  expiryTime := 4

/-- The default routes of the sixteen kinds, in code order (R196). -/
def defaultRoutes : Vector (PerPort Bool) 16 :=
  #v[⟨true, false, true⟩,    -- CUE_FIRED
     ⟨true, false, false⟩,   -- PUNCH_DETECTED
     ⟨true, false, true⟩,    -- SPLICE_ENDED
     ⟨true, true, true⟩,     -- PROGRAM_STATE
     ⟨false, true, false⟩,   -- LOCATE_REQUEST
     ⟨false, true, false⟩,   -- PASS_END
     ⟨false, false, true⟩,   -- FLY_SWITCH
     ⟨true, false, true⟩,    -- FLY_STARVED
     ⟨true, false, false⟩,   -- WRITE_FAULT
     ⟨true, false, false⟩,   -- DROPOUT
     ⟨true, true, false⟩,    -- LOCK_CHANGE
     ⟨true, false, false⟩,   -- CLOCK_LOST
     ⟨true, false, false⟩,   -- SOURCE_STATUS
     ⟨true, false, true⟩,    -- RECORD_REFUSED
     ⟨true, false, false⟩,   -- STORE_OVERRUN
     ⟨true, false, false⟩]   -- INTAKE_SLIP

/-- The timeline record after reset (section 1.7, R10, R14). -/
def Timeline.reset : Timeline where
  state := .parked
  position := 0
  timecode := none
  tapeRate := none
  coast := 0
  candidate := none
  run := 0
  generated := none
  coastLimit := 8
  mode := .stop
  dir := .forward
  ratio := 8
  speed := 2
  offered := none
  handed := none
  head := none
  confHead := none

/-- The Clock Monitor after power-on reset (R24). -/
def Clock.reset : Clock where
  selection := .internal
  configured := .r48
  lost := true
  running := .internal
  rate := .r48
  word := ⟨false, none⟩
  digital := ⟨false, none⟩

/-- The concealment parameters' defaults (R76). -/
def ConcealParams.reset : ConcealParams := ⟨8, 16, 256, 32⟩

/-- The Monitor Selector after reset (R78). -/
def Monitor.reset : Monitor where
  stored := .auto
  override := false
  current := none
  next := none
  outPos := none
  preSlot := none
  confSlot := none
  autoMix := false
  lastAnalog := none
  lastDigital := none

/-- The output lines after reset: silence, and the block count restarted (R125). -/
def Outputs.reset : Outputs where
  pair := ⟨0, 0⟩
  mark := .free
  blockCount := 0
  blockMark := .free
  status := none
  sector := none

/-- The intake after reset (R86). -/
def Intake.reset : Intake where
  source := .analog
  fifo := []
  priming := false
  flyStart := none
  frame := none

/-- The record gate after reset (R100, R108). -/
def Gate.reset : Gate where
  state := .closed
  holder := none
  first := none
  final := none
  write := none
  pendingStop := false
  opening := 0
  run := 0
  faultLimit := 3

/-- The source records, the Analog Policy and the status timeout after reset (R112, R114, R116).  The expiry that QUERY SOURCES shows is
clear, though no status record has arrived since (R130; log entry 32). -/
def Sources.reset : Sources where
  analog := SourceRec.reset true
  digital := SourceRec.reset false
  fly0 := SourceRec.reset false
  fly1 := SourceRec.reset false
  policy := .free
  timedOut := false

/-- The guard table after power-on reset (R126, R129). -/
def Guard.reset : Guard where
  places := Vector.replicate 8 none
  invert := false
  lock := false

/-- The Edit Engine after power-on reset (R161, R137). -/
def Engine.reset : Engine where
  draft := Vector.replicate 16 none
  version := 0
  state := .idle
  run := 0
  pass := 0
  mode := none
  passes := none
  runTake := none
  takeCounter := 1
  active := Vector.replicate 16 none
  prepared := []
  splice := none
  bankFor := none
  locate := 0
  layWait := none
  results := []
  resultsLost := 0
  preroll := 90

/-- The part right after power-on reset, every select line high, nothing pending. -/
def State.reset : State where
  pending := []
  fresh := 0
  framers := ⟨.idle, .idle, .idle⟩
  notices := ⟨NoticePort.reset, NoticePort.reset, NoticePort.reset⟩
  routes := defaultRoutes
  tl := Timeline.reset
  geo := ⟨3, 2⟩
  clock := Clock.reset
  slots := Vector.replicate Config.slotCount Slot.reset
  order := []
  jog := ⟨4, none, 0⟩
  fetch := ⟨.empty, .empty, .empty⟩
  banks := ⟨Bank.reset, Bank.reset⟩
  pre := Capture.reset
  conf := Capture.reset
  conceal := ⟨ConcealRec.reset, ConcealRec.reset, ConcealParams.reset, [], none⟩
  mon := Monitor.reset
  out := Outputs.reset
  intake := Intake.reset
  coding := []
  lastCoded := none
  gate := Gate.reset
  judge := []
  manual := ⟨.analog, 480⟩
  sources := Sources.reset
  guard := Guard.reset
  guardRelease := false
  eng := Engine.reset
  cues := Vector.replicate 24 Cue.reset
  punchA := Punch.reset
  punchB := Punch.reset

/-! ### How a step can stop -/

/-- Faults: none.  The spec gives every command and event an effect or a reply, and nothing stops the part (R182). -/
inductive Fault where
  deriving DecidableEq, Repr

/-- Refusals. -/
inductive Refusal where
  /-- Raised by `exec` for a row that has no meaning yet, and by nothing else; safe.  Every row has its meaning, so no arm
  raises it. -/
  | notModelled (mnemonic : String)
  deriving DecidableEq, Repr

end Sys2Proof.Machine
end

