-- ==== Sys2Proof/Machine/Operands.lean ====
section
/-! DEFINITION. Operands and reply values: the encodings of R184, the header layout of R193, the codes of every named value, and
the byte counts of the catalogue (R185 to R188). -/

namespace Sys2Proof.Machine

/-! ### Rates -/

/-- S, the sample pairs of a frame at a rate (00_scope, "Sample pairs and rates"). -/
def framePairs : Rate → Nat
  | .r48 => 1600
  | .r44 => 1470

/-- H = S/2. -/
def halfPairs (r : Rate) : Nat := framePairs r / 2

/-! ### Bytes and numbers -/

/-- A number in `n` bytes, most significant first (R178). -/
def be : Nat → Nat → List Byte
  | 0, _ => []
  | n + 1, x => BitVec.ofNat 8 (x / 256 ^ n) :: be n x

/-- A flag in one byte (R184). -/
def flagByte (b : Bool) : List Byte := [if b then 1 else 0]

/-- A value that may be absent: its presence flag, then its bytes, zeros when it is absent (R184; log entry 11). -/
def optBytes (n : Nat) : Option (List Byte) → List Byte
  | none => 0 :: List.replicate n 0
  | some l => 1 :: l

/-- Whether a byte is a flag (R184). -/
def isFlag (b : Byte) : Bool := decide (b.toNat < 2)

/-- The value a defined code names: codes run from 0 in the order of the list (R184). -/
def named {α : Type} (l : List α) (b : Byte) : Option α := l[b.toNat]?

/-- The code of a value in its list (R184). -/
def codeIn {α : Type} [DecidableEq α] (l : List α) (a : α) : Nat := l.idxOf a

/-! ### Named values, in the order of their rules -/

def modes : List Mode := [.stop, .play, .jog, .shuttle, .spool]
def dirs : List Dir := [.forward, .reverse]
def rates : List Rate := [.r48, .r44]
def refSels : List RefSel := [.internal, .word, .digital]
def tlStates : List TlState := [.parked, .unlocked, .acquiring, .locked, .coasting, .laying]
def slotStates : List SlotState := [.free, .filling, .decoded, .concealed, .ready, .coded]
def roles : List Role := [.preRead, .confidence, .intake, .coded]
def bankStates : List BankState := [.empty, .loading, .full, .playing, .spent]
def concealStates : List ConcealState := [.clean, .holding, .fadingOut, .muted, .recovering, .fadingIn]
def monSels : List MonSel := [.input, .preRead, .confidence, .auto]
def sourceList : List Source := [.analog, .digital, .fly]
def methods : List Method := [.insert, .assemble]
def gateStates : List GateState := [.closed, .scheduled, .opened, .last]
def runModes : List RunMode := [.record, .rehearse]
def engStates : List EngState :=
  [.idle, .armed, .waiting, .splicing, .held, .finishing, .done, .aborted]
def outcomes : List Outcome :=
  [.done, .broken, .refused, .guarded, .starved, .writeFault, .lostLock, .skipped]
def reasons : List Reason := [.cls, .unknown, .rate, .clock, .guarded]
def cueActions : List CueAction := [.notify, .startRecord, .startRehearse, .stopAtEnd, .stopNow, .punchToggle]
def cueRepeats : List CueRepeat := [.oneShot, .rep]
def levels : List Level := [.high, .low]
def detections : List Detection := [.edge, .level]
def samplePeriods : List SamplePeriod := [.ms2, .ms5, .ms10, .ms20]
def punchRepeats : List PunchRepeat := [.single, .continuous]
def punchActions : List PunchAction := [.manualPunch, .startRecord, .stopAtEnd, .stopNow, .notify]

/-- Result codes (R191). -/
def resultCode : Result → Nat
  | .done => 1
  | .accepted => 2
  | .busy => 3
  | .privilege => 4
  | .range => 5
  | .state => 6
  | .stale => 7
  | .held => 8
  | .full => 9
  | .unknown => 10

/-- The sixteen kinds in code order, codes 1 to 16 (R195). -/
def noticeKinds : List NoticeKind :=
  [.cueFired, .punchDetected, .spliceEnded, .programState, .locateRequest, .passEnd, .flySwitch, .flyStarved,
   .writeFault, .dropout, .lockChange, .clockLost, .sourceStatus, .recordRefused, .storeOverrun, .intakeSlip]

/-- The place of a kind in the route table: its code less one (R195, R196). -/
def kindIndex : NoticeKind → Fin 16
  | .cueFired => 0
  | .punchDetected => 1
  | .spliceEnded => 2
  | .programState => 3
  | .locateRequest => 4
  | .passEnd => 5
  | .flySwitch => 6
  | .flyStarved => 7
  | .writeFault => 8
  | .dropout => 9
  | .lockChange => 10
  | .clockLost => 11
  | .sourceStatus => 12
  | .recordRefused => 13
  | .storeOverrun => 14
  | .intakeSlip => 15

/-- The subject a refusal's reason is coded as (R123). -/
def reasonSubject : Reason → Nat
  | .cls => 1
  | .unknown => 2
  | .rate => 3
  | .clock => 4
  | .guarded => 5

/-- The subject an engine state is coded as (R139). -/
def engSubject (e : EngState) : Nat := codeIn engStates e

/-! ### Copy marks, timecodes, addresses -/

/-- A copy mark from a class code and a remaining count: none for a class code above 2, or for a count above 3 with COUNTED;
with FREE and NEVER the count is not read (R41, R114, R184). -/
def copyMarkOf (cls remaining : Nat) : Option CopyMark :=
  match cls with
  | 0 => some .free
  | 1 => if h : remaining < 4 then some (.counted ⟨remaining, h⟩) else none
  | 2 => some .never
  | _ => none

/-- Class code and remaining count of a mark; the count is 0 with FREE and NEVER (R111, R184). -/
def markCode : CopyMark → Nat × Nat
  | .free => (0, 0)
  | .counted r => (1, r.val)
  | .never => (2, 0)

def markBytes (m : CopyMark) : List Byte := be 1 (markCode m).1 ++ be 1 (markCode m).2

/-- A legal frame address (00_scope, "Positions and time on tape"). -/
def legalAddr (a : Nat) : Bool := decide (a < Config.addrCount)

/-- A timecode in range (R7). -/
def Timecode.legal (t : Timecode) : Bool :=
  decide (t.hh < 24 ∧ t.mm < 60 ∧ t.ss < 60 ∧ t.ff < 30)

/-- A timecode moved forward one frame, wrapping after 23:59:59:29 (R13, R59). -/
def Timecode.next (t : Timecode) : Timecode :=
  if t.ff < 29 then { t with ff := t.ff + 1 }
  else if t.ss < 59 then { t with ff := 0, ss := t.ss + 1 }
  else if t.mm < 59 then { t with ff := 0, ss := 0, mm := t.mm + 1 }
  else if t.hh < 23 then ⟨t.hh + 1, 0, 0, 0⟩
  else ⟨0, 0, 0, 0⟩

/-- A timecode moved back one frame, wrapping before 00:00:00:00 (R59). -/
def Timecode.prev (t : Timecode) : Timecode :=
  if 0 < t.ff then { t with ff := t.ff - 1 }
  else if 0 < t.ss then { t with ff := 29, ss := t.ss - 1 }
  else if 0 < t.mm then { t with ff := 29, ss := 59, mm := t.mm - 1 }
  else if 0 < t.hh then ⟨t.hh - 1, 59, 59, 29⟩
  else ⟨23, 59, 59, 29⟩

/-- A timecode advanced by `n` frames (R143). -/
def Timecode.advance (t : Timecode) (n : Nat) : Timecode := Nat.iterate Timecode.next n t

def tcBytes (t : Timecode) : List Byte := be 1 t.hh ++ be 1 t.mm ++ be 1 t.ss ++ be 1 t.ff

def addrBytes (a : Nat) : List Byte := be 3 a

def pointBytes (p : Point) : List Byte := be 3 p.addr ++ be 2 p.offset

/-- A sample in three bytes, the high four bits repeating the sign (R184). -/
def sampleBytes (v : Sample) : List Byte := be 3 (v.signExtend 24).toNat

/-- A fraction: numerator, then denominator, four bytes each (R184). -/
def fracBytes (f : Frac) : List Byte := be 4 f.num ++ be 4 f.den

/-! ### The frame header (R193) -/

def rateBits : Rate → Nat
  | .r48 => 0
  | .r44 => 1

def spliceBits : SpliceMark → Nat
  | .none => 0
  | .inPoint => 1
  | .outPoint => 2
  | .inOut => 3
  | .broken => 4

def spliceOf : Nat → Option SpliceMark
  | 0 => some .none
  | 1 => some .inPoint
  | 2 => some .outPoint
  | 3 => some .inOut
  | 4 => some .broken
  | _ => none

def rateOfBits : Nat → Option Rate
  | 0 => some .r48
  | 1 => some .r44
  | _ => none

/-- The eight bytes of a header (R193). An absent address is written as 0; only an inherited header, which is never written to
tape, can lack it (log entry 11). -/
def headerBytes (h : Header) : List Byte :=
  let a := h.addr.getD 0
  let t := h.tc.getD ⟨0, 0, 0, 0⟩
  [BitVec.ofNat 8 (rateBits h.rate * 64 + a / 65536 % 64),
   BitVec.ofNat 8 (a / 256),
   BitVec.ofNat 8 a,
   BitVec.ofNat 8 ((if h.tc.isSome then 128 else 0) + t.hh % 32 * 4 + t.mm / 16 % 4),
   BitVec.ofNat 8 (t.mm % 16 * 16 + t.ss / 4 % 16),
   BitVec.ofNat 8 (t.ss % 4 * 64 + t.ff % 32 * 2 + (if h.rework then 1 else 0)),
   BitVec.ofNat 8 h.take,
   BitVec.ofNat 8 ((markCode h.mark).1 * 64 + (markCode h.mark).2 * 16 + spliceBits h.splice * 2)]

/-- The timecode of a header copy: none when the copy is invalid for it, `some none` when its present flag is clear (R7, R193). -/
def headerTimecode (b3 b4 b5 : Nat) : Option (Option Timecode) :=
  if b3 / 128 = 0 then some none
  else
    let t : Timecode := ⟨b3 / 4 % 32, b3 % 4 * 16 + b4 / 16, b4 % 16 * 4 + b5 / 64, b5 / 2 % 32⟩
    if t.legal then some (some t) else none

/-- A header copy read from its eight bytes, or none when the copy is invalid by R7. -/
def headerOf (bytes : List Byte) : Option Header :=
  match bytes.map (·.toNat) with
  | [b0, b1, b2, b3, b4, b5, b6, b7] => do
    let rate ← rateOfBits (b0 / 64)
    let addr := b0 % 64 * 65536 + b1 * 256 + b2
    let tc ← headerTimecode b3 b4 b5
    let mark ← copyMarkOf (b7 / 64) (b7 / 16 % 4)
    let splice ← spliceOf (b7 / 2 % 8)
    if addr < Config.addrCount then
      some { addr := some addr, tc := tc, rate := rate, mark := mark, take := b6, splice := splice, rework := b5 % 2 == 1 }
    else none
  | _ => none

/-! ### The status record of the digital lines (R194) -/

/-- Class, rate and receiver-locked of an arriving record: the mark and the rate when the receiver is locked and both codes
are defined (R115, R194). -/
def statusOf (record : Byte) : Option (CopyMark × Rate) :=
  let b := record.toNat
  if b / 2 % 2 = 1 then do
    let m ← copyMarkOf (b / 64) (b / 16 % 4)
    let r ← rateOfBits (b / 4 % 4)
    some (m, r)
  else none

/-- The record sent on the digital output (R125, R194). -/
def statusByte (m : CopyMark) (r : Rate) : Byte :=
  BitVec.ofNat 8 ((markCode m).1 * 64 + (markCode m).2 * 16 + rateBits r * 4 + 2)

/-! ### The notice record (R195) -/

def noticeBytes (n : Notice) : List Byte :=
  let a := n.addr.getD 0
  [BitVec.ofNat 8 ((kindIndex n.kind).val + 1), BitVec.ofNat 8 n.subject, BitVec.ofNat 8 n.count,
   BitVec.ofNat 8 ((if n.addr.isSome then 128 else 0) + a / 65536 % 64), BitVec.ofNat 8 (a / 256), BitVec.ofNat 8 a,
   BitVec.ofNat 8 ((n.code.map resultCode).getD 0)]

/-! ### The catalogue's byte counts (R181, R185 to R188) -/

/-- The number of parameter bytes of a command with fixed parameters; none for a variable or an unknown command. -/
def fixedParams (cmd : Nat) : Option Nat :=
  match cmd with
  | 0x10 => some 3 | 0x11 => some 0 | 0x12 => some 1 | 0x14 => some 1 | 0x15 => some 1 | 0x16 => some 0
  | 0x17 => some 0 | 0x20 => some 3 | 0x21 => some 3 | 0x22 => some 7 | 0x23 => some 1 | 0x26 => some 6
  | 0x27 => some 1 | 0x28 => some 0 | 0x30 => some 0 | 0x31 => some 0 | 0x32 => some 5 | 0x33 => some 1
  | 0x34 => some 2 | 0x35 => some 1 | 0x36 => some 3 | 0x40 => some 2 | 0x41 => some 7 | 0x42 => some 1
  | 0x43 => some 1 | 0x44 => some 0 | 0x45 => some 0 | 0x46 => some 0 | 0x50 => some 26 | 0x51 => some 1
  | 0x52 => some 2 | 0x53 => some 4 | 0x54 => some 1 | 0x55 => some 0 | 0x56 => some 0 | 0x57 => some 0
  | 0x58 => some 1 | 0x59 => some 0 | 0x5A => some 2 | 0x60 => some 8 | 0x61 => some 1 | 0x62 => some 2
  | 0x63 => some 6 | 0x64 => some 2 | 0x65 => some 1 | 0x66 => some 0 | 0x70 => some 0 | 0x71 => some 2
  | 0x72 => some 1 | 0x73 => some 1 | 0x7E => some 0 | 0x7F => some 0
  | _ => none

/-- The fixed part of the two variable commands, the length byte excluded (R181, R185). -/
def variableFixed (cmd : Nat) : Option Nat :=
  match cmd with
  | 0x24 => some 3
  | 0x25 => some 1
  | _ => none

/-- Whether a command byte is in the catalogue (R181). -/
def known (b : Byte) : Bool := (fixedParams b.toNat).isSome || (variableFixed b.toNat).isSome

/-- Whether the bytes received after the command byte complete the command (R179, R181). -/
def complete (cmd : Nat) (params : List Byte) : Bool :=
  match fixedParams cmd with
  | some n => params.length == n
  | none =>
    match variableFixed cmd with
    | some n =>
      match params[n]? with
      | some len => params.length == n + 1 + 5 * len.toNat
      | none => false
    | none => false

/-- Fly items: five bytes a pair, the left sample's 20 bits first (R184). -/
def pairsOf : List Byte → List SamplePair
  | a :: b :: c :: d :: e :: t =>
    let w : BitVec 40 := a ++ b ++ c ++ d ++ e
    ⟨w.extractLsb' 20 20, w.extractLsb' 0 20⟩ :: pairsOf t
  | _ => []

end Sys2Proof.Machine
end

