-- ==== Sys2Proof/Machine/Flags.lean ====
section
/-! DEFINITION. Lines, flags and counts that are functions of the state, and the order of copy marks. -/

namespace Sys2Proof.Machine

/-! ### Copy marks (R111) -/

/-- Restrictiveness: FREE < COUNTED 3 < COUNTED 2 < COUNTED 1 < COUNTED 0 < NEVER (00_scope, "Copy marks and their order"). -/
def markRank : CopyMark → Nat
  | .free => 0
  | .counted r => 4 - r.val
  | .never => 5

/-- The more restrictive of two marks (R111). -/
def combine (a b : CopyMark) : CopyMark := if markRank a < markRank b then b else a

/-- The combination of a set of marks; an empty set combines to FREE (R111). -/
def combineAll (l : List CopyMark) : CopyMark := l.foldl combine .free

/-- The mark of a copy, or none where a copy is refused (R111). -/
def decrement : CopyMark → Option CopyMark
  | .free => some .free
  | .counted r => if r.val = 0 then none else some (.counted ⟨r.val - 1, by omega⟩)
  | .never => none

/-! ### Notice kinds (R196) -/

def expiring : NoticeKind → Bool
  | .punchDetected | .flySwitch | .dropout | .lockChange | .sourceStatus | .intakeSlip => true
  | _ => false

def urgent : NoticeKind → Bool
  | .writeFault | .clockLost | .recordRefused => true
  | _ => false

/-! ### Output lines -/

def PerPort.get {α : Type} (x : PerPort α) : Port → α
  | .deck => x.deck
  | .transport => x.transport
  | .studio => x.studio

/-- A port's attention line (R203). -/
def attention (s : State) (p : Port) : Bool :=
  let n := s.notices.get p
  n.attention && !n.queue.isEmpty

/-- The ALERT line (R204). -/
def alert (s : State) : Bool := s.notices.deck.queue.any fun n => urgent n.kind

/-- The write-enable line: asserted exactly in OPEN and LAST (R100, R103, R105). -/
def writeEnable (s : State) : Bool := s.gate.state == .opened || s.gate.state == .last

/-- The byte a port's data out carries in the next eight clock periods: the reply in REPLY, all ones otherwise (R178, R179). -/
def dataOut (s : State) (p : Port) : Byte :=
  match s.framers.get p with
  | .reply (b :: _) => b
  | _ => 0xFF

/-! ### The guard table (R126) -/

def inSpan (a : Nat) : Option Span → Bool
  | none => false
  | some sp => decide (sp.first ≤ a ∧ a ≤ sp.last)

/-- Whether a frame address is guarded (R126). -/
def guarded (g : Guard) (a : Nat) : Bool := (g.places.toList.any (inSpan a)) != g.invert

/-! ### Capture (R47, R48) -/

inductive ChannelState where
  | idle | assembling | closing
  deriving DecidableEq, Repr

/-- The state of a capture channel (R47). -/
def channelState (c : Capture) : ChannelState :=
  if c.closing ≠ [] then .closing else if c.assembly.isSome then .assembling else .idle

/-- The reading modes (R48). -/
def reading : Mode → Bool
  | .play | .jog | .shuttle => true
  | .stop | .spool => false

/-- The GOOD entries (R47). -/
def SectorEntry.isGood : SectorEntry → Bool
  | .good _ | .rebuilt => true
  | _ => false

/-! ### Timeline (R18, R19, R34) -/

/-- LOCKED, COASTING and LAYING: the states whose loss is a lock loss (R18), and those in which the gate may be held (R100). -/
def TlState.hasLock : TlState → Bool
  | .locked | .coasting | .laying => true
  | _ => false

/-- LOCKED or COASTING: the states in which a mark is reckoned (R8) and a jog window may stand (R34). -/
def TlState.placed : TlState → Bool
  | .locked | .coasting => true
  | _ => false

/-- The rate-differs indication (R19). -/
def rateDiffers (s : State) : Bool :=
  match s.tl.tapeRate with
  | none => false
  | some r => r != s.clock.rate

/-- The jog window's first address, when the window is present (R34). -/
def jogWindowAt (s : State) : Option Nat :=
  if s.tl.mode = .jog ∧ s.tl.state.placed = true then some (s.tl.position - s.tl.position % s.jog.length) else none

/-! ### Slots (R25, R29) -/

/-- A slot is held while its holders set is not empty (R25). -/
def Slot.isHeld (x : Slot) : Bool := x.holders.deck || x.holders.transport || x.holders.studio

def fetching (f : Fetch) (i : SlotId) : Bool :=
  match f with
  | .inFlight q => q.slot == i
  | _ => false

/-- A fetch in flight has this slot as its source (R38). -/
def beingFetched (s : State) (i : SlotId) : Bool :=
  fetching s.fetch.deck i || fetching s.fetch.transport i || fetching s.fetch.studio i

/-- Held, pinned or being fetched: what defers a release (R29 to R31). -/
def blocked (s : State) (i : SlotId) : Bool :=
  s.slots[i].isHeld || s.slots[i].pinned || beingFetched s i

/-- The bad counts of a slot are the sizes of its error map (R25, R57). -/
def badCount (x : Slot) : Nat × Nat := (x.bad.left.length, x.bad.right.length)

/-- A CONCEALED PREREAD slot (R26, R29). -/
def Slot.isPreRead (x : Slot) : Bool := x.state == .concealed && x.role == some .preRead

/-! ### Engine (R139) -/

/-- IDLE, DONE and ABORTED: the states in which a START or a punch-in can be taken (R135, R155). -/
def EngState.resting : EngState → Bool
  | .idle | .done | .aborted => true
  | _ => false

/-- Whether a manual punch is open (R155, R156). -/
def punchOpen (s : State) : Bool :=
  match s.eng.splice with
  | some sp => sp.index.isNone
  | none => false

end Sys2Proof.Machine
end

