-- ==== Sys2Proof/Machine/Ops.lean ====
section
/-! DEFINITION. The shared operations: buffers, per-port and per-channel parts, notices, slots, and taking a port command. -/

namespace Sys2Proof.Machine

/-- What a step answers. -/
abbrev Res := Host.Outcome State Fault Refusal

/-! ### Parts of records -/

def PerPort.set {α : Type} (x : PerPort α) (p : Port) (a : α) : PerPort α :=
  match p with
  | .deck => { x with deck := a }
  | .transport => { x with transport := a }
  | .studio => { x with studio := a }

/-- A function applied to every place of a table. -/
def mapPlaces {α β : Type} {n : Nat} (f : α → β) (v : Vector α n) : Vector β n := Vector.ofFn fun i => f v[i]

def PerPort.map {α β : Type} (f : α → β) (x : PerPort α) : PerPort β := ⟨f x.deck, f x.transport, f x.studio⟩

def Stereo.get {α : Type} (x : Stereo α) : Chan → α
  | .left => x.left
  | .right => x.right

def Banks.get (b : Banks) : BankId → Bank
  | .b0 => b.b0
  | .b1 => b.b1

def Banks.set (b : Banks) (n : BankId) (x : Bank) : Banks :=
  match n with
  | .b0 => { b with b0 := x }
  | .b1 => { b with b1 := x }

def BankId.other : BankId → BankId
  | .b0 => .b1
  | .b1 => .b0

def BankId.num : BankId → Nat
  | .b0 => 0
  | .b1 => 1

/-- A bank number from its byte; none unless 0 or 1 (R40 to R42). -/
def bankOf (b : Byte) : Option BankId :=
  match b.toNat with
  | 0 => some .b0
  | 1 => some .b1
  | _ => none

def Chan.num : Chan → Nat
  | .left => 0
  | .right => 1

/-- A counter that stays at its limit once it reaches it (R63, R77, R198). -/
def saturate (limit x : Nat) : Nat := min limit x

/-- The limit of the statistics counters (R63, R77). -/
def counterMax : Nat := 4294967295

/-! ### Buffers -/

/-- The word at a place; an unlisted place reads as 0 (R25, R39). -/
def Memory.read : Memory → Nat → Sample
  | [], _ => 0
  | (b, v) :: t, a => if b = a then v else Memory.read t a

/-- The words of a list at consecutive places from `a`, zeros not listed. -/
def Memory.place (a : Nat) : List Sample → Memory
  | [] => []
  | v :: t => if v = 0 then Memory.place (a + 1) t else (a, v) :: Memory.place (a + 1) t

/-- Store a list of words at consecutive places from `a`, keeping the canonical form. -/
def Memory.splice (m : Memory) (a : Nat) (l : List Sample) : Memory :=
  m.filter (fun e => decide (e.1 < a)) ++ Memory.place a l ++ m.filter (fun e => decide (a + l.length ≤ e.1))

/-- Store one word. -/
def Memory.write (m : Memory) (a : Nat) (v : Sample) : Memory := Memory.splice m a [v]

/-- `n` words from place `a` on. -/
def Memory.words (m : Memory) (a n : Nat) : List Sample := (List.range n).map fun i => m.read (a + i)

/-- The canonical form: places strictly rising, no listed word 0. -/
def Memory.wf : Memory → Bool
  | [] => true
  | [(_, v)] => v != 0
  | (a, v) :: (b, w) :: t => v != 0 && decide (a < b) && Memory.wf ((b, w) :: t)

/-! ### Sample positions of a frame -/

/-- The data sector that holds a sample position (R1): k = 4c + 2h + p. -/
def sectorOf (r : Rate) (c : Chan) (i : Nat) : Nat :=
  4 * c.num + 2 * (if i < halfPairs r then 0 else 1) + i % 2

/-- The word of that sector that holds it (R1). -/
def wordOf (r : Rate) (i : Nat) : Nat :=
  if i < halfPairs r then i / 2 else (i - halfPairs r) / 2

/-- The word place of a sample position: word j of data sector k is at 400·k + j (R54). -/
def placeOf (r : Rate) (c : Chan) (i : Nat) : Nat := 400 * sectorOf r c i + wordOf r i

/-- The sample of a channel at a position of a frame laid out at rate `r`. -/
def sampleAt (m : Memory) (r : Rate) (c : Chan) (i : Nat) : Sample := m.read (placeOf r c i)

/-- The pair at a position. -/
def pairAt (m : Memory) (r : Rate) (i : Nat) : SamplePair := ⟨sampleAt m r .left i, sampleAt m r .right i⟩

/-- Put one pair at a position. -/
def putPair (m : Memory) (r : Rate) (i : Nat) (p : SamplePair) : Memory :=
  (m.write (placeOf r .left i) p.left).write (placeOf r .right i) p.right

/-- Put pairs at consecutive positions from `i`. -/
def putPairs (m : Memory) (r : Rate) : Nat → List SamplePair → Memory
  | _, [] => m
  | i, p :: t => putPairs (putPair m r i p) r (i + 1) t

def silence : SamplePair := ⟨0, 0⟩

/-- A sample at a position of a frame: a free value beyond the positions of the frame's own layout (log entry 3). -/
def sampleOrFree (s : State) (m : Memory) (r : Rate) (c : Chan) (i : Nat) : Sample :=
  if i < framePairs r then sampleAt m r c i else Config.freeSample s.fresh c.num i

/-- The next free values. -/
def bumpFresh (s : State) : State := { s with fresh := s.fresh + 1 }

/-! ### Capture channels -/

def capture (s : State) : HeadStream → Capture
  | .preRead => s.pre
  | .confidence => s.conf

def setCapture (ch : HeadStream) (c : Capture) (s : State) : State :=
  match ch with
  | .preRead => { s with pre := c }
  | .confidence => { s with conf := c }

/-! ### Notices (R199) -/

/-- The same kind and subject: the notices that coalesce (R199). -/
def sameEntry (k : NoticeKind) (subject : Nat) (n : Notice) : Bool := n.kind == k && n.subject == subject

/-- A queue takes a notice (R199). -/
def NoticePort.take (q : NoticePort) (k : NoticeKind) (subject : Nat) (addr : Option Nat) (code : Option Result) :
    NoticePort :=
  if q.queue.any (sameEntry k subject) then
    { q with queue := q.queue.map fun n => if sameEntry k subject n then { n with count := saturate 255 (n.count + 1) } else n }
  else if 8 ≤ q.queue.length then { q with overflow := saturate 255 (q.overflow + 1) }
  else
    { q with queue := q.queue ++
        [⟨k, subject, 1, addr, code, if expiring k then some q.expiryTime else none⟩] }

def offerNotice (on : Bool) (k : NoticeKind) (subject : Nat) (addr : Option Nat) (code : Option Result)
    (q : NoticePort) : NoticePort :=
  if on then q.take k subject addr code else q

/-- A block posts a notice: each port in the kind's route takes its copy (R196, R199). -/
def post (k : NoticeKind) (subject : Nat) (addr : Option Nat) (code : Option Result) (s : State) : State :=
  let r := s.routes[kindIndex k]
  { s with notices :=
      ⟨offerNotice r.deck k subject addr code s.notices.deck,
       offerNotice r.transport k subject addr code s.notices.transport,
       offerNotice r.studio k subject addr code s.notices.studio⟩ }

/-! ### Slots (R25 to R31) -/

def slotIds : List SlotId := List.finRange Config.slotCount

def setSlot (i : SlotId) (x : Slot) (s : State) : State := { s with slots := s.slots.set i x }

def modifySlot (i : SlotId) (f : Slot → Slot) (s : State) : State := setSlot i (f s.slots[i]) s

/-- Release a slot to FREE (R25, R31). -/
def releaseSlot (i : SlotId) (s : State) : State :=
  { setSlot i Slot.reset s with order := s.order.erase i }

/-- A slot has met its release condition: it is released, or its release due flag is set while it is held, pinned or being
fetched (R29, R30). -/
def releaseOrDue (i : SlotId) (s : State) : State :=
  if blocked s i then modifySlot i (fun x => { x with due := true }) s else releaseSlot i s

/-- What deferred a release may have ended: a due slot that nothing blocks is released (R31). -/
def settleDue (i : SlotId) (s : State) : State :=
  if s.slots[i].due && !blocked s i then releaseSlot i s else s

def releaseAll (l : List SlotId) (s : State) : State := l.foldl (fun t i => releaseOrDue i t) s

/-- The newest slot, in allocation order, with a property. -/
def newest (s : State) (f : Slot → Bool) : Option SlotId := (s.order.filter fun i => f s.slots[i]).getLast?

/-- The lookup of pre-read audio by address (R26). -/
def lookup (s : State) (a : Nat) : Option SlotId := newest s fun x => x.isPreRead && x.addr == some a

/-- The slot a request takes: the lowest FREE one, or the oldest reclaimable CONCEALED PREREAD one (R27). -/
def chooseSlot (s : State) : Option SlotId :=
  match slotIds.find? (fun i => s.slots[i].state == .free) with
  | some i => some i
  | none => s.order.find? fun i => s.slots[i].isPreRead && s.slots[i].due && !blocked s i

/-- The requester numbers of STORE_OVERRUN (R28). -/
def requester : Role → Nat
  | .preRead => 0
  | .confidence => 1
  | .intake => 2
  | .coded => 3

/-- A slot request (R25, R27, R28): the slot or none, with STORE_OVERRUN posted when none is left; `addr` is the address of
the frame that needs it, when known. -/
def allocate (role : Role) (addr : Option Nat) (s : State) : Option SlotId × State :=
  match chooseSlot s with
  | some i =>
    let s1 := releaseSlot i s
    (some i, { setSlot i { Slot.reset with state := .filling, role := some role, layout := s.clock.rate } s1 with
      order := s1.order ++ [i] })
  | none => (none, post .storeOverrun (requester role) addr none s)

/-- Release an optional slot at once: a requester abandons its FILLING slot (R26). -/
def abandonSlot (o : Option SlotId) (s : State) : State :=
  match o with
  | some i => releaseSlot i s
  | none => s

def releaseOpt (o : Option SlotId) (s : State) : State :=
  match o with
  | some i => releaseOrDue i s
  | none => s

/-! ### Taking a port command (R182, R183) -/

structure Reply where
  code : Result
  data : List Byte
  deriving DecidableEq, Repr

def refuse (r : Result) : Reply := ⟨r, []⟩

def done : Reply := ⟨.done, []⟩

/-- The reply as the port carries it (R191). -/
def Reply.bytes (r : Reply) : List Byte := be 1 (resultCode r.code) ++ be 1 r.data.length ++ r.data

/-- Commands the Studio Port may not issue (R183): SET REFERENCE, SET RATE, SET HEAD GEOMETRY, SET ANALOG POLICY, the five guard
commands, SET ROUTE and RESET DEVICE. -/
def studioBarred : List Nat := [0x14, 0x15, 0x34, 0x40, 0x41, 0x42, 0x43, 0x44, 0x45, 0x71, 0x7F]

/-- The only commands the Transport Port may issue (R183). -/
def transportAllowed : List Nat :=
  [0x10, 0x11, 0x17, 0x28, 0x30, 0x46, 0x57, 0x66, 0x70, 0x72, 0x7E, 0x54]

/-- Whether a port's privilege class permits a command of the catalogue (R183). -/
def permitted (p : Port) (cmd : Nat) : Bool :=
  match p with
  | .deck => true
  | .studio => !studioBarred.contains cmd
  | .transport => transportAllowed.contains cmd

/-- The framer of a port goes to REPLY with the reply's bytes (R179, R191). -/
def answer (p : Port) (r : Reply) (s : State) : State := { s with framers := s.framers.set p (.reply r.bytes) }

/-- A command is taken at port `p`: the privilege test, then the encoding test, then the owning block's own answer (R182).  A
row of a port command is the whole command in a selection of its own (log entry 1). -/
def command (p : Port) (cmd : Nat) (fits : Bool) (body : State → State × Reply) (s : State) : State :=
  if permitted p cmd = false then answer p (refuse .privilege) s
  else if fits = false then answer p (refuse .range) s
  else answer p (body s).2 (body s).1

/-- A command whose refusal changes nothing and whose success sets state and answers DONE with no data. -/
def setting (ok : Bool) (f : State → State) (s : State) : State × Reply :=
  if ok then (f s, done) else (s, refuse .range)

end Sys2Proof.Machine
end

