-- ==== Sys2Proof/Machine/Tape.lean ====
section
/-! DEFINITION. The tape frame: sectors, the sector check, the field of 2^20 elements, the parity sectors and the recovery they
allow (R1 to R7, R192). -/

namespace Sys2Proof.Machine

/-! ### The sector check (R6) -/

def crcPoly : Crc := 0x04C11DB7#32

/-- Feed one bit into the check register (R6). -/
def crcBit (r : Crc) (b : Bool) : Crc := if r.msb != b then (r <<< 1) ^^^ crcPoly else r <<< 1

/-- The bits of a byte, most significant first. -/
def byteBits (b : Byte) : List Bool := (List.range 8).map fun i => b.getMsbD i

/-- The sector check of the covered bytes: the register starts at all ones and is stored without inversion (R6). -/
def crc (bytes : List Byte) : Crc := (bytes.flatMap byteBits).foldl crcBit (BitVec.allOnes 32)

/-! ### Packing (R192) -/

/-- Words from bytes: two 20-bit words in five bytes. -/
def wordsOf : List Byte → List Sample
  | a :: b :: c :: d :: e :: t =>
    let w : BitVec 40 := a ++ b ++ c ++ d ++ e
    w.extractLsb' 20 20 :: w.extractLsb' 0 20 :: wordsOf t
  | _ => []

/-- Bytes from words. -/
def wordBytes : List Sample → List Byte
  | x :: y :: t => be 5 (x.toNat * 1048576 + y.toNat) ++ wordBytes t
  | _ => []

/-- The bytes of a sector as the write stream emits it (R192). -/
def sectorBytes (k : Nat) (h : Header) (words : List Sample) : List Byte :=
  let covered := headerBytes h ++ wordBytes words
  BitVec.ofNat 8 (k * 16 + (15 - k)) :: (covered ++ be 4 (crc covered).toNat)

/-- What a delivered sector holds: its number when its identity is good, its words, and its header copy when its check
passes (R6). -/
structure Arrival where
  number : Option Nat
  header : Option Header
  words : List Sample
  deriving DecidableEq, Repr

/-- A sector number when the four-bit number lies in 0..9 and its complement matches (R6, R192). -/
def identity (b : Nat) : Option Nat := if b / 16 < 10 ∧ b % 16 = 15 - b / 16 then some (b / 16) else none

/-- Judge a delivered sector by itself (R6, R192).  A short one is completed with bytes of all ones, and its check fails (log
entry 19). -/
def readSector (bytes : List Byte) : Arrival :=
  let full := bytes ++ List.replicate (1013 - bytes.length) 0xFF
  let covered := (full.drop 1).take 1008
  let check := (full.drop 1009).take 4
  let passes := decide (1013 ≤ bytes.length) && decide (be 4 (crc covered).toNat = check)
  { number := identity (full.headD 0xFF).toNat
    header := if passes then headerOf (covered.take 8) else none
    words := wordsOf (covered.drop 8) }

/-! ### The field of 2^20 elements (R4) -/

/-- Multiplication by α (R4). -/
def mulAlpha (w : Sample) : Sample := if w.msb then (w <<< 1) ^^^ 9#20 else w <<< 1

/-- Division by α. -/
def divAlpha (w : Sample) : Sample := if w.getLsbD 0 then ((w ^^^ 9#20) >>> 1) ||| 0x80000#20 else w >>> 1

/-- α^k times a word (R4). -/
def mulPow (k : Nat) (w : Sample) : Sample := Nat.iterate mulAlpha k w

def divPow (k : Nat) (w : Sample) : Sample := Nat.iterate divAlpha k w

/-- The product of two field elements. -/
def gfMul (a b : Sample) : Sample :=
  (List.range 20).foldl (fun acc i => if b.getMsbD i then mulAlpha acc ^^^ a else mulAlpha acc) 0

/-- The inverse of a field element: its power 2^20 − 2. -/
def gfInv (x : Sample) : Sample :=
  ((List.range 19).foldl (fun (st : Sample × Sample) _ =>
    let sq := gfMul st.1 st.1
    (sq, gfMul st.2 sq)) (x, 1)).2

/-! ### Parity (R3, R4) -/

/-- Word j of data sector k of a frame (R54). -/
def dataWord (m : Memory) (k j : Nat) : Sample := m.read (400 * k + j)

def dataSectors : List Nat := List.range 8

/-- The exclusive-OR of word j of some data sectors. -/
def xorWords (m : Memory) (ks : List Nat) (j : Nat) : Sample := ks.foldl (fun acc k => acc ^^^ dataWord m k j) 0

/-- The sum of α^k times word j of some data sectors. -/
def sumWords (m : Memory) (ks : List Nat) (j : Nat) : Sample := ks.foldl (fun acc k => acc ^^^ mulPow k (dataWord m k j)) 0

/-- Word j of the P sector (R3). -/
def parityP (m : Memory) (j : Nat) : Sample := xorWords m dataSectors j

/-- Word j of the Q sector (R4). -/
def parityQ (m : Memory) (j : Nat) : Sample := sumWords m dataSectors j

/-- The words of sector k of a frame as coded (R98). -/
def sectorWords (m : Memory) (k : Nat) : List Sample :=
  if k < 8 then m.words (400 * k) 400
  else if k = 8 then (List.range 400).map (parityP m)
  else (List.range 400).map (parityQ m)

/-! ### Sector entries (R47) -/

def entryAt (e : Vector SectorEntry 10) (k : Nat) : SectorEntry := e.toList.getD k .missing

def setEntry (e : Vector SectorEntry 10) (k : Nat) (x : SectorEntry) : Vector SectorEntry 10 :=
  if h : k < 10 then e.set k x h else e

def noEntries : Vector SectorEntry 10 := Vector.replicate 10 .missing

/-! ### Recovery (R5, R56) -/

/-- The data sectors whose entry is not GOOD (R56). -/
def missingData (e : Vector SectorEntry 10) : List Nat := dataSectors.filter fun k => !(entryAt e k).isGood

/-- The data sectors recovered, each with its words: as far as R5 allows and no further. -/
def recover (e : Vector SectorEntry 10) (m p q : Memory) : List (Nat × List Sample) :=
  let pGood := (entryAt e 8).isGood
  let qGood := (entryAt e 9).isGood
  let miss := missingData e
  let kept := dataSectors.filter fun k => !miss.contains k
  let restP := fun j => p.read j ^^^ xorWords m kept j
  let restQ := fun j => q.read j ^^^ sumWords m kept j
  match miss with
  | [k] =>
    if pGood then [(k, (List.range 400).map restP)]
    else if qGood then [(k, (List.range 400).map fun j => divPow k (restQ j))]
    else []
  | [k1, k2] =>
    if pGood && qGood then
      let inv := gfInv (1 ^^^ mulPow (k2 - k1) 1)
      let second := fun j => gfMul inv (divPow k1 (restQ j) ^^^ restP j)
      [(k1, (List.range 400).map fun j => restP j ^^^ second j), (k2, (List.range 400).map second)]
    else []
  | _ => []

/-- Rebuilt words replace whatever their places held, and the entries become GOOD, marked rebuilt (R56). -/
def applyRebuild (l : List (Nat × List Sample)) (m : Memory) (e : Vector SectorEntry 10) : Memory × Vector SectorEntry 10 :=
  l.foldl (fun st x => (st.1.splice (400 * x.1) x.2, setEntry st.2 x.1 .rebuilt)) (m, e)

/-! ### Mixed takes (R55) -/

/-- The takes of the GOOD entries, in order of sector number; a rebuilt entry records none (R56). -/
def goodTakes (e : Vector SectorEntry 10) : List Nat :=
  e.toList.filterMap fun x => match x with
    | .good h => some h.take
    | _ => none

/-- The winning take: the most entries; at a tie, the tied take held by the lowest-numbered GOOD entry (R55). -/
def winningTake (takes : List Nat) : Option Nat :=
  takes.find? fun t => takes.all fun u => decide (takes.count u ≤ takes.count t)

/-- GOOD entries of a take other than the winner become FAILED (R55). -/
def setAside (e : Vector SectorEntry 10) : Vector SectorEntry 10 :=
  let w := winningTake (goodTakes e)
  mapPlaces (fun x => match x with
    | .good h => if some h.take = w then x else .failed
    | y => y) e

/-! ### The error map (R57) -/

def badPositions (e : Vector SectorEntry 10) (r : Rate) (c : Chan) : List Nat :=
  (List.range (framePairs r)).filter fun i => !(entryAt e (sectorOf r c i)).isGood

/-- The header of the lowest-numbered GOOD entry that was not rebuilt (R58). -/
def chosenHeader (e : Vector SectorEntry 10) : Option Header :=
  e.toList.findSome? fun x => match x with
    | .good h => some h
    | _ => none

end Sys2Proof.Machine
end

