-- ==== Sys2Proof/Machine/Store.lean ====
section
/-! DEFINITION. The Frame Store: holds, the jog window and its pins, the READ AUDIO fetches (R32 to R38), and the commands and
events on them. -/

namespace Sys2Proof.Machine

/-! ### The jog window (R34 to R36) -/

/-- A slot that the window at `w` pins: the newest CONCEALED PREREAD slot of an address in the window (R34). -/
def wantPin (s : State) (w : Nat) (i : SlotId) : Bool :=
  match s.slots[i].addr with
  | none => false
  | some a => decide (w ≤ a ∧ a < w + s.jog.length) && lookup s a == some i

/-- Bring the pins into the condition of R34; a due slot that is unpinned is released when nothing else blocks it. -/
def syncPins (s : State) : State :=
  let pinned := fun i => match s.jog.window with
    | none => false
    | some w => wantPin s w i
  let s1 := { s with slots := Vector.ofFn fun i => { s.slots[i] with pinned := pinned i } }
  slotIds.foldl (fun t i => settleDue i t) s1

/-- The pointer at formation: the start of the frame at the position, in eighths of a sample (R35). -/
def formedPointer (s : State) (w : Nat) : Nat := (s.tl.position - w) * framePairs s.clock.rate * 8

/-- The window forms, moves or ends with the timeline and the mode; the pointer is set when it forms (R34, R35). -/
def jogSync (s : State) : State :=
  let w := jogWindowAt s
  let ptr := match s.jog.window, w with
    | none, some f => formedPointer s f
    | _, _ => s.jog.pointer
  syncPins { s with jog := { s.jog with window := w, pointer := ptr } }

/-- Set the pointer as at formation when the window is present (R35, R36). -/
def resetPointer (s : State) : State :=
  match s.jog.window with
  | none => s
  | some w => { s with jog := { s.jog with pointer := formedPointer s w } }

/-- Jog Window Lengths (R34, R36). -/
def jogLengths : List Nat := [1, 2, 4, 8]

/-- SET JOG WINDOW (R36). -/
def execSetJogWindow (p : Port) (length : Byte) (s : State) : Res :=
  .next (command p 0x23 true (setting (jogLengths.contains length.toNat) fun t =>
    resetPointer (jogSync { t with jog := { t.jog with length := length.toNat } })) s)

/-! ### Holds (R32, R33) -/

/-- The states in which a slot can be named by HOLD FRAME (R32). -/
def Slot.nameable (x : Slot) : Bool := x.state == .decoded || x.state == .concealed || x.state == .coded

def heldCount (s : State) : Nat := (slotIds.filter fun i => s.slots[i].isHeld).length

def freeCount (s : State) : Nat := (slotIds.filter fun i => s.slots[i].state == .free).length

/-- The slot's record in a HOLD FRAME reply, in the order of R32. -/
def slotBytes (x : Slot) : List Byte :=
  be 1 (codeIn slotStates x.state) ++ be 1 ((x.role.map (codeIn roles)).getD 0) ++ addrBytes (x.addr.getD 0)
    ++ ((x.header.map headerBytes).getD (List.replicate 8 0)) ++ flagByte x.inherited
    ++ be 2 (badCount x).1 ++ be 2 (badCount x).2 ++ flagByte x.concealed ++ be 2 x.muted.left ++ be 2 x.muted.right

def addHolder (p : Port) (i : SlotId) (s : State) : State :=
  modifySlot i (fun x => { x with holders := x.holders.set p true }) s

/-- HOLD FRAME (R32). -/
def holdBody (p : Port) (a : Nat) (s : State) : State × Reply :=
  match newest s fun x => x.nameable && x.addr == some a with
  | none => (s, refuse .range)
  | some i =>
    let r : Reply := ⟨.done, slotBytes s.slots[i]⟩
    if s.slots[i].holders.get p then (s, r)
    else if s.slots[i].isHeld then (addHolder p i s, r)
    else if 6 ≤ heldCount s ∨ freeCount s < 2 then (s, refuse .full)
    else (addHolder p i s, r)

def execHoldFrame (p : Port) (addr : BitVec 24) (s : State) : Res :=
  .next (command p 0x20 true (fun t => if legalAddr addr.toNat then holdBody p addr.toNat t else (t, refuse .range)) s)

/-- A fetch of a slot whose port's hold on it ends becomes stale (R38). -/
def Fetch.staled (i : SlotId) : Fetch → Fetch
  | .empty => .empty
  | .inFlight f => .inFlight (if f.slot = i then { f with stale := true } else f)
  | .complete f n l => .complete (if f.slot = i then { f with stale := true } else f) n l

/-- End one port's hold on a slot (R33). -/
def endHold (p : Port) (i : SlotId) (s : State) : State :=
  let s1 := modifySlot i (fun x => { x with holders := x.holders.set p false }) s
  settleDue i { s1 with fetch := s1.fetch.set p ((s1.fetch.get p).staled i) }

/-- The newest slot with an address that a port holds (R33, R37). -/
def heldSlot (s : State) (p : Port) (a : Nat) : Option SlotId := newest s fun x => x.holders.get p && x.addr == some a

/-- RELEASE FRAME (R33). -/
def releaseBody (p : Port) (a : Nat) (s : State) : State × Reply :=
  match heldSlot s p a with
  | none => (s, refuse .range)
  | some i => (endHold p i s, done)

def execReleaseFrame (p : Port) (addr : BitVec 24) (s : State) : Res :=
  .next (command p 0x21 true (fun t => if legalAddr addr.toNat then releaseBody p addr.toNat t else (t, refuse .range)) s)

/-- End every hold of a port (R33, R189). -/
def endHolds (p : Port) (s : State) : State :=
  slotIds.foldl (fun t i => if t.slots[i].holders.get p then endHold p i t else t) s

/-! ### Fetches (R37, R38) -/

def chanOf (b : Byte) : Option Chan :=
  match b.toNat with
  | 0 => some .left
  | 1 => some .right
  | _ => none

/-- What a READ AUDIO reply delivers of the fetch record (R37, R185). -/
def fetchBytes : Fetch → List Byte
  | .complete f n l =>
    be 1 (if f.stale then 2 else 1) ++ addrBytes f.addr ++ be 1 f.chan.num ++ be 2 f.start ++ be 1 f.count ++ be 1 n
      ++ l.flatMap sampleBytes
  | _ => be 1 0

def fetchBusy : Fetch → Bool
  | .inFlight _ => true
  | _ => false

/-- READ AUDIO (R37): BUSY first, then RANGE, then the record is delivered and the fetch begins. -/
def readAudioBody (p : Port) (a : Nat) (channel : Byte) (start count : Nat) (s : State) : State × Reply :=
  let S := framePairs s.clock.rate
  if fetchBusy (s.fetch.get p) then (s, refuse .busy)
  else if count < 1 ∨ 64 < count ∨ S ≤ start ∨ S < start + count then (s, refuse .range)
  else
    match chanOf channel, heldSlot s p a with
    | some c, some i =>
      ({ s with fetch := s.fetch.set p (.inFlight ⟨a, c, start, count, i, false⟩) },
       ⟨.done, fetchBytes (s.fetch.get p)⟩)
    | _, _ => (s, refuse .range)

def execReadAudio (p : Port) (addr : BitVec 24) (channel : Byte) (start : BitVec 16) (count : Byte) (s : State) : Res :=
  .next (command p 0x22 true (readAudioBody p addr.toNat channel start.toNat count.toNat) s)

/-- The bad positions of one channel. -/
def Slot.badOf (x : Slot) (c : Chan) : List Nat := x.bad.get c

/-- FETCH_COMPLETE (R38): the record takes the samples and the bad count as the slot holds them now. -/
def completeFetch (p : Port) (s : State) : State :=
  match s.fetch.get p with
  | .inFlight f =>
    let x := s.slots[f.slot]
    let at' := List.range' f.start f.count
    let samples := at'.map (sampleOrFree s x.audio x.layout f.chan)
    let bad := (at'.filter fun i => (x.badOf f.chan).contains i).length
    bumpFresh (settleDue f.slot { s with fetch := s.fetch.set p (.complete f bad samples) })
  | _ => s

def execFetchComplete (p : Port) (s : State) : Res := .next (completeFetch p s)

/-- A port reset empties the fetch record: a fetch in flight is abandoned, and its slot released when due (R38). -/
def dropFetch (p : Port) (s : State) : State :=
  let s1 := { s with fetch := s.fetch.set p .empty }
  match s.fetch.get p with
  | .inFlight f => settleDue f.slot s1
  | _ => s1

end Sys2Proof.Machine
end

