-- ==== Sys2Proof/Machine/Copy.lean ====
section
/-! DEFINITION. The Copy Status Unit: source status records, the record decision, the verdict and the mark of a coded frame (R111 to
R123), and the events that feed the records. -/

namespace Sys2Proof.Machine

/-! ### Source status records (R112, R113) -/

def Sources.get (x : Sources) : SrcId → SourceRec
  | .analog => x.analog
  | .digital => x.digital
  | .fly0 => x.fly0
  | .fly1 => x.fly1

def Sources.set (x : Sources) (i : SrcId) (r : SourceRec) : Sources :=
  match i with
  | .analog => { x with analog := r }
  | .digital => { x with digital := r }
  | .fly0 => { x with fly0 := r }
  | .fly1 => { x with fly1 := r }

/-- Subjects of SOURCE_STATUS (R118). -/
def SrcId.num : SrcId → Nat
  | .analog => 0
  | .digital => 1
  | .fly0 => 2
  | .fly1 => 3

def BankId.src : BankId → SrcId
  | .b0 => .fly0
  | .b1 => .fly1

/-- A record after a change: the next epoch, and a history of at most 32 entries (R113). -/
def SourceRec.changed (r : SourceRec) (st : SourceStatus) : SourceRec :=
  let e := (r.epoch + 1) % 65536
  ⟨st, e, (if 32 ≤ r.history.length then r.history.drop 1 else r.history) ++ [(e, st)]⟩

/-- Set a record's status: a different one is a change, which posts SOURCE_STATUS; the same one is nothing (R113, R118). -/
def setStatus (i : SrcId) (st : SourceStatus) (s : State) : State :=
  let r := s.sources.get i
  if r.status = st then s
  else post .sourceStatus i.num none none { s with sources := s.sources.set i (r.changed st) }

/-- The record becomes invalid, its other fields as before (R115 to R117). -/
def invalidate (i : SrcId) (s : State) : State := setStatus i { (s.sources.get i).status with valid := false } s

/-- SET ANALOG POLICY (R114). -/
def policyBody (cls remaining : Byte) (s : State) : State × Reply :=
  match copyMarkOf cls.toNat remaining.toNat with
  | none => (s, refuse .range)
  | some m => (setStatus .analog ⟨true, m, none⟩ { s with sources := { s.sources with policy := m } }, done)

def execSetAnalogPolicy (p : Port) (cls remaining : Byte) (s : State) : Res :=
  .next (command p 0x40 true (policyBody cls remaining) s)

/-- DIGITAL_STATUS_RECORD (R115): the record is set, and the status timeout starts again. -/
def digitalStatus (record : Byte) (s : State) : State :=
  let s1 := { s with sources := { s.sources with timedOut := false } }
  match statusOf record with
  | some (m, r) => setStatus .digital ⟨true, m, some r⟩ s1
  | none => invalidate .digital s1

def execDigitalStatusRecord (record : Byte) (s : State) : Res := .next (digitalStatus record s)

/-- STATUS_TIMEOUT (R116). -/
def statusTimeout (s : State) : State :=
  invalidate .digital { s with sources := { s.sources with timedOut := true } }

def execStatusTimeout (s : State) : Res := .next (statusTimeout s)

/-! ### The record decision (R119) -/

inductive Decision where
  | permit (m : CopyMark)
  | refuse (r : Reason)
  deriving DecidableEq, Repr

/-- The status held under an epoch, while the history still has it (R113). -/
def SourceRec.lookup (r : SourceRec) (e : Nat) : Option SourceStatus :=
  (r.history.find? fun x => x.1 == e).map (·.2)

/-- The decision on a status, judged against a rate (R119). -/
def decideStatus (st : SourceStatus) (rate : Rate) : Decision :=
  if st.valid = false then .refuse .unknown
  else if st.rate.isSome ∧ st.rate ≠ some rate then .refuse .rate
  else match decrement st.mark with
    | none => .refuse .cls
    | some m => .permit m

/-- The record decision for a tag (R119). -/
def decideTag (x : Sources) (rate : Rate) (t : Tag) : Decision :=
  match t.epoch with
  | none => .refuse .clock
  | some e =>
    match (x.get t.src).lookup e with
    | none => .refuse .unknown
    | some st => decideStatus st rate

/-- The reason of the first tag that decides REFUSE (R120). -/
def firstRefusal (x : Sources) (rate : Rate) (tags : List (Tag × Nat)) : Option Reason :=
  tags.findSome? fun t => match decideTag x rate t.1 with
    | .refuse r => some r
    | .permit _ => none

/-- The verdict of a SPLICE plan for write frame `a` (R120).  The plan's own end lies beyond position S of the frame exactly when
the frame is not final (R92). -/
def verdictFor (g : Guard) (x : Sources) (rate : Rate) (a : Nat) (plan : SplicePlan) (tags : List (Tag × Nat)) : Verdict :=
  if guarded g a then (if plan.first.isSome then .guardedAtIn else .guardedHere)
  else match firstRefusal x rate tags with
    | some r => if plan.first.isSome then .refusedAtIn r else .refusedIn r
    | none =>
      if legalAddr (a + 1) ∧ guarded g (a + 1) = true ∧ plan.final = false then .guardAhead
      else .permit

/-- The reason a refusing or guarded verdict carries (R120). -/
def Verdict.reason : Verdict → Option Reason
  | .permit => none
  | .refusedAtIn r | .refusedIn r => some r
  | .guardedAtIn | .guardAhead | .guardedHere => some .guarded

/-- Verdicts refused at the in-point, whose frame is coded as a TAPE plan (R93). -/
def Verdict.atIn : Verdict → Bool
  | .refusedAtIn _ | .guardedAtIn => true
  | _ => false

/-- Verdicts whose frame carries tape audio only (R93). -/
def Verdict.tapeOnly : Verdict → Bool
  | .permit | .guardAhead => false
  | _ => true

/-- The mark of the new audio: the combination of the marks of the PERMIT tags, decremented (R121).  It is fixed with the
verdict, which is given once (R120). -/
def newAudioMark (x : Sources) (rate : Rate) (tags : List (Tag × Nat)) : CopyMark :=
  combineAll (tags.filterMap fun t => match decideTag x rate t.1 with
    | .permit m => some m
    | .refuse _ => none)

/-- The mark of a coded frame: its new component, when present, and its tape component, when present (R121). -/
def frameMark (newMark : CopyMark) (tape : Option CopyMark) (hasNew hasTape : Bool) : CopyMark :=
  combine (if hasNew then newMark else .free) (if hasTape then tape.getD .free else .free)

/-! ### QUERY SOURCES (R130) -/

def recordBytes (r : SourceRec) : List Byte :=
  flagByte r.status.valid ++ markBytes r.status.mark
    ++ optBytes 1 (r.status.rate.map fun q => be 1 (codeIn rates q)) ++ be 2 r.epoch

/-- PERMIT (0) or REFUSE (1), then the reason (R186). -/
def decisionBytes : Decision → List Byte
  | .permit _ => [0, 0]
  | .refuse r => 1 :: be 1 (reasonSubject r)

/-- The decision R119 would now give to a pair tagged with a record's present epoch (R130). -/
def presentDecision (s : State) (i : SrcId) : Decision :=
  decideTag s.sources s.clock.rate ⟨i, some (s.sources.get i).epoch⟩

def srcIds : List SrcId := [.analog, .digital, .fly0, .fly1]

/-- The guard table and the invert flag (R186). -/
def guardBytes (g : Guard) : List Byte :=
  (g.places.toList.flatMap fun x => optBytes 6 (x.map fun sp => addrBytes sp.first ++ addrBytes sp.last)) ++ flagByte g.invert

/-- The reply data of QUERY SOURCES (R130); the level of GUARD RELEASE is sent as a flag, 1 for active (log entry 65). -/
def sourcesBytes (s : State) : List Byte :=
  (srcIds.flatMap fun i => recordBytes (s.sources.get i)) ++ (srcIds.flatMap fun i => decisionBytes (presentDecision s i))
    ++ markBytes s.sources.policy ++ flagByte s.sources.timedOut ++ guardBytes s.guard
    ++ flagByte s.guard.lock ++ flagByte s.guardRelease

/-- QUERY SOURCES (R130), with the level that GUARD RELEASE shows when the command is taken (log entry 10). -/
def execQuerySources (p : Port) (release : Bool) (s : State) : Res :=
  .next (command p 0x46 true (fun t => (t, ⟨.done, sourcesBytes t⟩)) { s with guardRelease := release })

end Sys2Proof.Machine
end

