-- ==== Sys2Proof/Machine/Banks.lean ====
section
/-! DEFINITION. The fly banks: loading, closing, releasing, starting, switching and starving (R39 to R44). -/

namespace Sys2Proof.Machine

/-- The bank length: 4·S at the clock rate in force (R39). -/
def bankLength (s : State) : Nat := 4 * framePairs s.clock.rate

def setBank (n : BankId) (b : Bank) (s : State) : State := { s with banks := s.banks.set n b }

/-- The pair at a position of a bank. -/
def bankPair (b : Bank) (i : Nat) : SamplePair := ⟨b.pairs.read (2 * i), b.pairs.read (2 * i + 1)⟩

/-- Store pairs at consecutive positions, wrapping at the bank length (R40). -/
def storePairs (len : Nat) (m : Memory) : Nat → List SamplePair → Memory
  | _, [] => m
  | i, p :: t => storePairs len ((m.write (2 * i) p.left).write (2 * i + 1) p.right) ((i + 1) % len) t

/-- Take a write of pairs from `start` (R40).  RANGE comes before STATE when both hold (log entry 57). -/
def writeBank (n : BankId) (start : Nat) (pairs : List SamplePair) (s : State) : State × Reply :=
  let b := s.banks.get n
  let len := bankLength s
  if pairs.length < 1 ∨ 64 < pairs.length ∨ len ≤ start then (s, refuse .range)
  else if b.state = .playing ∨ b.state = .spent then (s, refuse .state)
  else
    let w := (start + pairs.length) % len
    (setBank n { b with pairs := storePairs len b.pairs start pairs, writePos := w,
                        state := if b.state = .empty then .loading else b.state } s,
     ⟨.done, be 2 w⟩)

/-- WRITE FLY (R40). -/
def writeFlyBody (bank : Byte) (start : Nat) (pairs : List SamplePair) (s : State) : State × Reply :=
  match bankOf bank with
  | none => (s, refuse .range)
  | some n => writeBank n start pairs s

def execWriteFly (p : Port) (bank : Byte) (start : BitVec 16) (pairs : List SamplePair) (s : State) : Res :=
  .next (command p 0x24 true (writeFlyBody bank start.toNat pairs) s)

/-- WRITE FLY NEXT (R40). -/
def writeFlyNextBody (bank : Byte) (pairs : List SamplePair) (s : State) : State × Reply :=
  match bankOf bank with
  | none => (s, refuse .range)
  | some n => writeBank n (s.banks.get n).writePos pairs s

def execWriteFlyNext (p : Port) (bank : Byte) (pairs : List SamplePair) (s : State) : Res :=
  .next (command p 0x25 true (writeFlyNextBody bank pairs) s)

/-- CLOSE BANK (R41); the declaration is handed to the Copy Status Unit (R117).  RANGE comes before STATE when both hold (log entry 57). -/
def closeBankBody (bank : Byte) (count : Nat) (cls remaining rate : Byte) (s : State) : State × Reply :=
  match bankOf bank, copyMarkOf cls.toNat remaining.toNat, named rates rate with
  | some n, some m, some r =>
    let b := s.banks.get n
    if count < 1 ∨ bankLength s < count then (s, refuse .range)
    else if b.state = .loading ∨ b.state = .full then
      (setStatus n.src ⟨true, m, some r⟩
        (setBank n { b with state := .full, count := some count, mark := some m, rate := some r, readPos := 0 } s), done)
    else (s, refuse .state)
  | _, _, _ => (s, refuse .range)

def execCloseBank (p : Port) (bank : Byte) (count : BitVec 16) (cls remaining rate : Byte) (s : State) : Res :=
  .next (command p 0x26 true (closeBankBody bank count.toNat cls remaining rate) s)

/-- RELEASE BANK (R42); the return to EMPTY is handed to the Copy Status Unit (R117). -/
def releaseBankBody (bank : Byte) (s : State) : State × Reply :=
  match bankOf bank with
  | none => (s, refuse .range)
  | some n =>
    match (s.banks.get n).state with
    | .empty => (s, done)
    | .playing => (s, refuse .state)
    | _ => (invalidate n.src (setBank n Bank.reset s), done)

def execReleaseBank (p : Port) (bank : Byte) (s : State) : Res := .next (command p 0x27 true (releaseBankBody bank) s)

/-- A bank's record in the order of R39. -/
def bankBytes (b : Bank) : List Byte :=
  be 1 (codeIn bankStates b.state) ++ be 2 b.writePos ++ optBytes 2 (b.count.map (be 2)) ++ optBytes 2 (b.mark.map markBytes)
    ++ optBytes 1 (b.rate.map fun r => be 1 (codeIn rates r)) ++ be 2 b.readPos

/-- QUERY BANKS (R42). -/
def execQueryBanks (p : Port) (s : State) : Res :=
  .next (command p 0x28 true
    (fun t => (t, ⟨.done, bankBytes t.banks.b0 ++ bankBytes t.banks.b1 ++ be 2 (bankLength t)⟩)) s)

/-! ### Playing and switching (R43, R44) -/

/-- The PLAYING bank, if any; at most one is (R39). -/
def playing (s : State) : Option BankId :=
  if s.banks.b0.state = .playing then some .b0 else if s.banks.b1.state = .playing then some .b1 else none

/-- A PLAYING bank becomes SPENT, keeping its read position (R43, R44). -/
def spendPlaying (s : State) : State :=
  match playing s with
  | none => s
  | some n => setBank n { s.banks.get n with state := .spent } s

/-- The answer to a request for a bank (R43). -/
inductive BankAnswer where
  | granted (n : BankId)
  | unavailable
  | mismatch
  deriving DecidableEq, Repr

/-- A request for a bank (R43). -/
def askBank (s : State) : BankAnswer × State :=
  let s1 := spendPlaying s
  let choice : Option BankId :=
    if s1.banks.b0.state = .full then some .b0 else if s1.banks.b1.state = .full then some .b1 else none
  match choice with
  | none => (.unavailable, s1)
  | some n =>
    let b := s1.banks.get n
    if b.rate ≠ some s1.clock.rate then (.mismatch, s1)
    else (.granted n, setBank n { b with state := .playing, readPos := 0 } s1)

/-- The take of the last pair of the PLAYING bank `n` (R44): it becomes SPENT; a FULL other bank plays on with FLY_SWITCH, and
otherwise the intake frame takes `at'` as its starvation point (R90). -/
def bankRanOut (n : BankId) (at' : Nat) (s : State) : State :=
  let s1 := setBank n { s.banks.get n with state := .spent } s
  let b := s1.banks.get n.other
  if b.state = .full then
    post .flySwitch n.other.num none none (setBank n.other { b with state := .playing, readPos := 0 } s1)
  else
    { s1 with intake := { s1.intake with frame := s1.intake.frame.map fun f => { f with starve := some (at', n) } } }

/-- A bank after a change of the bank length (R39). -/
def Bank.resized (len : Nat) (b : Bank) : Bank :=
  let count := b.count.map fun c => min c len
  { b with writePos := if len ≤ b.writePos then 0 else b.writePos, count := count,
           readPos := match count with
             | some c => min b.readPos c
             | none => b.readPos }

/-- The banks after a change of the clock rate in force; a PLAYING bank whose last pair is then behind it runs out (R39, R44).  The
starvation point is the positions taken so far, and 1 before the first take, for it lies in 1..S (R86; log entry 30). -/
def resizeBanks (s : State) : State :=
  let len := bankLength s
  let s1 := { s with banks := ⟨s.banks.b0.resized len, s.banks.b1.resized len⟩ }
  match playing s1 with
  | none => s1
  | some n =>
    if (s1.banks.get n).count = some (s1.banks.get n).readPos then
      bankRanOut n (max 1 ((s1.intake.frame.map (·.taken)).getD 0)) s1
    else s1

end Sys2Proof.Machine
end

