-- ==== Sys2Proof/Machine/Intake.lean ====
section
/-! DEFINITION. The intake: the record source, the FIFO, the intake frame and its takes (R86 to R90), and the input lines' events. -/

namespace Sys2Proof.Machine

/-! ### The record source (R87, R141) -/

/-- The engine names the record source.  A change to FLY empties the FIFO; a change from FLY leaves it empty, priming set; a change
between ANALOG and DIGITAL keeps it (R87). -/
def nameSource (src : Source) (s : State) : State :=
  let k := s.intake
  if src = k.source then s
  else if src = .fly then { s with intake := { k with source := src, fifo := [], priming := false } }
  else if k.source = .fly then { s with intake := { k with source := src, fifo := [], priming := true } }
  else { s with intake := { k with source := src } }

def lineSource : InputLine → Source
  | .analog => .analog
  | .digital => .digital

def lineSrc : InputLine → SrcId
  | .analog => .analog
  | .digital => .digital

/-- The tag of a pair taken now from a source: its record's epoch, or the lost-clock marker (R22, R87, R90). -/
def tagNow (s : State) (src : SrcId) : Tag := ⟨src, if s.clock.lost then none else some (s.sources.get src).epoch⟩

def setIntakeFrame (f : Option IntakeFrame) (s : State) : State := { s with intake := { s.intake with frame := f } }

/-- Slips of an intake frame, 0..65 535, saturating (R86). -/
def IntakeFrame.slip (f : IntakeFrame) (n : Nat) : IntakeFrame := { f with slips := saturate 65535 (f.slips + n) }

/-- The intake is offered an arriving pair (R87). -/
def acceptPair (line : InputLine) (pair : SamplePair) (s : State) : State :=
  if s.intake.source ≠ lineSource line then s
  else
    let fifo := s.intake.fifo
    let entry := (pair, tagNow s (lineSrc line))
    match s.intake.frame with
    | none =>
      { s with intake := { s.intake with fifo := (if 128 ≤ fifo.length then fifo.drop 1 else fifo) ++ [entry] } }
    | some f =>
      if 256 ≤ fifo.length then setIntakeFrame (some (f.slip 1)) s
      else { s with intake := { s.intake with fifo := fifo ++ [entry] } }

/-- The INPUT source's most recent pair (R82). -/
def notePair (line : InputLine) (pair : Option SamplePair) (s : State) : State :=
  match line with
  | .analog => { s with mon := { s.mon with lastAnalog := pair } }
  | .digital => { s with mon := { s.mon with lastDigital := pair } }

/-- SAMPLE_PAIR_ARRIVAL (R82, R87). -/
def execSamplePairArrival (line : InputLine) (pair : SamplePair) (s : State) : Res :=
  .next (acceptPair line pair (notePair line (some pair) s))

/-- INPUT_PAIR_TIMEOUT: four sample periods without a pair, so INPUT gives silence until one arrives (R82). -/
def execInputPairTimeout (line : InputLine) (s : State) : Res := .next (notePair line none s)

/-! ### Taking positions (R89, R90) -/

/-- A tag list counts `n` more pairs of a tag; a new tag joins at the end (R86). -/
def addTag : List (Tag × Nat) → Tag → Nat → List (Tag × Nat)
  | [], t, n => [(t, n)]
  | (u, m) :: rest, t, n => if u = t then (u, m + n) :: rest else (u, m) :: addTag rest t n

/-- Put pairs into an intake frame's slot, when it has one (R88). -/
def storeIntake (o : Option SlotId) (r : Rate) (i : Nat) (l : List SamplePair) (s : State) : State :=
  match o with
  | none => s
  | some k => modifySlot k (fun x => { x with audio := putPairs x.audio r i l }) s

/-- The frame takes one pair with its tag at its next position. -/
def takePair (f : IntakeFrame) (p : SamplePair) (t : Tag) (s : State) : State :=
  storeIntake f.slot f.rate f.taken [p]
    (setIntakeFrame (some { f with taken := f.taken + 1, tags := addTag f.tags t 1, last := some (p, t) }) s)

/-- The frame takes one position of silence, which carries no tag (R89). -/
def takeSilence (f : IntakeFrame) (s : State) : State := setIntakeFrame (some { f with taken := f.taken + 1 }) s

/-- One sample period with the record source ANALOG or DIGITAL (R89). -/
def lineTake (f : IntakeFrame) (s : State) : State :=
  let fifo := s.intake.fifo
  let waits := s.intake.priming && decide (fifo.length < 128)
  let s1 := { s with intake := { s.intake with priming := waits } }
  if f.taken < framePairs f.rate then
    if waits then takeSilence f s1
    else match fifo with
      | (p, t) :: rest => takePair f p t { s1 with intake := { s1.intake with fifo := rest } }
      | [] => match f.last with
        | some (p, t) => takePair (f.slip 1) p t s1
        | none => takeSilence (f.slip 1) s1
  else if waits then s1
  else match fifo with
    | _ :: rest => setIntakeFrame (some (f.slip 1)) { s1 with intake := { s1.intake with fifo := rest } }
    | [] => s1

/-- One sample period with the record source FLY (R90, R43, R44).  After position S − 1 nothing is taken, and the bank's read position
stands until the mark (log entry 64).  A bank that becomes PLAYING later in a frame that has starved gives its
pairs to the positions that are left (log entry 51). -/
def flyTake (f : IntakeFrame) (s : State) : State :=
  if framePairs f.rate ≤ f.taken then s
  else if (match s.intake.flyStart with
      | some st => decide (f.taken < st)
      | none => false) then takeSilence f s
  else match playing s with
    | none => takeSilence f s
    | some n =>
      let b := s.banks.get n
      let b1 := { b with readPos := b.readPos + 1 }
      let s1 := takePair f (bankPair b b.readPos) (tagNow s n.src) (setBank n b1 s)
      if b.count = some (b.readPos + 1) then bankRanOut n (f.taken + 1) s1 else s1

/-- INTAKE_SAMPLE_PERIOD (R89, R90). -/
def intakePeriod (s : State) : State :=
  match s.intake.frame with
  | none => s
  | some f => if s.intake.source = .fly then flyTake f s else lineTake f s

def execIntakeSamplePeriod (s : State) : Res := .next (intakePeriod s)

/-! ### Closing and beginning a frame (R88) -/

/-- A mark before position S−1 fills the remaining positions as an empty FIFO fills them, one slip each; with FLY they stay
silence and count none (R89, R90; log entry 31). -/
def fillFrame (f : IntakeFrame) (s : State) : IntakeFrame × State :=
  let n := framePairs f.rate - f.taken
  if n = 0 ∨ s.intake.source = .fly then (f, s)
  else
    let f1 := f.slip n
    match f.last with
    | none => (f1, s)
    | some (p, t) =>
      ({ f1 with tags := addTag f.tags t n }, storeIntake f.slot f.rate f.taken (List.replicate n p) s)

/-- INTAKE_SLIP at the close of a frame with slips (R88); with FLY as the record source its subject is a free value (log entry 5). -/
def postSlip (f : IntakeFrame) (offered : Option Nat) (s : State) : State :=
  if f.slips = 0 then s
  else match s.intake.source with
    | .analog => post .intakeSlip 0 offered none s
    | .digital => post .intakeSlip 1 offered none s
    | .fly => bumpFresh (post .intakeSlip (Config.freeNat s.fresh % 256) offered none s)

/-- Close the intake frame at a mark: its slot becomes READY, or, for a frame handed on as failed, is released (R88). -/
def closeIntake (offered : Option Nat) (s : State) : Option ClosedIntake × State :=
  match s.intake.frame with
  | none => (none, { s with intake := { s.intake with flyStart := none } })
  | some f0 =>
    let (f, s1) := fillFrame f0 s
    let s2 := postSlip f offered s1
    let s3 := { s2 with intake := { s2.intake with frame := none, flyStart := none } }
    let same := decide (f.rate = s.clock.rate)
    match f.slot, same with
    | some i, true =>
      (some ⟨some i, f.tags, f.slips, f.starve, false⟩, modifySlot i (fun x => { x with state := .ready }) s3)
    | o, _ => (some ⟨none, [], f.slips, f.starve, true⟩, abandonSlot o s3)

/-- A failed intake frame in place of one that did not close (R91). -/
def failedIntake : ClosedIntake := ⟨none, [], 0, none, true⟩

/-- The intake frame began at another S than the one in force: its close leaves the intake frame absent until the next mark in PLAY
(R88). -/
def intakeStale (s : State) : Bool := s.intake.frame.any fun f => f.rate != s.clock.rate

/-- Begin a new intake frame, with a slot or none (R88). -/
def beginIntake (s : State) : State :=
  let (o, s1) := allocate .intake none s
  setIntakeFrame (some ⟨o, 0, [], 0, none, s1.clock.rate, none⟩) s1

/-- Leaving PLAY abandons the intake frame (R88). -/
def abandonIntake (s : State) : State :=
  match s.intake.frame with
  | none => s
  | some f => abandonSlot f.slot { s with intake := { s.intake with frame := none, flyStart := none } }

end Sys2Proof.Machine
end

