-- ==== Sys2Proof/Machine/Engine.lean ====
section
/-! DEFINITION. The Edit Engine's shared operations: entries and spans, engine states, results, the end of a splice, the end of a
pass, breaks and lock gains (R132 to R159). -/

namespace Sys2Proof.Machine

/-! ### Points and entries (R132, R133) -/

/-- One splice point lies before another (R132). -/
def Point.before (p q : Point) : Bool := decide (p.addr < q.addr ∨ p.addr = q.addr ∧ p.offset < q.offset)

/-- The number of sample positions from one point up to another (R132). -/
def spanOf (S : Nat) (p q : Point) : Nat := (q.addr * S + q.offset) - (p.addr * S + p.offset)

/-- The last frame that holds a position before a point. -/
def lastFrame (q : Point) : Nat := if q.offset = 0 then q.addr - 1 else q.addr

/-- The tests of R133 on an entry, at S sample pairs a frame. -/
def Entry.valid (S : Nat) (e : Entry) : Bool :=
  legalAddr e.inPoint.addr && legalAddr e.outPoint.addr
    && decide (e.inPoint.offset < S) && decide (e.outPoint.offset < S)
    && e.inPoint.before e.outPoint
    && (e.timecode.isNone || e.method == .assemble)
    && (e.timecode.all Timecode.legal)
    && (!e.lay || (e.method == .assemble && e.source != .fly))
    && (!e.lay || e.take == none || e.take == some 0)
    && decide (e.fadeIn ≤ 3200) && decide (e.fadeOut ≤ 3200)
    && decide (e.fadeIn ≤ 2 * S) && decide (e.fadeOut ≤ 2 * S)
    && decide (e.fadeIn + e.fadeOut ≤ spanOf S e.inPoint e.outPoint)

/-! ### Engine state (R139) -/

/-- A change of engine state posts PROGRAM_STATE (R139). -/
def setEng (st : EngState) (s : State) : State :=
  if s.eng.state = st then s
  else post .programState (engSubject st) none none { s with eng := { s.eng with state := st } }

def placeIds : List (Fin 16) := List.finRange 16

/-- A PENDING active entry (R134). -/
def pendingEntry (s : State) (i : Fin 16) : Option Entry :=
  match s.eng.active[i] with
  | some a => if a.state = .pending then some a.entry else none
  | none => none

/-- The first PENDING entry, in index order. -/
def firstPending (s : State) : Option (Fin 16 × Entry) :=
  placeIds.findSome? fun i => (pendingEntry s i).map fun e => (i, e)

def hasPending (s : State) : Bool := (firstPending s).isSome

/-- An active entry's state becomes its outcome, or ACTIVE (R144, R146). -/
def setEntryState (i : Fin 16) (st : EntryState) (s : State) : State :=
  { s with eng := { s.eng with active := s.eng.active.set i ((s.eng.active[i]).map fun a => { a with state := st }) } }

def rehearsing (s : State) : Bool := s.eng.mode == some .rehearse

/-- The tag of an entry of the present run and pass (R92). -/
def programTag (s : State) (i : Fin 16) : SpliceTag := .program s.eng.run s.eng.pass i.val

/-- The take of an entry's frames: 0 for a lay entry, the run's take otherwise (R137). -/
def takeFor (s : State) (e : Entry) : Nat := if e.lay then 0 else s.eng.runTake.getD 0

/-- The entry index of a tag as notices and replies give it, 16 for MANUAL (R159, R187). -/
def SpliceTag.index : SpliceTag → Nat
  | .program _ _ i => i
  | .manual _ => 16

/-- The run number of a tag; for MANUAL the spec states none: a free value (log entry 6). -/
def SpliceTag.run (fresh : Nat) : SpliceTag → Nat
  | .program r _ _ => r
  | .manual _ => Config.freeNat fresh % 256

/-! ### Results (R159) -/

/-- A result is added; SPLICE_ENDED is posted for a notifying entry, and for every punch (R159). `inAddr` stands for the address
when there is no actual out-point. -/
def addResult (r : SpliceResult) (notify : Bool) (inAddr : Option Nat) (s : State) : State :=
  let e := s.eng
  let isFull := decide (16 ≤ e.results.length)
  let s1 := { s with eng := { e with
    results := (if isFull then e.results.drop 1 else e.results) ++ [r]
    resultsLost := if isFull then saturate 65535 (e.resultsLost + 1) else e.resultsLost } }
  if notify then
    post .spliceEnded r.tag.index (match r.actualOut with
      | some q => some q.addr
      | none => inAddr) none s1
  else s1

/-- An entry that never started ends, with no actual points: SKIPPED, STARVED or REFUSED (R140, R142, R151, R152), or a lay entry
BROKEN (R157). -/
def endPending (i : Fin 16) (e : Entry) (o : Outcome) (r : Option Reason) (late : Bool) (s : State) : State :=
  addResult
    { tag := programTag s i, run := s.eng.run, pass := if rehearsing s then s.eng.pass else 0, rehearse := rehearsing s,
      outcome := o, reason := r, actualIn := none, actualOut := none, late := late, take := takeFor s e, mark := none,
      faults := 0, reworked := 0 }
    e.notify (some e.inPoint.addr) (setEntryState i (.ended o) s)

/-- Every PENDING entry becomes SKIPPED, in index order (R151, R152). -/
def skipPending (s : State) : State :=
  placeIds.foldl (fun t i => match pendingEntry t i with
    | some e => endPending i e .skipped none false t
    | none => t) s

/-! ### Banks of splices (R44, R142) -/

/-- A splice that is drawing from a PLAYING bank ends, or a prepared entry that was given one is dropped: the bank becomes SPENT
(R44, R149, R151, R152). -/
def spendFor (tag : SpliceTag) (s : State) : State :=
  if s.eng.bankFor = some tag then spendPlaying { s with eng := { s.eng with bankFor := none } } else s

def spendAny (s : State) : State :=
  if s.eng.bankFor.isSome then spendPlaying { s with eng := { s.eng with bankFor := none } } else s

/-! ### The end of a lay (R17, R158) -/

/-- The timeline record after LAYING: ACQUIRING from the last handed address, or UNLOCKED when that lies off the tape (R17). -/
def leaveLaying (t : Timeline) (d : Nat) : Timeline :=
  let cleared := { t with coast := 0, run := 0, candidate := none, generated := none, handed := none }
  match t.handed with
  | some h => if legalAddr (h + d - 2) then { cleared with state := .acquiring, candidate := some (h + d - 2) }
              else { cleared with state := .unlocked }
  | none => { cleared with state := .unlocked }

/-- The engine's request to end the lay, which is no lock loss (R17, R18). -/
def endLay (s : State) : State :=
  if s.tl.state = .laying then { s with tl := leaveLaying s.tl s.geo.d } else s

/-! ### The end of a splice (R146, R147) -/

/-- The frame at which a break or a cut ends a splice: the frame whose write it ends, or the frame the head has entered at this
mark; absent when no write had begun (R147).  In a rehearsal it is the frame the write head is in (log entry 25). -/
def cutPoint (s : State) : Option Point :=
  match s.eng.splice with
  | none => none
  | some sp =>
    match sp.actualIn with
    | none => none
    | some start =>
      if sp.rehearse then
        match s.tl.head with
        | some w => if start.addr ≤ w then some ⟨w, 0⟩ else none
        | none => none
      else match s.gate.write with
        | some w => some ⟨w.addr, 0⟩
        | none => s.tl.head.map fun w => ⟨w, 0⟩

/-- The ended splice's entry takes the outcome; a punch has no entry (R146, R156). -/
def closeEntry (sp : Splice) (o : Outcome) (s : State) : State :=
  match sp.index with
  | some i => setEntryState i (.ended o) s
  | none => bumpFresh s

/-- ANALOG is named when a splice has ended and no entry is prepared (R141). -/
def nameAfter (s : State) : State := if s.eng.prepared = [] then nameSource .analog s else s

/-- A rehearsed splice that has ended ends its override (R85, R153). -/
def endOverride (sp : Splice) (s : State) : State :=
  if sp.rehearse then { s with mon := { s.mon with override := false } } else s

/-- A lay splice that has ended ends a lay that is still LAYING (R158). -/
def endLayOf (sp : Splice) (s : State) : State := if sp.lay then endLay s else s

/-- The result of a splice that ends; at its in-point it has no actual points (R146, R159). -/
def spliceResult (sp : Splice) (o : Outcome) (r : Option Reason) (out : Option Point) (atIn : Bool) (s : State) : SpliceResult :=
  { tag := sp.tag, run := sp.tag.run s.fresh, pass := if sp.rehearse then s.eng.pass else 0, rehearse := sp.rehearse,
    outcome := o, reason := r, actualIn := if atIn then none else sp.actualIn, actualOut := if atIn then none else out,
    late := sp.late, take := sp.take, mark := sp.mark, faults := sp.faults, reworked := sp.reworked }

/-- The address of SPLICE_ENDED when there is no actual out-point (log entry 42). -/
def endAddress (sp : Splice) (actualIn : Option Point) : Option Nat :=
  match actualIn, sp.inFrame with
  | some q, _ => some q.addr
  | none, some a => some a
  | none, none => sp.start.map (·.addr)

/-- The splice in progress ends: its result is added, its entry takes the outcome, its bank becomes SPENT, its rehearse override
ends, a lay that is still LAYING ends, and ANALOG is named unless an entry is prepared (R141, R146, R153, R158).  `atIn`: it
ended at its in-point. -/
def endSplice (o : Outcome) (r : Option Reason) (out : Option Point) (atIn : Bool) (s : State) : State :=
  match s.eng.splice with
  | none => s
  | some sp =>
    let result := spliceResult sp o r out atIn s
    let s1 := closeEntry sp o { s with eng := { s.eng with splice := none } }
    addResult result sp.notify (endAddress sp result.actualIn)
      (endLayOf sp (endOverride sp (nameAfter (spendFor sp.tag s1))))

/-- The locate target: the first in-point's address less the Preroll, or 0 (R136). -/
def locateTarget (s : State) : Nat :=
  match s.eng.active[(0 : Fin 16)] with
  | some a => a.entry.inPoint.addr - s.eng.preroll
  | none => 0

/-- A pass ends (R154): a rehearsal with passes left goes to ARMED for the next; every other run is DONE. -/
def endPass (s : State) : State :=
  if rehearsing s = true ∧ s.eng.pass < s.eng.passes.getD 1 then
    let target := locateTarget s
    let s1 := post .passEnd s.eng.pass (some target) none s
    setEng .armed { s1 with eng := { s1.eng with
      active := mapPlaces (fun o => o.map fun a => { a with state := .pending }) s1.eng.active
      pass := s1.eng.pass + 1, locate := target, prepared := [] } }
  else setEng .done s

/-- How the engine goes on when a splice has ended (R146); after a lay it waits in HELD for a lock (R158); a punch leaves the engine
state alone (R156). -/
def afterSplice (punch lay : Bool) (s : State) : State :=
  if punch then s
  else if s.eng.state = .finishing then setEng .done s
  else if hasPending s then setEng (if lay then .held else .waiting) s
  else endPass s

/-- The splice ends, and the engine goes on. -/
def finishSplice (o : Outcome) (r : Option Reason) (out : Option Point) (atIn : Bool) (s : State) : State :=
  match s.eng.splice with
  | none => s
  | some sp => afterSplice sp.index.isNone sp.lay (endSplice o r out atIn s)

/-- A splice ends normally: the end reason when one was set, and DONE otherwise; the actual out-point is the end of its new
audio (R146). -/
def completeSplice (s : State) : State :=
  match s.eng.splice with
  | none => s
  | some sp =>
    let out := match sp.early with
      | some q => some q
      | none => sp.outPoint
    match sp.reason with
    | some (o, r) => finishSplice o r out false s
    | none => finishSplice .done none out false s

/-! ### Breaks and lock gains (R138, R149, R150) -/

/-- A lay entry that has not started ends BROKEN at a break, with no actual points (R157). -/
def breakLay (s : State) : State :=
  match pendingEntry s 0 with
  | some e => if e.lay then endPending 0 e .broken none false s else s
  | none => s

/-- The states in which the engine takes a break (R149). -/
def EngState.breakable : EngState → Bool
  | .waiting | .splicing | .finishing => true
  | _ => false

/-- A break (R149): the splice or punch ends BROKEN, or LOST_LOCK in PLAY; what was prepared stays PENDING. -/
def engineBreak (s : State) : State :=
  let o : Outcome := if s.tl.mode = .play then .lostLock else .broken
  if punchOpen s then endSplice o none (cutPoint s) false s
  else if s.eng.state.breakable then
    let s1 := endSplice o none (cutPoint s) false s
    let s2 := breakLay s1
    let s3 := nameSource .analog (spendAny { s2 with eng := { s2.eng with prepared := [], layWait := none } })
    if s3.eng.state = .finishing then setEng .done s3
    else if hasPending s3 then setEng .held s3
    else endPass s3
  else s

/-- A lock gain at a pre-read close, taken in PLAY (R138, R150). -/
def engineGain (s : State) : State :=
  if s.tl.mode ≠ .play then s
  else match s.eng.state with
    | .held => setEng .waiting s
    | .armed => match firstPending s with
      | some (_, e) => if s.tl.position + 5 ≤ e.inPoint.addr + s.geo.d then setEng .waiting s else s
      | none => s
    | _ => s

/-! ### Judgements (R148) -/

/-- A counted write fault of a tag: in the tally while the splice runs, or in its result while the list holds it (R148). -/
def countFault (tag : SpliceTag) (s : State) : State :=
  match s.eng.splice with
  | some sp =>
    if sp.tag = tag then
      { s with eng := { s.eng with splice := some { sp with faults := saturate 255 (sp.faults + 1) } } }
    else
      { s with eng := { s.eng with results := s.eng.results.map fun r =>
        if r.tag = tag then { r with faults := saturate 255 (r.faults + 1) } else r } }
  | none =>
    { s with eng := { s.eng with results := s.eng.results.map fun r =>
      if r.tag = tag then { r with faults := saturate 255 (r.faults + 1) } else r } }

end Sys2Proof.Machine
end

