-- ==== Sys2Proof/Machine/Gate.lean ====
section
/-! DEFINITION. The record gate, its schedule, cuts, writes and final frames, the Confidence Judge, and the events and commands on
them (R99 to R109). -/

namespace Sys2Proof.Machine

/-! ### Abandoning coding operations (R99) -/

/-- The tag of the plan an operation was begun under. -/
def CodingOp.tag (op : CodingOp) : Option SpliceTag := op.begun.bind fun b => b.plan.map (·.tag)

/-- The FILLING CODED slot of an operation that has begun (R91). -/
def CodingOp.codedSlot (op : CodingOp) : Option SlotId := op.begun.bind (·.slot)

/-- An abandoned operation gives its CODED slot back at once and releases its intake slot (R99). -/
def dropOp (op : CodingOp) (s : State) : State := releaseOpt op.intake.slot (abandonSlot op.codedSlot s)

/-- Abandon the operations with a property; the others keep their places (R99). -/
def abandonOps (f : CodingOp → Bool) (s : State) : State :=
  (s.coding.filter f).foldl (fun t op => dropOp op t) { s with coding := s.coding.filter fun op => !f op }

/-! ### Unwritten frames (R30) -/

/-- A slot whose frame's write has begun and awaits its judgement (R106). -/
def inJudge (s : State) (i : SlotId) : Bool := s.judge.any fun e => e.slot == i

/-- CODED slots whose frame has not been written (R30; log entry 20). -/
def unwritten (s : State) : List SlotId :=
  slotIds.filter fun i => s.slots[i].state == .coded && !inJudge s i

/-- An operation whose CODED slot has been released by a cut: it goes on without one (R30, R99; log entry 20). -/
def CodingOp.slotless (op : CodingOp) : CodingOp := { op with begun := op.begun.map fun b => { b with slot := none } }

/-- The FILLING CODED slots of the operations in the list are released; the operations go on (R30; log entry 20). -/
def releaseFilling (s : State) : State :=
  s.coding.foldl (fun t op => abandonSlot op.codedSlot t) { s with coding := s.coding.map CodingOp.slotless }

/-- What a cut releases: the CODED and the FILLING CODED slots whose frames have not been written (R30). -/
def releaseUnwritten (s : State) : State := releaseFilling (releaseAll (unwritten s) s)

/-! ### The gate record (R100) -/

def closeGate (s : State) : State :=
  { s with gate := { s.gate with state := .closed, holder := none, first := none, final := none, write := none,
                                 pendingStop := false } }

/-- Causes of a cut (R104); a GUARD cut names the guarded address (R123). -/
inductive CutCause where
  | transport | lock | clock | stop | reset | fault
  | guarded (a : Nat)
  | store
  deriving DecidableEq, Repr

/-- The judge list entry of the write in progress is marked partial (R104). -/
def markPartial (s : State) : State :=
  match s.gate.write with
  | none => s
  | some w => { s with judge := s.judge.map fun e => if e.slot = w.slot then { e with partly := true } else e }

/-- The outputs follow AUTO: it is stored, and the rehearse override is inactive (R84, R85). -/
def autoPlays (s : State) : Bool := s.mon.stored == .auto && !s.mon.override

/-- What a cut does to the gate itself (R104): the write in progress ends partly, the record clears, the holder's operations are
abandoned, unwritten CODED and FILLING CODED slots are released (R30), and AUTO, when the outputs follow it, leaves the mix for the rest of
the frame period (R84; log entries 28 and 63).  Under another selection, or under the rehearse override, the choice of the latest mark
stands for an AUTO selected later in the period (R83, R85). -/
def closeByCut (s : State) : State :=
  let h := s.gate.holder
  let s1 := closeGate (markPartial s)
  let s2 := releaseUnwritten (abandonOps (fun op => op.tag.isSome && op.tag == h) s1)
  { s2 with mon := { s2.mon with autoMix := s2.mon.autoMix && !autoPlays s } }

/-- A cut of the gate (R104).  With the gate CLOSED, a TRANSPORT or LOCK cut still releases what is unwritten (R30).  Otherwise the
gate closes, and the cut ends the holder's splice by R147 for the causes CLOCK, STORE, FAULT and GUARD; a break, a stop or a
reset ends it in its own rule (R149, R151, R161). -/
def cutGate (c : CutCause) (s : State) : State :=
  if s.gate.state = .closed then
    match c with
    | .transport | .lock => releaseUnwritten s
    | _ => s
  else
    let out := cutPoint s
    let s1 := closeByCut s
    match c with
    | .clock | .store => finishSplice .broken none out false s1
    | .fault => finishSplice .writeFault none out false s1
    | .guarded a => finishSplice .guarded (some .guarded) out false (post .recordRefused 5 (some a) none s1)
    | .transport | .lock | .stop | .reset => s1

/-! ### A rehearsed splice ends where a cut would end it (R153) -/

/-- An operation of the splice with a tag was refused at its in-point, so that the gate of a RECORD run would be CLOSED by now (R101). -/
def withdrawn (s : State) (tag : SpliceTag) : Bool :=
  s.coding.any fun op => op.tag == some tag && op.begun.any fun b => b.verdict.atIn

/-- What a RECORD run would end by a cut of the gate, a rehearsal ends in the same way: the splice's operations are abandoned and it ends
with the cut's outcome, with no gate to cut and no notice of a refusal (R147, R153; log entry 55). -/
def rehearseCut (o : Outcome) (r : Option Reason) (out : Option Point) (s : State) : State :=
  match s.eng.splice with
  | none => s
  | some sp =>
    if sp.rehearse = false ∨ withdrawn s sp.tag = true then s
    else finishSplice o r out false (abandonOps (fun op => op.tag == some sp.tag) s)

/-! ### Scheduling (R101) -/

inductive ScheduleRefusal where
  | busy | transport | clock | lock
  deriving DecidableEq, Repr

/-- The first test that refuses a schedule request (R101).  The rule lists four cases and gives no order
among them: the model tests them in the order of its list (log entry 52). -/
def scheduleRefusal (s : State) : Option ScheduleRefusal :=
  if s.gate.state ≠ .closed then some .busy
  else if s.tl.mode ≠ .play then some .transport
  else if s.clock.lost then some .clock
  else if s.tl.state.hasLock = false then some .lock
  else none

/-- A schedule request, bound to a first frame or unbound (R101, R108). -/
def schedule (tag : SpliceTag) (first : Option Nat) (s : State) : Option ScheduleRefusal × State :=
  match scheduleRefusal s with
  | some c => (some c, s)
  | none =>
    (none, { s with gate := { s.gate with state := .scheduled, holder := some tag, first := first,
                                          opening := (s.gate.opening + 1) % 65536, run := 0 } })

/-- The first frame's verdict refuses the schedule: the gate returns to CLOSED with no write begun (R101). -/
def withdraw (tag : SpliceTag) (s : State) : State := if s.gate.holder = some tag then closeGate s else s

/-- A final-frame request for the open punch (R102): the operation of the holder in progress takes it, or the next one to begin. -/
def requestFinal (s : State) : State :=
  match s.eng.splice with
  | none => s
  | some sp =>
    if s.gate.final.isSome ∨ sp.final.isSome then s
    else match s.coding with
      | op :: rest =>
        if op.tag = some sp.tag then
          { s with coding := { op with begun := op.begun.map fun b => { b with finalReq := true } } :: rest }
        else { s with eng := { s.eng with splice := some { sp with finalReq := true } } }
      | [] => { s with eng := { s.eng with splice := some { sp with finalReq := true } } }

/-! ### The write (R103) -/

/-- The CODED slot of a tag at an address. -/
def codedSlot (s : State) (tag : SpliceTag) (a : Nat) : Option SlotId :=
  newest s fun x => x.state == .coded && x.addr == some a && x.tag == some tag

/-- The mark written combines one more frame, and a rework flag is counted (R145). -/
def Splice.tally (sp : Splice) (m : CopyMark) (rework : Bool) : Splice :=
  { sp with mark := some (match sp.mark with
              | some n => combine n m
              | none => m)
            reworked := if rework then saturate 255 (sp.reworked + 1) else sp.reworked }

/-- The start of a write is reported to the engine (R103, R145). -/
def reportWrite (tag : SpliceTag) (h : Option Header) (s : State) : State :=
  match s.eng.splice with
  | none => s
  | some sp =>
    if sp.tag = tag then
      let sp1 := match h with
        | some q => sp.tally q.mark q.rework
        | none => sp
      { s with eng := { s.eng with splice := some { sp1 with actualIn := match sp1.actualIn with
        | some q => some q
        | none => sp1.start } } }
    else s

/-- The write of frame `a` begins (R103, R106). -/
def beginWrite (tag : SpliceTag) (a : Nat) (i : SlotId) (s : State) : State :=
  let h := s.slots[i].header
  let e : JudgeEntry :=
    { addr := a, take := (h.map (·.take)).getD 0, slot := i, tag := tag, opening := s.gate.opening, partly := false,
      due := s.geo.c + 1, designated := false }
  reportWrite tag h
    { s with gate := { s.gate with state := if s.gate.final = some a then .last else .opened,
                                   write := some ⟨a, i, 0⟩ }
             judge := s.judge ++ [e] }

/-- Abandon the operation for an address the head enters (R99, R103), or for one that it has skipped past (log entry 61). -/
def abandonUpTo (a : Nat) (s : State) : State := abandonOps (fun op => decide (op.addr ≤ a)) s

/-- Frame `a` of a splice got the verdict GUARDED HERE: the splice ended before its first position for the reason GUARDED (R93, R145). -/
def Splice.guardedHere (sp : Splice) (a : Nat) : Bool :=
  sp.early == some ⟨a, 0⟩ && sp.reason == some (.guarded, some .guarded)

/-- Frame `a` of the splice with a tag may not be written: it is guarded now, or its verdict was GUARDED HERE, whatever the guard table
says by now (R93, R103, R128; log entry 54). -/
def barred (s : State) (tag : SpliceTag) (a : Nat) : Bool :=
  guarded s.guard a || s.eng.splice.any fun sp => sp.tag == tag && sp.guardedHere a

/-- The write in progress has run to the end of its frame, so that a cut no longer ends it (R103, R104). -/
def endWrite (s : State) : State := { s with gate := { s.gate with write := none } }

/-- The gate in SCHEDULED, at its first frame or beyond, or in OPEN, as the head enters frame `a`, which completes the write of the frame
it leaves; `expected` is the only frame that may be written now (R103, R105; log entry 23).  A GUARDED HERE frame is cut with cause GUARD
even when its guard has been removed since (log entry 54). -/
def tryWrite (tag : SpliceTag) (expected a : Nat) (s : State) : State :=
  if s.gate.pendingStop then cutGate .fault (endWrite s)
  else match codedSlot s tag a with
    | none => cutGate .store (endWrite (abandonUpTo a s))
    | some i =>
      if a ≠ expected then cutGate .store (endWrite s)
      else if barred s tag a then cutGate (.guarded a) (endWrite s)
      else beginWrite tag a i s

/-- The gate at a frame mark at which the head enters frame `a` (R103). -/
def gateEnter (a : Nat) (s : State) : State :=
  match s.gate.state, s.gate.holder with
  | .closed, _ => s
  | .last, _ => completeSplice (closeGate s)
  | .scheduled, some tag =>
    match s.gate.first with
    | none => s
    | some f => if a < f then s else tryWrite tag f a s
  | .opened, some tag =>
    match s.gate.write with
    | none => s
    | some w => tryWrite tag (w.addr + 1) a s
  | _, none => s

/-- CODED slots the head has entered or passed without their write beginning are released (R30). -/
def releasePassed (a : Nat) (s : State) : State :=
  releaseAll ((unwritten s).filter fun i => match s.slots[i].addr with
    | some b => decide (b ≤ a)
    | none => false) s

/-- SECTOR_EMISSION (R103, R192): the write stream emits the next sector of the frame being written. -/
def emitSector (s : State) : State :=
  match s.gate.write with
  | none => s
  | some w =>
    if 10 ≤ w.sectors then s
    else match s.slots[w.slot].header with
      | none => s
      | some h =>
        { s with out := { s.out with sector := some (sectorBytes w.sectors h (sectorWords s.slots[w.slot].audio w.sectors)) }
                 gate := { s.gate with write := some { w with sectors := w.sectors + 1 } } }

def execSectorEmission (s : State) : Res := .next (emitSector s)

/-! ### Guard changes while the gate is not CLOSED (R105, R127) -/

/-- In a rehearsal, the frame that would be being written has become guarded: the splice ends GUARDED (R153; log entry 55). -/
def rehearseGuard (s : State) : State :=
  match cutPoint s with
  | some q => if guarded s.guard q.addr then rehearseCut .guarded (some .guarded) (some q) s else s
  | none => s

/-- The frame being written has become guarded: the gate is cut at once (R105). -/
def guardChanged (s : State) : State :=
  if s.gate.state = .closed then rehearseGuard s
  else match s.gate.write with
    | some w => if guarded s.guard w.addr then cutGate (.guarded w.addr) s else s
    | none => s

/-- A guard command: HELD while the Guard Lock is set, then the owning block's RANGE tests (R127, R186). -/
def guardBody (ok : Bool) (f : Guard → Guard) (s : State) : State × Reply :=
  if s.guard.lock then (s, refuse .held)
  else if ok = false then (s, refuse .range)
  else (guardChanged { s with guard := f s.guard }, ⟨.done, guardBytes (f s.guard)⟩)

def setSpan (place : Nat) (o : Option Span) (g : Guard) : Guard :=
  if h : place < 8 then { g with places := g.places.set place o h } else g

/-- WRITE GUARD SPAN (R127). -/
def execWriteGuardSpan (p : Port) (place : Byte) (first last : BitVec 24) (s : State) : Res :=
  .next (command p 0x41 true
    (guardBody (decide (place.toNat < 8) && legalAddr first.toNat && legalAddr last.toNat
        && decide (first.toNat ≤ last.toNat))
      (setSpan place.toNat (some ⟨first.toNat, last.toNat⟩))) s)

/-- ERASE GUARD SPAN (R127). -/
def execEraseGuardSpan (p : Port) (place : Byte) (s : State) : Res :=
  .next (command p 0x42 true (guardBody (decide (place.toNat < 8)) (setSpan place.toNat none)) s)

/-- SET GUARD INVERT (R127): a byte that is no flag does not fit its encoding. -/
def execSetGuardInvert (p : Port) (flag : Byte) (s : State) : Res :=
  .next (command p 0x43 (isFlag flag) (guardBody true fun g => { g with invert := flag == 1 }) s)

/-- SET GUARD LOCK (R129). -/
def execSetGuardLock (p : Port) (s : State) : Res :=
  .next (command p 0x44 true (fun t => ({ t with guard := { t.guard with lock := true } }, done)) s)

/-- CLEAR GUARD LOCK (R129): taken only while GUARD RELEASE is active. -/
def clearLockBody (s : State) : State × Reply :=
  if s.guardRelease then ({ s with guard := { s.guard with lock := false } }, done) else (s, refuse .held)

/-- CLEAR GUARD LOCK with the level the line shows when it is taken (R129; log entry 10). -/
def execClearGuardLock (p : Port) (release : Bool) (s : State) : Res :=
  .next (command p 0x45 true clearLockBody { s with guardRelease := release })

/-! ### The Fault Limit (R108) -/

/-- SCHEDULED or OPEN: the states in which a fault run sets the pending stop (R108). -/
def GateState.stoppable : GateState → Bool
  | .scheduled | .opened => true
  | _ => false

/-- SET FAULT LIMIT (R108). -/
def faultLimitBody (limit : Nat) (s : State) : State × Reply :=
  if 8 < limit then (s, refuse .range)
  else
    let stop := s.gate.pendingStop || (decide (0 < limit ∧ limit ≤ s.gate.run) && s.gate.state.stoppable)
    ({ s with gate := { s.gate with faultLimit := limit, pendingStop := stop } },
     ⟨.done, be 1 limit ++ be 1 (codeIn gateStates s.gate.state) ++ be 1 s.gate.run⟩)

def execSetFaultLimit (p : Port) (limit : Byte) (s : State) : Res :=
  .next (command p 0x35 true (faultLimitBody limit.toNat) s)

/-- SET MANUAL PUNCH (R109). -/
def manualBody (source : Byte) (fade : Nat) (s : State) : State × Reply :=
  match named sourceList source with
  | none => (s, refuse .range)
  | some src => if 3200 < fade then (s, refuse .range) else ({ s with manual := ⟨src, fade⟩ }, done)

def execSetManualPunch (p : Port) (source : Byte) (fade : BitVec 16) (s : State) : Res :=
  .next (command p 0x36 true (manualBody source fade.toNat) s)

/-! ### The Confidence Judge (R106 to R108) -/

/-- The subject of a write fault: the lowest-numbered condition that holds; none for a clean judgement (R107). -/
def faultSubject (e : JudgeEntry) (slot : Option Slot) : Option Nat :=
  match slot with
  | none => some 2
  | some x =>
    if x.bad.left ≠ [] ∨ x.bad.right ≠ [] then some 1
    else if x.inherited then some 2
    else if (x.header.map (·.take)) ≠ some e.take then some 3
    else none

/-- The gate's write-fault run count takes a judgement of the current opening, while the gate is not CLOSED (R108). -/
def countRun (e : JudgeEntry) (fault : Bool) (g : Gate) : Gate :=
  if g.state = .closed ∨ e.opening ≠ g.opening then g
  else if fault = false then { g with run := 0 }
  else
    let run := saturate 255 (g.run + 1)
    { g with run := run,
             pendingStop := g.pendingStop || (decide (0 < g.faultLimit ∧ g.faultLimit ≤ run) && g.state.stoppable) }

/-- Judge one entry against the closed confidence frame (R107, R108, R148). -/
def judgeEntry (e : JudgeEntry) (slot : Option Slot) (s : State) : State :=
  let f := faultSubject e slot
  let s1 := releaseOrDue e.slot { s with judge := s.judge.erase e, gate := countRun e f.isSome s.gate }
  match f with
  | none => s1
  | some n => post .writeFault n (some e.addr) none (if e.partly then s1 else countFault e.tag s1)

/-- The close of `n` designated entries: the oldest designated ones are judged (R106, R107). -/
def judgeClose (n : Nat) (slot : Option Slot) (s : State) : State :=
  ((s.judge.filter (·.designated)).take n).foldl (fun t e => judgeEntry e slot t) s

/-- At a mark, every entry comes one mark nearer its due mark; those that reach it are designated (R106). -/
def tickJudge (s : State) : State :=
  { s with judge := s.judge.map fun e =>
      if e.designated then e
      else if e.due ≤ 1 then { e with due := 0, designated := true } else { e with due := e.due - 1 } }

/-- The entries a mark designates (R106). -/
def dueNow (s : State) : Nat := (s.judge.filter fun e => !e.designated && decide (e.due ≤ 1)).length

/-- Entries not yet designated are removed unjudged when the mode leaves PLAY (R106). -/
def dropUnjudged (s : State) : State :=
  let gone := s.judge.filter fun e => !e.designated
  releaseAll (gone.map (·.slot)) { s with judge := s.judge.filter (·.designated) }

end Sys2Proof.Machine
end

