-- ==== Sys2Proof/Machine/Program.lean ====
section
/-! DEFINITION. The draft list, starting and stopping a program, the manual punch, and the Edit Engine's commands (R132 to R137, R151,
R152, R155, R156, R159 to R161). -/

namespace Sys2Proof.Machine

/-! ### The draft list (R132 to R134) -/

/-- The optional timecode start of WRITE ENTRY; none where the flag does not fit (R184). -/
def rawTimecode (e : RawEntry) : Option (Option Timecode) :=
  match e.tcPresent.toNat with
  | 0 => some none
  | 1 => some (some ⟨e.tcHours.toNat, e.tcMinutes.toNat, e.tcSeconds.toNat, e.tcFrames.toNat⟩)
  | _ => none

def rawTake (e : RawEntry) : Option (Option Nat) :=
  match e.takePresent.toNat with
  | 0 => some none
  | 1 => some (some e.take.toNat)
  | _ => none

/-- The entry that WRITE ENTRY carries; none where a code or flag does not fit its encoding (R182, R187). -/
def entryOf (e : RawEntry) : Option Entry := do
  let source ← named sourceList e.source
  let method ← named methods e.method
  let timecode ← rawTimecode e
  let take ← rawTake e
  if isFlag e.lay && isFlag e.notify then
    some { inPoint := ⟨e.inAddr.toNat, e.inOffset.toNat⟩, outPoint := ⟨e.outAddr.toNat, e.outOffset.toNat⟩,
           source := source, method := method, timecode := timecode, lay := e.lay == 1, fadeIn := e.fadeIn.toNat,
           fadeOut := e.fadeOut.toNat, take := take, notify := e.notify == 1 }
  else none

/-- A draft place takes new contents, and the Draft Version increases by one (R132, R133). -/
def setDraft (i : Fin 16) (o : Option Entry) (s : State) : State × Reply :=
  let v := (s.eng.version + 1) % 65536
  ({ s with eng := { s.eng with draft := s.eng.draft.set i o, version := v } }, ⟨.done, be 2 v⟩)

/-- WRITE ENTRY (R133). -/
def writeEntryBody (place : Nat) (raw : RawEntry) (s : State) : State × Reply :=
  match entryOf raw with
  | none => (s, refuse .range)
  | some e =>
    if h : place < 16 then
      if e.valid (framePairs s.clock.rate) then setDraft ⟨place, h⟩ (some e) s else (s, refuse .range)
    else (s, refuse .range)

def execWriteEntry (p : Port) (place : Byte) (entry : RawEntry) (s : State) : Res :=
  .next (command p 0x50 true (writeEntryBody place.toNat entry) s)

/-- ERASE ENTRY (R133). -/
def eraseEntryBody (place : Nat) (s : State) : State × Reply :=
  if h : place < 16 then setDraft ⟨place, h⟩ none s else (s, refuse .range)

def execEraseEntry (p : Port) (place : Byte) (s : State) : Res := .next (command p 0x51 true (eraseEntryBody place.toNat) s)

/-- An entry as a reply carries it, in the parameter order of WRITE ENTRY (R187). -/
def entryBytes (e : Entry) : List Byte :=
  pointBytes e.inPoint ++ pointBytes e.outPoint ++ be 1 (codeIn sourceList e.source) ++ be 1 (codeIn methods e.method)
    ++ optBytes 4 (e.timecode.map tcBytes) ++ flagByte e.lay ++ be 2 e.fadeIn ++ be 2 e.fadeOut
    ++ optBytes 1 (e.take.map (be 1)) ++ flagByte e.notify

/-- The code of an active entry's state: PENDING, ACTIVE or its outcome (R134). -/
def entryStateCode : EntryState → Nat
  | .pending => 0
  | .active => 1
  | .ended o => 2 + codeIn outcomes o

/-- READ ENTRY (R134): selector DRAFT 0, ACTIVE 1. -/
def readEntryBody (selector place : Nat) (s : State) : State × Reply :=
  if h : place < 16 then
    let i : Fin 16 := ⟨place, h⟩
    match selector with
    | 0 => (s, ⟨.done, be 2 s.eng.version ++ optBytes 25 (s.eng.draft[i].map entryBytes)⟩)
    | 1 => (s, ⟨.done, be 1 s.eng.run
        ++ optBytes 26 (s.eng.active[i].map fun a => entryBytes a.entry ++ be 1 (entryStateCode a.state))⟩)
    | _ => (s, refuse .range)
  else (s, refuse .range)

def execReadEntry (p : Port) (selector place : Byte) (s : State) : Res :=
  .next (command p 0x52 true (readEntryBody selector.toNat place.toNat) s)

/-! ### Starting a program (R135 to R137) -/

/-- The value the Take Counter reaches at the next increment (R137). -/
def nextTake (s : State) : Nat := if s.eng.takeCounter = 255 then 1 else s.eng.takeCounter + 1

/-- The present draft entries, in place order. -/
def draftEntries (s : State) : List Entry := s.eng.draft.toList.filterMap id

/-- The present places are exactly 0 to n−1 (R135). -/
def draftContiguous (s : State) : Bool := (s.eng.draft.toList.takeWhile (·.isSome)).length == (draftEntries s).length

/-- In-points strictly ascend, and each out-point lies before the next in-point (R135). -/
def ordered : List Entry → Bool
  | a :: b :: t => a.inPoint.before b.inPoint && a.outPoint.before b.inPoint && ordered (b :: t)
  | _ => true

/-- The program checks of R135, case 4. -/
def programCheck (m : RunMode) (s : State) : Bool :=
  let l := draftEntries s
  draftContiguous s && !l.isEmpty && l.all (Entry.valid (framePairs s.clock.rate)) && ordered l
    && (l.drop 1).all (fun e => !e.lay)
    && (!(l.head?.any (·.lay)) || m == .record)
    && l.all fun e => e.lay || e.take == none || e.take == some (nextTake s)

/-- Whether entry 0 of the draft has the lay flag. -/
def draftLays (s : State) : Bool := (s.eng.draft[(0 : Fin 16)]).any (·.lay)

/-- The copy of a draft entry in the active program: PENDING, a lay entry's in-point offset set to 0 (R136). -/
def activeCopy (e : Entry) : ActiveEntry :=
  ⟨if e.lay then { e with inPoint := ⟨e.inPoint.addr, 0⟩ } else e, .pending⟩

/-- The effects of an accepted START (R136, R137, R157). -/
def acceptStart (m : RunMode) (passes : Nat) (s : State) : State :=
  let take := nextTake s
  let e := s.eng
  let s1 := { s with eng := { e with
    run := (e.run + 1) % 256, pass := 1, mode := some m, passes := some passes, runTake := some take
    takeCounter := if m = .record then take else e.takeCounter
    active := mapPlaces (fun o => o.map activeCopy) e.draft, prepared := [], layWait := none } }
  let target := locateTarget s1
  let s2 := { s1 with eng := { s1.eng with locate := target } }
  match pendingEntry s2 0 with
  | none => s2
  | some entry =>
    if entry.lay then
      setEng .waiting (nameSource entry.source { s2 with eng := { s2.eng with layWait := some 3 } })
    else if s2.tl.mode = .play ∧ s2.tl.state = .locked ∧ s2.tl.position < target then setEng .waiting s2
    else setEng .armed (post .locateRequest s2.eng.run (some target) none s2)

/-- A start request (R135): from a port with an expected version, or from a cue or a punch input with the current one. -/
def startProgram (m : RunMode) (passes : Nat) (version : Option Nat) (s : State) : State × Result :=
  if s.eng.state.resting = false ∨ punchOpen s = true then (s, .busy)
  else if (match m with
      | .rehearse => decide (1 ≤ passes ∧ passes ≤ 15)
      | .record => decide (passes = 1)) = false then (s, .range)
  else if version.any (fun v => v != s.eng.version) then (s, .stale)
  else if programCheck m s = false then (s, .range)
  else if draftLays s = true ∧ s.tl.mode ≠ .play then (s, .state)
  else (acceptStart m passes s, .accepted)

/-- START PROGRAM; the reply carries the new run number, the mode and the run's take (R135). -/
def startBody (mode : Byte) (passes version : Nat) (s : State) : State × Reply :=
  match named runModes mode with
  | none => (s, refuse .range)
  | some m =>
    let r := startProgram m passes (some version) s
    (r.1, if r.2 = .accepted then
      ⟨.accepted, be 1 r.1.eng.run ++ be 1 (codeIn runModes m) ++ be 1 (r.1.eng.runTake.getD 0)⟩ else refuse r.2)

def execStartProgram (p : Port) (mode passes : Byte) (version : BitVec 16) (s : State) : Res :=
  .next (command p 0x53 true (startBody mode passes.toNat version.toNat) s)

/-! ### Stopping a program (R151, R152) -/

/-- What a stop does to the entries that have not started: they are SKIPPED, what was prepared is dropped with its bank, ANALOG is
named, and a lay that has begun ends (R141, R151, R152, R157). -/
def dropProgram (s : State) : State :=
  let s1 := skipPending s
  endLay (nameSource .analog (spendAny { s1 with eng := { s1.eng with prepared := [], layWait := none } }))

/-- The open punch or the ACTIVE entry ends BROKEN at a stop: the gate is cut with cause STOP, and the splice's operations are
abandoned (R151, R156). -/
def stopSplice (s : State) : State :=
  let out := cutPoint s
  let tag := s.eng.splice.map (·.tag)
  let s1 := abandonOps (fun op => op.tag.isSome && op.tag == tag) (cutGate .stop s)
  endSplice .broken none out false s1

/-- STOP PROGRAM NOW (R151). -/
def stopNow (s : State) : State × Result :=
  if punchOpen s then (stopSplice s, .done)
  else match s.eng.state with
    | .idle | .done | .aborted => (s, .state)
    | .armed | .waiting | .held => (setEng .aborted (dropProgram s), .done)
    | .splicing | .finishing => (setEng .aborted (dropProgram (stopSplice s)), .done)

/-- Entries not yet started are dropped while the ACTIVE entry runs on: a bank made PLAYING for a prepared entry becomes SPENT, and
ANALOG is named when a prepared entry had named its source (R152; log entry 40). -/
def dropAhead (s : State) : State :=
  let s1 := skipPending s
  let s2 := if s1.eng.bankFor ≠ s1.eng.splice.map (·.tag) then spendAny s1 else s1
  let s3 := if s2.eng.prepared = [] then s2 else nameSource .analog s2
  { s3 with eng := { s3.eng with prepared := [], layWait := none } }

/-- STOP PROGRAM AT END (R152). -/
def stopAtEnd (s : State) : State × Result :=
  if punchOpen s then (requestFinal s, .accepted)
  else match s.eng.state with
    | .idle | .done | .aborted => (s, .state)
    | .armed | .waiting | .held => (setEng .done (dropProgram s), .done)
    | .splicing => (setEng .finishing (dropAhead s), .accepted)
    | .finishing => (s, .done)

/-- The reply of a command that answers with a bare result code. -/
def bare (r : State × Result) : State × Reply := (r.1, refuse r.2)

def execStopProgramNow (p : Port) (s : State) : Res := .next (command p 0x54 true (fun t => bare (stopNow t)) s)

def execStopProgramAtEnd (p : Port) (s : State) : Res := .next (command p 0x54 true (fun t => bare (stopAtEnd t)) s)

/-! ### The manual punch (R155, R156) -/

/-- Outcome and reason of a refused schedule request (R144). -/
def scheduleOutcome : ScheduleRefusal → Outcome × Option Reason
  | .clock => (.refused, some .clock)
  | .transport => (.broken, none)
  | .lock => (.lostLock, none)
  | .busy => (.broken, none)

/-- RECORD_REFUSED for a schedule refused with cause CLOCK (R144). -/
def postScheduleRefusal (c : ScheduleRefusal) (addr : Option Nat) (s : State) : State :=
  match c with
  | .clock => post .recordRefused 4 addr none s
  | _ => s

/-- A punch whose source is FLY asks for a bank at once, without a fly start; with none, or with a rate mismatch, the schedule is
withdrawn and the punch ends (R142, R155; log entry 35). -/
def punchBank (tag : SpliceTag) (s : State) : State :=
  let (a, s1) := askBank { s with intake := { s.intake with flyStart := none } }
  match a with
  | .granted _ => { s1 with eng := { s1.eng with bankFor := some tag } }
  | .unavailable => endSplice .starved none none true (post .flyStarved 2 none none (withdraw tag s1))
  | .mismatch => endSplice .refused (some .rate) none true (post .recordRefused 3 none none (withdraw tag s1))

/-- An accepted punch-in (R137, R155). -/
def openPunch (s : State) : State :=
  let take := nextTake s
  let fade := min s.manual.fade (2 * framePairs s.clock.rate)
  let sp : Splice :=
    { tag := .manual take, index := none, rehearse := false, lay := false, notify := true, source := s.manual.source,
      method := .insert, inFrame := none, timecode := none, start := none, outPoint := none, span := none, fadeIn := fade,
      fadeOut := fade, late := false, take := take, actualIn := none, final := none, early := none, reason := none,
      mark := none, faults := 0, reworked := 0, finalReq := false, entered := none }
  let s1 := nameSource s.manual.source { s with eng := { s.eng with takeCounter := take, splice := some sp, prepared := [] } }
  match schedule sp.tag none s1 with
  | (some c, s2) =>
    endSplice (scheduleOutcome c).1 (scheduleOutcome c).2 none true (postScheduleRefusal c none s2)
  | (none, s2) => if s.manual.source = .fly then punchBank sp.tag s2 else s2

/-- PUNCH IN, or a punch-in action (R155). -/
def punchIn (s : State) : State × Result :=
  if s.eng.state.resting = false ∨ punchOpen s = true then (s, .busy)
  else if s.tl.mode ≠ .play ∨ s.tl.state ≠ .locked ∨ s.clock.lost = true then (s, .state)
  else (openPunch s, .accepted)

/-- PUNCH OUT, or a punch-out action (R156). -/
def punchOut (s : State) : State × Result := if punchOpen s then (requestFinal s, .accepted) else (s, .state)

/-- A toggle is a punch-out when a punch is open, and a punch-in otherwise (R168, R172). -/
def punchToggle (s : State) : State × Result := if punchOpen s then punchOut s else punchIn s

def execPunchIn (p : Port) (s : State) : Res := .next (command p 0x55 true (fun t => bare (punchIn t)) s)

def execPunchOut (p : Port) (s : State) : Res := .next (command p 0x56 true (fun t => bare (punchOut t)) s)

/-! ### Queries, results, Preroll (R139, R160, R161) -/

/-- The next event address (R139). -/
def nextEvent (s : State) : Option Nat :=
  match s.eng.state with
  | .armed => some s.eng.locate
  | .waiting | .held => (firstPending s).map fun x => x.2.inPoint.addr
  | .splicing | .finishing => s.eng.splice.bind fun sp => sp.outPoint.map (·.addr)
  | .idle | .done | .aborted => none

def programBytes (s : State) : List Byte :=
  let e := s.eng
  be 1 (engSubject e.state) ++ be 2 e.version ++ be 1 e.run ++ optBytes 1 (e.mode.map fun m => be 1 (codeIn runModes m))
    ++ be 1 e.pass ++ optBytes 1 (e.passes.map (be 1)) ++ be 1 e.takeCounter ++ optBytes 1 (e.runTake.map (be 1))
    ++ flagByte (punchOpen s) ++ be 2 e.preroll ++ be 1 e.results.length ++ be 2 e.resultsLost
    ++ optBytes 3 ((nextEvent s).map addrBytes)

/-- QUERY PROGRAM (R139). -/
def execQueryProgram (p : Port) (s : State) : Res := .next (command p 0x57 true (fun t => (t, ⟨.done, programBytes t⟩)) s)

/-- A result entry in the order of R159. -/
def resultBytes (r : SpliceResult) : List Byte :=
  be 1 r.tag.index ++ be 1 r.run ++ be 1 r.pass ++ flagByte r.rehearse ++ be 1 (codeIn outcomes r.outcome)
    ++ optBytes 1 (r.reason.map fun x => be 1 (codeIn reasons x)) ++ optBytes 5 (r.actualIn.map pointBytes)
    ++ optBytes 5 (r.actualOut.map pointBytes) ++ flagByte r.late ++ be 1 r.take ++ optBytes 2 (r.mark.map markBytes)
    ++ be 1 r.faults ++ be 1 r.reworked

/-- READ RESULT (R160). -/
def readResultBody (n : Nat) (s : State) : State × Reply :=
  match s.eng.results[n]? with
  | none => (s, refuse .range)
  | some r => (s, ⟨.done, resultBytes r ++ be 1 s.eng.results.length ++ be 2 s.eng.resultsLost⟩)

def execReadResult (p : Port) (position : Byte) (s : State) : Res :=
  .next (command p 0x58 true (readResultBody position.toNat) s)

/-- CLEAR RESULTS (R160). -/
def execClearResults (p : Port) (s : State) : Res :=
  .next (command p 0x59 true (fun t => ({ t with eng := { t.eng with results := [], resultsLost := 0 } }, done)) s)

/-- SET PREROLL (R161). -/
def execSetPreroll (p : Port) (preroll : BitVec 16) (s : State) : Res :=
  .next (command p 0x5A true (setting (decide (30 ≤ preroll.toNat ∧ preroll.toNat ≤ 300)) fun t =>
    { t with eng := { t.eng with preroll := preroll.toNat } }) s)

end Sys2Proof.Machine
end

