-- ==== Sys2Proof/Machine/Timeline.lean ====
section
/-! DEFINITION. The Timeline Unit: closes, coasting, mode changes, laying, and what a change of state does to the other blocks (R9 to
R19). -/

namespace Sys2Proof.Machine

/-! ### Closes (R12, R13, R16) -/

/-- Coast count 0, no lock: what an extrapolation off the tape, or a coast beyond the Coast Limit, leaves (R13, R14, R16). -/
def Timeline.unlock (t : Timeline) : Timeline := { t with state := .unlocked, coast := 0, candidate := none, run := 0 }

/-- The position and timecode extrapolated across a close without a valid header; none when that leaves the tape (R13, R16). -/
def Timeline.extrapolate (t : Timeline) : Option Timeline :=
  match t.mode with
  | .play =>
    if legalAddr (t.position + 1) then some { t with position := t.position + 1, timecode := t.timecode.map Timecode.next }
    else none
  | .shuttle =>
    match t.dir with
    | .forward =>
      if legalAddr (t.position + t.speed) then some { t with position := t.position + t.speed, timecode := none } else none
    | .reverse =>
      if t.speed ≤ t.position then some { t with position := t.position - t.speed, timecode := none } else none
  | _ => some t

/-- The response to a close without a valid header, a mark timeout or a shuttle timer expiry (R12 to R16). -/
def Timeline.coastOn (t : Timeline) : Timeline :=
  match t.state with
  | .locked => match t.extrapolate with
    | some u => { u with state := .coasting, coast := 1 }
    | none => t.unlock
  | .coasting =>
    if t.coastLimit < t.coast + 1 then t.unlock
    else match t.extrapolate with
      | some u => { u with coast := t.coast + 1 }
      | none => t.unlock
  | .acquiring => t.unlock
  | _ => t

/-- Whether address `a` is expected after `ref` (R12). -/
def expectedAfter (mode : Mode) (dir : Dir) (ref a : Nat) : Bool :=
  match mode, dir with
  | .jog, .forward => a == ref || a == ref + 1
  | .jog, .reverse => a == ref || a + 1 == ref
  | _, _ => a == ref + 1

/-- A close with a valid header of address `a` in PLAY or JOG (R12, R13). -/
def Timeline.closeHeaded (t : Timeline) (h : Header) (a : Nat) : Timeline :=
  let t1 := { t with tapeRate := some h.rate }
  let restart := { t1 with state := .acquiring, candidate := some a, run := 1, coast := 0 }
  let lockAt := { t1 with state := .locked, position := a, timecode := h.tc, coast := 0, candidate := none, run := 0 }
  match t.state with
  | .unlocked => restart
  | .acquiring =>
    if expectedAfter t.mode t.dir (t.candidate.getD t.position) a then
      if 3 ≤ t.run + 1 then lockAt else { t1 with candidate := some a, run := t.run + 1 }
    else restart
  | .locked | .coasting => if expectedAfter t.mode t.dir t.position a then lockAt else restart
  | .parked | .laying => t

/-- A close with a valid header in SHUTTLE is taken at its word (R16). -/
def Timeline.shuttleHeaded (t : Timeline) (h : Header) (a : Nat) : Timeline :=
  { t with state := .locked, position := a, coast := 0, candidate := none, run := 0, timecode := h.tc, tapeRate := some h.rate }

/-- The timeline after the close of a PRE-READ frame, with its decoded header or none (R12, R13, R16, R17). -/
def Timeline.afterClose (t : Timeline) (valid : Option Header) : Timeline :=
  match t.mode, valid.bind fun h => h.addr.map fun a => (h, a) with
  | .play, some (h, a) | .jog, some (h, a) => t.closeHeaded h a
  | .shuttle, some (h, a) => t.shuttleHeaded h a
  | .play, none | .jog, none => if t.state = .laying then t else t.coastOn
  | _, _ => t

/-! ### What a change hands to the other blocks (R18, R34) -/

/-- The timeline takes a new record: LOCK_CHANGE at each entry to and exit from LOCKED; at a lock loss the engine breaks and an open
gate is cut; at an entry to LOCKED the engine may go on; and the jog window follows (R18, R34, R104, R138, R149, R150). -/
def timelineSet (t : Timeline) (s : State) : State :=
  let old := s.tl.state
  let entered := t.state == .locked && old != .locked
  let exited := old == .locked && t.state != .locked
  let s1 := { s with tl := t }
  let s2 := if entered then post .lockChange 1 (some t.position) none s1
            else if exited then post .lockChange 0 (some t.position) none s1 else s1
  let s3 := if old.hasLock && !t.state.hasLock then cutGate .lock (engineBreak s2) else s2
  jogSync (if entered then engineGain s3 else s3)

/-- The close of a PRE-READ frame reaches the timeline (R61). -/
def timelineClose (valid : Option Header) (s : State) : State := timelineSet (s.tl.afterClose valid) s

/-! ### Timers (R15, R16, R17; log entry 2) -/

/-- MARK_TIMEOUT: it runs in PLAY; a LAYING timeline goes to UNLOCKED (R15, R17). -/
def markTimeout (s : State) : State :=
  if s.tl.mode ≠ .play then s
  else if s.tl.state = .laying then
    timelineSet { s.tl.unlock with generated := none, handed := none } s
  else timelineSet s.tl.coastOn s

def execMarkTimeout (s : State) : Res := .next (markTimeout s)

/-- SHUTTLE_TIMER_EXPIRY: it runs in SHUTTLE (R16). -/
def shuttleExpiry (s : State) : State := if s.tl.mode ≠ .shuttle then s else timelineSet s.tl.coastOn s

def execShuttleTimerExpiry (s : State) : Res := .next (shuttleExpiry s)

/-! ### Commands (R9, R14, R19) -/

/-- SET COAST LIMIT (R14). -/
def coastLimitBody (limit : Nat) (s : State) : State × Reply :=
  if limit < 1 ∨ 30 < limit then (s, refuse .range)
  else
    let t := { s.tl with coastLimit := limit }
    (timelineSet (if t.state = .coasting ∧ limit < t.coast then t.unlock else t) s, done)

def execSetCoastLimit (p : Port) (limit : Byte) (s : State) : Res :=
  .next (command p 0x12 true (coastLimitBody limit.toNat) s)

/-- SET HEAD GEOMETRY (R9): RANGE, then STATE, an order that is the model's (log entry 57). -/
def geometryBody (d c : Nat) (s : State) : State × Reply :=
  if d < 2 ∨ 6 < d ∨ c < 1 ∨ 4 < c then (s, refuse .range)
  else if s.eng.state.resting = false ∨ s.gate.state ≠ .closed then (s, refuse .state)
  else ({ s with geo := ⟨d, c⟩ }, done)

def execSetHeadGeometry (p : Port) (d c : Byte) (s : State) : Res :=
  .next (command p 0x34 true (geometryBody d.toNat c.toNat) s)

/-- The timeline record as QUERY TIMELINE gives it (R19). -/
def timelineBytes (s : State) : List Byte :=
  let t := s.tl
  be 1 (codeIn tlStates t.state) ++ addrBytes t.position ++ optBytes 4 (t.timecode.map tcBytes)
    ++ optBytes 1 (t.tapeRate.map fun r => be 1 (codeIn rates r)) ++ be 1 t.coast ++ optBytes 3 (t.candidate.map addrBytes)
    ++ be 1 t.run ++ optBytes 3 (t.generated.map addrBytes) ++ be 1 t.coastLimit ++ be 1 (codeIn modes t.mode)
    ++ be 1 (codeIn dirs t.dir) ++ be 1 t.ratio ++ be 1 t.speed ++ flagByte (rateDiffers s)

def execQueryTimeline (p : Port) (s : State) : Res := .next (command p 0x11 true (fun t => (t, ⟨.done, timelineBytes t⟩)) s)

/-! ### Laying (R17, R157) -/

/-- At a mark: the engine counts the marks after the START of a lay, and at the third asks the timeline to enter LAYING at the lay
entry's in-point; the entry is then prepared to start there (R17, R157). -/
def layTick (s : State) : State :=
  match s.eng.layWait with
  | none => s
  | some n =>
    if 1 < n then { s with eng := { s.eng with layWait := some (n - 1) } }
    else
      let s1 := { s with eng := { s.eng with layWait := none } }
      match pendingEntry s1 0 with
      | none => s1
      | some e =>
        if s1.tl.mode ≠ .play then s1
        else
          let t := { s1.tl with state := .laying, coast := 0, run := 0, candidate := none, timecode := none,
                                generated := some e.inPoint.addr, handed := none }
          let prep : Prepared :=
            ⟨0, e.inPoint, false, spanOf (framePairs s1.clock.rate) e.inPoint e.outPoint, e.fadeIn, e.fadeOut, true⟩
          timelineSet t { s1 with eng := { s1.eng with prepared := [prep] } }

/-! ### Reckoning (R8, R17) -/

/-- The write frame of a mark reckoned LOCKED or COASTING at position Q: W = Q + 2 − D, and none below 0 (R8). -/
def reckonedWrite (q d : Nat) : Option Nat := if d ≤ q + 2 then some (q + 2 - d) else none

/-- The write frame offered for coding at such a mark: W + 1 = Q + 3 − D (R8; log entry 21). -/
def reckonedOffer (q d : Nat) : Option Nat :=
  if d ≤ q + 3 ∧ legalAddr (q + 3 - d) = true then some (q + 3 - d) else none

/-- The confidence head at such a mark: W − C, and none below 0 (R8). -/
def reckonedConf (q d c : Nat) : Option Nat := if d + c ≤ q + 2 then some (q + 2 - (d + c)) else none

/-- The frame `c` frames before another, and none before the first frame of the tape (R8). -/
def framesBefore (c : Nat) (w : Nat) : Option Nat := if c ≤ w then some (w - c) else none

/-- The frame the confidence head has left: W − C − 1 at a reckoned mark (R8). -/
def Timeline.confLeft (t : Timeline) : Option Nat := t.confHead.bind (framesBefore 1)

/-- The timeline with no head over a known frame and no frame offered (R8). -/
def Timeline.unreckoned (t : Timeline) : Timeline := { t with head := none, confHead := none, offered := none }

/-- At a mark in LAYING the write head enters the frame offered before, and the confidence head that address minus C (R8, R17). -/
def Timeline.layHeads (t : Timeline) (c : Nat) : Timeline :=
  { t with head := t.offered, confHead := t.offered.bind (framesBefore c) }

/-- A mark in LAYING hands the generated address `g` to coding (R17). -/
def layHand (g : Nat) (t : Timeline) (d c : Nat) : Timeline :=
  { t.layHeads c with
    offered := some g, handed := some g, generated := some (g + 1),
    position := if legalAddr (g + d - 2) then g + d - 2 else t.position }

/-- The heads at a mark in PLAY; no other mark is reckoned (R8, R17).  At a LAYING mark with no address left to hand, the head first
enters the frame offered before, which completes the write of the frame it leaves, and the lock loss cuts the gate after that, in LAST
too: such a splice ends LOST_LOCK and not DONE (log entry 56). -/
def reckon (s : State) : State :=
  if s.tl.mode ≠ .play then { s with tl := s.tl.unreckoned }
  else match s.tl.state with
    | .locked | .coasting =>
      { s with tl := { s.tl with
          head := reckonedWrite s.tl.position s.geo.d
          confHead := reckonedConf s.tl.position s.geo.d s.geo.c
          offered := reckonedOffer s.tl.position s.geo.d } }
    | .laying =>
      let g := s.tl.generated.getD Config.addrCount
      if legalAddr g then { s with tl := layHand g s.tl s.geo.d s.geo.c }
      else
        timelineSet { (s.tl.layHeads s.geo.c).unlock with offered := none, generated := none, handed := none }
          (cutGate .lock (endWrite s))
    | _ => { s with tl := s.tl.unreckoned }

end Sys2Proof.Machine
end

