-- ==== Sys2Proof/Machine/Capture.lean ====
section
/-! DEFINITION. The capture channels: frames in assembly, sector arrivals, and the four stages of a close operation (R47 to R60, R63). -/

namespace Sys2Proof.Machine

/-! ### Frames in assembly (R47 to R50) -/

def chanRole : HeadStream → Role
  | .preRead => .preRead
  | .confidence => .confidence

/-- A counter of a channel's statistics changes (R63). -/
def countCapture (ch : HeadStream) (f : CaptureStats → CaptureStats) (s : State) : State :=
  setCapture ch { capture s ch with stats := f (capture s ch).stats } s

/-- `n` more failed sectors (R51, R63). -/
def CaptureStats.addFailed (n : Nat) (x : CaptureStats) : CaptureStats := { x with failed := saturate counterMax (x.failed + n) }

def setAssembly (ch : HeadStream) (f : Option CaptureFrame) (s : State) : State :=
  setCapture ch { capture s ch with assembly := f } s

def setSlotAddr (o : Option SlotId) (a : Option Nat) (s : State) : State :=
  match o with
  | none => s
  | some i => modifySlot i (fun x => { x with addr := a }) s

/-- A frame in assembly begins, with its request for a slot; at a frame change it begins with the arriving address (R48, R49,
R50, R53). -/
def beginFrame (ch : HeadStream) (addr : Option Nat) (s : State) : State :=
  let (o, s1) := allocate (chanRole ch) addr s
  setAssembly ch (some ⟨addr, o, noEntries, [], []⟩) (setSlotAddr o addr s1)

/-- A close event: the frame in assembly joins the close list, and the next frame begins (R49, R53). -/
def closeEvent (ch : HeadStream) (byMark : Bool) (designated : Nat) (addr : Option Nat) (s : State) : State :=
  let c := capture s ch
  match c.assembly with
  | none => s
  | some f =>
    beginFrame ch addr
      (setCapture ch { c with assembly := none, closing := c.closing ++ [⟨f, byMark, s.tl.mode, s.tl.dir, designated⟩] } s)

/-- A reading mode is posted while the channel is IDLE (R48). -/
def startReading (ch : HeadStream) (s : State) : State :=
  if channelState (capture s ch) = .idle ∧ reading s.tl.mode = true then beginFrame ch none s else s

/-- DECODED CONFIDENCE slots (R30). -/
def decodedSlots (s : State) : List SlotId :=
  slotIds.filter fun i => s.slots[i].state == .decoded && s.slots[i].role == some .confidence

/-- On entering IDLE the reference header becomes absent and the headless run 0 (R48); the CONFIDENCE channel's last DECODED slot is
then given back (R30). -/
def enterIdle (ch : HeadStream) (s : State) : State :=
  if channelState (capture s ch) = .idle then
    let s1 := setCapture ch { capture s ch with reference := none, headless := 0 } s
    match ch with
    | .preRead => s1
    | .confidence => releaseAll (decodedSlots s1) s1
  else s

/-- STOP or SPOOL is posted: the frame in assembly is abandoned (R48). -/
def stopReading (ch : HeadStream) (s : State) : State :=
  if reading s.tl.mode then s
  else
    let o := (capture s ch).assembly.bind (·.slot)
    enterIdle ch (abandonSlot o (setAssembly ch none s))

/-! ### Sector arrivals (R50 to R54) -/

/-- Store a sector's words at its places: data sectors in the slot, parity sectors in the channel's parity store (R54). -/
def storeSector (ch : HeadStream) (f : CaptureFrame) (k : Nat) (x : SectorEntry) (words : List Sample) (s : State) : State :=
  let f1 := { f with entries := setEntry f.entries k x }
  let mem := Memory.place 0 words
  if k = 8 then setAssembly ch (some { f1 with p := mem }) s
  else if k = 9 then setAssembly ch (some { f1 with q := mem }) s
  else
    let s1 := setAssembly ch (some f1) s
    match f.slot with
    | none => s1
    | some i => modifySlot i (fun y => { y with audio := y.audio.splice (400 * k) words }) s1

/-- A sector whose check passes is stored, unless a good copy stands already (R52). -/
def storeGood (ch : HeadStream) (f : CaptureFrame) (k : Nat) (h : Header) (words : List Sample) (s : State) : State :=
  match entryAt f.entries k with
  | .good _ | .rebuilt => setAssembly ch (some f) s
  | _ => storeSector ch f k (.good h) words s

/-- A failed arrival (R50, R51): `number` is the sector's number when its identity is good. -/
def failedArrival (ch : HeadStream) (f : CaptureFrame) (number : Option Nat) (words : List Sample) (s : State) : State :=
  let s1 := countCapture ch (CaptureStats.addFailed 1) s
  match f.slot, number with
  | some _, some k =>
    match entryAt f.entries k with
    | .missing => storeSector ch f k .failed words s1
    | _ => s1
  | _, _ => s1

/-- A passing sector that belongs to the frame in assembly, whose address is now known (R50, R52). -/
def placeGood (ch : HeadStream) (f : CaptureFrame) (k a : Nat) (h : Header) (words : List Sample) (s : State) : State :=
  let f1 := { f with addr := some a }
  let s1 := setSlotAddr f.slot (some a) s
  match f.slot with
  | some _ => storeGood ch f1 k h words s1
  | none => countCapture ch (CaptureStats.addFailed 1) (setAssembly ch (some f1) s1)

/-- A sector whose check passes, with address `a` (R52, R53). -/
def goodArrival (ch : HeadStream) (f : CaptureFrame) (k a : Nat) (h : Header) (words : List Sample) (s : State) : State :=
  match f.addr with
  | none => placeGood ch f k a h words s
  | some b =>
    if b = a then placeGood ch f k a h words s
    else
      let s1 := closeEvent ch false 0 (some a) s
      match (capture s1 ch).assembly with
      | some g => placeGood ch g k a h words s1
      | none => s1

/-- A sector arrives on a head stream (R48, R51, R52). -/
def arrive (ch : HeadStream) (bytes : List Byte) (s : State) : State :=
  match (capture s ch).assembly with
  | none => s
  | some f =>
    let x := readSector bytes
    match x.number, x.header with
    | some k, some h => match h.addr with
      | some a => goodArrival ch f k a h x.words s
      | none => s
    | n, _ => failedArrival ch f n x.words s

/-! ### The stages of a close (R55 to R60) -/

/-- An address moved in the direction of travel at the close event; none when it falls off the tape (R59). -/
def travelAddr (m : Mode) (d : Dir) (a : Nat) : Option Nat :=
  match m, d with
  | .jog, _ => some a
  | .shuttle, .reverse => if a = 0 then none else some (a - 1)
  | _, _ => if legalAddr (a + 1) then some (a + 1) else none

def travelTimecode (m : Mode) (d : Dir) (t : Timecode) : Timecode :=
  match m, d with
  | .jog, _ => t
  | .shuttle, .reverse => t.prev
  | _, _ => t.next

/-- The header a headless or absent frame inherits, with `run` the headless run it makes (R59). -/
def inherited (s : State) (c : Capture) (cf : ClosingFrame) (run : Nat) : Header :=
  let base : Header := match c.reference with
    | none => { addr := none, tc := none, rate := s.clock.rate, mark := .never, take := 0, splice := .none, rework := false }
    | some r => { r with addr := r.addr.bind (travelAddr cf.mode cf.dir), tc := r.tc.map (travelTimecode cf.mode cf.dir) }
  if s.tl.coastLimit < run then { base with mark := .never, tc := none } else base

/-- What the four stages of a close make of a frame with a slot (R55 to R60). -/
structure Closed where
  audio : Memory
  bad : Stereo (List Nat)
  header : Header
  valid : Bool
  setAside : Nat
  rebuilt : Nat
  unreached : Nat
  deriving DecidableEq, Repr

/-- The close operation on a frame with a slot holding `audio` (R55 to R60). -/
def closeStages (s : State) (c : Capture) (cf : ClosingFrame) (audio : Memory) : Closed :=
  let e0 := cf.frame.entries
  let e1 := setAside e0
  let recovered := recover e1 audio cf.frame.p cf.frame.q
  let (m, e2) := applyRebuild recovered audio e1
  let h := (chosenHeader e2).getD (inherited s c cf (saturate 31 (c.headless + 1)))
  let r := s.clock.rate
  let whole := List.range (framePairs r)
  let bad : Stereo (List Nat) :=
    if h.rate = r then ⟨badPositions e2 r .left, badPositions e2 r .right⟩ else ⟨whole, whole⟩
  { audio := m, bad := bad, header := h, valid := (chosenHeader e2).isSome,
    setAside := ((List.range 10).filter fun k => (entryAt e0 k).isGood && !(entryAt e1 k).isGood).length,
    rebuilt := recovered.length,
    unreached := (e0.toList.filter (· == .missing)).length }

/-- Counters a close adds to (R63). -/
def CaptureStats.closeSlot (x : CaptureStats) (d : Closed) : CaptureStats :=
  { closed := saturate counterMax (x.closed + 1)
    failed := saturate counterMax (x.failed + d.setAside + d.unreached)
    rebuilt := saturate counterMax (x.rebuilt + d.rebuilt)
    unrecoverable := saturate counterMax (x.unrecoverable + if d.bad.left = [] ∧ d.bad.right = [] then 0 else 1)
    mixed := saturate counterMax (x.mixed + if d.setAside = 0 then 0 else 1) }

/-- Counters the close of an absent frame adds to (R63). -/
def CaptureStats.closeAbsent (x : CaptureStats) : CaptureStats :=
  { x with closed := saturate counterMax (x.closed + 1), unrecoverable := saturate counterMax (x.unrecoverable + 1) }

/-- The slot takes what the close found (R57, R58, R59, R60). -/
def Slot.closed (x : Slot) (d : Closed) (r : Rate) : Slot :=
  { x with audio := d.audio, bad := d.bad, header := some d.header, inherited := !d.valid, addr := d.header.addr, layout := r }

/-- The channel after a close with a slot: the reference header, the headless run and the statistics; the frame leaves the list
(R49, R58, R59, R63). -/
def Capture.closedSlot (c : Capture) (d : Closed) : Capture :=
  { c with closing := c.closing.drop 1, reference := some d.header,
           headless := if d.valid then 0 else saturate 31 (c.headless + 1), stats := c.stats.closeSlot d }

/-- The channel after the close of an absent frame (R50, R59, R63). -/
def Capture.closedAbsent (c : Capture) (h : Header) : Capture :=
  { c with closing := c.closing.drop 1, reference := some h, headless := saturate 31 (c.headless + 1),
           stats := c.stats.closeAbsent }

end Sys2Proof.Machine
end

