-- ==== Sys2Proof/Machine/Concealment.lean ====
section
/-! DEFINITION. The Concealment Unit: bridging, holding, fading, muting and recovering, one position at a time, and the operations on
the concealment list (R66 to R77). -/

namespace Sys2Proof.Machine

/-! ### Gains (R69, R72, R74) -/

/-- A value times a gain, rounded toward zero (R69, R72, R74). -/
def scale (v : Sample) (g : Frac) : Sample := BitVec.ofInt 20 (Int.tdiv (v.toInt * g.num) g.den)

/-- Position i of n, counted from 1, on the line from `a` to `b`, rounded toward zero (R69). -/
def interpolate (a b : Sample) (n i : Nat) : Sample :=
  BitVec.ofInt 20 (a.toInt + Int.tdiv ((b.toInt - a.toInt) * i) (n + 1))

/-- The gain of step k of a fade-out (R72). -/
def fadeOutGain (f : Fade) : Frac := ⟨f.start.num * (f.length - f.step), f.start.den * (f.length + 1)⟩

/-- The gain of step k of a fade-in (R74). -/
def fadeInGain (f : Fade) : Frac := ⟨f.step + 1, f.length + 1⟩

def unity : Frac := ⟨1, 1⟩
def zeroGain : Frac := ⟨0, 1⟩

/-! ### One position -/

/-- What taking one position gives: the record after it, the output, whether it was bridged or taken in a state other than CLEAN,
whether it was taken in MUTED or RECOVERING, and the DROPOUT notices it posts (R75). -/
structure Taken where
  rec' : ConcealRec
  out : Sample
  touched : Bool
  muted : Bool
  notices : Nat
  deriving DecidableEq, Repr

/-- Entry to MUTED (R72). -/
def enterMuted (r : ConcealRec) : ConcealRec :=
  { r with state := .muted, gain := zeroGain, fade := none, mutes := saturate counterMax (r.mutes + 1) }

/-- One step of a fade-out on a value (R72). -/
def fadeOutStep (r : ConcealRec) (f : Fade) (v : Sample) : Taken :=
  let g := fadeOutGain f
  let r1 := { r with gain := g, fade := some { f with step := f.step + 1 } }
  if f.length ≤ f.step + 1 then ⟨enterMuted r1, scale v g, true, false, 1⟩ else ⟨r1, scale v g, true, false, 0⟩

/-- Entry to FADING_OUT at a bad position, which is taken as the first step; from a start gain of 0 the channel is MUTED at once
(R72). -/
def beginFadeOut (P : ConcealParams) (r : ConcealRec) (g : Frac) : Taken :=
  if g.num = 0 then ⟨enterMuted r, 0, true, true, 1⟩
  else
    let f : Fade := ⟨g, P.fade, 0⟩
    fadeOutStep { r with state := .fadingOut, fade := some f, gain := g } f r.lastGood

/-- One step of a fade-in on a value (R74). -/
def fadeInStep (r : ConcealRec) (f : Fade) (v : Sample) : Taken :=
  let g := fadeInGain f
  if f.length ≤ f.step + 1 then ⟨{ r with state := .clean, gain := unity, fade := none }, scale v g, true, false, 0⟩
  else ⟨{ r with gain := g, fade := some { f with step := f.step + 1 } }, scale v g, true, false, 0⟩

/-- A good position in MUTED or RECOVERING; the count reaching the Recover Count enters FADING_IN (R73, R74). -/
def recoverStep (P : ConcealParams) (r : ConcealRec) (count : Nat) : Taken :=
  if P.recover ≤ count then
    ⟨{ r with state := .fadingIn, recover := count, gain := zeroGain, fade := some ⟨zeroGain, P.fade, 0⟩ }, 0, true, true, 1⟩
  else ⟨{ r with state := .recovering, recover := count, gain := zeroGain }, 0, true, true, 0⟩

/-- A fade that a fading state always has. -/
def fadeOf (P : ConcealParams) (r : ConcealRec) : Fade := r.fade.getD ⟨unity, P.fade, 0⟩

/-- A good position of value `v` (R70 to R74).  Where it leaves HOLDING, hold remaining becomes 0 (log entry 62). -/
def takeGood (P : ConcealParams) (r0 : ConcealRec) (v : Sample) : Taken :=
  let r := { r0 with lastGood := v }
  match r.state with
  | .clean => ⟨{ r with gain := unity }, v, false, false, 0⟩
  | .holding => ⟨{ r with state := .clean, gain := unity, hold := 0 }, v, false, false, 0⟩
  | .fadingOut => fadeOutStep r (fadeOf P r) v
  | .muted => recoverStep P r 1
  | .recovering => recoverStep P r (saturate 64 (r.recover + 1))
  | .fadingIn => fadeInStep r (fadeOf P r) v

/-- One more long run (R70, R74, R77). -/
def addLong (r : ConcealRec) : ConcealRec := { r with longRuns := saturate counterMax (r.longRuns + 1) }

/-- A bad position that is not bridged (R70 to R74). -/
def takeBad (P : ConcealParams) (r : ConcealRec) : Taken :=
  match r.state with
  | .clean =>
    if 1 ≤ P.hold then
      ⟨{ addLong r with state := .holding, hold := P.hold - 1, gain := unity }, r.lastGood, true, false, 0⟩
    else beginFadeOut P (addLong r) unity
  | .holding =>
    if 1 ≤ r.hold then ⟨{ r with hold := r.hold - 1, gain := unity }, r.lastGood, true, false, 0⟩
    else beginFadeOut P r unity
  | .fadingOut => fadeOutStep r (fadeOf P r) r.lastGood
  | .muted => ⟨r, 0, true, true, 0⟩
  | .recovering => ⟨{ r with recover := 0 }, 0, true, true, 0⟩
  | .fadingIn => beginFadeOut P (addLong r) (if (fadeOf P r).step = 0 then zeroGain else r.gain)

/-- A bridged position with its interpolated value (R69). -/
def takeBridged (P : ConcealParams) (r : ConcealRec) (v : Sample) : Taken :=
  match r.state with
  | .fadingIn => fadeInStep r (fadeOf P r) v
  | _ => ⟨r, v, true, false, 0⟩

/-! ### One channel of one frame (R67 to R69) -/

/-- A bridged run in progress: its neighbours, its length, and the next position counted from 1 (R69). -/
structure Bridge where
  left : Sample
  right : Sample
  length : Nat
  next : Nat
  deriving DecidableEq, Repr

/-- What has come of a channel of a frame so far (R75). -/
structure Walk where
  rec' : ConcealRec
  touched : Bool
  muted : Nat
  notices : Nat
  deriving DecidableEq, Repr

def Walk.add (w : Walk) (x : Taken) : Walk :=
  ⟨x.rec', w.touched || x.touched, w.muted + (if x.muted then 1 else 0), w.notices + x.notices⟩

/-- The bridge of the bad run that begins here, when it is bridgeable (R68): `left` is the value before it, or the carried
neighbour's at position 0; `run` is the run's length and `after` the positions behind it. -/
def bridgeAt (P : ConcealParams) (plain : Bool) (r : ConcealRec) (left : Option Sample) (run : Nat)
    (after : List (Bool × Sample)) : Option Bridge :=
  if (r.state = .clean ∨ r.state = .fadingIn) ∧ run ≤ P.bridge ∧ plain = true then
    match left, after with
    | some a, (_, b) :: _ => some ⟨a, b, run, 1⟩
    | _, _ => none
  else none

/-- Take a channel's positions in increasing order (R67).  A position is its bad flag and its value; `plain` says that the
splice mark is NONE; `left` is the good value just before, if any; `bridge` is a bridged run in progress. -/
def walkChannel (P : ConcealParams) (plain : Bool) :
    Option Sample → Option Bridge → List (Bool × Sample) → Walk → List Sample × Walk
  | _, _, [], w => ([], w)
  | _, _, (false, v) :: t, w =>
    let x := takeGood P w.rec' v
    let y := walkChannel P plain (some v) none t (w.add x)
    (x.out :: y.1, y.2)
  | left, some b, (true, _) :: t, w =>
    let x := takeBridged P w.rec' (interpolate b.left b.right b.length b.next)
    let y := walkChannel P plain left (if b.next < b.length then some { b with next := b.next + 1 } else none) t (w.add x)
    (x.out :: y.1, y.2)
  | left, none, (true, _) :: t, w =>
    let run := 1 + (t.takeWhile (·.1)).length
    match bridgeAt P plain w.rec' left run (t.dropWhile (·.1)) with
    | some b =>
      let r := { w.rec' with bridged := saturate counterMax (w.rec'.bridged + b.length) }
      let x := takeBridged P r (interpolate b.left b.right b.length 1)
      let y := walkChannel P plain left (if 1 < b.length then some { b with next := 2 } else none) t (w.add x)
      (x.out :: y.1, y.2)
    | none =>
      let x := takeBad P w.rec'
      let y := walkChannel P plain none none t (w.add x)
      (x.out :: y.1, y.2)

/-- The carried neighbour's value when it applies to a frame of this address (R68). -/
def carriedFor (r : ConcealRec) (addr : Option Nat) : Option Sample :=
  match r.carried, addr with
  | some (v, a), some b => if b = a + 1 then some v else none
  | _, _ => none

/-- The carried neighbour after a frame (R68). -/
def carryFrom (addr : Option Nat) (l : List (Bool × Sample)) : Option (Sample × Nat) :=
  match l.getLast?, addr with
  | some (false, v), some a => some (v, a)
  | _, _ => none

/-- Conceal one channel of one frame. -/
def concealChannel (P : ConcealParams) (plain : Bool) (addr : Option Nat) (r : ConcealRec) (l : List (Bool × Sample)) :
    List Sample × Walk :=
  let y := walkChannel P plain (carriedFor r addr) none l ⟨r, false, 0, 0⟩
  (y.1, { y.2 with rec' := { y.2.rec' with carried := carryFrom addr l } })

/-! ### The concealment list (R66, R67, R75) -/

/-- Begin an operation on the front of the list, with the parameters in force (R67). -/
def beginConceal (s : State) : State :=
  match s.conceal.op, s.conceal.list with
  | none, _ :: _ => { s with conceal := { s.conceal with op := some s.conceal.params } }
  | _, _ => s

/-- A closed frame joins the end of the list (R67). -/
def joinConceal (o : Option SlotId) (s : State) : State :=
  beginConceal { s with conceal := { s.conceal with list := s.conceal.list ++ [⟨o, s.clock.rate⟩] } }

/-- The reset values of a record, its statistics kept (R66). -/
def ConcealRec.restart (r : ConcealRec) : ConcealRec :=
  { ConcealRec.reset with bridged := r.bridged, longRuns := r.longRuns, mutes := r.mutes }

/-- When the PRE-READ channel is IDLE and the list is empty, each record returns to its reset values (R66). -/
def concealIdle (s : State) : State :=
  if channelState s.pre = .idle ∧ s.conceal.list = [] then
    { s with conceal := { s.conceal with left := s.conceal.left.restart, right := s.conceal.right.restart } }
  else s

/-- Post DROPOUT `n` times for a channel (R75). -/
def postDropouts (c : Chan) (addr : Option Nat) : Nat → State → State
  | 0, s => s
  | n + 1, s => postDropouts c addr n (post .dropout c.num addr none s)

/-- The positions of a channel of a slot, with their bad flags. -/
def slotPositions (x : Slot) (r : Rate) (c : Chan) : List (Bool × Sample) :=
  (List.range (framePairs r)).map fun i => ((x.bad.get c).contains i, sampleAt x.audio r c i)

/-- The positions of an absent frame: all bad (R67). -/
def absentPositions (r : Rate) : List (Bool × Sample) := List.replicate (framePairs r) (true, 0)

/-- Write a channel's values over its positions (R67). -/
def putChannel (r : Rate) (c : Chan) : Nat → List Sample → Memory → Memory
  | _, [], m => m
  | i, v :: t, m => putChannel r c (i + 1) t (m.write (placeOf r c i) v)

/-- The slot takes its concealment results and becomes CONCEALED (R26, R67, R75). -/
def Slot.concealedBy (x : Slot) (r : Rate) (l q : List Sample × Walk) : Slot :=
  { x with audio := putChannel r .right 0 q.1 (putChannel r .left 0 l.1 x.audio),
           concealed := l.2.touched || q.2.touched, muted := ⟨l.2.muted, q.2.muted⟩, state := .concealed }

/-- A concealed PRE-READ frame is one that waiting coding operations need not wait for any longer (R91). -/
def countConcealed (s : State) : State := { s with coding := s.coding.map fun op => { op with wait := op.wait - 1 } }

/-- CONCEALMENT_COMPLETE (R67, R75): the frame leaves the list and the next operation begins. -/
def concealComplete (s : State) : State :=
  match s.conceal.op, s.conceal.list with
  | some P, job :: rest =>
    let x := job.slot.map fun i => s.slots[i]
    let addr := x.bind (·.addr)
    let plain := match x with
      | some y => decide ((y.header.map (·.splice)).getD .none = .none)
      | none => false
    let positions := fun c => match x with
      | some y => slotPositions y job.rate c
      | none => absentPositions job.rate
    let l := concealChannel P plain addr s.conceal.left (positions .left)
    let q := concealChannel P plain addr s.conceal.right (positions .right)
    let s1 := { s with conceal := { s.conceal with left := l.2.rec', right := q.2.rec', list := rest, op := none } }
    let s2 := postDropouts .right addr q.2.notices (postDropouts .left addr l.2.notices s1)
    let s3 := match job.slot with
      | some i => modifySlot i (fun y => y.concealedBy job.rate l q) s2
      | none => s2
    concealIdle (beginConceal (jogSync (countConcealed s3)))
  | _, _ => s

def execConcealmentComplete (s : State) : Res := .next (concealComplete s)

/-- SET CONCEAL (R76). -/
def execSetConceal (p : Port) (bridge hold : Byte) (fade : BitVec 16) (recover : Byte) (s : State) : Res :=
  .next (command p 0x32 true (setting
    (decide (1 ≤ bridge.toNat ∧ bridge.toNat ≤ 16 ∧ hold.toNat ≤ 64 ∧ 16 ≤ fade.toNat ∧ fade.toNat ≤ 1024
      ∧ 1 ≤ recover.toNat ∧ recover.toNat ≤ 64))
    fun t => { t with conceal := { t.conceal with params := ⟨bridge.toNat, hold.toNat, fade.toNat, recover.toNat⟩ } }) s)

/-! ### Statistics (R64, R77) -/

def statsBytes (x : CaptureStats) : List Byte :=
  be 4 x.closed ++ be 4 x.failed ++ be 4 x.rebuilt ++ be 4 x.unrecoverable ++ be 4 x.mixed

def concealCounters (r : ConcealRec) : List Byte := be 4 r.bridged ++ be 4 r.longRuns ++ be 4 r.mutes

def concealStanding (r : ConcealRec) : List Byte := be 1 (codeIn concealStates r.state) ++ fracBytes r.gain

/-- The reply data of QUERY STATISTICS (R64, R77, R186); state and gain go channel by channel (log entry 60). -/
def statisticsBytes (s : State) : List Byte :=
  statsBytes s.pre.stats ++ statsBytes s.conf.stats ++ concealCounters s.conceal.left ++ concealCounters s.conceal.right
    ++ concealStanding s.conceal.left ++ concealStanding s.conceal.right
    ++ be 1 s.conceal.params.bridge ++ be 1 s.conceal.params.hold ++ be 2 s.conceal.params.fade ++ be 1 s.conceal.params.recover

/-- QUERY STATISTICS (R64, R77). -/
def execQueryStatistics (p : Port) (s : State) : Res :=
  .next (command p 0x30 true (fun t => (t, ⟨.done, statisticsBytes t⟩)) s)

def ConcealRec.zeroed (r : ConcealRec) : ConcealRec := { r with bridged := 0, longRuns := 0, mutes := 0 }

/-- CLEAR STATISTICS (R64, R77). -/
def clearStatistics (s : State) : State :=
  { s with pre := { s.pre with stats := ⟨0, 0, 0, 0, 0⟩ }, conf := { s.conf with stats := ⟨0, 0, 0, 0, 0⟩ },
           conceal := { s.conceal with left := s.conceal.left.zeroed, right := s.conceal.right.zeroed } }

def execClearStatistics (p : Port) (s : State) : Res := .next (command p 0x31 true (fun t => (clearStatistics t, done)) s)

end Sys2Proof.Machine
end

