-- ==== Sys2Proof/Machine/Cues.lean ====
section
/-! DEFINITION. The Cue Unit: the cue table, matching and firing, and the punch inputs (R162 to R177). -/

namespace Sys2Proof.Machine

/-! ### The cue table (R162 to R164) -/

/-- A timecode part as a byte carries it: FFh is ANY; none when it is out of range (R163, R184). -/
def cuePart (limit : Nat) (b : Byte) : Option (Option Nat) :=
  if b = 0xFF then some none else if b.toNat < limit then some (some b.toNat) else none

/-- The cue that WRITE CUE carries; none when a part, a code or a flag is out of range, or all four parts are ANY (R163). -/
def cueOf (hh mm ss ff action rep armed : Byte) : Option Cue := do
  let h ← cuePart 24 hh
  let m ← cuePart 60 mm
  let x ← cuePart 60 ss
  let f ← cuePart 30 ff
  let a ← named cueActions action
  let r ← named cueRepeats rep
  if isFlag armed && (h.isSome || m.isSome || x.isSome || f.isSome) then
    some { present := true, armed := armed == 1, hh := h, mm := m, ss := x, ff := f, action := a, rep := r, lastFiring := none }
  else none

def cuePartBytes (o : Option Nat) : List Byte := be 1 (o.getD 255)

def firingBytes (f : Firing) : List Byte := tcBytes f.tc ++ optBytes 3 (f.addr.map addrBytes) ++ be 1 (resultCode f.answer)

/-- A cue entry in the order of R162. -/
def cueBytes (c : Cue) : List Byte :=
  flagByte c.present ++ flagByte c.armed ++ cuePartBytes c.hh ++ cuePartBytes c.mm ++ cuePartBytes c.ss ++ cuePartBytes c.ff
    ++ be 1 (codeIn cueActions c.action) ++ be 1 (codeIn cueRepeats c.rep) ++ optBytes 9 (c.lastFiring.map firingBytes)

def setCue (i : Fin 24) (c : Cue) (s : State) : State := { s with cues := s.cues.set i c }

/-- WRITE CUE (R163). -/
def writeCueBody (n : Nat) (c : Option Cue) (s : State) : State × Reply :=
  match c with
  | none => (s, refuse .range)
  | some x => if h : n < 24 then (setCue ⟨n, h⟩ x s, ⟨.done, cueBytes x⟩) else (s, refuse .range)

def execWriteCue (p : Port) (entry hh mm ss ff action rep armed : Byte) (s : State) : Res :=
  .next (command p 0x60 true (writeCueBody entry.toNat (cueOf hh mm ss ff action rep armed)) s)

/-- ERASE CUE (R164). -/
def eraseCueBody (n : Nat) (s : State) : State × Reply :=
  if h : n < 24 then (setCue ⟨n, h⟩ Cue.reset s, done) else (s, refuse .range)

def execEraseCue (p : Port) (entry : Byte) (s : State) : Res := .next (command p 0x61 true (eraseCueBody entry.toNat) s)

/-- ARM CUE: ARM 0, DISARM 1, KEEP 2 (R164). -/
def armCueBody (n arm : Nat) (s : State) : State × Reply :=
  if h : n < 24 then
    let c := s.cues[n]
    let armed : Option Bool := match arm with
      | 0 => some true
      | 1 => some false
      | 2 => some c.armed
      | _ => none
    match armed with
    | none => (s, refuse .range)
    | some b =>
      if c.present = false then (s, refuse .state)
      else (setCue ⟨n, h⟩ { c with armed := b } s, ⟨.done, cueBytes { c with armed := b }⟩)
  else (s, refuse .range)

def execArmCue (p : Port) (entry arm : Byte) (s : State) : Res :=
  .next (command p 0x62 true (armCueBody entry.toNat arm.toNat) s)

/-! ### Matching and firing (R165 to R168) -/

def partMatches (o : Option Nat) (n : Nat) : Bool := o.all (· == n)

/-- Whether an entry matches a timecode (R166). -/
def Cue.matches (c : Cue) (t : Timecode) : Bool :=
  c.present && c.armed && partMatches c.hh t.hh && partMatches c.mm t.mm && partMatches c.ss t.ss && partMatches c.ff t.ff

/-- The action of a cue and the engine's answer (R168). -/
def cueAction (a : CueAction) (s : State) : State × Result :=
  match a with
  | .notify => (s, .done)
  | .startRecord => startProgram .record 1 none s
  | .startRehearse => startProgram .rehearse 1 none s
  | .stopAtEnd => stopAtEnd s
  | .stopNow => stopNow s
  | .punchToggle => punchToggle s

/-- The result code a notice carries: the answer when it is a refusal (R167, R171). -/
def refusalCode : Result → Option Result
  | .done | .accepted => none
  | r => some r

/-- An entry fires (R167). -/
def fireCue (i : Fin 24) (t : Timecode) (addr : Option Nat) (s : State) : State :=
  let r := cueAction s.cues[i].action s
  let c := r.1.cues[i]
  post .cueFired i.val addr (refusalCode r.2)
    (setCue i { c with lastFiring := some ⟨t, addr, r.2⟩, armed := c.armed && c.rep == .rep } r.1)

/-- A matching pass over the entries, in increasing number (R166). -/
def matchPass (t : Timecode) (addr : Option Nat) (s : State) : State :=
  (List.finRange 24).foldl (fun u i => if u.cues[i].matches t then fireCue i t addr u else u) s

/-- A closed PRE-READ frame is handed to the Cue Unit; `header` is none for an absent frame (R165). -/
def cueFrame (header : Option Header) (s : State) : State :=
  if s.tl.mode = .play ∧ s.tl.state.placed = true then
    match header with
    | some h => match h.tc with
      | some t => matchPass t h.addr s
      | none => s
    | none => s
  else s

/-! ### The punch inputs (R169 to R176) -/

def punchLine (s : State) : PunchLine → Punch
  | .a => s.punchA
  | .b => s.punchB

def setPunch (l : PunchLine) (x : Punch) (s : State) : State :=
  match l with
  | .a => { s with punchA := x }
  | .b => { s with punchB := x }

def lineNum : PunchLine → Nat
  | .a => 0
  | .b => 1

def punchOf (b : Byte) : Option PunchLine :=
  match b.toNat with
  | 0 => some .a
  | 1 => some .b
  | _ => none

/-- The action of a detection and the engine's answer (R172). -/
def punchAction (x : Punch) (active : Bool) (s : State) : State × Result :=
  match x.action with
  | .notify => (s, .done)
  | .manualPunch => match x.detection with
    | .edge => punchToggle s
    | .level => if active then punchIn s else punchOut s
  | .startRecord => startProgram .record 1 none s
  | .stopAtEnd => stopAtEnd s
  | .stopNow => stopNow s

/-- A detection (R171). -/
def detect (l : PunchLine) (active : Bool) (s : State) : State :=
  let x := punchLine s l
  let r := punchAction x active (setPunch l { x with detected := true } s)
  let y := punchLine r.1 l
  let s1 := post .punchDetected (lineNum l) none (refusalCode r.2) (setPunch l { y with last := some (active, r.2) } r.1)
  let z := punchLine s1 l
  setPunch l { z with armed := z.armed && z.rep == .continuous } s1

/-- PUNCH_SAMPLE (R170, R171). -/
def punchSample (l : PunchLine) (level : Level) (s : State) : State :=
  let x := punchLine s l
  if level = x.previous ∧ level ≠ x.filtered then
    let s1 := setPunch l { x with filtered := level, previous := level } s
    let active := level == x.active
    if x.armed && (active || x.detection == .level) then detect l active s1 else s1
  else setPunch l { x with previous := level } s

def execPunchSample (line : PunchLine) (level : Level) (s : State) : Res := .next (punchSample line level s)

def lastBytes (x : Punch) : List Byte :=
  optBytes 2 (x.last.map fun d => be 1 (if d.1 then 0 else 1) ++ be 1 (resultCode d.2))

def settingBytes (x : Punch) : List Byte :=
  be 1 (codeIn levels x.active) ++ be 1 (codeIn detections x.detection) ++ be 1 (codeIn samplePeriods x.period)
    ++ be 1 (codeIn punchRepeats x.rep) ++ be 1 (codeIn punchActions x.action) ++ flagByte x.armed

/-- An input's record in the order of R169. -/
def punchBytes (x : Punch) : List Byte :=
  settingBytes x ++ be 1 (codeIn levels x.previous) ++ be 1 (codeIn levels x.filtered) ++ flagByte x.detected ++ lastBytes x

/-- An input's record in the order of R176. -/
def punchQueryBytes (x : Punch) : List Byte :=
  settingBytes x ++ flagByte x.detected ++ lastBytes x ++ be 1 (codeIn levels x.filtered) ++ be 1 (codeIn levels x.previous)

/-- A command that changes an input's record and answers with it (R173 to R175). -/
def punchBody (input : Byte) (f : Punch → Option Punch) (s : State) : State × Reply :=
  match punchOf input with
  | none => (s, refuse .range)
  | some l => match f (punchLine s l) with
    | none => (s, refuse .range)
    | some x => (setPunch l x s, ⟨.done, punchBytes x⟩)

/-- The five settings of CONFIGURE PUNCH; none when a code is undefined (R173). -/
def configured (active detection period rep action : Byte) (x : Punch) : Option Punch := do
  let a ← named levels active
  let d ← named detections detection
  let q ← named samplePeriods period
  let r ← named punchRepeats rep
  let k ← named punchActions action
  some { x with active := a, detection := d, period := q, rep := r, action := k }

def execConfigurePunch (p : Port) (input active detection period rep action : Byte) (s : State) : Res :=
  .next (command p 0x63 true (punchBody input (configured active detection period rep action)) s)

/-- ARM 0, DISARM 1 (R174). -/
def armSetting (arm : Byte) (x : Punch) : Option Punch :=
  match arm.toNat with
  | 0 => some { x with armed := true }
  | 1 => some { x with armed := false }
  | _ => none

def execArmPunch (p : Port) (input arm : Byte) (s : State) : Res := .next (command p 0x64 true (punchBody input (armSetting arm)) s)

/-- CLEAR PUNCH (R175). -/
def execClearPunch (p : Port) (input : Byte) (s : State) : Res :=
  .next (command p 0x65 true (punchBody input fun x => some { x with detected := false }) s)

/-- QUERY PUNCH (R176). -/
def execQueryPunch (p : Port) (s : State) : Res :=
  .next (command p 0x66 true (fun t => (t, ⟨.done, punchQueryBytes t.punchA ++ punchQueryBytes t.punchB⟩)) s)

end Sys2Proof.Machine
end

