-- ==== Sys2Proof/Machine/Close.lean ====
section
/-! DEFINITION. Completing a close operation: handing a closed frame to the Timeline Unit, the Cue Unit, the Concealment Unit or the
Confidence Judge (R49, R61, R62). -/

namespace Sys2Proof.Machine

/-- A PRE-READ frame is handed on: timeline, cues, concealment, in that order (R61).  `valid` is its header when decoded, `header` its
header in either case, `o` its slot. -/
def handPreRead (valid header : Option Header) (o : Option SlotId) (s : State) : State :=
  joinConceal o (cueFrame header (timelineClose valid s))

/-- A CONFIDENCE frame is handed on: its slot becomes DECODED, older DECODED slots are given back, and the entries designated for the
close are judged (R30, R62, R107). -/
def handConfidence (o : Option SlotId) (n : Nat) (s : State) : State :=
  match o with
  | none => judgeClose n none s
  | some i =>
    let older := decodedSlots s
    let s1 := releaseAll older (modifySlot i (fun x => { x with state := .decoded }) s)
    judgeClose n (some s1.slots[i]) s1

/-- The close of the frame at the front of the list completes (R49, R50, R55 to R62). -/
def completeFront (ch : HeadStream) (cf : ClosingFrame) (s : State) : State :=
  let c := capture s ch
  match cf.frame.slot with
  | none =>
    let s1 := setCapture ch (c.closedAbsent (inherited s c cf (saturate 31 (c.headless + 1)))) s
    match ch with
    | .preRead => handPreRead none none none s1
    | .confidence => handConfidence none cf.designated s1
  | some i =>
    let d := closeStages s c cf s.slots[i].audio
    let s1 := setCapture ch (c.closedSlot d) (modifySlot i (fun x => x.closed d s.clock.rate) s)
    match ch with
    | .preRead => handPreRead (if d.valid then some d.header else none) (some d.header) (some i) s1
    | .confidence => handConfidence (some i) cf.designated s1

/-- When the list has become empty the channel is IDLE if it has no frame in assembly, and begins again when a reading mode is
posted (R48, R49; log entry 17); the concealment records follow (R66). -/
def afterClose (ch : HeadStream) (s : State) : State := concealIdle (startReading ch (enterIdle ch s))

/-- Closes of absent frames at the front of the list complete at once (R50; log entry 18). -/
def settleAbsent (ch : HeadStream) : Nat → State → State
  | 0, s => s
  | n + 1, s =>
    match (capture s ch).closing with
    | cf :: _ => if cf.frame.slot.isNone then settleAbsent ch n (afterClose ch (completeFront ch cf s)) else s
    | [] => s

def settleCloses (ch : HeadStream) (s : State) : State := settleAbsent ch (capture s ch).closing.length s

/-- CLOSE_OPERATION_COMPLETE (R49). -/
def closeComplete (ch : HeadStream) (s : State) : State :=
  match (capture s ch).closing with
  | [] => s
  | cf :: _ => settleCloses ch (afterClose ch (completeFront ch cf s))

def execCloseOperationComplete (ch : HeadStream) (s : State) : Res := .next (closeComplete ch s)

/-- SECTOR_ARRIVAL (R51). -/
def execSectorArrival (ch : HeadStream) (bytes : List Byte) (s : State) : Res := .next (settleCloses ch (arrive ch bytes s))

end Sys2Proof.Machine
end

