-- ==== Sys2Proof/Machine/Coding.lean ====
section
/-! DEFINITION. The coding operation: plans, the verdict, mixing, the header and the reports (R91 to R98, R143 to R145). -/

namespace Sys2Proof.Machine

/-! ### Plans (R143, R144) -/

/-- The splice mark of a frame by whether it is the first and the final one (R143). -/
def planMark (first final : Bool) : SpliceMark :=
  match first, final with
  | true, true => .inOut
  | true, false => .inPoint
  | false, true => .outPoint
  | false, false => .none

/-- The last frame a splice can have a plan in: its final frame once known, else its planned one; a punch has none (R143). -/
def Splice.lastPlanned (sp : Splice) : Option Nat :=
  match sp.final with
  | some x => some x
  | none => sp.outPoint.map lastFrame

/-- The plan of frame `a` of a splice that starts at `start`, at S pairs a frame (R143; log entry 53). -/
def splicePlan (S : Nat) (sp : Splice) (start : Point) (a : Nat) : SplicePlan :=
  let trueOrigin : Int := ((a : Int) - start.addr) * S - start.offset
  let origin : Int := min trueOrigin (max (sp.fadeIn : Int) S)
  let cap : Int := origin + S + sp.fadeOut
  let first := decide (a = start.addr)
  let (span, final) : Int × Bool := match sp.span with
    | some n => (min (n - (trueOrigin - origin)) cap, decide ((n : Int) ≤ trueOrigin + S))
    | none => (cap, false)
  { tag := sp.tag, rehearse := sp.rehearse, first := if first then some start.offset else none, origin := origin,
    span := span.toNat, fadeIn := sp.fadeIn, fadeOut := sp.fadeOut, final := final, method := sp.method,
    timecode := match sp.method, sp.timecode, sp.inFrame with
      | .assemble, some t, some f => some (t.advance (a - f))
      | _, _, _ => none
    take := sp.take, mark := planMark first final }

/-- The splice of a prepared entry that starts (R140, R143, R144); an ASSEMBLE entry without a timecode start takes the timecode of
the in-point frame's pre-read slot. -/
def openSplice (s : State) (p : Prepared) (e : Entry) : Splice :=
  { tag := programTag s p.index, index := some p.index, rehearse := rehearsing s, lay := e.lay, notify := e.notify,
    source := e.source, method := e.method, inFrame := some e.inPoint.addr,
    timecode := match e.method, e.timecode with
      | .insert, _ => none
      | .assemble, some t => some t
      | .assemble, none => (lookup s e.inPoint.addr).bind fun i => s.slots[i].header.bind (·.tc)
    start := some p.start, outPoint := some e.outPoint, span := some p.span, fadeIn := p.fadeIn, fadeOut := p.fadeOut,
    late := p.late, take := takeFor s e, actualIn := none, final := none, early := none, reason := none, mark := none,
    faults := 0, reworked := 0, finalReq := false, entered := none }

/-- The request for the gate at a start frame: in a rehearsal nothing is asked for, but what would refuse the request of a RECORD run
refuses here too (R144, R153; log entry 55). -/
def requestGate (sp : Splice) (a : Nat) (s : State) : Option ScheduleRefusal × State :=
  if sp.rehearse then (scheduleRefusal s, s) else schedule sp.tag (some a) s

/-- A prepared entry's start frame `a` is planned: the entry becomes ACTIVE, the engine goes to SPLICING, and in a RECORD run the
gate is asked for; a refused request ends the entry with nothing scheduled, and the frame is TAPE (R144).  The span was counted when
the entry was prepared, the origin is counted now (log entry 53). -/
def startEntry (p : Prepared) (e : Entry) (a : Nat) (s : State) : Option SplicePlan × State :=
  let sp := openSplice s p e
  let plan := splicePlan (framePairs s.clock.rate) sp p.start a
  let s1 := setEng .splicing (setEntryState p.index .active
    { s with eng := { s.eng with splice := some sp, prepared := s.eng.prepared.filter fun q => q.index != p.index } })
  match requestGate sp a s1 with
  | (none, s2) => (some plan, s2)
  | (some c, s2) =>
    (none, finishSplice (scheduleOutcome c).1 (scheduleOutcome c).2 none true
      (if sp.rehearse then s2 else postScheduleRefusal c (some a) s2))

/-- The open punch's start frame is the write frame of the first operation to begin; the unbound schedule takes it as its first
frame (R101, R155). -/
def startPunch (sp : Splice) (a : Nat) (s : State) : Option SplicePlan × State :=
  let start : Point := ⟨a, 0⟩
  let sp1 := { sp with start := some start }
  let gate := if s.gate.holder = some sp.tag ∧ s.gate.first = none then { s.gate with first := some a } else s.gate
  (some (splicePlan (framePairs s.clock.rate) sp1 start a), { s with gate := gate, eng := { s.eng with splice := some sp1 } })

/-- The engine answers the request for the plan of write frame `a` (R143): none is a TAPE plan. -/
def formPlan (a : Nat) (s : State) : Option SplicePlan × State :=
  match s.eng.splice with
  | some sp =>
    match sp.start with
    | none => startPunch sp a s
    | some start =>
      if start.addr ≤ a ∧ sp.lastPlanned.all (fun x => decide (a ≤ x)) = true then
        (some (splicePlan (framePairs s.clock.rate) sp start a), s)
      else (none, s)
  | none =>
    match s.eng.prepared.find? fun p => p.start.addr == a with
    | none => (none, s)
    | some p =>
      match pendingEntry s p.index with
      | none => (none, s)
      | some e => startEntry p e a s

/-! ### The beginning of an operation (R91 to R93) -/

/-- A start frame's operation waits while the splice before it has not ended (R144; log entry 37). -/
def waitsForGate (op : CodingOp) (s : State) : Bool :=
  s.eng.splice.isSome && s.eng.prepared.any fun p => p.start.addr == op.addr

/-- An operation that got no slot ends without coding: its intake slot is released, a gate that is not CLOSED is cut with cause STORE
when its splice includes the frame, and the splice ends BROKEN (R91, R147). -/
def codingFailed (op : CodingOp) (plan : Option SplicePlan) (s : State) : State :=
  let s1 := releaseOpt op.intake.slot { s with coding := s.coding.drop 1 }
  match plan with
  | none => s1
  | some p =>
    let out := cutPoint s1
    let s2 := if s1.gate.holder = some p.tag then cutGate .store s1 else s1
    if (s2.eng.splice.map (·.tag)) = some p.tag then finishSplice .broken none out false s2 else s2

/-- RECORD_REFUSED for a refusing or guarded verdict of a plan that is not rehearsed (R123). -/
def postVerdict (v : Verdict) (plan : SplicePlan) (a : Nat) (s : State) : State :=
  match v.reason with
  | none => s
  | some r => if plan.rehearse then s else post .recordRefused (reasonSubject r) (some a) none s

/-- The operation at the front has its plan and its slot `i`: the verdict is given, and an in-point refusal withdraws the schedule
(R93, R101, R102, R120). -/
def startOp (op : CodingOp) (plan : Option SplicePlan) (i : SlotId) (s : State) : State :=
  let rate := s.clock.rate
  let pre := lookup s op.addr
  let put := fun (b : BegunOp) (t : State) => { t with coding := { op with begun := some b } :: t.coding.drop 1 }
  match plan with
  | none => put ⟨some i, none, pre, .permit, .free, false, rate⟩ s
  | some p =>
    let v := verdictFor s.guard s.sources rate op.addr p op.intake.tags
    let asked := (s.eng.splice.map (·.finalReq)).getD false
    let s1 := { s with eng := { s.eng with splice := s.eng.splice.map fun sp => { sp with finalReq := false } } }
    let s2 := put ⟨some i, some p, pre, v, newAudioMark s.sources rate op.intake.tags, asked, rate⟩ s1
    let s3 := postVerdict v p op.addr s2
    if v.atIn then withdraw p.tag s3 else s3

/-- CODING_OPERATION_BEGIN: the operation at the front begins once its inputs are ready (R91, R92; log entry 22). -/
def beginCoding (s : State) : State :=
  match s.coding with
  | [] => s
  | op :: _ =>
    if op.begun.isSome ∨ op.wait ≠ 0 ∨ waitsForGate op s = true then s
    else
      let (plan, s1) := formPlan op.addr s
      match allocate .coded (some op.addr) s1 with
      | (none, s2) => codingFailed op plan s2
      | (some i, s2) => startOp op plan i s2

def execCodingOperationBegin (s : State) : Res := .next (beginCoding s)

/-! ### Mixing (R94, R95) -/

/-- How a frame is mixed: origin, effective span, fade-in length, effective fade-out length; none is tape audio only. -/
structure Shape where
  origin : Int
  span : Int
  fadeIn : Nat
  fadeOut : Nat
  deriving DecidableEq, Repr

/-- The early end of a frame's new audio, when it has one, and when the plan's own end lies beyond it: a guard ahead and a
final-frame request end it at S, starvation at its point (R93, R95, R102). -/
def earlyEnd (S : Nat) (p : SplicePlan) (v : Verdict) (finalReq : Bool) (starve : Option Nat) : Option Nat :=
  let atEnd := if (v = .guardAhead ∨ finalReq = true) ∧ p.final = false then some S else none
  match starve with
  | some e =>
    let e1 := min e S
    if p.final = false ∨ p.origin + e1 < p.span then some e1 else atEnd
  | none => atEnd

/-- The effective span and fade-out length (R95). -/
def shapeOf (S : Nat) (p : SplicePlan) (early : Option Nat) : Shape :=
  match early with
  | none => ⟨p.origin, p.span, p.fadeIn, p.fadeOut⟩
  | some e =>
    let n := p.origin + e
    ⟨p.origin, n, p.fadeIn, min (min p.fadeOut S) n.toNat⟩

/-- The lesser of two fractions. -/
def Frac.least (a b : Frac) : Frac := if b.num * a.den < a.num * b.den then b else a

/-- The new-audio gain at frame position i (R94). -/
def gainAt (x : Option Shape) (i : Nat) : Frac :=
  match x with
  | none => zeroGain
  | some h =>
    let n := h.origin + i
    if n < 0 ∨ h.span ≤ n then zeroGain
    else
      let fin : Frac := if n < h.fadeIn then ⟨n.toNat + 1, h.fadeIn + 1⟩ else unity
      let fout : Frac := if h.span - h.fadeOut ≤ n then ⟨(h.span - n).toNat, h.fadeOut + 1⟩ else unity
      fin.least fout

/-- t·(1 − g) + v·g, computed exactly and rounded toward zero (R94). -/
def mixSample (t v : Sample) (g : Frac) : Sample :=
  BitVec.ofInt 20 (Int.tdiv (t.toInt * ((g.den : Int) - g.num) + v.toInt * g.num) g.den)

def mixPair (t v : SamplePair) (g : Frac) : SamplePair := ⟨mixSample t.left v.left g, mixSample t.right v.right g⟩

/-- The pair a slot gives at a position; silence for no slot. -/
def slotPair (s : State) (o : Option SlotId) (i : Nat) : SamplePair :=
  match o with
  | none => silence
  | some k => ⟨sampleOrFree s s.slots[k].audio s.slots[k].layout .left i, sampleOrFree s s.slots[k].audio s.slots[k].layout .right i⟩

/-- The pre-read slot of an operation, while it still is the one looked up. -/
def preSlotOf (s : State) (op : CodingOp) (b : BegunOp) : Option SlotId :=
  b.pre.filter fun i => s.slots[i].isPreRead && s.slots[i].addr == some op.addr

/-- What an operation codes (R93 to R97). -/
structure Coded where
  pairs : List SamplePair
  header : Header
  tag : Option SpliceTag
  final : Bool
  early : Option Nat
  starved : Bool
  deriving DecidableEq, Repr

/-- The splice mark of the coded frame: as planned, or as R93 and R102 replace it. -/
def codedMark (p : SplicePlan) (v : Verdict) (ended : Bool) : SpliceMark :=
  if v.atIn then .none
  else if v.tapeOnly then .broken
  else if ended then planMark p.first.isSome true
  else p.mark

/-- The timecode of the coded frame (R96). -/
def codedTimecode (s : State) (a : Nat) (plan : Option SplicePlan) (pre : Option Slot) : Option Timecode :=
  match plan, pre with
  | some p, _ =>
    if p.method = .assemble then p.timecode
    else match pre with
      | some x => x.header.bind (·.tc)
      | none => match s.lastCoded with
        | some (b, t) => if b + 1 = a then t.map Timecode.next else none
        | none => none
  | none, some x => x.header.bind (·.tc)
  | none, none => match s.lastCoded with
    | some (b, t) => if b + 1 = a then t.map Timecode.next else none
    | none => none

/-- The coded frame of an operation that completes (R93 to R97, R121). -/
def codeFrame (s : State) (op : CodingOp) (b : BegunOp) : Coded :=
  let S := framePairs b.rate
  let pre := preSlotOf s op b
  let x := pre.map fun i => s.slots[i]
  let starve := op.intake.starve.map (·.1)
  let live := b.plan.filter fun _ => !b.verdict.tapeOnly
  let early := live.bind fun p => earlyEnd S p b.verdict b.finalReq starve
  let shape := live.map fun p => shapeOf S p early
  let gains := (List.range S).map (gainAt shape)
  let pairs := (List.range S).map fun i => mixPair (slotPair s pre i) (slotPair s op.intake.slot i) (gainAt shape i)
  let hasNew := gains.any fun g => decide (0 < g.num)
  let hasTape := gains.any fun g => decide (g.num < g.den)
  let kept := b.plan.filter fun _ => !b.verdict.atIn
  let tapeMark := x.bind fun y => y.header.map (·.mark)
  let rework := (hasTape && (x.all fun y => y.concealed)) || (hasNew && op.intake.failed)
  { pairs := pairs
    header :=
      { addr := some op.addr, tc := codedTimecode s op.addr kept x, rate := b.rate,
        mark := frameMark b.newMark tapeMark hasNew hasTape,
        take := match kept with
          | some p => p.take
          | none => (x.bind fun y => y.header.map (·.take)).getD 0
        splice := match b.plan with
          | some p => codedMark p b.verdict early.isSome
          | none => .none
        rework := rework }
    tag := kept.map (·.tag)
    final := match kept with
      | some p => p.final || early.isSome || b.finalReq || (match b.verdict with
          | .refusedIn _ => true
          | _ => false)
      | none => false
    early := early
    starved := match early, starve with
      | some e, some e' => decide (e = min e' S) && decide (b.verdict = .permit)
      | _, _ => false }

/-! ### Completion (R98, R145) -/

/-- The end of new audio at position e of frame X: (X, e), or (X + 1, 0) when e is S (R146). -/
def endPoint (S a e : Nat) : Point := if S ≤ e then ⟨a + 1, 0⟩ else ⟨a, e⟩

/-- The tally of a splice after the completion report of a frame that is not refused at its in-point (R145). -/
def Splice.afterCoded (sp : Splice) (S a : Nat) (v : Verdict) (c : Coded) : Splice :=
  let sp1 := if sp.rehearse then
      { (if v = .permit then sp.tally c.header.mark c.header.rework else sp) with
        actualIn := match sp.actualIn with
          | some q => some q
          | none => sp.start }
    else sp
  let early := c.early.map (endPoint S a)
  match v with
  | .refusedIn r => { sp1 with final := some a, reason := some (.refused, some r), early := some ⟨a, 0⟩ }
  | .guardedHere => { sp1 with final := some a, reason := some (.guarded, some .guarded), early := some ⟨a, 0⟩ }
  | .guardAhead => { sp1 with final := some a, reason := some (.guarded, some .guarded), early := early }
  | _ =>
    if c.final then
      { sp1 with final := some a, early := early, reason := if c.starved then some (.starved, none) else sp1.reason }
    else sp1

/-- FLY_STARVED for a frame made final by a starvation point (R145). -/
def postStarved (c : Coded) (starve : Option (Nat × BankId)) (a : Nat) (s : State) : State :=
  match c.starved, starve with
  | true, some (_, n) => post .flyStarved n.num (some a) none s
  | _, _ => s

/-- The completion report reaches the engine (R145). -/
def reportCoded (S a : Nat) (p : SplicePlan) (v : Verdict) (c : Coded) (starve : Option (Nat × BankId)) (s : State) : State :=
  match s.eng.splice with
  | none => s
  | some sp =>
    if sp.tag ≠ p.tag then s
    else match v with
      | .refusedAtIn r => finishSplice .refused (some r) none true s
      | .guardedAtIn => finishSplice .guarded (some .guarded) none true s
      | _ => postStarved c starve a { s with eng := { s.eng with splice := some (sp.afterCoded S a v c) } }

/-- The gate records the final frame of its holder's splice (R98, R102). -/
def recordFinal (p : SplicePlan) (a : Nat) (final : Bool) (s : State) : State :=
  if final = true ∧ s.gate.holder = some p.tag ∧ s.gate.final = none then
    { s with gate := { s.gate with final := some a } }
  else s

/-- The CODED slot records what was coded; an operation whose slot a cut has released records it nowhere (R30, R98; log entry 20). -/
def storeCoded (o : Option SlotId) (a : Nat) (rate : Rate) (c : Coded) (s : State) : State :=
  match o with
  | none => s
  | some i => modifySlot i (fun x =>
      { x with state := .coded, addr := some a, header := some c.header, tag := c.tag, layout := rate,
               audio := putPairs x.audio rate 0 c.pairs }) s

/-- CODING_OPERATION_COMPLETE (R98). -/
def completeCoding (s : State) : State :=
  match s.coding with
  | [] => s
  | op :: rest =>
    match op.begun with
    | none => s
    | some b =>
      let c := codeFrame s op b
      let s1 := storeCoded b.slot op.addr b.rate c { s with coding := rest, lastCoded := some (op.addr, c.header.tc) }
      let s2 := releaseOpt op.intake.slot s1
      let mix : Mix := ⟨op.addr, c.pairs, (b.plan.map (·.rehearse)).getD false, c.header.mark⟩
      let s3 := bumpFresh { s2 with mon := { s2.mon with next := some mix } }
      match b.plan with
      | none => s3
      | some p =>
        reportCoded (framePairs b.rate) op.addr p b.verdict c op.intake.starve (recordFinal p op.addr c.final s3)

def execCodingOperationComplete (s : State) : Res := .next (completeCoding s)

end Sys2Proof.Machine
end

