-- ==== Sys2Proof/Machine/Mark.lean ====
section
/-! DEFINITION. FRAME_MARK: what one event on FMARK does to every block (R8, R17, R29, R49, R80, R81, R84, R88, R91, R99, R103, R106,
R140 to R142, R146, R147, R153), in the order of log entry 7. -/

namespace Sys2Proof.Machine

/-! ### Preparing a splice (R140 to R142) -/

/-- The last frame that an entry is planned to reach. -/
def Entry.plannedFinal (e : Entry) : Nat := lastFrame e.outPoint

/-- An ACTIVE entry, or a prepared one whose start frame's plan has not been formed, is planned beyond frame `x` (R140). -/
def committedBeyond (s : State) (x : Nat) : Bool :=
  (match s.eng.splice with
    | some sp => match sp.outPoint with
      | some q => decide (x < lastFrame q)
      | none => true
    | none => false)
  || s.eng.prepared.any fun p => match pendingEntry s p.index with
    | some e => decide (x < e.plannedFinal)
    | none => false

/-- The lay entry is still PENDING (R140). -/
def layPending (s : State) : Bool :=
  match pendingEntry s 0 with
  | some e => e.lay
  | none => false

/-- Prepare an entry: its source is named at the same mark (R140, R141). -/
def prepareEntry (p : Prepared) (e : Entry) (s : State) : State :=
  nameSource e.source { s with eng := { s.eng with prepared := s.eng.prepared ++ [p] } }

/-- An entry prepared to start at its in-point, its span counted at the S in force now (R140; log entry 53). -/
def preparedAtIn (S : Nat) (i : Fin 16) (e : Entry) : Prepared :=
  ⟨i, e.inPoint, false, spanOf S e.inPoint e.outPoint, e.fadeIn, e.fadeOut, false⟩

/-- An entry prepared to start late at (G, 0): the span counts from there at the S in force now, and the fades are fitted to it (R140;
log entry 53). -/
def preparedLate (S : Nat) (i : Fin 16) (e : Entry) (G : Nat) : Prepared :=
  let span := spanOf S ⟨G, 0⟩ e.outPoint
  let fadeOut := min e.fadeOut span
  ⟨i, ⟨G, 0⟩, true, span, min e.fadeIn (span - fadeOut), fadeOut, false⟩

def isPrepared (s : State) (i : Fin 16) : Bool := s.eng.prepared.any fun p => p.index == i

/-- Take the PENDING entries that are not yet prepared, in index order, for the frame `G` (R140). -/
def prepareScan (G : Nat) : List (Fin 16) → State → State
  | [], s => s
  | i :: rest, s =>
    match pendingEntry s i with
    | none => prepareScan G rest s
    | some e =>
      let S := framePairs s.clock.rate
      if isPrepared s i then prepareScan G rest s
      else if (Point.before ⟨G, 0⟩ e.outPoint) = false then prepareScan G rest (endPending i e .skipped none false s)
      else if e.inPoint.addr = G then prepareEntry (preparedAtIn S i e) e s
      else if e.inPoint.addr < G then prepareEntry (preparedLate S i e G) e s
      else s

/-- At a mark that offers write frame `x` by R8, in WAITING or SPLICING, frame x + 2 is prepared (R140); with nothing PENDING and
nothing ACTIVE the pass has ended (R154). -/
def prepareAt (x : Nat) (s : State) : State :=
  if s.tl.state.placed = false ∨ (s.eng.state ≠ .waiting ∧ s.eng.state ≠ .splicing) then s
  else if committedBeyond s x = true ∨ layPending s = true then s
  else
    let s1 := prepareScan (x + 2) placeIds s
    if hasPending s1 = false ∧ s1.eng.splice.isNone = true then endPass s1 else s1

/-- A prepared entry whose bank is due to be asked for at this mark: prepared at an earlier mark, with source FLY (R142). -/
def bankDue (s : State) (early : List Prepared) : Option (Prepared × Entry) :=
  early.findSome? fun p =>
    if p.asked = false ∧ s.eng.prepared.contains p = true then
      (pendingEntry s p.index).bind fun e => if e.source = .fly then some (p, e) else none
    else none

/-- The entry's bank is refused: the fly start is withdrawn, the entry ends with nothing scheduled, and ANALOG is named unless another
entry is prepared (R141, R142). -/
def dropUnbanked (p : Prepared) (e : Entry) (o : Outcome) (r : Option Reason) (s : State) : State :=
  let s1 := { s with intake := { s.intake with flyStart := none },
                     eng := { s.eng with prepared := s.eng.prepared.filter fun q => q != p } }
  let s2 := endPending p.index e o r p.late s1
  nameAfter s2

/-- The request for the bank of a prepared FLY entry, at the mark after the one that prepared it (R142). -/
def askFor (p : Prepared) (e : Entry) (s : State) : State :=
  let (a, s1) := askBank { s with intake := { s.intake with flyStart := some p.start.offset } }
  match a with
  | .granted _ =>
    { s1 with eng := { s1.eng with bankFor := some (programTag s1 p.index)
                                   prepared := s1.eng.prepared.map fun q => if q = p then { q with asked := true } else q } }
  | .unavailable => dropUnbanked p e .starved none (post .flyStarved 2 (some p.start.addr) none { s1 with eng := { s1.eng with bankFor := none } })
  | .mismatch =>
    let s2 := { s1 with eng := { s1.eng with bankFor := none } }
    dropUnbanked p e .refused (some .rate)
      (if rehearsing s2 then s2 else post .recordRefused 3 (some p.start.addr) none s2)

/-- The bank request of this mark, for the entries prepared before it (R142). -/
def askDue (early : List Prepared) (s : State) : State :=
  match bankDue s early with
  | some (p, e) => askFor p e s
  | none => s

/-! ### A rehearsed splice at a mark (R146, R147, R153) -/

/-- The head enters frame `w` of a rehearsed splice as if its write were to begin; `expected` is the only frame that a RECORD run would
write now.  The frame is tested as the gate tests it, for its slot, its address and its guard, and the splice ends BROKEN or GUARDED where
the gate would be cut; otherwise it is entered, and at the start frame the override becomes active (R85, R103, R147, R153; log entries 23
and 55). -/
def rehearseWrite (sp : Splice) (expected w : Nat) (s : State) : State :=
  if codedSlot s sp.tag w = none ∨ w ≠ expected then finishSplice .broken none (some ⟨w, 0⟩) false s
  else if barred s sp.tag w then rehearseCut .guarded (some .guarded) (some ⟨w, 0⟩) s
  else { s with eng := { s.eng with splice := some { sp with entered := some w } }
                mon := { s.mon with override := s.mon.override || sp.entered.isNone } }

/-- The head enters frame `w` during a rehearsed splice, as the gate meets it in a RECORD run: before the start frame nothing happens; the
next frame entered after the final one completes the splice, whichever it is; any other must be the start frame, or the one after the
frame entered last (R146, R153; log entry 55). -/
def rehearseMark (w : Nat) (s : State) : State :=
  match s.eng.splice with
  | none => s
  | some sp =>
    match sp.rehearse, sp.start, sp.entered with
    | true, some start, none => if w < start.addr then s else rehearseWrite sp start.addr w s
    | true, _, some x => if sp.final = some x then completeSplice s else rehearseWrite sp (x + 1) w s
    | _, _, _ => s

/-! ### The heads at a mark -/

/-- The write head enters frame `w` (R29, R30, R99, R103). -/
def enterFrame (w : Nat) (s : State) : State := releasePassed w (abandonUpTo w (rehearseMark w (gateEnter w s)))

def enterHead (s : State) : State :=
  match s.tl.head with
  | none => s
  | some w => enterFrame w s

/-- PREREAD slots that the mark has put behind the write head, by address or by age (R29). -/
def behindHead (s : State) : List SlotId :=
  let l := s.order.filter fun i => s.slots[i].isPreRead
  let aged := l.take (l.length - (s.geo.d - 1))
  l.filter fun i => aged.contains i || (match s.tl.head, s.slots[i].addr with
    | some w, some a => decide (a < w)
    | _, _ => false)

def releaseBehind (s : State) : State := releaseAll (behindHead s) s

/-! ### The judge list at a mark (R106) -/

/-- At a mark that closes no confidence frame, the entries due at it cannot be judged: they leave the list (log entry 41). -/
def dropDue (s : State) : State :=
  let gone := s.judge.filter fun e => !e.designated && decide (e.due ≤ 1)
  releaseAll (gone.map (·.slot)) { s with judge := s.judge.filter fun e => e.designated || !decide (e.due ≤ 1) }

/-- The mark reaches the judge list. -/
def judgeMark (s : State) : State := tickJudge (if s.conf.assembly.isSome then s else dropDue s)

/-! ### The coding offer (R91) -/

/-- The write frame `x` is offered with the intake frame closed at this mark; it waits for the PRE-READ frames closed by now that are
not yet concealed (R91). -/
def offerCoding (x : Nat) (closed : Option ClosedIntake) (s : State) : State :=
  { s with coding := s.coding ++
      [⟨x, closed.getD failedIntake, s.pre.closing.length + s.conceal.list.length, none⟩] }

/-- With no write frame offered, the READY slot is released at once (R88). -/
def offer (closed : Option ClosedIntake) (s : State) : State :=
  match s.tl.offered with
  | some x => offerCoding x closed s
  | none => releaseOpt (closed.bind (·.slot)) s

/-! ### The Monitor Selector at a mark (R79 to R84) -/

/-- The PREREAD source of the frame period that begins (R80). -/
def choosePre (s : State) : Option SlotId :=
  if s.tl.state.placed then s.tl.head.bind (lookup s)
  else
    let l := s.order.filter fun i => s.slots[i].isPreRead
    (l.drop (l.length - (s.geo.d - 1))).head?

/-- The next mix, when it is the mix of the frame the head enters (R81). -/
def nextMixFor (s : State) : Option Mix :=
  s.mon.next.filter fun m => some m.addr == s.tl.head

/-- The write of the entered frame begins at this mark, with the gate OPEN or LAST (R84). -/
def writeBegins (s : State) : Bool :=
  writeEnable s && (match s.gate.write, s.tl.head with
    | some w, some a => w.addr == a && w.sectors == 0
    | _, _ => false)

/-- The choices of the frame period that the mark begins; `conf` is the slot of the confidence frame it closes (R80, R81, R84). -/
def monitorMark (conf : Option SlotId) (s : State) : State :=
  if s.tl.mode = .play then
    let mix := nextMixFor s
    { s with mon := { s.mon with current := mix, next := none, outPos := some 0, preSlot := choosePre s, confSlot := conf,
                                 autoMix := mix.isSome && writeBegins s } }
  else { s with mon := { s.mon with current := none, next := none, autoMix := false } }

/-! ### The mark -/

/-- The intake closes its frame at a mark in PLAY (R88). -/
def intakeClose (s : State) : Option ClosedIntake × State :=
  if s.tl.mode = .play then closeIntake s.tl.offered s else (none, s)

/-- The engine's work at a mark that offers a write frame (R140, R142). -/
def engineMark (s : State) : State :=
  match s.tl.offered with
  | some x => askDue s.eng.prepared (prepareAt x s)
  | none => s

/-- In PLAY the intake begins its next frame, unless the one that closed was begun at another S (`stale`); the write frame is offered,
and the engine prepares ahead (R88, R91, R140, R142). -/
def playMark (stale : Bool) (closed : Option ClosedIntake) (s : State) : State :=
  if s.tl.mode = .play then engineMark (offer closed (if stale then s else beginIntake s)) else s

/-- FRAME_MARK. -/
def takeMark (s : State) : State :=
  let s1 := reckon (layTick s)
  let (closed, s2) := intakeClose s1
  let due := dueNow s2
  let s3 := releaseBehind (enterHead (judgeMark s2))
  let confSlot := s3.conf.assembly.bind (·.slot)
  let s4 := closeEvent .confidence true due none (closeEvent .preRead true 0 none s3)
  let s5 := monitorMark confSlot (playMark (intakeStale s1) closed s4)
  settleCloses .confidence (settleCloses .preRead s5)

def execFrameMark (s : State) : Res := .next (takeMark s)

end Sys2Proof.Machine
end

