-- ==== Sys2Proof/Machine/Monitor.lean ====
section
/-! DEFINITION. The Monitor Selector and the output lines: the source of an output sample period, the scrub output, the output mark and
the digital output's blocks (R35, R79 to R85, R124, R125). -/

namespace Sys2Proof.Machine

/-- What the output lines carry in one output sample period: the pair, and its copy mark (R79, R124). -/
structure Carried where
  pair : SamplePair
  mark : CopyMark
  deriving DecidableEq, Repr

/-- Silence, from any rule that gives silence (R124). -/
def quiet : Carried := ⟨silence, .free⟩

/-- The mark in a slot's header, decoded or inherited (R124). -/
def Slot.markOf (x : Slot) : CopyMark := (x.header.map (·.mark)).getD .free

/-- Position k of a slot, with its header's mark (R80, R124). -/
def slotCarried (s : State) (i : SlotId) (k : Nat) : Carried := ⟨slotPair s (some i) k, s.slots[i].markOf⟩

/-! ### The sources -/

/-- The INPUT source (R82); its mark is the present one of the source's record, NEVER when that is UNKNOWN (R124). -/
def inputFrom (r : SourceRec) (pair : Option SamplePair) : Carried :=
  match pair with
  | none => quiet
  | some p => ⟨p, if r.status.valid then r.status.mark else .never⟩

def inputCarried (s : State) : Carried :=
  match s.intake.source with
  | .analog => inputFrom s.sources.analog s.mon.lastAnalog
  | .digital => inputFrom s.sources.digital s.mon.lastDigital
  | .fly => quiet

/-- The PREREAD source at a position (R80).  A chosen slot that is freed before the next mark, by the end of its last hold for one (R31),
gives silence from then on, and a frame that has become CONCEALED in it by then gives that frame's audio (log entry 59). -/
def preCarried (s : State) (k : Nat) : Carried :=
  match s.mon.preSlot.filter fun i => s.slots[i].isPreRead with
  | none => quiet
  | some i => slotCarried s i k

/-- A DECODED CONFIDENCE slot (R80). -/
def Slot.isDecoded (x : Slot) : Bool := x.state == .decoded && x.role == some .confidence

/-- A pair with zero at the positions flagged bad (R80). -/
def maskBad (x : Slot) (k : Nat) (p : SamplePair) : SamplePair :=
  ⟨if x.bad.left.contains k then 0 else p.left, if x.bad.right.contains k then 0 else p.right⟩

/-- The CONFIDENCE source at a position: silence until the frame's slot is DECODED, then the slot unconcealed (R80).  A newer DECODED slot
that a frame change makes within the period frees the chosen one (R30): silence from then on, unless another frame has become DECODED in it
by then (log entry 59). -/
def confCarried (s : State) (k : Nat) : Carried :=
  match s.mon.confSlot.filter fun i => s.slots[i].isDecoded with
  | none => quiet
  | some i => ⟨maskBad s.slots[i] k (slotPair s (some i) k), s.slots[i].markOf⟩

/-- The mix source at a position (R81); beyond the mix's own pairs a free value (log entry 3). -/
def mixCarried (s : State) (k : Nat) : Carried :=
  match s.mon.current with
  | none => quiet
  | some m => ⟨m.pairs.getD k ⟨Config.freeSample s.fresh 0 k, Config.freeSample s.fresh 1 k⟩, m.mark⟩

/-- A frame-based source at the output position: silence before the first mark in PLAY, and from position S on (R79). -/
def atPosition (s : State) (f : State → Nat → Carried) : Carried :=
  match s.mon.outPos with
  | none => quiet
  | some k => if k < framePairs s.clock.rate then f s k else quiet

/-- The source of an output sample period in PLAY (R84, R85). -/
def playCarried (s : State) : Carried :=
  if s.mon.override then atPosition s mixCarried
  else match s.mon.stored with
    | .input => inputCarried s
    | .preRead => atPosition s preCarried
    | .confidence => atPosition s confCarried
    | .auto => atPosition s (if s.mon.autoMix then mixCarried else preCarried)

/-! ### The scrub output (R35) -/

/-- The pinned slot of an address. -/
def pinnedSlot (s : State) (a : Nat) : Option SlotId := slotIds.find? fun i => s.slots[i].pinned && s.slots[i].addr == some a

/-- The scrub output at the pointer's integer part (R35). -/
def scrubCarried (s : State) : Carried :=
  match s.jog.window with
  | none => quiet
  | some w =>
    let S := framePairs s.clock.rate
    let k := s.jog.pointer / 8
    match pinnedSlot s (w + k / S) with
    | none => quiet
    | some i => slotCarried s i (k % S)

/-- The pointer moves by the ratio and wraps at the window's ends (R35). -/
def movePointer (length r p : Nat) (d : Dir) : Nat :=
  match d with
  | .forward => if length ≤ p + r then p + r - length else p + r
  | .reverse => if p < r then p + length - r else p - r

/-- The scrub pointer after an output sample period (R35; log entry 27). -/
def moveScrub (s : State) : State :=
  match s.jog.window with
  | none => s
  | some _ =>
    { s with jog := { s.jog with
        pointer := movePointer (s.jog.length * framePairs s.clock.rate * 8) s.tl.ratio s.jog.pointer s.tl.dir } }

/-! ### An output sample period -/

/-- What the lines carry now, by the posted mode (R79). -/
def carriedNow (s : State) : Carried :=
  match s.tl.mode with
  | .jog => scrubCarried s
  | .shuttle | .spool => quiet
  | .stop => if s.mon.stored = .input then inputCarried s else quiet
  | .play => playCarried s

/-- The lines carry a pair, which joins the output block; a block of 256 that nothing has ended gives way to the next (R125; log entry
29). -/
def Outputs.carry (o : Outputs) (c : Carried) : Outputs :=
  let fresh := decide (256 ≤ o.blockCount)
  { o with pair := c.pair, mark := c.mark, blockCount := if fresh then 1 else o.blockCount + 1,
           blockMark := if fresh then c.mark else combine o.blockMark c.mark }

/-- OUTPUT_SAMPLE_PERIOD (R79).  Outside PLAY the output position stands still (log entry 58). -/
def outputPeriod (s : State) : State :=
  let s1 := { s with out := s.out.carry (carriedNow s) }
  let s2 := match s.tl.mode with
    | .jog => moveScrub s1
    | .play => { s1 with mon := { s1.mon with outPos := s1.mon.outPos.map (· + 1) } }
    | _ => s1
  bumpFresh s2

def execOutputSamplePeriod (s : State) : Res := .next (outputPeriod s)

/-- DIGITAL_OUTPUT_BLOCK_END: the status record of the block just ended is sent, and the next block begins (R125, R194). -/
def blockEnd (s : State) : State :=
  if s.out.blockCount = 256 then
    { s with out := { s.out with status := some (statusByte s.out.blockMark s.clock.rate), blockCount := 0, blockMark := .free } }
  else s

def execDigitalOutputBlockEnd (s : State) : Res := .next (blockEnd s)

/-! ### SET MONITOR (R83) -/

def monitorBody (selection : Byte) (s : State) : State × Reply :=
  match named monSels selection with
  | none => (s, refuse .range)
  | some m =>
    ({ s with mon := { s.mon with stored := m } }, ⟨.done, be 1 (codeIn monSels m) ++ flagByte s.mon.override⟩)

def execSetMonitor (p : Port) (selection : Byte) (s : State) : Res := .next (command p 0x33 true (monitorBody selection) s)

end Sys2Proof.Machine
end

