-- ==== Sys2Proof/Machine/Transport.lean ====
section
/-! DEFINITION. POST TRANSPORT: the posted mode, the timeline's response, and what leaving PLAY does to the other blocks (R10, R11, R48,
R66, R78, R88, R99, R104, R106, R149). -/

namespace Sys2Proof.Machine

/-- A posting that fits: the mode, with the direction and the ratio or speed it records (R10). -/
structure Posting where
  mode : Mode
  dir : Option Dir
  ratio : Option Nat
  speed : Option Nat
  deriving DecidableEq, Repr

/-- The posting that POST TRANSPORT carries, or none where it is refused with RANGE (R10, R185). -/
def postingOf (mode dir arg : Byte) : Option Posting :=
  match named modes mode, named dirs dir with
  | some .stop, _ => some ⟨.stop, none, none, none⟩
  | some .spool, _ => some ⟨.spool, none, none, none⟩
  | some .play, some .forward => some ⟨.play, none, none, none⟩
  | some .jog, some d => if 1 ≤ arg.toNat ∧ arg.toNat ≤ 8 then some ⟨.jog, some d, some arg.toNat, none⟩ else none
  | some .shuttle, some d =>
    if 2 ≤ arg.toNat ∧ arg.toNat ≤ 32 then some ⟨.shuttle, some d, none, some arg.toNat⟩ else none
  | _, _ => none

/-- The timeline with the posting recorded (R10). -/
def Timeline.record (t : Timeline) (q : Posting) : Timeline :=
  { t with mode := q.mode, dir := q.dir.getD t.dir, ratio := q.ratio.getD t.ratio, speed := q.speed.getD t.speed }

/-- PARKED, from any state; from LAYING the position becomes the last handed address plus D − 2 when that lies on the tape (R11). -/
def Timeline.park (t : Timeline) (d : Nat) : Timeline :=
  { t with state := .parked, coast := 0, run := 0, candidate := none, generated := none, handed := none,
           position := match t.state, t.handed with
             | .laying, some h => if legalAddr (h + d - 2) then h + d - 2 else t.position
             | _, _ => t.position }

/-- The timeline's response to a posting (R11). -/
def Timeline.posted (t : Timeline) (q : Posting) (d : Nat) : Timeline :=
  let u := t.record q
  if u.mode = .stop ∨ u.mode = .spool then u.park d
  else if t.mode = u.mode ∧ t.dir = u.dir then u
  else match t.state with
    | .parked => { u with state := .acquiring, candidate := some t.position, run := 0 }
    | .acquiring => { u with run := 0 }
    | .laying => leaveLaying u d
    | .unlocked | .locked | .coasting => u

/-- The transport leaves PLAY: the engine breaks, the gate is cut, coding and the intake frame are abandoned, undesignated judge
entries go unjudged, and no head is known (R8, R88, R99, R104, R106, R149). -/
def leavePlay (s : State) : State :=
  let s1 := cutGate .transport (engineBreak s)
  let s2 := dropUnjudged (abandonIntake (abandonOps (fun _ => true) s1))
  { s2 with tl := s2.tl.unreckoned }

/-- PLAY is entered: the output position is absent until the next mark (R78). -/
def enterPlay (s : State) : State := { s with mon := { s.mon with outPos := none } }

/-- The capture channels follow a posting (R48), and the concealment records the PRE-READ channel (R66). -/
def readersFollow (s : State) : State :=
  let follow := fun ch t => startReading ch (stopReading ch t)
  concealIdle (follow .confidence (follow .preRead s))

/-- A posting is taken (R10, R11), in the order of log entry 8. -/
def takePosting (q : Posting) (s : State) : State :=
  let old := s.tl.mode
  let s1 := timelineSet (s.tl.posted q s.geo.d) s
  let s2 := if old = .play ∧ q.mode ≠ .play then leavePlay s1 else s1
  let s3 := if old ≠ .play ∧ q.mode = .play then enterPlay s2 else s2
  readersFollow s3

def postBody (mode dir arg : Byte) (s : State) : State × Reply :=
  match postingOf mode dir arg with
  | none => (s, refuse .range)
  | some q => (takePosting q s, done)

/-- POST TRANSPORT (R10). -/
def execPostTransport (p : Port) (mode dir arg : Byte) (s : State) : Res :=
  .next (command p 0x10 true (postBody mode dir arg) s)

end Sys2Proof.Machine
end

