-- ==== Sys2Proof/Machine/Clock.lean ====
section
/-! DEFINITION. The Clock Monitor: references, the clock rate in force, and the loss of a reference (R20 to R23). -/

namespace Sys2Proof.Machine

/-- The record of a reference: the crystal is always present at the configured rate (R20). -/
def Clock.track (c : Clock) : RefSel → RefTrack
  | .internal => ⟨true, some c.configured⟩
  | .word => c.word
  | .digital => c.digital

def Clock.setTrack (c : Clock) (r : RefLine) (x : RefTrack) : Clock :=
  match r with
  | .word => { c with word := x }
  | .digital => { c with digital := x }

def refSel : RefLine → RefSel
  | .word => .word
  | .digital => .digital

/-- The Clock Monitor takes a new record.  When the clock rate in force changes, S and H change for every block: coding operations are
abandoned, the bank length changes, and the scrub pointer is set as at formation (R20, R35, R39, R99). -/
def setClock (c : Clock) (s : State) : State :=
  let s1 := { s with clock := c }
  if c.rate = s.clock.rate then s1 else resetPointer (resizeBanks (abandonOps (fun _ => true) s1))

/-- The clock after SET REFERENCE (R21). -/
def Clock.select (c : Clock) (r : RefSel) : Clock :=
  let u := { c with selection := r }
  if c.lost then u
  else match r with
    | .internal => { u with running := .internal, rate := c.configured }
    | _ => if c.track r = ⟨true, some c.rate⟩ then { u with running := r } else u

/-- The clock after SET RATE (R21). -/
def Clock.configure (c : Clock) (r : Rate) : Clock :=
  let u := { c with configured := r }
  if c.lost = true ∨ c.selection = .internal then { u with running := .internal, rate := r } else u

/-- SET REFERENCE and SET RATE: a code that is not defined is refused with RANGE, and a gate that is not CLOSED with STATE (R21). -/
def clockBody {α : Type} (o : Option α) (f : Clock → α → Clock) (s : State) : State × Reply :=
  match o with
  | none => (s, refuse .range)
  | some a => if s.gate.state ≠ .closed then (s, refuse .state) else (setClock (f s.clock a) s, done)

def execSetReference (p : Port) (selection : Byte) (s : State) : Res :=
  .next (command p 0x14 true (clockBody (named refSels selection) Clock.select) s)

def execSetRate (p : Port) (rate : Byte) (s : State) : Res :=
  .next (command p 0x15 true (clockBody (named rates rate) Clock.configure) s)

/-- CLEAR CLOCK LOST (R23). -/
def clearClockBody (s : State) : State × Reply :=
  let x := s.clock.track s.clock.selection
  if s.clock.lost = false then (s, done)
  else if x.present = false then (s, refuse .state)
  else
    (setClock { s.clock with lost := false, running := s.clock.selection, rate := x.measured.getD s.clock.rate } s, done)

def execClearClockLost (p : Port) (s : State) : Res := .next (command p 0x16 true clearClockBody s)

/-- Whether the part runs on the crystal (0) or on the selected reference (1); a free value while it runs on a clock that is neither
(log entry 4). -/
def runningByte (s : State) : List Byte :=
  if s.clock.running = .internal then be 1 0
  else if s.clock.running = s.clock.selection then be 1 1
  else be 1 (Config.freeNat s.fresh)

/-- The clock state in the order of R23. -/
def clockBytes (s : State) : List Byte :=
  let c := s.clock
  let x := c.track c.selection
  be 1 (codeIn refSels c.selection) ++ be 1 (codeIn rates c.configured) ++ be 1 (codeIn rates c.rate) ++ runningByte s
    ++ optBytes 1 ((if x.present then x.measured else none).map fun r => be 1 (codeIn rates r)) ++ flagByte c.lost

/-- QUERY CLOCK (R23). -/
def execQueryClock (p : Port) (s : State) : Res :=
  .next (command p 0x17 true (fun t => (bumpFresh t, ⟨.done, clockBytes t⟩)) s)

/-- The subject of CLOCK_LOST (R22). -/
def lostSubject : RefSel → Nat
  | .internal => 0
  | .word => 1
  | .digital => 2

/-- The Edit Engine learns of the loss: a gate that is not CLOSED is cut with cause CLOCK, and a rehearsed splice ends as a recorded one
would (R22, R104, R147, R153; log entry 55). -/
def clockCut (s : State) : State := cutGate .clock (rehearseCut .broken none (cutPoint s) s)

/-- REFERENCE_LOST (R22): with CLOCK LOST set or INTERNAL selected no loss is detected.  R22 has the effects take place together; the
model posts CLOCK_LOST before the notices of the splice that the loss ends (R196; log entry 8). -/
def referenceLost (s : State) : State :=
  if s.clock.lost = true ∨ s.clock.selection = .internal then s
  else
    let s1 := post .clockLost (lostSubject s.clock.selection) none none { s with clock := { s.clock with lost := true } }
    clockCut (setClock { s1.clock with running := .internal, rate := s1.clock.configured } s1)

def execReferenceLost (s : State) : Res := .next (referenceLost s)

/-- The record of the selected line after its edges were seen at the rate in force. -/
def Clock.adopt (c : Clock) : Clock :=
  match c.selection with
  | .internal => c
  | .word => { c with running := .word, word := ⟨true, some c.rate⟩ }
  | .digital => { c with running := .digital, digital := ⟨true, some c.rate⟩ }

/-- REFERENCE_ADOPTED (R21): the selected reference's edges arrive at the rate in force; they also record it present (log entry 33). -/
def referenceAdopted (s : State) : State :=
  if s.clock.lost = true ∨ s.clock.running = s.clock.selection then s else setClock s.clock.adopt s

def execReferenceAdopted (s : State) : Res := .next (referenceAdopted s)

/-- REFERENCE_PRESENT (R20). -/
def execReferencePresent (ref : RefLine) (rate : Rate) (s : State) : Res :=
  .next { s with clock := s.clock.setTrack ref ⟨true, some rate⟩ }

/-- REFERENCE_ABSENT (R20): the rate last measured is kept. -/
def execReferenceAbsent (ref : RefLine) (s : State) : Res :=
  .next { s with clock := s.clock.setTrack ref ⟨false, (s.clock.track (refSel ref)).measured⟩ }

end Sys2Proof.Machine
end

