-- ==== Sys2Proof/Machine/Notices.lean ====
section
/-! DEFINITION. The Notice Unit's commands and expiries (R197 to R203), and the resets (R24, R179, R189, R190, R205). -/

namespace Sys2Proof.Machine

/-! ### The queues (R200 to R203) -/

def setNotices (p : Port) (q : NoticePort) (s : State) : State := { s with notices := s.notices.set p q }

/-- COLLECT NOTICE (R195, R202). -/
def collectBody (p : Port) (s : State) : State × Reply :=
  let q := s.notices.get p
  match q.queue with
  | [] => (s, done)
  | n :: rest =>
    (setNotices p { q with queue := rest } s,
     ⟨.done, noticeBytes n ++ be 1 rest.length ++ be 1 q.overflow ++ be 1 q.expired⟩)

def execCollectNotice (p : Port) (s : State) : Res := .next (command p 0x70 true (collectBody p) s)

/-- The route that a set byte names: bit 0 Deck, bit 1 Transport, bit 2 Studio (R188). -/
def routeOf (b : Byte) : PerPort Bool := ⟨b.getLsbD 0, b.getLsbD 1, b.getLsbD 2⟩

def setRoute (i : Fin 16) (r : PerPort Bool) (s : State) : State := { s with routes := s.routes.set i r }

/-- SET ROUTE (R188, R197). -/
def routeBody (kind route : Byte) (s : State) : State × Reply :=
  if h : 1 ≤ kind.toNat ∧ kind.toNat ≤ 16 then
    if route.toNat < 8 then (setRoute ⟨kind.toNat - 1, by omega⟩ (routeOf route) s, done) else (s, refuse .range)
  else (s, refuse .range)

def execSetRoute (p : Port) (kind route : Byte) (s : State) : Res := .next (command p 0x71 true (routeBody kind route) s)

/-- SET ATTENTION (R203). -/
def execSetAttention (p : Port) (flag : Byte) (s : State) : Res :=
  .next (command p 0x72 (isFlag flag)
    (fun t => (setNotices p { t.notices.get p with attention := flag == 1 } t, done)) s)

/-- SET EXPIRY (R201). -/
def execSetExpiry (p : Port) (seconds : Byte) (s : State) : Res :=
  .next (command p 0x73 true (setting (decide (1 ≤ seconds.toNat ∧ seconds.toNat ≤ 8)) fun t =>
    setNotices p { t.notices.get p with expiryTime := seconds.toNat } t) s)

/-- An entry with a deadline, of this kind and subject. -/
def expirable (k : NoticeKind) (subject : Nat) (n : Notice) : Bool := sameEntry k subject n && n.deadline.isSome

/-- A queue loses the entry whose deadline is reached (R200). -/
def NoticePort.expire (q : NoticePort) (k : NoticeKind) (subject : Nat) : NoticePort :=
  if q.queue.any (expirable k subject) then
    { q with queue := q.queue.filter fun n => !expirable k subject n, expired := saturate 255 (q.expired + 1) }
  else q

/-- NOTICE_EXPIRY (R200). -/
def execNoticeExpiry (p : Port) (kind : NoticeKind) (subject : Nat) (s : State) : Res :=
  .next (setNotices p ((s.notices.get p).expire kind subject) s)

/-! ### The resets -/

/-- What a port reset leaves of a port's notice record (R205). -/
def NoticePort.emptied (q : NoticePort) : NoticePort := { q with queue := [], overflow := 0, expired := 0 }

/-- The effect of RESET PORT (R189). -/
def resetPort (p : Port) (s : State) : State :=
  dropFetch p (endHolds p (setNotices p (s.notices.get p).emptied s))

def execResetPort (p : Port) (s : State) : Res := .next (command p 0x7E true (fun t => (resetPort p t, done)) s)

/-- Every block takes its device reset values; the guard table and lock, the Take Counter, CLOCK LOST and the framers stay, and so do
the model's own queue and counter and the GUARD RELEASE line (R190). -/
def deviceValues (s : State) : State :=
  { State.reset with
    pending := s.pending, fresh := s.fresh, framers := s.framers, guard := s.guard, guardRelease := s.guardRelease
    clock := { Clock.reset with lost := s.clock.lost }, eng := { Engine.reset with takeCounter := s.eng.takeCounter } }

/-- RESET DEVICE (R190): the gate is cut, then every block is reset. -/
def execResetDevice (p : Port) (s : State) : Res :=
  .next (command p 0x7F true (fun t => (deviceValues (cutGate .reset t), done)) s)

/-- A framer after power-on reset: DRAINING while select is low (R179). -/
def Framer.powered : Framer → Framer
  | .idle => .idle
  | _ => .draining

/-- POWER_ON_RESET: every block takes its power-on reset values (R24, R46, R65, R131, R179, R190, R205). -/
def powerOn (s : State) : State :=
  { State.reset with
    pending := s.pending, fresh := s.fresh, guardRelease := s.guardRelease, framers := s.framers.map Framer.powered }

def execPowerOnReset (s : State) : Res := .next (powerOn s)

end Sys2Proof.Machine
end

