-- ==== Sys2Proof/Machine/Ports.lean ====
section
/-! DEFINITION. The framers: select, bytes, and the transactions that carry the commands (R178 to R182, R191). -/

namespace Sys2Proof.Machine

def setFramer (p : Port) (f : Framer) (s : State) : State := { s with framers := s.framers.set p f }

/-- SELECT_FALL (R179). -/
def execSelectFall (p : Port) (s : State) : Res :=
  .next (if s.framers.get p = .idle then setFramer p .command s else s)

/-- SELECT_RISE (R179, R180): bytes received and replies not yet sent are lost. -/
def execSelectRise (p : Port) (s : State) : Res := .next (setFramer p .idle s)

/-- An unknown command byte is answered UNKNOWN with data length 0 (R181). -/
def answerUnknown (p : Port) (s : State) : State := answer p (refuse .unknown) s

/-- UNKNOWN_COMMAND (R181).  The row is the whole transaction, so it does not ask in which state the framer stands (log entry 1); a byte of
the catalogue changes nothing (log entry 16). -/
def execUnknownCommand (p : Port) (b : Byte) (s : State) : Res :=
  .next (if known b then s else answerUnknown p s)

/-! ### Operands from parameter bytes (R178, R185 to R188) -/

/-- Parameter byte i. -/
def par (l : List Byte) (i : Nat) : Byte := l.getD i 0

/-- Two parameter bytes from i, most significant first. -/
def par2 (l : List Byte) (i : Nat) : BitVec 16 := par l i ++ par l (i + 1)

/-- Three parameter bytes from i. -/
def par3 (l : List Byte) (i : Nat) : BitVec 24 := par l i ++ par l (i + 1) ++ par l (i + 2)

/-- The parameters of WRITE ENTRY after the place (R187). -/
def entryPars (l : List Byte) : RawEntry where
  inAddr := par3 l 1
  inOffset := par2 l 4
  outAddr := par3 l 6
  outOffset := par2 l 9
  source := par l 11
  method := par l 12
  tcPresent := par l 13
  tcHours := par l 14
  tcMinutes := par l 15
  tcSeconds := par l 16
  tcFrames := par l 17
  lay := par l 18
  fadeIn := par2 l 19
  fadeOut := par2 l 21
  takePresent := par l 23
  take := par l 24
  notify := par l 25

/-- STOP PROGRAM: NOW 0, AT END 1; another code does not fit (R182, R187). -/
def takeStop (p : Port) (b : Byte) (s : State) : Res :=
  match b.toNat with
  | 0 => execStopProgramNow p s
  | 1 => execStopProgramAtEnd p s
  | _ => .next (command p 0x54 false (fun t => (t, done)) s)

/-- Commands 10h to 28h are taken (R185). -/
def takeTimelineStore (p : Port) (cmd : Nat) (l : List Byte) (s : State) : Res :=
  match cmd with
  | 0x10 => execPostTransport p (par l 0) (par l 1) (par l 2) s
  | 0x11 => execQueryTimeline p s
  | 0x12 => execSetCoastLimit p (par l 0) s
  | 0x14 => execSetReference p (par l 0) s
  | 0x15 => execSetRate p (par l 0) s
  | 0x16 => execClearClockLost p s
  | 0x17 => execQueryClock p s
  | 0x20 => execHoldFrame p (par3 l 0) s
  | 0x21 => execReleaseFrame p (par3 l 0) s
  | 0x22 => execReadAudio p (par3 l 0) (par l 3) (par2 l 4) (par l 6) s
  | 0x23 => execSetJogWindow p (par l 0) s
  | 0x24 => execWriteFly p (par l 0) (par2 l 1) (pairsOf (l.drop 4)) s
  | 0x25 => execWriteFlyNext p (par l 0) (pairsOf (l.drop 2)) s
  | 0x26 => execCloseBank p (par l 0) (par2 l 1) (par l 3) (par l 4) (par l 5) s
  | 0x27 => execReleaseBank p (par l 0) s
  | 0x28 => execQueryBanks p s
  | _ => .next (answerUnknown p s)

/-- Commands 30h to 46h are taken (R186). -/
def takeCaptureStatus (p : Port) (cmd : Nat) (l : List Byte) (s : State) : Res :=
  match cmd with
  | 0x30 => execQueryStatistics p s
  | 0x31 => execClearStatistics p s
  | 0x32 => execSetConceal p (par l 0) (par l 1) (par2 l 2) (par l 4) s
  | 0x33 => execSetMonitor p (par l 0) s
  | 0x34 => execSetHeadGeometry p (par l 0) (par l 1) s
  | 0x35 => execSetFaultLimit p (par l 0) s
  | 0x36 => execSetManualPunch p (par l 0) (par2 l 1) s
  | 0x40 => execSetAnalogPolicy p (par l 0) (par l 1) s
  | 0x41 => execWriteGuardSpan p (par l 0) (par3 l 1) (par3 l 4) s
  | 0x42 => execEraseGuardSpan p (par l 0) s
  | 0x43 => execSetGuardInvert p (par l 0) s
  | 0x44 => execSetGuardLock p s
  | 0x45 => execClearGuardLock p s.guardRelease s
  | 0x46 => execQuerySources p s.guardRelease s
  | _ => .next (answerUnknown p s)

/-- Commands 50h to 66h are taken (R187). -/
def takeEngineCue (p : Port) (cmd : Nat) (l : List Byte) (s : State) : Res :=
  match cmd with
  | 0x50 => execWriteEntry p (par l 0) (entryPars l) s
  | 0x51 => execEraseEntry p (par l 0) s
  | 0x52 => execReadEntry p (par l 0) (par l 1) s
  | 0x53 => execStartProgram p (par l 0) (par l 1) (par2 l 2) s
  | 0x54 => takeStop p (par l 0) s
  | 0x55 => execPunchIn p s
  | 0x56 => execPunchOut p s
  | 0x57 => execQueryProgram p s
  | 0x58 => execReadResult p (par l 0) s
  | 0x59 => execClearResults p s
  | 0x5A => execSetPreroll p (par2 l 0) s
  | 0x60 => execWriteCue p (par l 0) (par l 1) (par l 2) (par l 3) (par l 4) (par l 5) (par l 6) (par l 7) s
  | 0x61 => execEraseCue p (par l 0) s
  | 0x62 => execArmCue p (par l 0) (par l 1) s
  | 0x63 => execConfigurePunch p (par l 0) (par l 1) (par l 2) (par l 3) (par l 4) (par l 5) s
  | 0x64 => execArmPunch p (par l 0) (par l 1) s
  | 0x65 => execClearPunch p (par l 0) s
  | 0x66 => execQueryPunch p s
  | _ => .next (answerUnknown p s)

/-- Commands 70h to 7Fh are taken (R188). -/
def takeNotice (p : Port) (cmd : Nat) (l : List Byte) (s : State) : Res :=
  match cmd with
  | 0x70 => execCollectNotice p s
  | 0x71 => execSetRoute p (par l 0) (par l 1) s
  | 0x72 => execSetAttention p (par l 0) s
  | 0x73 => execSetExpiry p (par l 0) s
  | 0x7E => execResetPort p s
  | 0x7F => execResetDevice p s
  | _ => .next (answerUnknown p s)

/-- A command whose last byte has completed is taken, by the very meaning of its row (R182; log entry 1). -/
def takeCommand (p : Port) (cmd : Nat) (l : List Byte) (s : State) : Res :=
  if cmd < 0x30 then takeTimelineStore p cmd l s
  else if cmd < 0x50 then takeCaptureStatus p cmd l s
  else if cmd < 0x70 then takeEngineCue p cmd l s
  else takeNotice p cmd l s

/-- A byte completes in COMMAND (R179, R181). -/
def commandByte (p : Port) (b : Byte) (s : State) : Res :=
  if known b = false then .next (answerUnknown p s)
  else if complete b.toNat [] then takeCommand p b.toNat [] s
  else .next (setFramer p (.parameters [b]) s)

/-- A byte completes in PARAMETERS, after the command byte and the parameters received before it (R179, R181). -/
def parameterByte (p : Port) (cmd : Byte) (l : List Byte) (b : Byte) (s : State) : Res :=
  if complete cmd.toNat (l ++ [b]) then takeCommand p cmd.toNat (l ++ [b]) s
  else .next (setFramer p (.parameters (cmd :: (l ++ [b]))) s)

/-- A byte completes in REPLY: the framer goes to DRAINING with the last one (R179). -/
def replyByte (p : Port) (l : List Byte) (s : State) : State :=
  setFramer p (match l with
    | _ :: x :: rest => .reply (x :: rest)
    | _ => .draining) s

/-- BYTE_COMPLETION (R179). -/
def execByteCompletion (p : Port) (b : Byte) (s : State) : Res :=
  match s.framers.get p with
  | .idle | .draining => .next s
  | .command => commandByte p b s
  | .parameters (cmd :: l) => parameterByte p cmd l b s
  | .parameters [] => .next s
  | .reply l => .next (replyByte p l s)

end Sys2Proof.Machine
end

