-- ==== Sys2Proof/Machine/Dispatch.lean ====
section
/-! DEFINITION. The meaning of every row: one arm per constructor of `Instr`. -/

namespace Sys2Proof.Machine

def exec (i : Instr) (s : State) : Host.Outcome State Fault Refusal :=
  match i with
  | .powerOnReset => Sys2Proof.Machine.execPowerOnReset s
  | .selectFall p => Sys2Proof.Machine.execSelectFall p s
  | .selectRise p => Sys2Proof.Machine.execSelectRise p s
  | .unknownCommand p b => Sys2Proof.Machine.execUnknownCommand p b s
  | .postTransport p mode dir arg => Sys2Proof.Machine.execPostTransport p mode dir arg s
  | .queryTimeline p => Sys2Proof.Machine.execQueryTimeline p s
  | .setCoastLimit p limit => Sys2Proof.Machine.execSetCoastLimit p limit s
  | .setReference p selection => Sys2Proof.Machine.execSetReference p selection s
  | .setRate p rate => Sys2Proof.Machine.execSetRate p rate s
  | .clearClockLost p => Sys2Proof.Machine.execClearClockLost p s
  | .queryClock p => Sys2Proof.Machine.execQueryClock p s
  | .holdFrame p addr => Sys2Proof.Machine.execHoldFrame p addr s
  | .releaseFrame p addr => Sys2Proof.Machine.execReleaseFrame p addr s
  | .readAudio p addr channel start count => Sys2Proof.Machine.execReadAudio p addr channel start count s
  | .setJogWindow p length => Sys2Proof.Machine.execSetJogWindow p length s
  | .writeFly p bank start pairs => Sys2Proof.Machine.execWriteFly p bank start pairs s
  | .writeFlyNext p bank pairs => Sys2Proof.Machine.execWriteFlyNext p bank pairs s
  | .closeBank p bank count cls remaining rate => Sys2Proof.Machine.execCloseBank p bank count cls remaining rate s
  | .releaseBank p bank => Sys2Proof.Machine.execReleaseBank p bank s
  | .queryBanks p => Sys2Proof.Machine.execQueryBanks p s
  | .queryStatistics p => Sys2Proof.Machine.execQueryStatistics p s
  | .clearStatistics p => Sys2Proof.Machine.execClearStatistics p s
  | .setConceal p bridge hold fade recover => Sys2Proof.Machine.execSetConceal p bridge hold fade recover s
  | .setMonitor p selection => Sys2Proof.Machine.execSetMonitor p selection s
  | .setHeadGeometry p d c => Sys2Proof.Machine.execSetHeadGeometry p d c s
  | .setFaultLimit p limit => Sys2Proof.Machine.execSetFaultLimit p limit s
  | .setManualPunch p source fade => Sys2Proof.Machine.execSetManualPunch p source fade s
  | .setAnalogPolicy p cls remaining => Sys2Proof.Machine.execSetAnalogPolicy p cls remaining s
  | .writeGuardSpan p place first last => Sys2Proof.Machine.execWriteGuardSpan p place first last s
  | .eraseGuardSpan p place => Sys2Proof.Machine.execEraseGuardSpan p place s
  | .setGuardInvert p flag => Sys2Proof.Machine.execSetGuardInvert p flag s
  | .setGuardLock p => Sys2Proof.Machine.execSetGuardLock p s
  | .clearGuardLock p release => Sys2Proof.Machine.execClearGuardLock p release s
  | .querySources p release => Sys2Proof.Machine.execQuerySources p release s
  | .writeEntry p place entry => Sys2Proof.Machine.execWriteEntry p place entry s
  | .eraseEntry p place => Sys2Proof.Machine.execEraseEntry p place s
  | .readEntry p selector place => Sys2Proof.Machine.execReadEntry p selector place s
  | .startProgram p mode passes version => Sys2Proof.Machine.execStartProgram p mode passes version s
  | .stopProgramNow p => Sys2Proof.Machine.execStopProgramNow p s
  | .stopProgramAtEnd p => Sys2Proof.Machine.execStopProgramAtEnd p s
  | .punchIn p => Sys2Proof.Machine.execPunchIn p s
  | .punchOut p => Sys2Proof.Machine.execPunchOut p s
  | .queryProgram p => Sys2Proof.Machine.execQueryProgram p s
  | .readResult p position => Sys2Proof.Machine.execReadResult p position s
  | .clearResults p => Sys2Proof.Machine.execClearResults p s
  | .setPreroll p preroll => Sys2Proof.Machine.execSetPreroll p preroll s
  | .writeCue p entry hh mm ss ff action rep armed => Sys2Proof.Machine.execWriteCue p entry hh mm ss ff action rep armed s
  | .eraseCue p entry => Sys2Proof.Machine.execEraseCue p entry s
  | .armCue p entry arm => Sys2Proof.Machine.execArmCue p entry arm s
  | .configurePunch p input active detection period rep action => Sys2Proof.Machine.execConfigurePunch p input active detection period rep action s
  | .armPunch p input arm => Sys2Proof.Machine.execArmPunch p input arm s
  | .clearPunch p input => Sys2Proof.Machine.execClearPunch p input s
  | .queryPunch p => Sys2Proof.Machine.execQueryPunch p s
  | .collectNotice p => Sys2Proof.Machine.execCollectNotice p s
  | .setRoute p kind route => Sys2Proof.Machine.execSetRoute p kind route s
  | .setAttention p flag => Sys2Proof.Machine.execSetAttention p flag s
  | .setExpiry p seconds => Sys2Proof.Machine.execSetExpiry p seconds s
  | .resetPort p => Sys2Proof.Machine.execResetPort p s
  | .resetDevice p => Sys2Proof.Machine.execResetDevice p s
  | .frameMark => Sys2Proof.Machine.execFrameMark s
  | .sectorArrival ch bytes => Sys2Proof.Machine.execSectorArrival ch bytes s
  | .samplePairArrival line pair => Sys2Proof.Machine.execSamplePairArrival line pair s
  | .digitalStatusRecord record => Sys2Proof.Machine.execDigitalStatusRecord record s
  | .referenceLost => Sys2Proof.Machine.execReferenceLost s
  | .referenceAdopted => Sys2Proof.Machine.execReferenceAdopted s
  | .markTimeout => Sys2Proof.Machine.execMarkTimeout s
  | .shuttleTimerExpiry => Sys2Proof.Machine.execShuttleTimerExpiry s
  | .statusTimeout => Sys2Proof.Machine.execStatusTimeout s
  | .noticeExpiry p kind subject => Sys2Proof.Machine.execNoticeExpiry p kind subject s
  | .punchSample line level => Sys2Proof.Machine.execPunchSample line level s
  | .outputSamplePeriod => Sys2Proof.Machine.execOutputSamplePeriod s
  | .intakeSamplePeriod => Sys2Proof.Machine.execIntakeSamplePeriod s
  | .digitalOutputBlockEnd => Sys2Proof.Machine.execDigitalOutputBlockEnd s
  | .inputPairTimeout line => Sys2Proof.Machine.execInputPairTimeout line s
  | .sectorEmission => Sys2Proof.Machine.execSectorEmission s
  | .closeOperationComplete ch => Sys2Proof.Machine.execCloseOperationComplete ch s
  | .concealmentComplete => Sys2Proof.Machine.execConcealmentComplete s
  | .codingOperationBegin => Sys2Proof.Machine.execCodingOperationBegin s
  | .codingOperationComplete => Sys2Proof.Machine.execCodingOperationComplete s
  | .fetchComplete p => Sys2Proof.Machine.execFetchComplete p s
  | .byteCompletion p b => Sys2Proof.Machine.execByteCompletion p b s
  | .referencePresent ref rate => Sys2Proof.Machine.execReferencePresent ref rate s
  | .referenceAbsent ref => Sys2Proof.Machine.execReferenceAbsent ref s

end Sys2Proof.Machine
end

