-- ==== Sys2Proof/Machine/Step.lean ====
section
/-! DEFINITION. One step: the command or event at the front of the queue is taken whole (95_what_each_step_holds). -/

namespace Sys2Proof.Machine

/-- Take the front of the queue and run it on the rest; on an empty queue the block idles (log entry 9). -/
def step (s : State) : Host.Outcome State Fault Refusal :=
  match s.pending with
  | [] => .next s
  | i :: rest => exec i { s with pending := rest }

/-- The state with the command that a word spells put at the front of the queue; unchanged where the word spells none. -/
def State.withFetchWord (s : State) (nbits w : Nat) : State :=
  match decodeTableWord nbits w with
  | some i => { s with pending := i :: s.pending }
  | none => s

end Sys2Proof.Machine
end

