-- ==== Sys2Proof/Safety.lean ====
section
/-! DEFINITION. What counts as a safe run: every step answers a next state, the part keeps the laws that the spec names, and the settings
change only by their own commands. -/

namespace Sys2Proof.Machine

/-- A step that neither faults nor refuses (R182: every command is answered, and every event has its effect). -/
def stepsOn (s : State) : Prop := ∃ t, step s = .next t

/-! ### The laws -/

/-- The law of a notice queue: at most 8 entries, no two of one kind and subject, counts from 1 to 255, a deadline exactly for an
expiring kind; overflow and expired counts at most 255 (R196, R198, R199). -/
def NoticePort.ok (q : NoticePort) : Prop :=
  q.queue.length ≤ 8 ∧ (q.queue.map fun n => (n.kind, n.subject)).Nodup
    ∧ (∀ n ∈ q.queue, 1 ≤ n.count ∧ n.count ≤ 255 ∧ n.deadline.isSome = expiring n.kind)
    ∧ q.overflow ≤ 255 ∧ q.expired ≤ 255

def noticesOk (s : State) : Prop := s.notices.deck.ok ∧ s.notices.transport.ok ∧ s.notices.studio.ok

/-- The Timeline Unit's laws (R14): the coast count never exceeds the Coast Limit, which is at least 1, and it is 0 outside COASTING;
the timeline is PARKED exactly while the posted mode is STOP or SPOOL, so it is never LOCKED then; LAYING only in PLAY (R17). -/
def Timeline.ok (t : Timeline) : Prop :=
  (1 ≤ t.coastLimit ∧ t.coast ≤ t.coastLimit ∧ (t.state ≠ .coasting → t.coast = 0))
    ∧ (t.state = .parked ↔ t.mode = .stop ∨ t.mode = .spool) ∧ (t.state = .laying → t.mode = .play)

/-- The gate's law (R103, R105): a frame is being written exactly while the gate is OPEN or LAST, the states in which write-enable is on,
and the frame being written is not guarded. -/
def Gate.ok (x : Gate) (g : Guard) : Prop :=
  (x.write.isSome = true ↔ x.state = .opened ∨ x.state = .last) ∧ ∀ w, x.write = some w → guarded g w.addr = false

def gateOk (s : State) : Prop := s.gate.ok s.guard

/-- The gate after a cut: CLOSED, with its holder, its frames, its write and its pending stop gone; a CLOSED gate is left alone (R104). -/
def Gate.cut (g : Gate) : Gate :=
  if g.state = .closed then g
  else { g with state := .closed, holder := none, first := none, final := none, write := none, pendingStop := false }

/-- At most one bank is PLAYING (R39). -/
def Banks.ok (b : Banks) : Prop := ¬(b.b0.state = .playing ∧ b.b1.state = .playing)

/-- The results list holds at most 16 entries (R159), and the Take Counter lies in 1..255 (R137). -/
def Engine.ok (e : Engine) : Prop := e.results.length ≤ 16 ∧ e.resultsLost ≤ 65535 ∧ 1 ≤ e.takeCounter ∧ e.takeCounter ≤ 255

/-- The parity store of a frame is in canonical form. -/
def CaptureFrame.wf (f : CaptureFrame) : Prop := f.p.wf = true ∧ f.q.wf = true

/-- The parity stores of a channel are in canonical form. -/
def Capture.wf (c : Capture) : Prop := (∀ f, c.assembly = some f → f.wf) ∧ ∀ x ∈ c.closing, x.frame.wf

/-- Every buffer is in canonical form: slots, fly banks and parity stores. -/
def buffersWf (s : State) : Prop :=
  (∀ i : SlotId, s.slots[i].audio.wf = true) ∧ (s.banks.b0.pairs.wf = true ∧ s.banks.b1.pairs.wf = true)
    ∧ s.pre.wf ∧ s.conf.wf

/-- The number of FREE slots: with one for each request that follows, no request fails (R27, R28). -/
def freeSlots (s : State) : Nat := (slotIds.filter fun i => s.slots[i].state == .free).length

/-! ### The jog window -/

/-- Slot `i` is the newest CONCEALED PREREAD slot of address `a` (R34). -/
def newestAt (s : State) (a : Nat) (i : SlotId) : Prop :=
  (s.slots[i].isPreRead = true ∧ s.slots[i].addr = some a)
    ∧ ∃ before after, s.order = before ++ i :: after ∧ ∀ k ∈ after, ¬(s.slots[k].isPreRead = true ∧ s.slots[k].addr = some a)

/-- A slot that the window of `s` covers with the slots of `u`: the newest CONCEALED PREREAD slot of an address in it (R34). -/
def windowCovers (s u : State) (i : SlotId) : Prop :=
  ∃ w a, s.jog.window = some w ∧ w ≤ a ∧ a < w + s.jog.length ∧ newestAt u a i

/-- The window is present exactly in JOG with the timeline LOCKED or COASTING, and begins at the block of the position (R34). -/
def windowFollows (s : State) : Prop :=
  s.jog.window = if s.tl.mode = .jog ∧ (s.tl.state = .locked ∨ s.tl.state = .coasting)
    then some (s.tl.position - s.tl.position % s.jog.length) else none

/-- The window and the pins are in the condition of R34, and no slot is due that nothing defers (R31). -/
def windowPins (s : State) : Prop :=
  windowFollows s ∧ (∀ i : SlotId, s.slots[i].pinned = true ↔ windowCovers s s i)
    ∧ ∀ i : SlotId, s.slots[i].due = true → blocked s i = true

/-- From `s` to `t` the window's length stays, and the scrub pointer keeps its value unless the window forms, which sets it to the start of
the position's frame (R35). -/
def scrubFollows (s t : State) : Prop :=
  t.jog.length = s.jog.length
    ∧ t.jog.pointer = match s.jog.window, t.jog.window with
      | none, some w => (t.tl.position - w) * framePairs t.clock.rate * 8
      | _, _ => s.jog.pointer

/-- What a move of the pins from `s` to `t` does to slot `i`: nothing but its pin, or its release when it was due and neither a hold, nor a
fetch in flight, nor its new pin keeps it (R31, R34). -/
def pinSettled (s t : State) (i : SlotId) : Prop :=
  let stays := s.slots[i].due = false ∨ s.slots[i].isHeld = true ∨ (∃ p f, s.fetch.get p = .inFlight f ∧ f.slot = i)
    ∨ t.slots[i].pinned = true
  (stays → t.slots[i] = { s.slots[i] with pinned := t.slots[i].pinned })
    ∧ (¬stays → t.slots[i] = Slot.reset ∧ (s.order.Nodup → i ∉ t.order))

/-! ### Settings -/

/-- The posting of R10 and the Coast Limit. -/
structure TimelineSettings where
  coastLimit : Nat
  mode : Mode
  dir : Dir
  ratio : Nat
  speed : Nat
  deriving DecidableEq, Repr

def Timeline.settings (t : Timeline) : TimelineSettings := ⟨t.coastLimit, t.mode, t.dir, t.ratio, t.speed⟩

/-- What only a port command, a byte, a select edge or a reset may change, with the model's own queue. -/
structure Settings where
  pending : List Instr
  framers : PerPort Framer
  routes : Vector (PerPort Bool) 16
  attention : PerPort (Bool × Nat)
  geo : Geometry
  timeline : TimelineSettings
  selection : RefSel
  configured : Rate
  jogLength : Nat
  conceal : ConcealParams
  monitor : MonSel
  faultLimit : Nat
  manual : ManualSettings
  policy : CopyMark
  guard : Guard
  guardRelease : Bool
  draft : Vector (Option Entry) 16
  version : Nat
  preroll : Nat
  deriving DecidableEq, Repr

/-- The settings of a state. -/
def settingsOf (s : State) : Settings where
  pending := s.pending
  framers := s.framers
  routes := s.routes
  attention := s.notices.map fun q => (q.attention, q.expiryTime)
  geo := s.geo
  timeline := s.tl.settings
  selection := s.clock.selection
  configured := s.clock.configured
  jogLength := s.jog.length
  conceal := s.conceal.params
  monitor := s.mon.stored
  faultLimit := s.gate.faultLimit
  manual := s.manual
  policy := s.sources.policy
  guard := s.guard
  guardRelease := s.guardRelease
  draft := s.eng.draft
  version := s.eng.version
  preroll := s.eng.preroll

/-- The settings whose range the spec gives, in range: the Coast Limit, the posted ratio and speed (R10, R14), the head geometry (R9), the
Jog Window Length (R36), the concealment parameters (R76), the Fault Limit (R108), the manual fade (R109), the Draft Version (R133), the
Preroll (R161), the guard spans (R126) and the Expiry Times (R198). -/
def settingsInRange (s : State) : Prop :=
  (1 ≤ s.tl.coastLimit ∧ s.tl.coastLimit ≤ 30) ∧ (1 ≤ s.tl.ratio ∧ s.tl.ratio ≤ 8) ∧ (2 ≤ s.tl.speed ∧ s.tl.speed ≤ 32)
    ∧ (2 ≤ s.geo.d ∧ s.geo.d ≤ 6 ∧ 1 ≤ s.geo.c ∧ s.geo.c ≤ 4)
    ∧ s.jog.length ∈ [1, 2, 4, 8]
    ∧ (1 ≤ s.conceal.params.bridge ∧ s.conceal.params.bridge ≤ 16 ∧ s.conceal.params.hold ≤ 64
        ∧ 16 ≤ s.conceal.params.fade ∧ s.conceal.params.fade ≤ 1024
        ∧ 1 ≤ s.conceal.params.recover ∧ s.conceal.params.recover ≤ 64)
    ∧ s.gate.faultLimit ≤ 8 ∧ s.manual.fade ≤ 3200 ∧ s.eng.version < 65536 ∧ (30 ≤ s.eng.preroll ∧ s.eng.preroll ≤ 300)
    ∧ (∀ (i : Fin 8) (x : Span), s.guard.places[i] = some x → x.first ≤ x.last ∧ x.last < 2592000)
    ∧ ∀ p : Port, 1 ≤ (s.notices.get p).expiryTime ∧ (s.notices.get p).expiryTime ≤ 8

/-- The rows that no port sends: line events and timers, without the select edges, the bytes and power-on. -/
def isEvent : Instr → Bool
  | .frameMark | .sectorArrival _ _ | .samplePairArrival _ _ | .digitalStatusRecord _ | .referenceLost | .referenceAdopted
  | .markTimeout | .shuttleTimerExpiry | .statusTimeout | .noticeExpiry _ _ _ | .punchSample _ _ | .outputSamplePeriod
  | .intakeSamplePeriod | .digitalOutputBlockEnd | .inputPairTimeout _ | .sectorEmission | .closeOperationComplete _
  | .concealmentComplete | .codingOperationBegin | .codingOperationComplete | .fetchComplete _ | .referencePresent _ _
  | .referenceAbsent _ => true
  | _ => false

/-- The port on which a command is taken and the byte that commands it (R183, R185 to R188); none for the rows that are no command of
the catalogue. -/
def catalogue : Instr → Option (Port × Nat)
  | .postTransport p _ _ _ => some (p, 0x10)
  | .queryTimeline p => some (p, 0x11)
  | .setCoastLimit p _ => some (p, 0x12)
  | .setReference p _ => some (p, 0x14)
  | .setRate p _ => some (p, 0x15)
  | .clearClockLost p => some (p, 0x16)
  | .queryClock p => some (p, 0x17)
  | .holdFrame p _ => some (p, 0x20)
  | .releaseFrame p _ => some (p, 0x21)
  | .readAudio p _ _ _ _ => some (p, 0x22)
  | .setJogWindow p _ => some (p, 0x23)
  | .writeFly p _ _ _ => some (p, 0x24)
  | .writeFlyNext p _ _ => some (p, 0x25)
  | .closeBank p _ _ _ _ _ => some (p, 0x26)
  | .releaseBank p _ => some (p, 0x27)
  | .queryBanks p => some (p, 0x28)
  | .queryStatistics p => some (p, 0x30)
  | .clearStatistics p => some (p, 0x31)
  | .setConceal p _ _ _ _ => some (p, 0x32)
  | .setMonitor p _ => some (p, 0x33)
  | .setHeadGeometry p _ _ => some (p, 0x34)
  | .setFaultLimit p _ => some (p, 0x35)
  | .setManualPunch p _ _ => some (p, 0x36)
  | .setAnalogPolicy p _ _ => some (p, 0x40)
  | .writeGuardSpan p _ _ _ => some (p, 0x41)
  | .eraseGuardSpan p _ => some (p, 0x42)
  | .setGuardInvert p _ => some (p, 0x43)
  | .setGuardLock p => some (p, 0x44)
  | .clearGuardLock p _ => some (p, 0x45)
  | .querySources p _ => some (p, 0x46)
  | .writeEntry p _ _ => some (p, 0x50)
  | .eraseEntry p _ => some (p, 0x51)
  | .readEntry p _ _ => some (p, 0x52)
  | .startProgram p _ _ _ => some (p, 0x53)
  | .stopProgramNow p => some (p, 0x54)
  | .stopProgramAtEnd p => some (p, 0x54)
  | .punchIn p => some (p, 0x55)
  | .punchOut p => some (p, 0x56)
  | .queryProgram p => some (p, 0x57)
  | .readResult p _ => some (p, 0x58)
  | .clearResults p => some (p, 0x59)
  | .setPreroll p _ => some (p, 0x5A)
  | .writeCue p _ _ _ _ _ _ _ _ => some (p, 0x60)
  | .eraseCue p _ => some (p, 0x61)
  | .armCue p _ _ => some (p, 0x62)
  | .configurePunch p _ _ _ _ _ _ => some (p, 0x63)
  | .armPunch p _ _ => some (p, 0x64)
  | .clearPunch p _ => some (p, 0x65)
  | .queryPunch p => some (p, 0x66)
  | .collectNotice p => some (p, 0x70)
  | .setRoute p _ _ => some (p, 0x71)
  | .setAttention p _ => some (p, 0x72)
  | .setExpiry p _ => some (p, 0x73)
  | .resetPort p => some (p, 0x7E)
  | .resetDevice p => some (p, 0x7F)
  | _ => none

/-- Two bytes of a number, most significant first (R178). -/
def bytes16 (w : BitVec 16) : List Byte := [w.extractLsb' 8 8, w.extractLsb' 0 8]

/-- Three bytes of a number, most significant first (R178). -/
def bytes24 (w : BitVec 24) : List Byte := [w.extractLsb' 16 8, w.extractLsb' 8 8, w.extractLsb' 0 8]

/-- Five bytes of a sample pair: the left sample's 20 bits, then the right sample's (R184). -/
def pairBytes (p : SamplePair) : List Byte :=
  let w : BitVec 40 := p.left ++ p.right
  [w.extractLsb' 32 8, w.extractLsb' 24 8, w.extractLsb' 16 8, w.extractLsb' 8 8, w.extractLsb' 0 8]

/-- The parameter bytes of WRITE ENTRY after the place, in catalogue order (R187). -/
def rawEntryBytes (x : RawEntry) : List Byte :=
  bytes24 x.inAddr ++ bytes16 x.inOffset ++ bytes24 x.outAddr ++ bytes16 x.outOffset ++ [x.source, x.method, x.tcPresent,
    x.tcHours, x.tcMinutes, x.tcSeconds, x.tcFrames, x.lay] ++ bytes16 x.fadeIn ++ bytes16 x.fadeOut ++ [x.takePresent, x.take, x.notify]

/-- A header that the part writes to tape: its address legal, its timecode in range, its take in one byte (R7). -/
def Header.onTape (h : Header) : Bool :=
  (match h.addr with
    | some a => legalAddr a
    | none => false)
  && h.tc.all Timecode.legal && decide (h.take < 256)

/-- What a command sees of the lines when it is taken: the two rows that carry the level of GUARD RELEASE record it (log entry 10). -/
def seen : Instr → State → State
  | .clearGuardLock _ release, s => { s with guardRelease := release }
  | .querySources _ release, s => { s with guardRelease := release }
  | _, s => s

end Sys2Proof.Machine
end

