-- ==== Sys2Proof/Certificates/Slice0/Obligations.lean ====
section
/-! DEFINITION. The statements for the provers, from the numbered rules of spec/.  A frame is said by putting back the fields that a
command may write: the result is then the state before it. -/

open Sys2Proof Sys2Proof.Machine

/-! ### Steps, ports and resets -/

/-- A step takes the command at the front of the queue and is its meaning on the queue's rest (log entry 9). -/
def Obligations.StepRunsTheFrontOfTheQueue : Prop :=
  ∀ (c : Instr) (rest : List Instr) (s : State), step { s with pending := c :: rest } = exec c { s with pending := rest }

/-- Every command and event answers a next state and leaves the queue of waiting commands alone; on an empty queue the block idles (R182;
log entry 9, the model's choice). -/
def Obligations.EveryStepAnswersANextState : Prop :=
  (∀ (i : Instr) (s : State), ∃ t, exec i s = .next t ∧ t.pending = s.pending)
  ∧ (∀ s : State, s.pending = [] → step s = .next s)

/-- The reset values, each block's in turn: the values that the spec gives, and where it gives none the values that log entries 15 (the select
lines) and 32 name. -/
def Obligations.ResetLeavesTheGivenValues : Prop :=
  let s := State.reset
  (s.tl = { state := .parked, position := 0, timecode := none, tapeRate := none, coast := 0, candidate := none, run := 0, generated := none,
            coastLimit := 8, mode := .stop, dir := .forward, ratio := 8, speed := 2, offered := none, handed := none, head := none,
            confHead := none } ∧ s.geo = ⟨3, 2⟩)
    ∧ s.clock = { selection := .internal, configured := .r48, lost := true, running := .internal, rate := .r48, word := ⟨false, none⟩,
                  digital := ⟨false, none⟩ }
    ∧ ((∀ i : SlotId, s.slots[i] = {
          state := .free, role := none, addr := none, header := none, tag := none, inherited := false,
          bad := ⟨[], []⟩, concealed := false, muted := ⟨0, 0⟩, holders := ⟨false, false, false⟩, pinned := false, due := false, audio := [],
          layout := .r48 })
        ∧ s.order = [] ∧ s.jog = ⟨4, none, 0⟩ ∧ s.fetch = ⟨.empty, .empty, .empty⟩)
    ∧ (∀ n : BankId, s.banks.get n = { state := .empty, writePos := 0, count := none, mark := none, rate := none, readPos := 0, pairs := [] }
        ∧ ∀ a, (s.banks.get n).pairs.read a = 0)
    ∧ (∀ ch, capture s ch = { assembly := none, closing := [], reference := none, headless := 0, stats := ⟨0, 0, 0, 0, 0⟩ }
        ∧ channelState (capture s ch) = .idle)
    ∧ ((∀ c : ConcealRec, c = s.conceal.left ∨ c = s.conceal.right → c = {
          state := .clean, gain := ⟨1, 1⟩, lastGood := 0, carried := none,
          hold := 0, fade := none, recover := 0, bridged := 0, longRuns := 0, mutes := 0 })
        ∧ s.conceal.params = ⟨8, 16, 256, 32⟩ ∧ s.conceal.list = [] ∧ s.conceal.op = none)
    ∧ (s.mon = { stored := .auto, override := false, current := none, next := none, outPos := none, preSlot := none, confSlot := none,
                 autoMix := false, lastAnalog := none, lastDigital := none }
        ∧ s.out = { pair := ⟨0, 0⟩, mark := .free, blockCount := 0, blockMark := .free, status := none, sector := none })
    ∧ (s.intake = { source := .analog, fifo := [], priming := false, flyStart := none, frame := none } ∧ s.coding = [] ∧ s.lastCoded = none
        ∧ s.gate = { state := .closed, holder := none, first := none, final := none, write := none, pendingStop := false, opening := 0,
                     run := 0, faultLimit := 3 }
        ∧ s.judge = [] ∧ s.manual = ⟨.analog, 480⟩)
    ∧ (s.sources.analog = ⟨⟨true, .free, none⟩, 0, [(0, ⟨true, .free, none⟩)]⟩ ∧ s.sources.policy = .free ∧ s.sources.timedOut = false
        ∧ ∀ i : SrcId, i ≠ .analog → s.sources.get i = ⟨⟨false, .free, none⟩, 0, [(0, ⟨false, .free, none⟩)]⟩)
    ∧ ((∀ i : Fin 8, s.guard.places[i] = none) ∧ s.guard.invert = false ∧ s.guard.lock = false)
    ∧ ((∀ i : Fin 16, s.eng.draft[i] = none ∧ s.eng.active[i] = none)
        ∧ { s.eng with draft := Engine.reset.draft, active := Engine.reset.active } =
          { draft := Engine.reset.draft, active := Engine.reset.active, version := 0, state := .idle, run := 0, pass := 0, mode := none,
            passes := none, runTake := none, takeCounter := 1, prepared := [], splice := none, bankFor := none, locate := 0, layWait := none,
            results := [], resultsLost := 0, preroll := 90 })
    ∧ (∀ i : Fin 24, s.cues[i] = {
        present := false, armed := false, hh := none, mm := none, ss := none, ff := none, action := .notify,
        rep := .oneShot, lastFiring := none })
    ∧ (∀ l, punchLine s l = {
        active := .low, detection := .edge, period := .ms10, rep := .single, action := .notify, armed := false,
        previous := .high, filtered := .high, detected := false, last := none })
    ∧ (∀ p : Port, s.notices.get p = { queue := [], overflow := 0, expired := 0, attention := true, expiryTime := 4 }
        ∧ attention s p = false ∧ s.framers.get p = .idle) ∧ alert s = false ∧ writeEnable s = false
    ∧ (∀ (k : NoticeKind) (r : PerPort Bool), (k, r) ∈ [(.cueFired, ⟨true, false, true⟩), (.punchDetected, ⟨true, false, false⟩),
        (.spliceEnded, ⟨true, false, true⟩), (.programState, ⟨true, true, true⟩), (.locateRequest, ⟨false, true, false⟩),
        (.passEnd, ⟨false, true, false⟩), (.flySwitch, ⟨false, false, true⟩), (.flyStarved, ⟨true, false, true⟩),
        (.writeFault, ⟨true, false, false⟩), (.dropout, ⟨true, false, false⟩), (.lockChange, ⟨true, true, false⟩),
        (.clockLost, ⟨true, false, false⟩), (.sourceStatus, ⟨true, false, false⟩), (.recordRefused, ⟨true, false, true⟩),
        (.storeOverrun, ⟨true, false, false⟩), (.intakeSlip, ⟨true, false, false⟩)] → s.routes[kindIndex k] = r)

/-- Power-on reset gives every block its power-on values, and a port whose select is low drains; RESET_DEVICE is answered DONE and gives the
same but that the guard table, the invert flag, the Guard Lock, the Take Counter, CLOCK LOST and the framers stay (R24, R131, R179, R190).  The
GUARD RELEASE line, the queue and the free-value counter are no state of a block, and log entry 32 names the values that the spec does not give. -/
def Obligations.PowerOnAndDeviceReset : Prop :=
  (∀ s : State, exec .powerOnReset s = .next { State.reset with
    pending := s.pending, fresh := s.fresh, guardRelease := s.guardRelease
    framers := s.framers.map fun f => if f = .idle then .idle else .draining })
  ∧ (∀ (p : Port) (s : State), permitted p 0x7F = true →
    exec (.resetDevice p) s = .next (answer p done { State.reset with
      pending := s.pending, fresh := s.fresh, framers := s.framers, guard := s.guard, guardRelease := s.guardRelease
      clock := { Clock.reset with lost := s.clock.lost }
      eng := { Engine.reset with takeCounter := s.eng.takeCounter } }))

/-- RESET_PORT from any port empties its queue with its counts, ends its holds and empties its fetch record.  A slot that the port held or was
fetching from, whose release was due and that nothing else blocks, becomes FREE and leaves the allocation order; every other slot only loses
the port's hold (R31, R33, R38, R189, R205). -/
def Obligations.PortResetActsOnItsOwnPort : Prop :=
  ∀ (p : Port) (s : State),
    let given : SlotId → Prop := fun i => s.slots[i].holders.get p = true ∨ ∃ f, s.fetch.get p = .inFlight f ∧ f.slot = i
    let free : SlotId → Prop := fun i => s.slots[i].pinned = false
      ∧ ∀ q, q ≠ p → s.slots[i].holders.get q = false ∧ ∀ f, s.fetch.get q = .inFlight f → f.slot ≠ i
    ∃ t, exec (.resetPort p) s = .next (answer p done t)
      ∧ t.notices = s.notices.set p { s.notices.get p with queue := [], overflow := 0, expired := 0 }
      ∧ t.fetch.get p = .empty ∧ (∀ q, q ≠ p → t.fetch.get q = s.fetch.get q)
      ∧ (∀ i : SlotId, given i → s.slots[i].due = true → free i →
          t.slots[i] = Slot.reset ∧ (s.order.Nodup → i ∉ t.order))
      ∧ (∀ i : SlotId, ¬(given i ∧ s.slots[i].due = true ∧ free i) →
          t.slots[i] = { s.slots[i] with holders := s.slots[i].holders.set p false } ∧ (i ∈ t.order ↔ i ∈ s.order))
      ∧ t.order.Sublist s.order
      ∧ { t with notices := s.notices, fetch := s.fetch, slots := s.slots, order := s.order } = s

/-- What moves a framer: the select edges, and each byte that completes.  IDLE and DRAINING ignore a byte; COMMAND and PARAMETERS take the
command with its last byte or keep the bytes; REPLY sends on, and drains with the last byte.  Data out carries the next byte of the reply in
REPLY, and all ones in every other state (R178, R179, R180).  A select edge that cannot come and a byte while select is high change nothing
(log entry 16, the model's choice). -/
def Obligations.FramersMove : Prop :=
  (∀ (p : Port) (s : State),
    (s.framers.get p = .idle → exec (.selectFall p) s = .next { s with framers := s.framers.set p .command })
      ∧ (s.framers.get p ≠ .idle → exec (.selectFall p) s = .next s)
      ∧ exec (.selectRise p) s = .next { s with framers := s.framers.set p .idle })
  ∧ (∀ (p : Port) (b : Byte) (s : State),
    (s.framers.get p = .idle ∨ s.framers.get p = .draining → exec (.byteCompletion p b) s = .next s)
    ∧ (s.framers.get p = .command → known b = true → exec (.byteCompletion p b) s =
        if complete b.toNat [] then takeCommand p b.toNat [] s
        else .next { s with framers := s.framers.set p (.parameters [b]) })
    ∧ (∀ (cmd : Byte) (l : List Byte), s.framers.get p = .parameters (cmd :: l) → exec (.byteCompletion p b) s =
        if complete cmd.toNat (l ++ [b]) then takeCommand p cmd.toNat (l ++ [b]) s
        else .next { s with framers := s.framers.set p (.parameters (cmd :: (l ++ [b]))) })
    ∧ (∀ (x y : Byte) (l : List Byte), s.framers.get p = .reply (x :: y :: l) →
        exec (.byteCompletion p b) s = .next { s with framers := s.framers.set p (.reply (y :: l)) })
    ∧ (∀ x : Byte, s.framers.get p = .reply [x] →
        exec (.byteCompletion p b) s = .next { s with framers := s.framers.set p .draining }))
  ∧ (∀ (p : Port) (s : State),
    (∀ (x : Byte) (l : List Byte), s.framers.get p = .reply (x :: l) → dataOut s p = x)
    ∧ ((∀ l, s.framers.get p ≠ .reply l) → dataOut s p = 0xFF)
    ∧ ∀ (r : Reply) (q : Port), dataOut (answer q r s) p = if p = q then BitVec.ofNat 8 (resultCode r.code) else dataOut s p)

/-- An unknown command byte is answered with the code UNKNOWN and a data length of 0, whatever is clocked in then is disregarded, and
the framer drains; 00h and FFh are unknown.  The two variable commands take as many pairs of five bytes as their length byte gives, and are
refused with RANGE outside 1..64; every other command has the number of parameter bytes that the catalogue gives (R181).  That the row is
taken in any state of the framer is the model's choice (log entry 1). -/
def Obligations.UnknownCommandIsAnswered : Prop :=
  (∀ (p : Port) (b : Byte) (s : State), known b = false →
      exec (.unknownCommand p b) s = .next { s with framers := s.framers.set p (.reply [0x0A, 0x00]) }
        ∧ (s.framers.get p = .command → exec (.byteCompletion p b) s = exec (.unknownCommand p b) s))
    ∧ (∀ (p : Port) (b : Byte) (s : State),
      (s.framers.get p = .reply [0x0A, 0x00] → exec (.byteCompletion p b) s = .next { s with framers := s.framers.set p (.reply [0x00]) })
      ∧ (s.framers.get p = .reply [0x00] → exec (.byteCompletion p b) s = .next { s with framers := s.framers.set p .draining })
      ∧ (s.framers.get p = .draining → exec (.byteCompletion p b) s = .next s))
    ∧ known 0x00 = false ∧ known 0xFF = false
    ∧ (let counts : List (Nat × Nat) := [(0x10, 3), (0x11, 0), (0x12, 1), (0x14, 1), (0x15, 1), (0x16, 0), (0x17, 0), (0x20, 3), (0x21, 3),
        (0x22, 7), (0x23, 1), (0x26, 6), (0x27, 1), (0x28, 0), (0x30, 0), (0x31, 0), (0x32, 5), (0x33, 1), (0x34, 2), (0x35, 1), (0x36, 3),
        (0x40, 2), (0x41, 7), (0x42, 1), (0x43, 1), (0x44, 0), (0x45, 0), (0x46, 0), (0x50, 26), (0x51, 1), (0x52, 2), (0x53, 4), (0x54, 1),
        (0x55, 0), (0x56, 0), (0x57, 0), (0x58, 1), (0x59, 0), (0x5A, 2), (0x60, 8), (0x61, 1), (0x62, 2), (0x63, 6), (0x64, 2), (0x65, 1),
        (0x66, 0), (0x70, 0), (0x71, 2), (0x72, 1), (0x73, 1), (0x7E, 0), (0x7F, 0)]
      (∀ b : Byte, known b = true ↔ b.toNat = 0x24 ∨ b.toNat = 0x25 ∨ ∃ n, (b.toNat, n) ∈ counts)
      ∧ ∀ c n : Nat, (c, n) ∈ counts → ∀ l : List Byte, complete c l = true ↔ l.length = n)
    ∧ (∀ l : List Byte, (complete 0x24 l = true ↔ ∃ n : Byte, l[3]? = some n ∧ l.length = 4 + 5 * n.toNat)
        ∧ (complete 0x25 l = true ↔ ∃ n : Byte, l[1]? = some n ∧ l.length = 2 + 5 * n.toNat))
    ∧ (∀ (p : Port) (bank : Byte) (start : BitVec 16) (pairs : List SamplePair) (s : State), p ≠ .transport →
        pairs.length < 1 ∨ 64 < pairs.length →
        exec (.writeFly p bank start pairs) s = .next (answer p (refuse .range) s)
          ∧ exec (.writeFlyNext p bank pairs) s = .next (answer p (refuse .range) s))

/-- A transaction's bytes are the row's operands: taking the bytes of a command is the meaning of its row (R182, R185 to R188; log entry 1, the
model's reading of the rows).  The two rows that carry the level of GUARD RELEASE read it from the line (log entry 10); STOP PROGRAM with a code
other than 0 and 1 is refused with RANGE. -/
def Obligations.TransactionsAreTheRows : Prop :=
  (∀ (p : Port) (s : State) (a b c d e f g : Byte) (items : List Byte),
    takeCommand p 0x10 [a, b, c] s = exec (.postTransport p a b c) s
    ∧ takeCommand p 0x11 [] s = exec (.queryTimeline p) s
    ∧ takeCommand p 0x12 [a] s = exec (.setCoastLimit p a) s
    ∧ takeCommand p 0x14 [a] s = exec (.setReference p a) s
    ∧ takeCommand p 0x15 [a] s = exec (.setRate p a) s
    ∧ takeCommand p 0x16 [] s = exec (.clearClockLost p) s
    ∧ takeCommand p 0x17 [] s = exec (.queryClock p) s
    ∧ takeCommand p 0x20 [a, b, c] s = exec (.holdFrame p (a ++ b ++ c)) s
    ∧ takeCommand p 0x21 [a, b, c] s = exec (.releaseFrame p (a ++ b ++ c)) s
    ∧ takeCommand p 0x22 [a, b, c, d, e, f, g] s = exec (.readAudio p (a ++ b ++ c) d (e ++ f) g) s
    ∧ takeCommand p 0x23 [a] s = exec (.setJogWindow p a) s
    ∧ takeCommand p 0x24 (a :: b :: c :: d :: items) s = exec (.writeFly p a (b ++ c) (pairsOf items)) s
    ∧ takeCommand p 0x25 (a :: b :: items) s = exec (.writeFlyNext p a (pairsOf items)) s
    ∧ takeCommand p 0x26 [a, b, c, d, e, f] s = exec (.closeBank p a (b ++ c) d e f) s
    ∧ takeCommand p 0x27 [a] s = exec (.releaseBank p a) s
    ∧ takeCommand p 0x28 [] s = exec (.queryBanks p) s)
  ∧ (∀ (p : Port) (s : State) (a b c d e f g : Byte),
    takeCommand p 0x30 [] s = exec (.queryStatistics p) s
    ∧ takeCommand p 0x31 [] s = exec (.clearStatistics p) s
    ∧ takeCommand p 0x32 [a, b, c, d, e] s = exec (.setConceal p a b (c ++ d) e) s
    ∧ takeCommand p 0x33 [a] s = exec (.setMonitor p a) s
    ∧ takeCommand p 0x34 [a, b] s = exec (.setHeadGeometry p a b) s
    ∧ takeCommand p 0x35 [a] s = exec (.setFaultLimit p a) s
    ∧ takeCommand p 0x36 [a, b, c] s = exec (.setManualPunch p a (b ++ c)) s
    ∧ takeCommand p 0x40 [a, b] s = exec (.setAnalogPolicy p a b) s
    ∧ takeCommand p 0x41 [a, b, c, d, e, f, g] s = exec (.writeGuardSpan p a (b ++ c ++ d) (e ++ f ++ g)) s
    ∧ takeCommand p 0x42 [a] s = exec (.eraseGuardSpan p a) s
    ∧ takeCommand p 0x43 [a] s = exec (.setGuardInvert p a) s
    ∧ takeCommand p 0x44 [] s = exec (.setGuardLock p) s
    ∧ takeCommand p 0x45 [] s = exec (.clearGuardLock p s.guardRelease) s
    ∧ takeCommand p 0x46 [] s = exec (.querySources p s.guardRelease) s
    ∧ takeCommand p 0x70 [] s = exec (.collectNotice p) s
    ∧ takeCommand p 0x71 [a, b] s = exec (.setRoute p a b) s
    ∧ takeCommand p 0x72 [a] s = exec (.setAttention p a) s
    ∧ takeCommand p 0x73 [a] s = exec (.setExpiry p a) s
    ∧ takeCommand p 0x7E [] s = exec (.resetPort p) s
    ∧ takeCommand p 0x7F [] s = exec (.resetDevice p) s)
  ∧ (∀ (p : Port) (s : State) (a b c d e f g h : Byte) (x : RawEntry),
    takeCommand p 0x50 (a :: rawEntryBytes x) s = exec (.writeEntry p a x) s
    ∧ takeCommand p 0x51 [a] s = exec (.eraseEntry p a) s
    ∧ takeCommand p 0x52 [a, b] s = exec (.readEntry p a b) s
    ∧ takeCommand p 0x53 [a, b, c, d] s = exec (.startProgram p a b (c ++ d)) s
    ∧ takeCommand p 0x54 [0] s = exec (.stopProgramNow p) s
    ∧ takeCommand p 0x54 [1] s = exec (.stopProgramAtEnd p) s
    ∧ (2 ≤ a.toNat → takeCommand p 0x54 [a] s = .next (answer p (refuse .range) s))
    ∧ takeCommand p 0x55 [] s = exec (.punchIn p) s
    ∧ takeCommand p 0x56 [] s = exec (.punchOut p) s
    ∧ takeCommand p 0x57 [] s = exec (.queryProgram p) s
    ∧ takeCommand p 0x58 [a] s = exec (.readResult p a) s
    ∧ takeCommand p 0x59 [] s = exec (.clearResults p) s
    ∧ takeCommand p 0x5A [a, b] s = exec (.setPreroll p (a ++ b)) s
    ∧ takeCommand p 0x60 [a, b, c, d, e, f, g, h] s = exec (.writeCue p a b c d e f g h) s
    ∧ takeCommand p 0x61 [a] s = exec (.eraseCue p a) s
    ∧ takeCommand p 0x62 [a, b] s = exec (.armCue p a b) s
    ∧ takeCommand p 0x63 [a, b, c, d, e, f] s = exec (.configurePunch p a b c d e f) s
    ∧ takeCommand p 0x64 [a, b] s = exec (.armPunch p a b) s
    ∧ takeCommand p 0x65 [a] s = exec (.clearPunch p a) s
    ∧ takeCommand p 0x66 [] s = exec (.queryPunch p) s)

/-- The privilege table, and what a command outside it is answered; every refused command carries no data and changes
nothing but the recorded level of GUARD RELEASE on the two rows that carry one (log entry 10, the model's choice), and every other answer is
DONE or ACCEPTED (R182, R183). -/
def Obligations.PrivilegeAndRefusals : Prop :=
  ((∀ (i : Instr) (p : Port) (cmd : Nat) (s : State), catalogue i = some (p, cmd) → permitted p cmd = false →
      exec i s = .next (answer p ⟨.privilege, []⟩ (seen i s)))
    ∧ (∀ cmd, permitted .deck cmd = true)
    ∧ (∀ cmd, permitted .studio cmd = false ↔ cmd ∈ [0x41, 0x42, 0x43, 0x44, 0x45, 0x34, 0x14, 0x15, 0x40, 0x71, 0x7F])
    ∧ (∀ cmd, permitted .transport cmd = true ↔ cmd ∈ [0x10, 0x11, 0x17, 0x28, 0x30, 0x46, 0x57, 0x66, 0x70, 0x72, 0x7E, 0x54]))
  ∧ (∀ (i : Instr) (p : Port) (cmd : Nat) (s : State), catalogue i = some (p, cmd) →
    ∃ r t, exec i s = .next (answer p r t) ∧ t.framers = s.framers
      ∧ (r.code = .done ∨ r.code = .accepted ∨ (r.data = [] ∧ t = seen i s)))

/-! ### The timeline and the clock -/

/-- POST TRANSPORT: which bytes make a posting, and what each records; any other is refused with RANGE.  A posting is answered DONE from any
port and any state: the timeline takes the record of R11, and no other setting changes (R10, R11, R185).  Leaving PLAY, or a lock loss, cuts the
gate; leaving PLAY abandons the coding operations and the intake frame, drops the judge entries that are not designated, gives back the CODED
slots that no judgement awaits, and ends a splice BROKEN; STOP and SPOOL abandon the frames in assembly, a reading mode begins one in an IDLE
channel, and an exit from LOCKED posts LOCK_CHANGE (R8, R18, R30, R48, R78, R88, R99, R104, R106, R149).  The order of these effects is log entry
8, the model's choice.  The jog window forms, stays or ends with the mode; it pins the newest CONCEALED PREREAD slot of each of its addresses, and a
due slot that loses its pin is released (R31, R34, R35). -/
def Obligations.PostTransport : Prop :=
  ((∀ mode dir arg : Byte, postingOf mode dir arg =
    if mode = 0 then some ⟨.stop, none, none, none⟩
    else if mode = 4 then some ⟨.spool, none, none, none⟩
    else if mode = 1 ∧ dir = 0 then some ⟨.play, none, none, none⟩
    else if mode = 2 ∧ dir.toNat < 2 ∧ 1 ≤ arg.toNat ∧ arg.toNat ≤ 8 then
      some ⟨.jog, some (if dir = 0 then .forward else .reverse), some arg.toNat, none⟩
    else if mode = 3 ∧ dir.toNat < 2 ∧ 2 ≤ arg.toNat ∧ arg.toNat ≤ 32 then
      some ⟨.shuttle, some (if dir = 0 then .forward else .reverse), none, some arg.toNat⟩
    else none)
  ∧ ∀ (p : Port) (mode dir arg : Byte) (s : State), postingOf mode dir arg = none →
      exec (.postTransport p mode dir arg) s = .next (answer p (refuse .range) s))
  ∧ (∀ (p : Port) (mode dir arg : Byte) (q : Posting) (s : State), postingOf mode dir arg = some q →
    let u := s.tl.posted q s.geo.d
    let leaving := s.tl.mode = .play ∧ q.mode ≠ .play
    let loss := (s.tl.state = .locked ∨ s.tl.state = .coasting ∨ s.tl.state = .laying)
      ∧ ¬(u.state = .locked ∨ u.state = .coasting ∨ u.state = .laying)
    let running := s.eng.state = .waiting ∨ s.eng.state = .splicing ∨ s.eng.state = .finishing
    ∃ t, exec (.postTransport p mode dir arg) s = .next (answer p done t)
      ∧ { t.tl with head := s.tl.head, confHead := s.tl.confHead, offered := s.tl.offered } = u
      ∧ t.tl.mode = q.mode ∧ t.tl.dir = q.dir.getD s.tl.dir ∧ t.tl.ratio = q.ratio.getD s.tl.ratio
      ∧ t.tl.speed = q.speed.getD s.tl.speed
      ∧ { settingsOf t with timeline := s.tl.settings } = settingsOf s
      ∧ windowFollows t ∧ scrubFollows s t ∧ (∀ i : SlotId, t.slots[i].due = true → blocked t i = true)
      ∧ (∀ i : SlotId, t.slots[i].pinned = true → windowCovers t t i)
      ∧ (∀ i : SlotId, windowCovers t s i → (∀ f, s.intake.frame = some f → f.slot ≠ some i) →
          (∀ op ∈ s.coding, ∀ b, op.begun = some b → b.slot ≠ some i) → (∀ ch f, (capture s ch).assembly = some f → f.slot ≠ some i) →
          t.slots[i].pinned = true)
      ∧ (¬leaving → ¬loss → ∀ i : SlotId, (∀ ch f, (capture s ch).assembly = some f ∨ (capture t ch).assembly = some f → f.slot ≠ some i) →
          (s.slots[i].state = .decoded → s.slots[i].role ≠ some .confidence) → pinSettled s t i)
      ∧ (¬leaving → t.tl = u) ∧ (leaving → t.tl.head = none ∧ t.tl.confHead = none ∧ t.tl.offered = none)
      ∧ (leaving ∨ loss → t.gate = s.gate.cut) ∧ (¬leaving → ¬loss → t.gate = s.gate)
      ∧ (leaving → t.coding = [] ∧ t.intake.frame = none
        ∧ t.judge = (s.judge.filter (·.designated)).map (fun e =>
            if s.gate.state ≠ .closed ∧ s.gate.write.map (·.slot) = some e.slot then { e with partly := true } else e)
        ∧ (∀ i : SlotId, s.slots[i].state = .coded → (∀ e ∈ s.judge, e.slot = i → e.designated = false) → blocked s i = false →
            t.slots[i].state ≠ .coded)
        ∧ (∀ f i, s.intake.frame = some f → f.slot = some i → t.slots[i].role ≠ some .intake)
        ∧ (punchOpen s = true ∨ running → ∀ sp, s.eng.splice = some sp → t.eng.splice = none
          ∧ ∃ r ∈ t.eng.results, r.tag = sp.tag ∧ r.outcome = .broken ∧ r.actualIn = sp.actualIn
            ∧ (sp.rehearse = false → r.actualOut = if sp.actualIn = none then none
                else match s.gate.write with
                  | some w => some ⟨w.addr, 0⟩
                  | none => s.tl.head.map fun a => ⟨a, 0⟩))
        ∧ (punchOpen s = false → running → t.eng.prepared = [] ∧ t.intake.source = .analog
          ∧ (s.eng.state = .finishing → t.eng.state = .done)
          ∧ (s.eng.state ≠ .finishing → (∃ i e, pendingEntry s i = some e ∧ (∀ sp, s.eng.splice = some sp → sp.index ≠ some i)
              ∧ ¬(i = 0 ∧ e.lay = true)) → t.eng.state = .held)))
      ∧ t.mon.outPos = (if s.tl.mode ≠ .play ∧ q.mode = .play then none else s.mon.outPos)
      ∧ (q.mode = .stop ∨ q.mode = .spool → ∀ ch, (capture t ch).assembly = none ∧ (capture t ch).closing = (capture s ch).closing
          ∧ (capture t ch).stats = (capture s ch).stats
          ∧ ((capture s ch).closing = [] → (capture t ch).reference = none ∧ (capture t ch).headless = 0)
          ∧ ∀ f i, (capture s ch).assembly = some f → f.slot = some i → t.slots[i] = Slot.reset)
      ∧ (q.mode ≠ .stop → q.mode ≠ .spool → ∀ ch,
          ((capture s ch).assembly.isSome = true ∨ (capture s ch).closing ≠ [] → capture t ch = capture s ch)
          ∧ ((capture s ch).assembly = none → (capture s ch).closing = [] → ∃ f, (capture t ch).assembly = some f
            ∧ f.addr = none ∧ (∀ k, k < 10 → entryAt f.entries k = .missing) ∧ f.p = [] ∧ f.q = []
            ∧ ∀ i, f.slot = some i → t.slots[i].state = .filling ∧ t.slots[i].layout = s.clock.rate
              ∧ t.slots[i].role = some (match ch with
                | .preRead => .preRead
                | .confidence => .confidence)))
      ∧ (q.mode = .stop ∨ q.mode = .spool → s.tl.state = .locked → s.eng.splice = none → ¬running →
          t.notices = (post .lockChange 0 (some s.tl.position) none s).notices))

/-- The timeline's answer to a posting (R11): STOP and SPOOL park it; from PARKED it acquires from the kept position; a repeated mode
and direction leaves it; any other change restarts an acquisition's run and keeps a locked, coasting or unlocked state.  A LAYING timeline goes to
ACQUIRING with the last handed address plus D − 2 as its candidate and a run of 0, or to UNLOCKED where that lies off the tape; STOP and SPOOL make
it the position, or keep the position there (R17).  A LAYING timeline that has handed no address, which no run reaches, is taken as one off the
tape. -/
def Obligations.TimelineAnswersAPosting : Prop :=
  ∀ (t : Timeline) (q : Posting) (d : Nat), let u := t.posted q d
    (q.mode = .stop ∨ q.mode = .spool →
        u.state = .parked ∧ u.coast = 0 ∧ u.run = 0 ∧ u.candidate = none ∧ u.generated = none ∧ u.timecode = t.timecode
          ∧ (t.state ≠ .laying → u.position = t.position)
          ∧ (t.state = .laying → (t.handed = none → u.position = t.position)
            ∧ ∀ h, t.handed = some h → u.position = if h + d - 2 < 2592000 then h + d - 2 else t.position))
    ∧ (q.mode ≠ .stop → q.mode ≠ .spool → (t.mode = q.mode ∧ t.dir = q.dir.getD t.dir) →
        u.state = t.state ∧ u.position = t.position ∧ u.coast = t.coast ∧ u.candidate = t.candidate ∧ u.run = t.run)
    ∧ (q.mode ≠ .stop → q.mode ≠ .spool → ¬(t.mode = q.mode ∧ t.dir = q.dir.getD t.dir) →
        (t.state = .parked → u.state = .acquiring ∧ u.candidate = some t.position ∧ u.run = 0)
        ∧ (t.state = .acquiring → u.state = .acquiring ∧ u.candidate = t.candidate ∧ u.run = 0)
        ∧ (t.state = .locked ∨ t.state = .coasting ∨ t.state = .unlocked →
            u.state = t.state ∧ u.position = t.position ∧ u.coast = t.coast)
        ∧ (t.state = .laying → u.run = 0 ∧ u.coast = 0 ∧ u.generated = none ∧ u.handed = none ∧ u.position = t.position
          ∧ (∀ h, t.handed = some h → h + d - 2 < 2592000 → u.state = .acquiring ∧ u.candidate = some (h + d - 2))
          ∧ (t.handed = none ∨ (∃ h, t.handed = some h ∧ 2592000 ≤ h + d - 2) → u.state = .unlocked ∧ u.candidate = none)))

/-- SET COAST LIMIT: RANGE outside 1..30; otherwise the limit changes at once, and a COASTING timeline beyond it becomes UNLOCKED with
coast count 0, which ends a jog window and its pins (R14, R31, R34, R35). -/
def Obligations.SetCoastLimit : Prop :=
  ∀ (p : Port) (limit : Byte) (s : State), permitted p 0x12 = true →
    (limit.toNat < 1 ∨ 30 < limit.toNat → exec (.setCoastLimit p limit) s = .next (answer p (refuse .range) s))
    ∧ (1 ≤ limit.toNat → limit.toNat ≤ 30 → ∃ t, exec (.setCoastLimit p limit) s = .next (answer p done t)
        ∧ t.tl = (if s.tl.state = .coasting ∧ limit.toNat < s.tl.coast
            then { s.tl with coastLimit := limit.toNat, state := .unlocked, coast := 0, candidate := none, run := 0 }
            else { s.tl with coastLimit := limit.toNat })
        ∧ windowPins t ∧ scrubFollows s t
        ∧ ((s.tl.state = .coasting → s.tl.coast ≤ limit.toNat) →
            (∀ i, pinSettled s t i) ∧ { t with tl := s.tl, jog := s.jog, slots := s.slots, order := s.order } = s))

/-- The mark timeout in PLAY and the shuttle timer in SHUTTLE: LOCKED begins to coast with its position extrapolated, COASTING goes on to the Coast
Limit, ACQUIRING and LAYING become UNLOCKED; an extrapolation off the tape unlocks (R13 to R17; a timer expires by its event, log entry 2).  An exit
from LOCKED posts LOCK_CHANGE, and a loss of the lock cuts the gate, gives back every CODED slot that is not written, and ends a splice, LOST_LOCK
in PLAY and BROKEN in SHUTTLE; the cut takes AUTO off the mix where the outputs follow it, and under another selection the mark's choice stands
(R18, R30, R83, R84, R99, R104, R149).  A slot still FILLING is given back too, and its operation goes on without one (log entry 20).  That the cut
of a SCHEDULED gate does so as well, and that the switch lasts to the next mark, is the model's choice (log entries 28 and 63). -/
def Obligations.TimersCoastTheTimeline : Prop :=
  ∀ s : State,
    let off : Timeline := { s.tl with state := .unlocked, coast := 0, candidate := none, run := 0 }
    let on : Nat → Timeline := fun n => if s.tl.position + 1 < 2592000
      then { s.tl with state := .coasting, coast := n, position := s.tl.position + 1, timecode := s.tl.timecode.map Timecode.next }
      else off
    let swift : Nat → Timeline := fun n => match s.tl.dir with
      | .forward => if s.tl.position + s.tl.speed < 2592000
          then { s.tl with state := .coasting, coast := n, position := s.tl.position + s.tl.speed, timecode := none } else off
      | .reverse => if s.tl.speed ≤ s.tl.position
          then { s.tl with state := .coasting, coast := n, position := s.tl.position - s.tl.speed, timecode := none } else off
    let running := s.eng.state = .waiting ∨ s.eng.state = .splicing ∨ s.eng.state = .finishing
    let reported : State → Prop := fun t =>
      let loss := (s.tl.state = .locked ∨ s.tl.state = .coasting ∨ s.tl.state = .laying) ∧ t.tl.state = .unlocked
      (s.eng.splice = none → ¬running → t.notices = if s.tl.state = .locked
          then (post .lockChange 0 (some t.tl.position) none s).notices else s.notices)
      ∧ (¬loss → t.gate = s.gate ∧ t.coding = s.coding ∧ t.eng = s.eng ∧ t.judge = s.judge)
      ∧ (loss → t.gate = s.gate.cut ∧ (s.gate.state = .closed → t.mon.autoMix = s.mon.autoMix)
        ∧ (s.gate.state ≠ .closed → (t.mon.autoMix = true ↔ s.mon.autoMix = true ∧ ¬(s.mon.stored = .auto ∧ t.mon.override = false)))
        ∧ (∀ i : SlotId, s.slots[i].state = .coded → (∀ e ∈ s.judge, e.slot ≠ i) → blocked s i = false → t.slots[i] = Slot.reset)
        ∧ (∀ op ∈ s.coding, ∀ b i, op.begun = some b → b.slot = some i → blocked s i = false → t.slots[i] = Slot.reset)
        ∧ t.coding = (s.coding.filter fun op => decide (s.gate.state = .closed)
            || op.begun.all fun b => b.plan.all fun q => some q.tag != s.gate.holder).map
              (fun op => { op with begun := op.begun.map fun b => { b with slot := none } })
        ∧ (punchOpen s = true ∨ running → ∀ sp, s.eng.splice = some sp → t.eng.splice = none
            ∧ ∃ r ∈ t.eng.results, r.tag = sp.tag ∧ r.outcome = if s.tl.mode = .play then .lostLock else .broken))
    (s.tl.mode = .play → ∃ t, exec .markTimeout s = .next t ∧ settingsOf t = settingsOf s ∧ reported t ∧ t.tl = match s.tl.state with
      | .locked => on 1
      | .coasting => if s.tl.coastLimit < s.tl.coast + 1 then off else on (s.tl.coast + 1)
      | .acquiring => off
      | .laying => { off with generated := none, handed := none }
      | .unlocked | .parked => s.tl)
    ∧ (s.tl.mode = .shuttle → ∃ t, exec .shuttleTimerExpiry s = .next t ∧ settingsOf t = settingsOf s ∧ reported t
      ∧ t.tl = match s.tl.state with
        | .locked => swift 1
        | .coasting => if s.tl.coastLimit < s.tl.coast + 1 then off else swift (s.tl.coast + 1)
        | .acquiring => off
        | .unlocked | .parked | .laying => s.tl)
    ∧ (s.tl.mode ≠ .play → exec .markTimeout s = .next s) ∧ (s.tl.mode ≠ .shuttle → exec .shuttleTimerExpiry s = .next s)

/-- SET HEAD GEOMETRY, and the values the resets give and keep (R9), with the heads it places at a mark in PLAY, LOCKED or COASTING: the write
head D − 2 frames behind the position, the confidence head C frames behind it, and the frame that one has left (R8).  That RANGE comes before STATE
when both hold is the model's choice (log entry 57). -/
def Obligations.HeadGeometry : Prop :=
  (∀ (p : Port) (d c : Byte) (s : State), permitted p 0x34 = true →
    let fits := 2 ≤ d.toNat ∧ d.toNat ≤ 6 ∧ 1 ≤ c.toNat ∧ c.toNat ≤ 4
    let free := (s.eng.state = .idle ∨ s.eng.state = .done ∨ s.eng.state = .aborted) ∧ s.gate.state = .closed
    (¬fits → exec (.setHeadGeometry p d c) s = .next (answer p (refuse .range) s))
    ∧ (fits → ¬free → exec (.setHeadGeometry p d c) s = .next (answer p (refuse .state) s))
    ∧ (fits → free → exec (.setHeadGeometry p d c) s = .next (answer p done { s with geo := ⟨d.toNat, c.toNat⟩ })))
  ∧ (∀ s : State, s.tl.mode = .play → s.tl.state = .locked ∨ s.tl.state = .coasting →
      let q := s.tl.position + 2
      (reckon s).tl.head = (if s.geo.d ≤ q then some (q - s.geo.d) else none)
      ∧ (reckon s).tl.confHead = (if s.geo.d + s.geo.c ≤ q then some (q - (s.geo.d + s.geo.c)) else none)
      ∧ (reckon s).tl.confLeft = (if s.geo.d + s.geo.c < q then some (q - (s.geo.d + s.geo.c) - 1) else none))
  ∧ (∀ s : State, ∃ t, exec .powerOnReset s = .next t ∧ t.geo = ⟨3, 2⟩)
  ∧ (∀ (p : Port) (s : State), permitted p 0x7F = true → ∃ t, exec (.resetDevice p) s = .next t ∧ t.geo = ⟨3, 2⟩)
  ∧ (∀ (p : Port) (s : State), ∃ t, exec (.resetPort p) s = .next t ∧ t.geo = s.geo)

/-- SET REFERENCE, SET RATE and CLEAR CLOCK LOST (R21, R23).  A rate in force that stays keeps the scrub pointer and the coding list; one that
changes sets the pointer of a present jog window to the start of the position's frame and abandons the coding operations (R35, R99).  The banks follow
the bank length: a write position beyond it becomes 0, a pair count comes down to it and the read position to the count; a PLAYING bank that has run
out by that becomes SPENT, and the other bank, if FULL, plays on from pair 0 with FLY_SWITCH, or else the intake frame starves (R39, R44), at the
positions taken so far, and at 1 before the first, as log entry 30 has it. -/
def Obligations.ClockCommands : Prop :=
  let follows : State → State → Prop := fun s t =>
    let resized : BankId → Bank := fun n => let b := s.banks.get n
      let len := 4 * framePairs t.clock.rate
      let count := b.count.map (min len)
      { b with writePos := if len ≤ b.writePos then 0 else b.writePos, count := count, readPos := (count.map (min b.readPos)).getD b.readPos }
    let ends : BankId → Prop := fun n => (resized n).state = .playing ∧ (resized n).count = some (resized n).readPos
    (t.clock.rate = s.clock.rate → t.jog = s.jog ∧ t.coding = s.coding ∧ t.banks = s.banks ∧ t.intake = s.intake ∧ t.notices = s.notices)
    ∧ (t.clock.rate ≠ s.clock.rate → s.banks.ok →
      ((∀ n, ¬ends n) → (∀ n, t.banks.get n = resized n) ∧ t.intake = s.intake ∧ t.notices = s.notices)
      ∧ ∀ n, ends n → t.banks.get n = { resized n with state := .spent }
        ∧ ((resized n.other).state = .full → t.banks.get n.other = { resized n.other with state := .playing, readPos := 0 }
          ∧ t.intake = s.intake ∧ t.notices = (post .flySwitch n.other.num none none s).notices)
        ∧ ((resized n.other).state ≠ .full → t.banks.get n.other = resized n.other ∧ t.notices = s.notices
          ∧ t.intake = { s.intake with frame := s.intake.frame.map fun f => { f with starve := some (max 1 f.taken, n) } }))
    ∧ (t.clock.rate ≠ s.clock.rate → t.coding = [] ∧ (s.jog.window = none → t.jog = s.jog)
      ∧ ∀ w, s.jog.window = some w → t.jog = { s.jog with pointer := (s.tl.position - w) * framePairs t.clock.rate * 8 })
  ((∀ (p : Port) (b : Byte) (s : State), permitted p 0x14 = true →
    (named refSels b = none → exec (.setReference p b) s = .next (answer p (refuse .range) s))
    ∧ ∀ r, named refSels b = some r →
      (s.gate.state ≠ .closed → exec (.setReference p b) s = .next (answer p (refuse .state) s))
      ∧ (s.gate.state = .closed → (s.clock.lost = true ∨ (r ≠ .internal ∧ s.clock.track r ≠ ⟨true, some s.clock.rate⟩)) →
          exec (.setReference p b) s = .next (answer p done { s with clock := { s.clock with selection := r } }))
      ∧ (s.gate.state = .closed → s.clock.lost = false → r ≠ .internal → s.clock.track r = ⟨true, some s.clock.rate⟩ →
          exec (.setReference p b) s = .next (answer p done { s with clock := { s.clock with selection := r, running := r } }))
      ∧ (s.gate.state = .closed → s.clock.lost = false → r = .internal → ∃ t,
          exec (.setReference p b) s = .next (answer p done t) ∧ follows s t
            ∧ t.clock = { s.clock with selection := .internal, running := .internal, rate := s.clock.configured }))
  ∧ (∀ (p : Port) (b : Byte) (s : State), permitted p 0x15 = true →
    (named rates b = none → exec (.setRate p b) s = .next (answer p (refuse .range) s))
    ∧ ∀ r, named rates b = some r →
      (s.gate.state ≠ .closed → exec (.setRate p b) s = .next (answer p (refuse .state) s))
      ∧ (s.gate.state = .closed → s.clock.lost = false → s.clock.selection ≠ .internal →
          exec (.setRate p b) s = .next (answer p done { s with clock := { s.clock with configured := r } }))
      ∧ (s.gate.state = .closed → (s.clock.lost = true ∨ s.clock.selection = .internal) → ∃ t,
          exec (.setRate p b) s = .next (answer p done t) ∧ follows s t
            ∧ t.clock = { s.clock with configured := r, running := .internal, rate := r })))
  ∧ (∀ (p : Port) (s : State), permitted p 0x16 = true →
    let x := s.clock.track s.clock.selection
    (s.clock.lost = false → exec (.clearClockLost p) s = .next (answer p done s))
    ∧ (s.clock.lost = true → x.present = false → exec (.clearClockLost p) s = .next (answer p (refuse .state) s))
    ∧ (s.clock.lost = true → ∀ r, x = ⟨true, some r⟩ → ∃ t, exec (.clearClockLost p) s = .next (answer p done t) ∧ follows s t
        ∧ t.clock = { s.clock with lost := false, running := s.clock.selection, rate := r } ∧ t.tl = s.tl ∧ t.gate = s.gate))

/-- The events on the references: presence and measured rate; the adoption of the selected one; its loss, which sets CLOCK LOST, posts
CLOCK_LOST, moves the part to the crystal at the configured rate and cuts the record gate (R20, R21, R22, R104; log entry 33). -/
def Obligations.ReferenceEvents : Prop :=
  ∀ s : State,
    (∀ r, exec (.referencePresent .word r) s = .next { s with clock := { s.clock with word := ⟨true, some r⟩ } })
    ∧ (∀ r, exec (.referencePresent .digital r) s = .next { s with clock := { s.clock with digital := ⟨true, some r⟩ } })
    ∧ exec (.referenceAbsent .word) s = .next { s with clock := { s.clock with word := ⟨false, s.clock.word.measured⟩ } }
    ∧ exec (.referenceAbsent .digital) s = .next { s with clock := { s.clock with digital := ⟨false, s.clock.digital.measured⟩ } }
    ∧ (s.clock.lost = true ∨ s.clock.running = s.clock.selection → exec .referenceAdopted s = .next s)
    ∧ (s.clock.lost = false → s.clock.running ≠ .word → s.clock.selection = .word → exec .referenceAdopted s =
        .next { s with clock := { s.clock with running := .word, word := ⟨true, some s.clock.rate⟩ } })
    ∧ (s.clock.lost = false → s.clock.running ≠ .digital → s.clock.selection = .digital → exec .referenceAdopted s =
        .next { s with clock := { s.clock with running := .digital, digital := ⟨true, some s.clock.rate⟩ } })
    ∧ (s.clock.lost = true ∨ s.clock.selection = .internal → exec .referenceLost s = .next s)
    ∧ (s.clock.lost = false → s.clock.selection ≠ .internal → ∃ t, exec .referenceLost s = .next t
        ∧ t.clock = { s.clock with lost := true, running := .internal, rate := s.clock.configured }
        ∧ t.gate = s.gate.cut ∧ settingsOf t = settingsOf s
        ∧ (s.clock.configured = s.clock.rate → s.eng.splice = none →
            t.notices = (post .clockLost (if s.clock.selection = .word then 1 else 2) none none s).notices))

/-- The queries answer DONE with the records as they stand and change nothing but the reply; QUERY CLOCK counts on the free values (log entry 4),
and QUERY SOURCES records the GUARD RELEASE line (log entry 10).  The widths, the codes and the fractions of the reply bytes are those of log
entries 11, 12 and 13, and in the reply of QUERY STATISTICS state and gain go channel by channel (log entry 60) (R19, R23, R42, R64, R77, R130,
R139, R176). -/
def Obligations.QueriesAnswerTheRecords : Prop :=
  ∀ (p : Port) (s : State),
    exec (.queryTimeline p) s = .next (answer p ⟨.done, timelineBytes s⟩ s)
    ∧ exec (.queryClock p) s = .next (answer p ⟨.done, clockBytes s⟩ { s with fresh := s.fresh + 1 })
    ∧ exec (.queryBanks p) s = .next (answer p ⟨.done, bankBytes s.banks.b0 ++ bankBytes s.banks.b1
        ++ be 2 (4 * framePairs s.clock.rate)⟩ s)
    ∧ exec (.queryStatistics p) s = .next (answer p ⟨.done, statisticsBytes s⟩ s)
    ∧ (∀ release, exec (.querySources p release) s =
        .next (answer p ⟨.done, sourcesBytes { s with guardRelease := release }⟩ { s with guardRelease := release }))
    ∧ exec (.queryProgram p) s = .next (answer p ⟨.done, programBytes s⟩ s)
    ∧ exec (.queryPunch p) s = .next (answer p ⟨.done, punchQueryBytes s.punchA ++ punchQueryBytes s.punchB⟩ s)

/-! ### The Frame Store and the fly banks -/

/-- HOLD FRAME names the newest slot of the address that is DECODED, CONCEALED or CODED: RANGE where there is none, FULL at six held slots or fewer
than two free ones, and otherwise DONE with the slot's record, the port joining its holders (R32; the widths of the record's bytes are log entry
11). -/
def Obligations.HoldFrame : Prop :=
  ∀ (p : Port) (addr : BitVec 24) (s : State), permitted p 0x20 = true →
    let named := newest s fun x => (x.state == .decoded || x.state == .concealed || x.state == .coded) && x.addr == some addr.toNat
    (2592000 ≤ addr.toNat ∨ named = none → exec (.holdFrame p addr) s = .next (answer p (refuse .range) s))
    ∧ ∀ i, addr.toNat < 2592000 → named = some i →
      (s.slots[i].holders.get p = true → exec (.holdFrame p addr) s = .next (answer p ⟨.done, slotBytes s.slots[i]⟩ s))
      ∧ (s.slots[i].isHeld = false → 6 ≤ heldCount s ∨ freeCount s < 2 →
          exec (.holdFrame p addr) s = .next (answer p (refuse .full) s))
      ∧ (s.slots[i].holders.get p = false → s.slots[i].isHeld = true ∨ (heldCount s < 6 ∧ 2 ≤ freeCount s) →
          exec (.holdFrame p addr) s = .next (answer p ⟨.done, slotBytes s.slots[i]⟩ { s with
            slots := s.slots.set i { s.slots[i] with holders := s.slots[i].holders.set p true } }))

/-- RELEASE FRAME ends the port's hold on the newest slot of the address that it holds, and the port's fetch of it becomes stale.  A slot whose
release is due, and that no other port holds, no pin keeps and no fetch in flight names, becomes FREE and leaves the allocation order; otherwise
it only loses the hold (R31, R33, R38). -/
def Obligations.ReleaseFrame : Prop :=
  ∀ (p : Port) (addr : BitVec 24) (s : State), permitted p 0x21 = true →
    (2592000 ≤ addr.toNat ∨ heldSlot s p addr.toNat = none → exec (.releaseFrame p addr) s = .next (answer p (refuse .range) s))
    ∧ (∀ i, heldSlot s p addr.toNat = some i → s.slots[i].holders.get p = true ∧ s.slots[i].addr = some addr.toNat)
    ∧ ∀ i, addr.toNat < 2592000 → heldSlot s p addr.toNat = some i →
      let fetch := s.fetch.set p ((s.fetch.get p).staled i)
      let free := s.slots[i].due = true ∧ s.slots[i].pinned = false ∧ (∀ q, q ≠ p → s.slots[i].holders.get q = false)
        ∧ ∀ q f, s.fetch.get q = .inFlight f → f.slot ≠ i
      (free → exec (.releaseFrame p addr) s =
        .next (answer p done { s with slots := s.slots.set i Slot.reset, order := s.order.erase i, fetch := fetch }))
      ∧ (¬free → exec (.releaseFrame p addr) s = .next (answer p done { s with
          slots := s.slots.set i { s.slots[i] with holders := s.slots[i].holders.set p false }, fetch := fetch }))

/-- READ AUDIO answers BUSY while a fetch is in flight, RANGE on operands or a frame that do not fit, and otherwise delivers the record
and begins the next fetch; FETCH_COMPLETE fills the record with the slot's samples and their bad count, and releases a slot whose release was
due and that nothing else blocks (R31, R37, R38; a position beyond the slot's own frame gives a free value, log entry 3; a completion with no
fetch in flight changes nothing, log entry 16, the model's choice). -/
def Obligations.ReadAudio : Prop :=
  (∀ (p : Port) (addr : BitVec 24) (channel : Byte) (start : BitVec 16) (count : Byte) (s : State), permitted p 0x22 = true →
    let fits := 1 ≤ count.toNat ∧ count.toNat ≤ 64 ∧ start.toNat < framePairs s.clock.rate
      ∧ start.toNat + count.toNat ≤ framePairs s.clock.rate
    (∀ f, s.fetch.get p = .inFlight f →
      exec (.readAudio p addr channel start count) s = .next (answer p (refuse .busy) s))
    ∧ ((∀ f, s.fetch.get p ≠ .inFlight f) →
      (¬fits ∨ 2 ≤ channel.toNat ∨ heldSlot s p addr.toNat = none →
        exec (.readAudio p addr channel start count) s = .next (answer p (refuse .range) s))
      ∧ ∀ i, fits → channel.toNat < 2 → heldSlot s p addr.toNat = some i →
        exec (.readAudio p addr channel start count) s = .next (answer p ⟨.done, fetchBytes (s.fetch.get p)⟩ { s with
          fetch := s.fetch.set p (.inFlight ⟨addr.toNat, if channel = 0 then .left else .right, start.toNat, count.toNat, i, false⟩) })))
  ∧ (∀ (p : Port) (s : State),
    (∀ f, s.fetch.get p = .inFlight f →
      let free := s.slots[f.slot].due = true ∧ s.slots[f.slot].pinned = false ∧ (∀ q, s.slots[f.slot].holders.get q = false)
        ∧ ∀ q g, q ≠ p → s.fetch.get q = .inFlight g → g.slot ≠ f.slot
      ∃ t, exec (.fetchComplete p) s = .next t
      ∧ t.fetch = s.fetch.set p (.complete f
          ((List.range' f.start f.count).filter fun i => (s.slots[f.slot].bad.get f.chan).contains i).length
          ((List.range' f.start f.count).map (sampleOrFree s s.slots[f.slot].audio s.slots[f.slot].layout f.chan)))
      ∧ (free → t.slots = s.slots.set f.slot Slot.reset ∧ t.order = s.order.erase f.slot)
      ∧ (¬free → t.slots = s.slots ∧ t.order = s.order)
      ∧ { t with slots := s.slots, order := s.order, fetch := s.fetch, fresh := s.fresh } = s)
    ∧ ((∀ f, s.fetch.get p ≠ .inFlight f) → exec (.fetchComplete p) s = .next s))

/-- SET JOG WINDOW: RANGE unless 1, 2, 4 or 8; otherwise the length changes at once, the window is recomputed, and a present window has
its scrub pointer at the start of the position's frame (R34, R35, R36).  The newest CONCEALED PREREAD slot of each address in the window is pinned,
every other slot is unpinned, and a slot that is due is released when neither its new pin, nor a hold, nor a fetch in flight keeps it
(R31, R34). -/
def Obligations.SetJogWindow : Prop :=
  ∀ (p : Port) (length : Byte) (s : State), permitted p 0x23 = true →
    (length.toNat ∉ [1, 2, 4, 8] → exec (.setJogWindow p length) s = .next (answer p (refuse .range) s))
    ∧ (length.toNat ∈ [1, 2, 4, 8] → ∃ t, exec (.setJogWindow p length) s = .next (answer p done t)
        ∧ t.jog.length = length.toNat
        ∧ t.jog.window = (if s.tl.mode = .jog ∧ (s.tl.state = .locked ∨ s.tl.state = .coasting)
            then some (s.tl.position - s.tl.position % length.toNat) else none)
        ∧ (∀ w, t.jog.window = some w → t.jog.pointer = (s.tl.position - w) * framePairs s.clock.rate * 8)
        ∧ (t.jog.window = none → t.jog.pointer = s.jog.pointer)
        ∧ (∀ i : SlotId, t.slots[i].pinned = true ↔ windowCovers t s i) ∧ windowPins t ∧ (∀ i, pinSettled s t i)
        ∧ { t with jog := s.jog, slots := s.slots, order := s.order } = s)

/-- WRITE FLY and WRITE FLY NEXT: RANGE, then STATE, and otherwise DONE with the new write position; each pair is read back from its
place, and every other place keeps what it held (R40).  That RANGE comes before STATE when both hold is the model's choice (log entry 57). -/
def Obligations.FlyWritesStoreTheirPairs : Prop :=
  (∀ (p : Port) (bank : Byte) (start : BitVec 16) (pairs : List SamplePair) (s : State), permitted p 0x24 = true →
    permitted p 0x25 = true → ∀ n, bankOf bank = some n →
    let b := s.banks.get n
    let L := 4 * framePairs s.clock.rate
    let taken : Nat → Res := fun a => .next (answer p ⟨.done, be 2 ((a + pairs.length) % L)⟩ { s with banks := s.banks.set n { b with
      pairs := storePairs L b.pairs a pairs, writePos := (a + pairs.length) % L
      state := if b.state = .empty then .loading else b.state } })
    (pairs.length < 1 ∨ 64 < pairs.length ∨ L ≤ start.toNat →
        exec (.writeFly p bank start pairs) s = .next (answer p (refuse .range) s))
    ∧ (pairs.length < 1 ∨ 64 < pairs.length → exec (.writeFlyNext p bank pairs) s = .next (answer p (refuse .range) s))
    ∧ (1 ≤ pairs.length → pairs.length ≤ 64 → start.toNat < L →
        (b.state = .playing ∨ b.state = .spent → exec (.writeFly p bank start pairs) s = .next (answer p (refuse .state) s))
        ∧ (b.state ≠ .playing → b.state ≠ .spent → exec (.writeFly p bank start pairs) s = taken start.toNat))
    ∧ (1 ≤ pairs.length → pairs.length ≤ 64 → b.writePos < L →
        (b.state = .playing ∨ b.state = .spent → exec (.writeFlyNext p bank pairs) s = .next (answer p (refuse .state) s))
        ∧ (b.state ≠ .playing → b.state ≠ .spent → exec (.writeFlyNext p bank pairs) s = taken b.writePos)))
  ∧ (∀ (p : Port) (bank : Byte) (start : BitVec 16) (pairs : List SamplePair) (s : State), permitted p 0x24 = true →
    permitted p 0x25 = true → bankOf bank = none → exec (.writeFly p bank start pairs) s = .next (answer p (refuse .range) s)
      ∧ exec (.writeFlyNext p bank pairs) s = .next (answer p (refuse .range) s))
  ∧ (∀ (L i : Nat) (m : Memory) (l : List SamplePair), l.length ≤ L → i < L →
      (∀ (k : Nat) (h : k < l.length), (storePairs L m i l).read (2 * ((i + k) % L)) = l[k].left
        ∧ (storePairs L m i l).read (2 * ((i + k) % L) + 1) = l[k].right)
      ∧ ∀ a, (∀ k, k < l.length → a ≠ 2 * ((i + k) % L) ∧ a ≠ 2 * ((i + k) % L) + 1) → (storePairs L m i l).read a = m.read a)

/-- CLOSE BANK and RELEASE BANK, with what the FLY0 or FLY1 source record takes: the declaration of a closed bank, or no valid status for a
released one; a record that changes takes its next epoch, joins the history of at most 32 statuses with it, and posts SOURCE_STATUS, and the same
status changes nothing (R41, R42, R113, R117, R118).  That RANGE comes before STATE when both hold is the model's choice (log entry 57). -/
def Obligations.CloseAndReleaseBank : Prop :=
  let fed : State → BankId → Banks → SourceStatus → State → Prop := fun s n banks st t =>
    let r := s.sources.get n.src
    let e := (r.epoch + 1) % 65536
    let subject := match n with
      | .b0 => 2
      | .b1 => 3
    t.banks = banks
    ∧ (r.status = st → t.sources.get n.src = r ∧ t.notices = s.notices)
    ∧ (r.status ≠ st → t.notices = (post .sourceStatus subject none none s).notices
        ∧ t.sources.get n.src = ⟨st, e, (if r.history.length < 32 then r.history else r.history.drop 1) ++ [(e, st)]⟩)
    ∧ (∀ j, j ≠ n.src → t.sources.get j = s.sources.get j)
    ∧ t.sources.policy = s.sources.policy ∧ t.sources.timedOut = s.sources.timedOut
    ∧ { t with banks := s.banks, sources := s.sources, notices := s.notices } = s
  (∀ (p : Port) (bank : Byte) (count : BitVec 16) (cls remaining rate : Byte) (s : State) (n : BankId) (m : CopyMark) (r : Rate),
    permitted p 0x26 = true → bankOf bank = some n → copyMarkOf cls.toNat remaining.toNat = some m → named rates rate = some r →
    (count.toNat < 1 ∨ 4 * framePairs s.clock.rate < count.toNat →
      exec (.closeBank p bank count cls remaining rate) s = .next (answer p (refuse .range) s))
    ∧ (1 ≤ count.toNat → count.toNat ≤ 4 * framePairs s.clock.rate →
      ((s.banks.get n).state ≠ .loading → (s.banks.get n).state ≠ .full →
        exec (.closeBank p bank count cls remaining rate) s = .next (answer p (refuse .state) s))
      ∧ ((s.banks.get n).state = .loading ∨ (s.banks.get n).state = .full → ∃ t,
        exec (.closeBank p bank count cls remaining rate) s = .next (answer p done t)
        ∧ fed s n (s.banks.set n { s.banks.get n with
            state := .full, count := some count.toNat, mark := some m, rate := some r, readPos := 0 }) ⟨true, m, some r⟩ t)))
  ∧ (∀ (p : Port) (bank : Byte) (count : BitVec 16) (cls remaining rate : Byte) (s : State), permitted p 0x26 = true →
    (bankOf bank = none ∨ copyMarkOf cls.toNat remaining.toNat = none ∨ named rates rate = none) →
    exec (.closeBank p bank count cls remaining rate) s = .next (answer p (refuse .range) s))
  ∧ (∀ (p : Port) (bank : Byte) (s : State), permitted p 0x27 = true →
    (bankOf bank = none → exec (.releaseBank p bank) s = .next (answer p (refuse .range) s))
    ∧ ∀ n, bankOf bank = some n →
      ((s.banks.get n).state = .empty → exec (.releaseBank p bank) s = .next (answer p done s))
      ∧ ((s.banks.get n).state = .playing → exec (.releaseBank p bank) s = .next (answer p (refuse .state) s))
      ∧ ((s.banks.get n).state ≠ .empty → (s.banks.get n).state ≠ .playing → ∃ t,
          exec (.releaseBank p bank) s = .next (answer p done t)
          ∧ fed s n (s.banks.set n Bank.reset) { (s.sources.get n.src).status with valid := false } t))

/-! ### Settings, guards and source records -/

/-- The commands that set one value: RANGE outside its range, and otherwise the value at once and nothing else, but that SET FAULT LIMIT also
sets the pending stop of a gate SCHEDULED or OPEN whose run count has reached the new limit; its reply sends the run count in one byte (log entry
11) (R64, R76, R77, R83, R108, R109, R160, R161). -/
def Obligations.SettingCommands : Prop :=
  ∀ (p : Port) (a b : Byte) (w : BitVec 16) (c : Byte) (s : State), p ≠ .transport →
    (if 1 ≤ a.toNat ∧ a.toNat ≤ 16 ∧ b.toNat ≤ 64 ∧ 16 ≤ w.toNat ∧ w.toNat ≤ 1024 ∧ 1 ≤ c.toNat ∧ c.toNat ≤ 64
      then exec (.setConceal p a b w c) s =
        .next (answer p done { s with conceal := { s.conceal with params := ⟨a.toNat, b.toNat, w.toNat, c.toNat⟩ } })
      else exec (.setConceal p a b w c) s = .next (answer p (refuse .range) s))
    ∧ (∀ m, named monSels a = some m → exec (.setMonitor p a) s =
        .next (answer p ⟨.done, [BitVec.ofNat 8 (codeIn monSels m), if s.mon.override then 1 else 0]⟩
          { s with mon := { s.mon with stored := m } }))
    ∧ (named monSels a = none → exec (.setMonitor p a) s = .next (answer p (refuse .range) s))
    ∧ (8 < a.toNat → exec (.setFaultLimit p a) s = .next (answer p (refuse .range) s))
    ∧ (a.toNat ≤ 8 → exec (.setFaultLimit p a) s =
        .next (answer p ⟨.done, be 1 a.toNat ++ be 1 (codeIn gateStates s.gate.state) ++ be 1 s.gate.run⟩ { s with gate := { s.gate with
          faultLimit := a.toNat
          pendingStop := s.gate.pendingStop || decide ((0 < a.toNat ∧ a.toNat ≤ s.gate.run)
            ∧ (s.gate.state = .scheduled ∨ s.gate.state = .opened)) } }))
    ∧ (∀ src, named sourceList a = some src → w.toNat ≤ 3200 →
        exec (.setManualPunch p a w) s = .next (answer p done { s with manual := ⟨src, w.toNat⟩ }))
    ∧ (named sourceList a = none ∨ 3200 < w.toNat → exec (.setManualPunch p a w) s = .next (answer p (refuse .range) s))
    ∧ (30 ≤ w.toNat → w.toNat ≤ 300 → exec (.setPreroll p w) s =
        .next (answer p done { s with eng := { s.eng with preroll := w.toNat } }))
    ∧ (w.toNat < 30 ∨ 300 < w.toNat → exec (.setPreroll p w) s = .next (answer p (refuse .range) s))
    ∧ exec (.clearResults p) s = .next (answer p done { s with eng := { s.eng with results := [], resultsLost := 0 } })
    ∧ exec (.clearStatistics p) s = .next (answer p done { s with
        pre := { s.pre with stats := ⟨0, 0, 0, 0, 0⟩ }, conf := { s.conf with stats := ⟨0, 0, 0, 0, 0⟩ }
        conceal := { s.conceal with left := { s.conceal.left with bridged := 0, longRuns := 0, mutes := 0 }
                                    right := { s.conceal.right with bridged := 0, longRuns := 0, mutes := 0 } } })

/-- The guard commands with the Guard Lock clear: RANGE first, then the table changes whole, and the reply carries the table and the invert flag.
With a frame being written that the change guards, by any of the three commands, the gate is cut, and otherwise nothing but the table changes
(R105, R127).  A rehearsal that would be writing the frame ends GUARDED there (R153; log entry 55). -/
def Obligations.GuardCommandsChangeTheTable : Prop :=
  ∀ (s : State) (place : Byte) (first last : BitVec 24) (flag : Byte), s.guard.lock = false →
    let span : Guard := { s.guard with places := s.guard.places.set! place.toNat (some ⟨first.toNat, last.toNat⟩) }
    let gone : Guard := { s.guard with places := s.guard.places.set! place.toNat none }
    let inv : Guard := { s.guard with invert := flag == 1 }
    let fits := place.toNat < 8 ∧ first.toNat ≤ last.toNat ∧ last.toNat < 2592000
    let takes : Instr → Guard → Prop := fun c g =>
      let answers : State → Prop := fun t => exec c s = .next (answer .deck ⟨.done, guardBytes g⟩ t)
      ((s.gate.state = .closed ∧ ∀ sp, s.eng.splice = some sp → sp.rehearse = false) ∨ (s.gate.state ≠ .closed ∧ s.gate.write = none) →
        answers { s with guard := g })
      ∧ (∀ w, s.gate.state ≠ .closed → s.gate.write = some w → ∃ t, answers t ∧ t.guard = g
        ∧ (guarded g w.addr = true → t.gate = s.gate.cut) ∧ (guarded g w.addr = false → t = { s with guard := g }))
      ∧ (∀ sp start a, s.gate.state = .closed → s.eng.splice = some sp → sp.rehearse = true → sp.actualIn = some start →
        s.tl.head = some a → start.addr ≤ a → (∀ op ∈ s.coding, op.begun = none) → ∃ t, answers t ∧ t.guard = g
        ∧ (guarded g a = true → t.eng.splice = none
          ∧ ∃ r ∈ t.eng.results, r.tag = sp.tag ∧ r.outcome = .guarded ∧ r.reason = some .guarded ∧ r.actualOut = some ⟨a, 0⟩)
        ∧ (guarded g a = false → t = { s with guard := g }))
    (¬fits → exec (.writeGuardSpan .deck place first last) s = .next (answer .deck (refuse .range) s))
    ∧ (8 ≤ place.toNat → exec (.eraseGuardSpan .deck place) s = .next (answer .deck (refuse .range) s))
    ∧ (2 ≤ flag.toNat → exec (.setGuardInvert .deck flag) s = .next (answer .deck (refuse .range) s))
    ∧ (fits → takes (.writeGuardSpan .deck place first last) span)
    ∧ (place.toNat < 8 → takes (.eraseGuardSpan .deck place) gone)
    ∧ (flag.toNat < 2 → takes (.setGuardInvert .deck flag) inv)

/-- The Guard Lock: SET GUARD LOCK sets it; CLEAR GUARD LOCK clears it only while GUARD RELEASE is active; while it is set the commands
that change the table answer HELD; power-on clears it, and device and port reset keep it (R129).  The level that CLEAR GUARD LOCK carries is
recorded, on a refusal too (log entry 10, the model's choice). -/
def Obligations.GuardLock : Prop :=
  (∀ s : State, exec (.setGuardLock .deck) s = .next (answer .deck done { s with guard := { s.guard with lock := true } }))
  ∧ (∀ s : State, exec (.clearGuardLock .deck true) s =
      .next (answer .deck done { s with guardRelease := true, guard := { s.guard with lock := false } }))
  ∧ (∀ s : State, exec (.clearGuardLock .deck false) s = .next (answer .deck (refuse .held) { s with guardRelease := false }))
  ∧ (∀ (s : State) (place flag : Byte) (first last : BitVec 24), s.guard.lock = true →
      exec (.writeGuardSpan .deck place first last) s = .next (answer .deck (refuse .held) s)
      ∧ exec (.eraseGuardSpan .deck place) s = .next (answer .deck (refuse .held) s)
      ∧ (flag.toNat < 2 → exec (.setGuardInvert .deck flag) s = .next (answer .deck (refuse .held) s)))
  ∧ (∀ (g : Guard) (a : Nat) (b : Bool), guarded { g with lock := b } a = guarded g a)
  ∧ (∀ s : State, ∃ t, exec .powerOnReset s = .next t ∧ t.guard.lock = false)
  ∧ (∀ s : State, ∃ t, exec (.resetDevice .deck) s = .next t ∧ t.guard.lock = s.guard.lock)
  ∧ (∀ (p : Port) (s : State), ∃ t, exec (.resetPort p) s = .next t ∧ t.guard.lock = s.guard.lock)

/-- Which addresses are guarded, and what the resets do to the table (R126). -/
def Obligations.GuardedAddresses : Prop :=
  (∀ (g : Guard) (a : Nat), g.invert = false →
      (guarded g a = true ↔ ∃ (i : Fin 8) (sp : Span), g.places[i] = some sp ∧ sp.first ≤ a ∧ a ≤ sp.last))
  ∧ (∀ (g : Guard) (a : Nat), g.invert = true →
      (guarded g a = true ↔ ¬∃ (i : Fin 8) (sp : Span), g.places[i] = some sp ∧ sp.first ≤ a ∧ a ≤ sp.last))
  ∧ (∀ s : State, ∃ t, exec .powerOnReset s = .next t ∧ t.guard.invert = false ∧ ∀ i : Fin 8, t.guard.places[i] = none)
  ∧ (∀ s : State, ∃ t, exec (.resetDevice .deck) s = .next t ∧ t.guard.places = s.guard.places ∧ t.guard.invert = s.guard.invert)
  ∧ (∀ (p : Port) (s : State), ∃ t, exec (.resetPort p) s = .next t ∧ t.guard.places = s.guard.places
      ∧ t.guard.invert = s.guard.invert)

/-- What feeds the source records: the Analog Policy, the status records of the digital input and their timeout; a record that changes
takes its next epoch, joins the history of at most 32 statuses with it, and posts SOURCE_STATUS; the same status changes nothing (R113, R114,
R115, R116, R118). -/
def Obligations.SourceRecordsAreFed : Prop :=
  let fed : State → SrcId → Nat → SourceStatus → State → Prop := fun s i n st t =>
    let r := s.sources.get i
    let e := (r.epoch + 1) % 65536
    (r.status = st → t.sources.get i = r ∧ t.notices = s.notices)
    ∧ (r.status ≠ st → t.notices = (post .sourceStatus n none none s).notices
        ∧ t.sources.get i = ⟨st, e, (if r.history.length < 32 then r.history else r.history.drop 1) ++ [(e, st)]⟩)
    ∧ (∀ j, j ≠ i → t.sources.get j = s.sources.get j)
    ∧ { t with sources := s.sources, notices := s.notices } = s
  (∀ (p : Port) (cls remaining : Byte) (s : State), permitted p 0x40 = true →
    (copyMarkOf cls.toNat remaining.toNat = none →
      exec (.setAnalogPolicy p cls remaining) s = .next (answer p (refuse .range) s))
    ∧ ∀ m, copyMarkOf cls.toNat remaining.toNat = some m → ∃ t, exec (.setAnalogPolicy p cls remaining) s = .next (answer p done t)
        ∧ t.sources.policy = m ∧ fed s .analog 0 ⟨true, m, none⟩ t)
  ∧ (∀ (b : Byte) (s : State), ∃ t, exec (.digitalStatusRecord b) s = .next t ∧ t.sources.timedOut = false
      ∧ match statusOf b with
        | some (m, r) => fed s .digital 1 ⟨true, m, some r⟩ t
        | none => fed s .digital 1 { s.sources.digital.status with valid := false } t)
  ∧ (∀ s : State, ∃ t, exec .statusTimeout s = .next t ∧ t.sources.timedOut = true
      ∧ fed s .digital 1 { s.sources.digital.status with valid := false } t)

/-! ### The Edit Engine -/

/-- WRITE ENTRY replaces a place whole and counts the Draft Version on, when the entry's codes and the tests of R133 hold; ERASE ENTRY empties a
place; READ ENTRY and READ RESULT answer with what stands; none of them reaches the active program (R133, R134, R160).  The widths and absent values
of the replies are log entry 11, and the codes of an active entry's state log entry 13. -/
def Obligations.DraftListAndItsReplies : Prop :=
  ∀ (p : Port) (place selector : Byte) (raw : RawEntry) (s : State), p ≠ .transport →
    let v := (s.eng.version + 1) % 65536
    let S := framePairs s.clock.rate
    (∀ e, entryOf raw = some e → place.toNat < 16 →
      (e.valid S = true → exec (.writeEntry p place raw) s = .next (answer p ⟨.done, be 2 v⟩ { s with eng := { s.eng with
        draft := s.eng.draft.set! place.toNat (some e), version := v } }))
      ∧ (e.valid S = true ↔ (e.inPoint.addr < 2592000 ∧ e.outPoint.addr < 2592000 ∧ e.inPoint.offset < S ∧ e.outPoint.offset < S
          ∧ (e.inPoint.addr < e.outPoint.addr ∨ e.inPoint.addr = e.outPoint.addr ∧ e.inPoint.offset < e.outPoint.offset)
          ∧ (e.timecode.isSome = true → e.method = .assemble) ∧ (∀ t, e.timecode = some t → t.hh < 24 ∧ t.mm < 60 ∧ t.ss < 60 ∧ t.ff < 30)
          ∧ (e.lay = true → e.method = .assemble ∧ e.source ≠ .fly ∧ (e.take = none ∨ e.take = some 0))
          ∧ e.fadeIn ≤ 3200 ∧ e.fadeOut ≤ 3200 ∧ e.fadeIn ≤ 2 * S ∧ e.fadeOut ≤ 2 * S
          ∧ e.fadeIn + e.fadeOut ≤ e.outPoint.addr * S + e.outPoint.offset - (e.inPoint.addr * S + e.inPoint.offset))))
    ∧ (entryOf raw = none ∨ 16 ≤ place.toNat ∨ (∃ e, entryOf raw = some e ∧ e.valid S = false) →
      exec (.writeEntry p place raw) s = .next (answer p (refuse .range) s))
    ∧ (place.toNat < 16 → exec (.eraseEntry p place) s = .next (answer p ⟨.done, be 2 v⟩ { s with eng := { s.eng with
        draft := s.eng.draft.set! place.toNat none, version := v } }))
    ∧ (16 ≤ place.toNat → exec (.eraseEntry p place) s = .next (answer p (refuse .range) s))
    ∧ (∀ i : Fin 16, place.toNat = i.val →
      exec (.readEntry p 0 place) s = .next (answer p ⟨.done, be 2 s.eng.version
        ++ optBytes 25 ((s.eng.draft[i]).map entryBytes)⟩ s)
      ∧ exec (.readEntry p 1 place) s = .next (answer p ⟨.done, be 1 s.eng.run
        ++ optBytes 26 ((s.eng.active[i]).map fun a => entryBytes a.entry ++ be 1 (entryStateCode a.state))⟩ s))
    ∧ (16 ≤ place.toNat ∨ 2 ≤ selector.toNat → exec (.readEntry p selector place) s = .next (answer p (refuse .range) s))
    ∧ (∀ r, s.eng.results[place.toNat]? = some r → exec (.readResult p place) s =
        .next (answer p ⟨.done, resultBytes r ++ be 1 s.eng.results.length ++ be 2 s.eng.resultsLost⟩ s))
    ∧ (s.eng.results[place.toNat]? = none → exec (.readResult p place) s = .next (answer p (refuse .range) s))

/-- START PROGRAM: a mode code that is not defined is refused with RANGE before all else (log entry 43, the model's reading of R182 and R135); then
BUSY, RANGE, STALE, the program checks and STATE in this order.  The program checks: the present places are exactly 0 to n − 1, each entry passes
the tests of R133 at the rate in force, the in-points strictly ascend and each out-point lies before the next in-point, the lay flag stands in entry
0 alone and only with RECORD, and an entry without it has no take or the run's.  An accepted start answers ACCEPTED with the run, the mode and the
take and copies the draft; a lay goes to WAITING, its source named, to begin at the third mark; any other program goes to WAITING when the tape is
LOCKED in PLAY below the locate target, and to ARMED with LOCATE_REQUEST otherwise; PROGRAM_STATE is posted (R135, R136, R137, R139, R141, R157),
after LOCATE_REQUEST by log entry 8, the model's choice. -/
def Obligations.StartProgram : Prop :=
  (∀ (m : RunMode) (s : State), let S := framePairs s.clock.rate
    programCheck m s = true ↔ ∃ n, 1 ≤ n ∧ (∀ i : Fin 16, (s.eng.draft[i]).isSome = true ↔ i.val < n)
      ∧ ∀ (i : Fin 16) (e : Entry), s.eng.draft[i] = some e → e.valid S = true
        ∧ (e.lay = true → i.val = 0 ∧ m = .record)
        ∧ (e.lay = false → e.take = none ∨ e.take = some (if s.eng.takeCounter = 255 then 1 else s.eng.takeCounter + 1))
        ∧ ∀ (j : Fin 16) (g : Entry), j.val = i.val + 1 → s.eng.draft[j] = some g →
          (e.inPoint.addr < g.inPoint.addr ∨ (e.inPoint.addr = g.inPoint.addr ∧ e.inPoint.offset < g.inPoint.offset))
          ∧ (e.outPoint.addr < g.inPoint.addr ∨ (e.outPoint.addr = g.inPoint.addr ∧ e.outPoint.offset < g.inPoint.offset)))
  ∧ ∀ (p : Port) (mode passes : Byte) (version : BitVec 16) (s : State), p ≠ .transport →
    let resting := s.eng.state = .idle ∨ s.eng.state = .done ∨ s.eng.state = .aborted
    let take := if s.eng.takeCounter = 255 then 1 else s.eng.takeCounter + 1
    let refused : Result → Prop := fun r => exec (.startProgram p mode passes version) s = .next (answer p (refuse r) s)
    (named runModes mode = none → refused .range)
    ∧ ∀ m, named runModes mode = some m →
      let fits := match m with
        | .record => passes.toNat = 1
        | .rehearse => 1 ≤ passes.toNat ∧ passes.toNat ≤ 15
      (¬resting ∨ punchOpen s = true → refused .busy)
      ∧ (resting → punchOpen s = false →
        (¬fits → refused .range)
        ∧ (fits → version.toNat ≠ s.eng.version → refused .stale)
        ∧ (fits → version.toNat = s.eng.version → programCheck m s = false → refused .range)
        ∧ (fits → version.toNat = s.eng.version → programCheck m s = true → draftLays s = true → s.tl.mode ≠ .play → refused .state)
        ∧ (fits → version.toNat = s.eng.version → programCheck m s = true → (draftLays s = true → s.tl.mode = .play) → ∃ t e,
          exec (.startProgram p mode passes version) s = .next (answer p
            ⟨.accepted, be 1 ((s.eng.run + 1) % 256) ++ be 1 (codeIn runModes m) ++ be 1 take⟩ t)
          ∧ t.eng.run = (s.eng.run + 1) % 256 ∧ t.eng.pass = 1 ∧ t.eng.mode = some m ∧ t.eng.passes = some passes.toNat
          ∧ t.eng.runTake = some take ∧ t.eng.takeCounter = (if m = .record then take else s.eng.takeCounter)
          ∧ (∀ i : Fin 16, t.eng.active[i] = (s.eng.draft[i]).map activeCopy)
          ∧ t.eng.results = s.eng.results ∧ t.eng.resultsLost = s.eng.resultsLost ∧ t.gate = s.gate ∧ settingsOf t = settingsOf s
          ∧ s.eng.draft[(0 : Fin 16)] = some e
          ∧ let target := e.inPoint.addr - s.eng.preroll
            let near := s.tl.mode = .play ∧ s.tl.state = .locked ∧ s.tl.position < target
            let waits := t.eng.state = .waiting ∧ t.notices = (post .programState 2 none none s).notices
            (e.lay = true → waits ∧ t.eng.layWait = some 3 ∧ t.intake.source = e.source)
            ∧ (e.lay = false → t.eng.locate = target ∧ t.eng.layWait = none ∧ t.intake = s.intake
              ∧ (near → waits)
              ∧ (¬near → t.eng.state = .armed ∧ t.notices = (post .programState 1 none none
                  (post .locateRequest ((s.eng.run + 1) % 256) (some target) none s)).notices))))

/-- STOP PROGRAM NOW and AT END by the engine's state, and with a punch open: every PENDING entry becomes SKIPPED and its result joins the list in
index order; with NOW the ACTIVE splice, or the punch, ends BROKEN first, with its result, and the gate is cut (R141, R147, R151, R152, R156, R159).
The actual out-point of a rehearsed splice is that of log entry 25.  A bank made PLAYING for a dropped entry becomes SPENT, and ANALOG is named; a
stop AT END in SPLICING names it only where an entry was prepared (log entry 40). -/
def Obligations.StopProgram : Prop :=
  ∀ (p : Port) (s : State),
    let rehearse := decide (s.eng.mode = some .rehearse)
    let skipped : Fin 16 → Option SpliceResult := fun i => (pendingEntry s i).map fun e =>
      ⟨.program s.eng.run s.eng.pass i.val, s.eng.run, if rehearse then s.eng.pass else 0, rehearse, .skipped, none, none, none, false,
        if e.lay then 0 else s.eng.runTake.getD 0, none, 0, 0⟩
    let joins : State → List SpliceResult → Prop := fun t l =>
      let all := s.eng.results ++ l
      s.eng.ok → t.eng.results = all.drop (all.length - 16) ∧ t.eng.resultsLost = min 65535 (s.eng.resultsLost + (all.length - 16))
    let skips : State → (Fin 16 → Bool) → Prop := fun t f => t.eng.prepared = []
      ∧ ∀ i e, f i = true → pendingEntry s i = some e → t.eng.active[i] = some ⟨e, .ended .skipped⟩
    let spends : State → Prop := fun t => s.banks.ok → ∀ n, (s.banks.get n).state = .playing → (t.banks.get n).state = .spent
    let breaks : Splice → SpliceResult → Prop := fun sp x => x.tag = sp.tag ∧ x.outcome = .broken ∧ x.reason = none
      ∧ x.rehearse = sp.rehearse ∧ x.pass = (if sp.rehearse then s.eng.pass else 0) ∧ x.late = sp.late ∧ x.take = sp.take
      ∧ x.mark = sp.mark ∧ x.faults = sp.faults ∧ x.reworked = sp.reworked ∧ x.actualIn = sp.actualIn
      ∧ x.actualOut = match sp.actualIn with
        | none => none
        | some start =>
          if sp.rehearse then s.tl.head.bind fun w => if start.addr ≤ w then some ⟨w, 0⟩ else none
          else match s.gate.write with
            | some w => some ⟨w.addr, 0⟩
            | none => s.tl.head.map fun w => ⟨w, 0⟩
    (punchOpen s = false →
      (s.eng.state = .idle ∨ s.eng.state = .done ∨ s.eng.state = .aborted →
        exec (.stopProgramNow p) s = .next (answer p (refuse .state) s)
        ∧ exec (.stopProgramAtEnd p) s = .next (answer p (refuse .state) s))
      ∧ (s.eng.state = .armed ∨ s.eng.state = .waiting ∨ s.eng.state = .held →
        let drops : State → Prop := fun t => skips t (fun _ => true) ∧ joins t ((List.finRange 16).filterMap skipped)
          ∧ t.intake.source = .analog ∧ (s.eng.bankFor.isSome = true → spends t) ∧ t.gate = s.gate ∧ settingsOf t = settingsOf s
        (∃ t, exec (.stopProgramNow p) s = .next (answer p done t) ∧ t.eng.state = .aborted ∧ drops t)
        ∧ (∃ t, exec (.stopProgramAtEnd p) s = .next (answer p done t) ∧ t.eng.state = .done ∧ drops t))
      ∧ (s.eng.state = .splicing ∨ s.eng.state = .finishing → ∃ t, exec (.stopProgramNow p) s = .next (answer p done t)
          ∧ t.eng.state = .aborted ∧ t.eng.splice = none ∧ t.gate = s.gate.cut ∧ t.intake.source = .analog ∧ settingsOf t = settingsOf s
          ∧ (s.eng.bankFor.isSome = true → spends t)
          ∧ ∀ sp k, s.eng.splice = some sp → sp.index = some k → skips t (fun i => i != k)
            ∧ (∀ a, s.eng.active[k] = some a → t.eng.active[k] = some ⟨a.entry, .ended .broken⟩)
            ∧ ∃ x, breaks sp x ∧ joins t (x :: (List.finRange 16).filterMap fun i => if i = k then none else skipped i))
      ∧ (s.eng.state = .splicing → ∃ t, exec (.stopProgramAtEnd p) s = .next (answer p ⟨.accepted, []⟩ t)
          ∧ t.eng.state = .finishing ∧ t.eng.splice = s.eng.splice ∧ t.gate = s.gate ∧ settingsOf t = settingsOf s
          ∧ skips t (fun _ => true) ∧ joins t ((List.finRange 16).filterMap skipped)
          ∧ t.intake.source = (if s.eng.prepared = [] then s.intake.source else .analog)
          ∧ (s.eng.bankFor.isSome = true → s.eng.bankFor ≠ s.eng.splice.map (·.tag) → spends t))
      ∧ (s.eng.state = .finishing → exec (.stopProgramAtEnd p) s = .next (answer p done s)))
    ∧ (punchOpen s = true →
      (∃ t, exec (.stopProgramNow p) s = .next (answer p done t) ∧ t.eng.splice = none ∧ t.gate = s.gate.cut
        ∧ t.eng.state = s.eng.state ∧ settingsOf t = settingsOf s ∧ (s.eng.prepared = [] → t.intake.source = .analog)
        ∧ ∀ sp, s.eng.splice = some sp → t.eng.active = s.eng.active ∧ ∃ x, breaks sp x ∧ joins t [x])
      ∧ exec (.stopProgramAtEnd p) s = .next (answer p ⟨.accepted, []⟩ (requestFinal s)))

/-- PUNCH IN opens a punch with the next take and an unbound schedule, when the engine rests and the timeline is LOCKED in PLAY on a
kept clock; a FLY source takes a bank at once, and without one the punch ends STARVED, or REFUSED for a bank of another rate (R43, R101, R137,
R142, R155; log entry 35).  PUNCH OUT asks for its final frame: the operation in progress takes the request, or the next one (R102, R156).  The tag
of a punch by its take is log entry 14, the model's choice. -/
def Obligations.ManualPunch : Prop :=
  ∀ (p : Port) (s : State), p ≠ .transport →
    let resting := s.eng.state = .idle ∨ s.eng.state = .done ∨ s.eng.state = .aborted
    let ready := s.tl.mode = .play ∧ s.tl.state = .locked ∧ s.clock.lost = false
    let take := if s.eng.takeCounter = 255 then 1 else s.eng.takeCounter + 1
    let opened : State → Splice → Prop := fun t sp =>
      exec (.punchIn p) s = .next (answer p ⟨.accepted, []⟩ t)
        ∧ t.eng.splice = some sp ∧ sp.tag = .manual take ∧ sp.index = none ∧ sp.take = take ∧ sp.source = s.manual.source
        ∧ sp.fadeIn = min s.manual.fade (2 * framePairs s.clock.rate) ∧ sp.fadeOut = sp.fadeIn ∧ sp.notify = true
        ∧ t.eng.takeCounter = take ∧ t.gate.state = .scheduled ∧ t.gate.holder = some (.manual take) ∧ t.gate.first = none
        ∧ t.intake.source = s.manual.source ∧ settingsOf t = settingsOf s
    let failed : Outcome → Option Reason → State → Prop := fun o r u => ∃ t x,
      exec (.punchIn p) s = .next (answer p ⟨.accepted, []⟩ t) ∧ t.eng.splice = none ∧ t.gate.state = .closed ∧ t.gate.holder = none
        ∧ t.eng.results.getLast? = some x ∧ x.tag = .manual take ∧ x.outcome = o ∧ x.reason = r ∧ x.actualIn = none ∧ x.actualOut = none
        ∧ t.notices = (post .spliceEnded 16 none none u).notices ∧ settingsOf t = settingsOf s
    (¬resting ∨ punchOpen s = true → exec (.punchIn p) s = .next (answer p (refuse .busy) s))
    ∧ (resting → punchOpen s = false → ¬ready → exec (.punchIn p) s = .next (answer p (refuse .state) s))
    ∧ (resting → punchOpen s = false → ready → s.gate.state = .closed → s.manual.source ≠ .fly → ∃ t sp, opened t sp)
    ∧ (resting → punchOpen s = false → ready → s.gate.state = .closed → s.manual.source = .fly → s.banks.ok →
      (∀ n, (s.banks.get n).state = .full → (n = .b0 ∨ s.banks.b0.state ≠ .full) →
        ((s.banks.get n).rate = some s.clock.rate → ∃ t sp, opened t sp ∧ t.eng.bankFor = some (.manual take) ∧ t.intake.flyStart = none
          ∧ t.banks.get n = { s.banks.get n with state := .playing, readPos := 0 }
          ∧ t.banks.get n.other = (if (s.banks.get n.other).state = .playing then { s.banks.get n.other with state := .spent }
              else s.banks.get n.other))
        ∧ ((s.banks.get n).rate ≠ some s.clock.rate → failed .refused (some .rate) (post .recordRefused 3 none none s)))
      ∧ (s.banks.b0.state ≠ .full → s.banks.b1.state ≠ .full → failed .starved none (post .flyStarved 2 none none s)))
    ∧ (punchOpen s = false → exec (.punchOut p) s = .next (answer p (refuse .state) s))
    ∧ (∀ sp, s.eng.splice = some sp → sp.index = none →
      let taken : State → Prop := fun t => exec (.punchOut p) s = .next (answer p ⟨.accepted, []⟩ t)
      let mine : CodingOp → Prop := fun op => ∃ b q, op.begun = some b ∧ b.plan = some q ∧ q.tag = sp.tag
      (s.gate.final.isSome = true ∨ sp.final.isSome = true → taken s)
      ∧ (s.gate.final = none → sp.final = none →
        (∀ op rest b, s.coding = op :: rest → mine op → op.begun = some b →
          taken { s with coding := { op with begun := some { b with finalReq := true } } :: rest })
        ∧ ((∀ op rest, s.coding = op :: rest → ¬mine op) →
          taken { s with eng := { s.eng with splice := some { sp with finalReq := true } } })))

/-! ### The Cue Unit -/

/-- ERASE CUE and ARM CUE (R164). -/
def Obligations.EraseAndArmCue : Prop :=
  ∀ (p : Port) (n arm : Byte) (s : State), p ≠ .transport →
    (24 ≤ n.toNat → exec (.eraseCue p n) s = .next (answer p (refuse .range) s)
      ∧ exec (.armCue p n arm) s = .next (answer p (refuse .range) s))
    ∧ (3 ≤ arm.toNat → exec (.armCue p n arm) s = .next (answer p (refuse .range) s))
    ∧ ∀ i : Fin 24, n.toNat = i.val →
      exec (.eraseCue p n) s = .next (answer p done { s with cues := s.cues.set i Cue.reset })
      ∧ (arm.toNat < 3 → s.cues[i].present = false → exec (.armCue p n arm) s = .next (answer p (refuse .state) s))
      ∧ (s.cues[i].present = true → ∀ b, ((arm = 0 ∧ b = true) ∨ (arm = 1 ∧ b = false) ∨ (arm = 2 ∧ b = s.cues[i].armed)) →
          exec (.armCue p n arm) s = .next (answer p ⟨.done, cueBytes { s.cues[i] with armed := b }⟩
            { s with cues := s.cues.set i { s.cues[i] with armed := b } }))

/-- WRITE CUE, and the commands on the punch inputs: RANGE, or the record replaced as the rules give and answered whole (R163, R173,
R174, R175).  A cue's parts lie in the range of a timecode or are ANY (FFh), and not all four are ANY. -/
def Obligations.CueAndPunchCommands : Prop :=
  (∀ hh mm ss ff action rep armed : Byte,
    let part : Nat → Byte → Prop := fun n b => b.toNat < n ∨ b = 0xFF
    let value : Byte → Option Nat := fun b => if b = 0xFF then none else some b.toNat
    ((cueOf hh mm ss ff action rep armed).isSome = true ↔ part 24 hh ∧ part 60 mm ∧ part 60 ss ∧ part 30 ff
      ∧ ¬(hh = 0xFF ∧ mm = 0xFF ∧ ss = 0xFF ∧ ff = 0xFF) ∧ action.toNat < 6 ∧ rep.toNat < 2 ∧ armed.toNat < 2)
    ∧ ∀ c, cueOf hh mm ss ff action rep armed = some c → c.hh = value hh ∧ c.mm = value mm ∧ c.ss = value ss ∧ c.ff = value ff
      ∧ named [.notify, .startRecord, .startRehearse, .stopAtEnd, .stopNow, .punchToggle] action = some c.action
      ∧ named [.oneShot, .rep] rep = some c.rep ∧ (c.armed = true ↔ armed = 1) ∧ c.present = true ∧ c.lastFiring = none)
  ∧ ∀ (p : Port) (s : State), p ≠ .transport →
    (∀ n hh mm ss ff action rep armed : Byte,
      (24 ≤ n.toNat ∨ cueOf hh mm ss ff action rep armed = none →
        exec (.writeCue p n hh mm ss ff action rep armed) s = .next (answer p (refuse .range) s))
      ∧ ∀ (i : Fin 24) (c : Cue), n.toNat = i.val → cueOf hh mm ss ff action rep armed = some c →
        exec (.writeCue p n hh mm ss ff action rep armed) s = .next (answer p ⟨.done, cueBytes c⟩ { s with cues := s.cues.set i c }))
    ∧ (∀ input a d q r k arm : Byte, 2 ≤ input.toNat →
        exec (.configurePunch p input a d q r k) s = .next (answer p (refuse .range) s)
        ∧ exec (.armPunch p input arm) s = .next (answer p (refuse .range) s)
        ∧ exec (.clearPunch p input) s = .next (answer p (refuse .range) s))
    ∧ ∀ (input : Byte) (l : PunchLine), ((input = 0 ∧ l = .a) ∨ (input = 1 ∧ l = .b)) →
      let x := punchLine s l
      let taken : Punch → Res := fun y => .next (answer p ⟨.done, punchBytes y⟩ (setPunch l y s))
      (∀ a d q r k va vd vq vr vk, named levels a = some va → named detections d = some vd → named samplePeriods q = some vq →
        named punchRepeats r = some vr → named punchActions k = some vk → exec (.configurePunch p input a d q r k) s =
          taken { x with active := va, detection := vd, period := vq, rep := vr, action := vk })
      ∧ (∀ a d q r k, (named levels a = none ∨ named detections d = none ∨ named samplePeriods q = none ∨ named punchRepeats r = none
          ∨ named punchActions k = none) → exec (.configurePunch p input a d q r k) s = .next (answer p (refuse .range) s))
      ∧ exec (.armPunch p input 0) s = taken { x with armed := true }
      ∧ exec (.armPunch p input 1) s = taken { x with armed := false }
      ∧ (∀ arm : Byte, 2 ≤ arm.toNat → exec (.armPunch p input arm) s = .next (answer p (refuse .range) s))
      ∧ exec (.clearPunch p input) s = taken { x with detected := false }

/-- A punch input's level is accepted when two samples in a row show it; an accepted level of an input that does not detect changes the
filter alone, and an armed input detects the accepted active level, or with LEVEL every accepted level: it sets the detected flag, hands the
engine its action as the command of that action, records the answer, posts PUNCH_DETECTED with a refusal's code, and disarms a SINGLE input
(R170, R171, R172). -/
def Obligations.PunchSamples : Prop :=
  ∀ (l : PunchLine) (v : Level) (s : State), let x := punchLine s l
    let n := match l with
      | .a => 0
      | .b => 1
    let active := v == x.active
    let detects := x.armed = true ∧ (v = x.active ∨ x.detection = .level)
    let found : State := setPunch l { x with previous := v, filtered := v, detected := true } s
    (v ≠ x.previous ∨ v = x.filtered → exec (.punchSample l v) s = .next (setPunch l { x with previous := v } s))
    ∧ (v = x.previous → v ≠ x.filtered →
      (¬detects → exec (.punchSample l v) s = .next (setPunch l { x with previous := v, filtered := v } s))
      ∧ (detects → x.action = .notify → ∃ t, exec (.punchSample l v) s = .next t
          ∧ punchLine t l = { x with previous := v, filtered := v, detected := true, last := some (active, .done)
                                     armed := decide (x.rep = .continuous) }
          ∧ t.notices = (post .punchDetected n none none s).notices
          ∧ { t with punchA := s.punchA, punchB := s.punchB, notices := s.notices } = s)
      ∧ (detects → x.action ≠ .notify → s.eng.version < 65536 →
        let sent : Instr := match x.action, x.detection with
          | .manualPunch, .edge => if punchOpen s then .punchOut .deck else .punchIn .deck
          | .manualPunch, .level => if active then .punchIn .deck else .punchOut .deck
          | .startRecord, _ => .startProgram .deck 0 1 (BitVec.ofNat 16 s.eng.version)
          | .stopAtEnd, _ => .stopProgramAtEnd .deck
          | _, _ => .stopProgramNow .deck
        ∃ d u, exec sent found = .next (answer .deck d u) ∧ u.framers = s.framers ∧ exec (.punchSample l v) s =
          .next (setPunch l { punchLine u l with last := some (active, d.code)
                                                 armed := (punchLine u l).armed && (punchLine u l).rep == .continuous }
            (post .punchDetected n none (if d.code = .done ∨ d.code = .accepted then none else some d.code) u))))

/-! ### Notices -/

/-- The commands on a port's notices and the expiry of an entry (R197, R200, R201, R202, R203).  NOTICE_EXPIRY removes an entry that was given a
deadline, whenever it comes (log entry 39), and changes nothing where there is none (log entry 16, the model's choices). -/
def Obligations.NoticeCommands : Prop :=
  ∀ (p : Port) (s : State), let q := s.notices.get p
    (q.queue = [] → permitted p 0x70 = true → exec (.collectNotice p) s = .next (answer p done s))
    ∧ (∀ n rest, q.queue = n :: rest → permitted p 0x70 = true → exec (.collectNotice p) s =
        .next (answer p ⟨.done, noticeBytes n ++ be 1 rest.length ++ be 1 q.overflow ++ be 1 q.expired⟩
          { s with notices := s.notices.set p { q with queue := rest } }))
    ∧ (∀ (kind route : Byte) (i : Fin 16), permitted p 0x71 = true → kind.toNat = i.val + 1 → route.toNat < 8 →
        exec (.setRoute p kind route) s = .next (answer p done { s with
          routes := s.routes.set i ⟨route.getLsbD 0, route.getLsbD 1, route.getLsbD 2⟩ }))
    ∧ (∀ kind route : Byte, permitted p 0x71 = true → kind.toNat < 1 ∨ 16 < kind.toNat ∨ 8 ≤ route.toNat →
        exec (.setRoute p kind route) s = .next (answer p (refuse .range) s))
    ∧ (∀ flag : Byte, permitted p 0x72 = true → (flag.toNat < 2 → exec (.setAttention p flag) s =
        .next (answer p done { s with notices := s.notices.set p { q with attention := flag == 1 } }))
      ∧ (2 ≤ flag.toNat → exec (.setAttention p flag) s = .next (answer p (refuse .range) s)))
    ∧ (∀ sec : Byte, permitted p 0x73 = true → (1 ≤ sec.toNat → sec.toNat ≤ 8 → exec (.setExpiry p sec) s =
        .next (answer p done { s with notices := s.notices.set p { q with expiryTime := sec.toNat } }))
      ∧ (sec.toNat < 1 ∨ 8 < sec.toNat → exec (.setExpiry p sec) s = .next (answer p (refuse .range) s)))
    ∧ (∀ (k : NoticeKind) (n : Nat), (∀ e ∈ q.queue, ¬(e.kind = k ∧ e.subject = n ∧ e.deadline.isSome = true)) →
        exec (.noticeExpiry p k n) s = .next s)
    ∧ (∀ (k : NoticeKind) (n : Nat) (e : Notice) (before after : List Notice), q.ok → q.queue = before ++ e :: after →
        e.kind = k → e.subject = n → e.deadline.isSome = true → exec (.noticeExpiry p k n) s =
          .next { s with notices := s.notices.set p { q with queue := before ++ after, expired := min 255 (q.expired + 1) } })

/-- A notice posted to a routed port is coalesced into the entry of its kind and subject, or discarded as an overflow at 8 entries, or
joins the end with count 1; a port outside the route is left alone (R196, R199; log entry 39 for the deadline). -/
def Obligations.PostedNotices : Prop :=
  ∀ (k : NoticeKind) (n : Nat) (a : Option Nat) (c : Option Result) (s : State) (p : Port),
    let q := s.notices.get p
    let u := (post k n a c s).notices.get p
    { post k n a c s with notices := s.notices } = s
    ∧ ((s.routes[kindIndex k]).get p = false → u = q)
    ∧ ((s.routes[kindIndex k]).get p = true →
      (∀ before e after, q.queue = before ++ e :: after → e.kind = k → e.subject = n →
        (∀ x ∈ before ++ after, ¬(x.kind = k ∧ x.subject = n)) →
        u = { q with queue := before ++ { e with count := min 255 (e.count + 1) } :: after })
      ∧ ((∀ x ∈ q.queue, ¬(x.kind = k ∧ x.subject = n)) →
        (8 ≤ q.queue.length → u = { q with overflow := min 255 (q.overflow + 1) })
        ∧ (q.queue.length < 8 → u = { q with queue := q.queue ++ [⟨k, n, 1, a, c, if expiring k then some q.expiryTime else none⟩] })))

/-- A port's attention line is asserted exactly while its queue holds an entry and its attention is enabled, so it rises when a notice
joins an empty queue, falls when the queue empties, and is left as it was by a coalesced notice; SET ATTENTION sets the enable, the resets of
the device enable it, and a port reset keeps it (R203). -/
def Obligations.AttentionLine : Prop :=
  (∀ (s : State) (p : Port), attention s p = true ↔ (s.notices.get p).queue ≠ [] ∧ (s.notices.get p).attention = true)
  ∧ (∀ (k : NoticeKind) (n : Nat) (a : Option Nat) (c : Option Result) (s : State) (p : Port),
      (s.routes[kindIndex k]).get p = true → (s.notices.get p).attention = true → attention (post k n a c s) p = true)
  ∧ (∀ (k : NoticeKind) (n : Nat) (a : Option Nat) (c : Option Result) (s : State) (p : Port),
      (∃ e ∈ (s.notices.get p).queue, e.kind = k ∧ e.subject = n) → attention (post k n a c s) p = attention s p)
  ∧ (∀ (p : Port) (flag : Byte) (s : State),
      (flag.toNat < 2 → exec (.setAttention p flag) s = .next (answer p done { s with
        notices := s.notices.set p { s.notices.get p with attention := flag == 1 } }))
      ∧ (2 ≤ flag.toNat → exec (.setAttention p flag) s = .next (answer p (refuse .range) s)))
  ∧ (∀ (s : State) (p : Port), ∃ t, exec .powerOnReset s = .next t ∧ (t.notices.get p).attention = true ∧ attention t p = false)
  ∧ (∀ (s : State) (p : Port), ∃ t, exec (.resetDevice .deck) s = .next t ∧ (t.notices.get p).attention = true
      ∧ attention t p = false)
  ∧ (∀ (s : State) (p : Port), ∃ t, exec (.resetPort p) s = .next t
      ∧ (t.notices.get p).attention = (s.notices.get p).attention ∧ attention t p = false)

/-- ALERT is asserted exactly while the Deck Port's queue holds a WRITE_FAULT, CLOCK_LOST or RECORD_REFUSED, whatever its attention
enable; a full Deck queue discards an urgent notice without raising it; an expiry never lowers it (R204). -/
def Obligations.AlertLine : Prop :=
  (∀ s : State, alert s = true ↔
      ∃ e ∈ s.notices.deck.queue, e.kind = .writeFault ∨ e.kind = .clockLost ∨ e.kind = .recordRefused)
  ∧ (∀ (s : State) (b : Bool), alert { s with notices := { s.notices with deck := { s.notices.deck with attention := b } } } = alert s)
  ∧ (∀ (s : State) (q r : NoticePort), alert { s with notices := { s.notices with transport := q, studio := r } } = alert s)
  ∧ (∀ (k : NoticeKind) (n : Nat) (a : Option Nat) (c : Option Result) (s : State), s.notices.deck.queue.length < 8 →
      (s.routes[kindIndex k]).deck = true → (k = .writeFault ∨ k = .clockLost ∨ k = .recordRefused) → alert (post k n a c s) = true)
  ∧ (∀ (k : NoticeKind) (n : Nat) (a : Option Nat) (c : Option Result) (s : State), 8 ≤ s.notices.deck.queue.length →
      (∀ x ∈ s.notices.deck.queue, ¬(x.kind = k ∧ x.subject = n)) → (s.routes[kindIndex k]).deck = true →
      alert (post k n a c s) = alert s
        ∧ (post k n a c s).notices.deck.overflow = min 255 (s.notices.deck.overflow + 1))
  ∧ (∀ (p : Port) (k : NoticeKind) (n : Nat) (s : State), noticesOk s → ∃ t, exec (.noticeExpiry p k n) s = .next t
      ∧ alert t = alert s)


/-! ### Capture and concealment -/

/-- A sector arrives with no close waiting.  With a frame with a slot in assembly: a passing sector of that frame is stored at its places, one that
stands already is left, a failed one is counted and stored only where nothing stands, the places of every other sector stay as they were, and a
passing sector of another address closes the frame and begins the next with it.  An absent frame counts every sector as failed and drops it, and a
passing one still gives its address, or changes the frame (R50 to R54), the close of the absent frame completing at once (log entry 18).  With no
frame in assembly the sector is discarded (R48). -/
def Obligations.SectorsAreStored : Prop :=
  ∀ (ch : HeadStream) (bytes : List Byte) (s : State), let c := capture s ch
    let x := readSector bytes
    let counted : CaptureStats := { c.stats with failed := min 4294967295 (c.stats.failed + 1) }
    (c.assembly = none → c.closing = [] → exec (.sectorArrival ch bytes) s = .next s)
    ∧ (∀ (f : CaptureFrame) (i : SlotId), c.assembly = some f → f.slot = some i → c.closing = [] →
      let stored : State → CaptureFrame → Nat → Prop := fun t g k => ∀ j (hj : j < x.words.length),
        (k < 8 → dataWord t.slots[i].audio k j = x.words[j]) ∧ (k = 8 → g.p.read j = x.words[j]) ∧ (k = 9 → g.q.read j = x.words[j])
      let kept : State → CaptureFrame → Nat → Prop := fun t g k =>
        (k < 8 → ∀ j, j < 400 → dataWord t.slots[i].audio k j = dataWord s.slots[i].audio k j)
          ∧ (k = 8 → g.p = f.p) ∧ (k = 9 → g.q = f.q)
      let others : State → Prop := fun t => ∀ k : SlotId, k ≠ i → t.slots[k] = s.slots[k]
      (∀ k h a, x.number = some k → x.header = some h → h.addr = some a → (f.addr = none ∨ f.addr = some a) →
        ∃ t g, exec (.sectorArrival ch bytes) s = .next t ∧ (capture t ch).assembly = some g ∧ g.slot = some i ∧ g.addr = some a
          ∧ t.slots[i].addr = some a ∧ (capture t ch).stats = c.stats ∧ others t
          ∧ ((entryAt f.entries k).isGood = true → g.entries = f.entries ∧ t.slots[i].audio = s.slots[i].audio)
          ∧ ((entryAt f.entries k).isGood = false → g.entries = setEntry f.entries k (.good h) ∧ stored t g k)
          ∧ ∀ l, l ≠ k ∨ (entryAt f.entries k).isGood = true → kept t g l)
      ∧ ((x.number = none ∨ x.header = none) → ∃ t g, exec (.sectorArrival ch bytes) s = .next t
          ∧ (capture t ch).assembly = some g ∧ g.addr = f.addr ∧ (capture t ch).stats = counted ∧ others t ∧ t.slots[i].addr = s.slots[i].addr
          ∧ (∀ k, x.number = some k → g.entries = (if entryAt f.entries k = .missing then setEntry f.entries k .failed else f.entries)
            ∧ (entryAt f.entries k = .missing → stored t g k) ∧ ∀ l, l ≠ k ∨ entryAt f.entries k ≠ .missing → kept t g l)
          ∧ (x.number = none → g = f ∧ t.slots = s.slots))
      ∧ (∀ k h a b, x.number = some k → x.header = some h → h.addr = some a → f.addr = some b → b ≠ a →
          ∃ t g, exec (.sectorArrival ch bytes) s = .next t ∧ (capture t ch).assembly = some g ∧ g.addr = some a
            ∧ (capture t ch).closing = [⟨f, false, s.tl.mode, s.tl.dir, 0⟩]
            ∧ (g.slot = none → g.entries = noEntries ∧ (capture t ch).stats = counted)
            ∧ ∀ n, g.slot = some n → g.entries = setEntry noEntries k (.good h) ∧ (capture t ch).stats = c.stats
              ∧ t.slots[n].state = .filling ∧ t.slots[n].addr = some a
              ∧ (k < 8 → ∀ j (hj : j < x.words.length), dataWord t.slots[n].audio k j = x.words[j])))
    ∧ (∀ (f : CaptureFrame), c.assembly = some f → f.slot = none → c.closing = [] →
      ((x.number = none ∨ x.header = none) → exec (.sectorArrival ch bytes) s = .next (setCapture ch { c with stats := counted } s))
      ∧ ∀ k h a, x.number = some k → x.header = some h → h.addr = some a →
        (f.addr = none ∨ f.addr = some a → exec (.sectorArrival ch bytes) s = .next (setCapture ch { c with
          assembly := some { f with addr := some a }, stats := counted } s))
        ∧ ∀ b, f.addr = some b → b ≠ a → ∃ t g, exec (.sectorArrival ch bytes) s = .next t ∧ (capture t ch).assembly = some g
          ∧ g.addr = some a ∧ (capture t ch).closing = [] ∧ (capture t ch).stats.closed = min 4294967295 (c.stats.closed + 1)
          ∧ (capture t ch).stats.unrecoverable = min 4294967295 (c.stats.unrecoverable + 1)
          ∧ (capture t ch).stats.failed = (if g.slot = none then counted.failed else c.stats.failed)
          ∧ g.entries = (if g.slot = none then noEntries else setEntry noEntries k (.good h)))

/-- Each lost word is recovered exactly: with one data sector not GOOD from P or from Q, with two from both, and with more, or without
the parity they need, nothing is recovered (R3, R4, R5, R56). -/
def Obligations.ParityRecoversLostSectors : Prop :=
  ∀ (e : Vector SectorEntry 10) (whole m p q : Memory),
    ((entryAt e 8).isGood = true → ∀ j, j < 400 → p.read j = parityP whole j) →
    ((entryAt e 9).isGood = true → ∀ j, j < 400 → q.read j = parityQ whole j) →
    (∀ k, k < 8 → (entryAt e k).isGood = true → ∀ j, j < 400 → dataWord m k j = dataWord whole k j) →
    let lost := fun k => (k, (List.range 400).map (dataWord whole k))
    (∀ k, missingData e = [k] → (entryAt e 8).isGood = true ∨ (entryAt e 9).isGood = true → recover e m p q = [lost k])
    ∧ (∀ k, missingData e = [k] → (entryAt e 8).isGood = false → (entryAt e 9).isGood = false → recover e m p q = [])
    ∧ (∀ k l, missingData e = [k, l] → (entryAt e 8).isGood = true → (entryAt e 9).isGood = true →
        recover e m p q = [lost k, lost l])
    ∧ (∀ k l, missingData e = [k, l] → (entryAt e 8).isGood = false ∨ (entryAt e 9).isGood = false → recover e m p q = [])
    ∧ ((missingData e).length = 0 ∨ 3 ≤ (missingData e).length → recover e m p q = [])

/-- The close of a frame, the only one waiting while the next is in assembly: the slot, the channel and its statistics take what the stages found; a
PRE-READ frame moves the timeline by its header, fires the cues that match its timecode, joins the concealment list and reports a lock gain, which
in PLAY takes HELD to WAITING, and ARMED where the first PENDING in-point lies at P + 5 − D or beyond, P the frame closed; a CONFIDENCE frame's slot
becomes DECODED, older DECODED slots are given back, and the designated write is judged; an absent frame is handed on without a slot; in JOG the
window follows the timeline, and its pins with it (R12, R13, R16, R18, R26, R30, R31, R34, R35, R49, R50, R57 to R63, R106, R107, R108, R138, R148,
R150, R165 to R168).  A completion with an empty list changes nothing (log entry 16, the model's choice). -/
def Obligations.CloseOperationCompletes : Prop :=
  let top : Nat → Nat := min 4294967295
  let freed : State → State → SlotId → Prop := fun s t k =>
    t.slots[k] = if blocked s k = true then { s.slots[k] with due := true } else Slot.reset
  (∀ (s : State) (cf : ClosingFrame) (i : SlotId), cf.frame.slot = some i → s.slots[i].state = .filling → s.slots[i].due = false →
    let S := framePairs s.clock.rate
    let shut : Capture → Closed → Capture := fun c d => { c with
      closing := [], reference := some d.header, headless := if d.valid then 0 else min 31 (c.headless + 1)
      stats := ⟨top (c.stats.closed + 1), top (c.stats.failed + d.setAside + d.unreached), top (c.stats.rebuilt + d.rebuilt),
        top (c.stats.unrecoverable + if d.bad.left = [] ∧ d.bad.right = [] then 0 else 1),
        top (c.stats.mixed + if d.setAside = 0 then 0 else 1)⟩ }
    (∀ d, d = closeStages s s.pre cf s.slots[i].audio → s.pre.closing = [cf] → s.pre.assembly.isSome = true →
      (∀ op ∈ s.coding, op.intake.slot ≠ some i ∧ ∀ b, op.begun = some b → b.slot ≠ some i) →
      ∃ t, exec (.closeOperationComplete .preRead) s = .next t ∧ t.pre = shut s.pre d
        ∧ (t.slots[i].audio, t.slots[i].bad, t.slots[i].header, t.slots[i].addr)
            = (d.audio, d.bad, some d.header, d.header.addr)
        ∧ t.slots[i].inherited = !d.valid
        ∧ t.tl = s.tl.afterClose (if d.valid then some d.header else none) ∧ windowPins t ∧ scrubFollows s t
        ∧ (s.tl.mode = .jog → t.tl.state = .locked ∨ t.tl.state = .coasting → ∀ k, k ≠ i → pinSettled s t k)
        ∧ t.conceal.list = s.conceal.list ++ [⟨some i, s.clock.rate⟩]
        ∧ t.conceal.op = some (s.conceal.op.getD s.conceal.params)
        ∧ (let tc := d.header.tc
          let passes := t.tl.mode = .play ∧ (t.tl.state = .locked ∨ t.tl.state = .coasting)
          let hit : Fin 24 → Prop := fun j => passes ∧ s.cues[j].present = true ∧ s.cues[j].armed = true ∧ ∃ v, tc = some v
            ∧ (∀ n, s.cues[j].hh = some n → n = v.hh) ∧ (∀ n, s.cues[j].mm = some n → n = v.mm)
            ∧ (∀ n, s.cues[j].ss = some n → n = v.ss) ∧ (∀ n, s.cues[j].ff = some n → n = v.ff)
          let entered := s.tl.state ≠ .locked ∧ t.tl.state = .locked
          let exited := s.tl.state = .locked ∧ t.tl.state ≠ .locked
          (∀ j : Fin 24, (¬hit j → t.cues[j] = s.cues[j])
            ∧ (hit j → ∃ v r, tc = some v ∧ (s.cues[j].action = .notify → r = .done) ∧ t.cues[j] = { s.cues[j] with
                lastFiring := some ⟨v, d.header.addr, r⟩, armed := decide (s.cues[j].rep = .rep) }))
          ∧ (∀ j : Fin 24, t.tl.state = s.tl.state → (∀ k, hit k ↔ k = j) → s.cues[j].action = .notify →
              t.notices = (post .cueFired j.val d.header.addr none s).notices)
          ∧ ((∀ j, ¬hit j) →
            ((s.eng.state = .idle ∨ s.eng.state = .done ∨ s.eng.state = .aborted) → s.eng.splice = none → t.notices =
                if entered then (post .lockChange 1 (some t.tl.position) none s).notices
                else if exited then (post .lockChange 0 (some t.tl.position) none s).notices else s.notices)
            ∧ (s.eng.state = .held → t.eng.state = if s.tl.mode = .play ∧ entered then .waiting else .held)
            ∧ (s.eng.state = .armed → ∀ k e, pendingEntry s k = some e → (∀ l, l < k → pendingEntry s l = none) →
              t.eng.state = if s.tl.mode = .play ∧ entered ∧ t.tl.position + 5 ≤ e.inPoint.addr + s.geo.d then .waiting else .armed))))
    ∧ (∀ d, d = closeStages s s.conf cf s.slots[i].audio → s.conf.closing = [cf] → s.conf.assembly.isSome = true →
      let older : SlotId → Prop := fun j => s.slots[j].state = .decoded ∧ s.slots[j].role = some .confidence
      (cf.designated = 0 ∨ (∀ e ∈ s.judge, e.designated = false) →
        ∃ t, exec (.closeOperationComplete .confidence) s = .next t ∧ t.conf = shut s.conf d
        ∧ t.slots[i] = { s.slots[i] with audio := d.audio, bad := d.bad, header := some d.header, inherited := !d.valid, addr := d.header.addr
                                         layout := s.clock.rate, state := .decoded }
        ∧ (∀ j, j ≠ i → (older j → freed s t j) ∧ (¬older j → t.slots[j] = s.slots[j]))
        ∧ t.judge = s.judge ∧ t.gate = s.gate ∧ t.notices = s.notices ∧ t.tl = s.tl ∧ settingsOf t = settingsOf s)
      ∧ (∀ e rest, cf.designated = 1 → s.judge = e :: rest → e.designated = true → e.slot ≠ i →
        let fault : Option Nat := if d.bad.left ≠ [] ∨ d.bad.right ≠ [] then some 1 else if d.valid = false then some 2
          else if d.header.take ≠ e.take then some 3 else none
        let run := min 255 (s.gate.run + 1)
        ∃ t, exec (.closeOperationComplete .confidence) s = .next t ∧ t.conf = shut s.conf d ∧ t.judge = rest ∧ freed s t e.slot
        ∧ t.notices = (match fault with
          | none => s.notices
          | some n => (post .writeFault n (some e.addr) none s).notices)
        ∧ t.gate = (if s.gate.state = .closed ∨ e.opening ≠ s.gate.opening then s.gate
            else if fault = none then { s.gate with run := 0 }
            else { s.gate with run := run, pendingStop := s.gate.pendingStop || decide ((0 < s.gate.faultLimit ∧ s.gate.faultLimit ≤ run)
                ∧ (s.gate.state = .scheduled ∨ s.gate.state = .opened)) })
        ∧ (fault = none ∨ e.partly = true → t.eng = s.eng)
        ∧ (fault ≠ none → e.partly = false →
          (∀ sp, s.eng.splice = some sp → sp.tag = e.tag →
            t.eng = { s.eng with splice := some { sp with faults := min 255 (sp.faults + 1) } })
          ∧ ((∀ sp, s.eng.splice = some sp → sp.tag ≠ e.tag) → t.eng = { s.eng with results := s.eng.results.map fun r =>
              if r.tag = e.tag then { r with faults := min 255 (r.faults + 1) } else r }))))
    ∧ (∀ (c : Capture) (m : Memory) (ch : Chan) (n : Nat), let d := closeStages s c cf m
        let kept := (applyRebuild (recover (setAside cf.frame.entries) m cf.frame.p cf.frame.q) m (setAside cf.frame.entries)).2
        (d.header.rate = s.clock.rate → (n ∈ d.bad.get ch ↔ n < S ∧ (entryAt kept (sectorOf s.clock.rate ch n)).isGood = false))
        ∧ (d.header.rate ≠ s.clock.rate → (n ∈ d.bad.get ch ↔ n < S))
        ∧ (∀ h, chosenHeader kept = some h → d.header = h ∧ d.valid = true)
        ∧ (chosenHeader kept = none → d.valid = false ∧ d.header = inherited s c cf (min 31 (c.headless + 1)))))
  ∧ (∀ (s : State) (cf : ClosingFrame), cf.frame.slot = none →
    let absent : Capture → Capture := fun c => { c with
      closing := [], reference := some (inherited s c cf (min 31 (c.headless + 1))), headless := min 31 (c.headless + 1)
      stats := { c.stats with closed := top (c.stats.closed + 1), unrecoverable := top (c.stats.unrecoverable + 1) } }
    (s.pre.closing = [cf] → s.pre.assembly.isSome = true → ∃ t, exec (.closeOperationComplete .preRead) s = .next t
      ∧ t.pre = absent s.pre ∧ t.tl = s.tl.afterClose none ∧ t.cues = s.cues ∧ windowPins t ∧ scrubFollows s t
      ∧ (s.tl.mode = .jog → t.tl.state = .locked ∨ t.tl.state = .coasting → ∀ k, pinSettled s t k)
      ∧ t.conceal.list = s.conceal.list ++ [⟨none, s.clock.rate⟩])
    ∧ (∀ e rest, s.conf.closing = [cf] → s.conf.assembly.isSome = true → cf.designated = 1 → s.judge = e :: rest → e.designated = true →
      ∃ t, exec (.closeOperationComplete .confidence) s = .next t ∧ t.conf = absent s.conf ∧ t.judge = rest ∧ freed s t e.slot
        ∧ t.notices = (post .writeFault 2 (some e.addr) none s).notices))
  ∧ (∀ (s : State) (c : Capture) (cf : ClosingFrame) (run : Nat), let h := inherited s c cf run
    (c.reference = none → h = ⟨none, none, s.clock.rate, .never, 0, .none, false⟩)
    ∧ ∀ r, c.reference = some r →
      { h with addr := r.addr, tc := r.tc, mark := r.mark } = r
      ∧ h.addr = (match cf.mode, cf.dir with
        | .jog, _ => r.addr
        | .shuttle, .reverse => r.addr.bind fun a => if a = 0 then none else some (a - 1)
        | _, _ => r.addr.bind fun a => if a + 1 < 2592000 then some (a + 1) else none)
      ∧ (s.tl.coastLimit < run → h.mark = .never ∧ h.tc = none)
      ∧ (run ≤ s.tl.coastLimit → h.mark = r.mark ∧ h.tc = match cf.mode, cf.dir with
        | .jog, _ => r.tc
        | .shuttle, .reverse => r.tc.map Timecode.prev
        | _, _ => r.tc.map Timecode.next))
  ∧ (∀ (tl : Timeline), let u := fun v => tl.afterClose v
    let moves := tl.mode = .play ∨ tl.mode = .jog
    let off : Timeline := { tl with state := .unlocked, coast := 0, candidate := none, run := 0 }
    let on : Nat → Timeline := fun n => if tl.mode = .jog then { tl with state := .coasting, coast := n }
      else if tl.position + 1 < 2592000
      then { tl with state := .coasting, coast := n, position := tl.position + 1, timecode := tl.timecode.map Timecode.next } else off
    (tl.mode = .stop ∨ tl.mode = .spool ∨ (moves ∧ (tl.state = .parked ∨ tl.state = .laying)) → ∀ v, u v = tl)
    ∧ (moves → (tl.state = .locked → u none = on 1)
      ∧ (tl.state = .coasting → u none = if tl.coastLimit < tl.coast + 1 then off else on (tl.coast + 1))
      ∧ (tl.state = .acquiring → u none = off) ∧ (tl.state = .unlocked → u none = tl))
    ∧ (tl.mode = .shuttle → u none = tl)
    ∧ ∀ (h : Header) (a : Nat), h.addr = some a →
      let expected : Nat → Prop := fun ref => match tl.mode, tl.dir with
        | .jog, .forward => a = ref ∨ a = ref + 1
        | .jog, .reverse => a = ref ∨ a + 1 = ref
        | _, _ => a = ref + 1
      let locked : Timeline := { tl with
        state := .locked, position := a, timecode := h.tc, tapeRate := some h.rate, coast := 0, candidate := none, run := 0 }
      let restart : Timeline := { tl with state := .acquiring, candidate := some a, run := 1, coast := 0, tapeRate := some h.rate }
      let ref := tl.candidate.getD tl.position
      (tl.mode = .shuttle → u (some h) = locked)
      ∧ (moves → (tl.state = .unlocked → u (some h) = restart)
        ∧ (tl.state = .acquiring → (¬expected ref → u (some h) = restart)
          ∧ (expected ref → 2 ≤ tl.run → u (some h) = locked)
          ∧ (expected ref → tl.run < 2 → u (some h) = { tl with candidate := some a, run := tl.run + 1, tapeRate := some h.rate }))
        ∧ (tl.state = .locked ∨ tl.state = .coasting → (expected tl.position → u (some h) = locked)
          ∧ (¬expected tl.position → u (some h) = restart))))
  ∧ (∀ (w : State) (j : Fin 24) (v : Timecode) (addr : Option Nat), let c := w.cues[j]
    c.action ≠ .notify → w.eng.version < 65536 →
    let sent : Instr := match c.action with
      | .startRecord => .startProgram .deck 0 1 (BitVec.ofNat 16 w.eng.version)
      | .startRehearse => .startProgram .deck 1 1 (BitVec.ofNat 16 w.eng.version)
      | .stopAtEnd => .stopProgramAtEnd .deck
      | .punchToggle => if punchOpen w then .punchOut .deck else .punchIn .deck
      | _ => .stopProgramNow .deck
    ∃ d x, exec sent w = .next (answer .deck d x) ∧ x.framers = w.framers ∧ fireCue j v addr w =
      post .cueFired j.val addr (if d.code = .done ∨ d.code = .accepted then none else some d.code)
        (setCue j { x.cues[j] with lastFiring := some ⟨v, addr, d.code⟩, armed := x.cues[j].armed && x.cues[j].rep == .rep } x))
  ∧ (∀ (s : State) (ch : HeadStream), (capture s ch).closing = [] → exec (.closeOperationComplete ch) s = .next s)

/-- What concealment makes of a run: in a CLEAN channel good audio passes, a run no longer than the Bridge Limit between good values is
interpolated, and a run that reaches the frame's end is held, then faded out, then silent, by the parameters (R68 to R72); and from each other
state: a hold goes on, a fade-out keeps to its own length, MUTED and RECOVERING are silent until the Recover Count of good positions, and a
fade-in leads back to CLEAN, or ends at a long run (R70 to R74). -/
def Obligations.ConcealmentOfRuns : Prop :=
  ∀ (P : ConcealParams) (addr : Option Nat) (r : ConcealRec),
    let value : List Sample → Nat → Sample := fun l n => l.getD n 0
    let bad : List Sample → List (Bool × Sample) := List.map fun v => (true, v)
    let good : List Sample → List (Bool × Sample) := List.map fun v => (false, v)
    let taken := fun plain l => concealChannel P plain addr r l
    (r.state = .clean →
      (∀ plain l, let y := taken plain (good l)
        y.1 = l ∧ y.2.touched = false ∧ y.2.muted = 0 ∧ y.2.notices = 0 ∧ y.2.rec'.state = .clean)
      ∧ (∀ (a b : Sample) (junk : List Sample), 1 ≤ junk.length → junk.length ≤ P.bridge →
        let y := taken true ((false, a) :: bad junk ++ [(false, b)])
        y.1 = a :: ((List.range junk.length).map fun n => interpolate a b junk.length (n + 1)) ++ [b]
          ∧ y.2.rec'.bridged = min 4294967295 (r.bridged + junk.length) ∧ y.2.rec'.longRuns = r.longRuns ∧ y.2.touched = true))
    ∧ (∀ (plain : Bool) (junk : List Sample), r.state = .clean ∨ r.state = .holding → 1 ≤ P.fade → 1 ≤ junk.length →
      let hold := if r.state = .clean then P.hold else r.hold
      let y := taken plain (bad junk)
      y.1 = ((List.range junk.length).map fun n => if n < hold then r.lastGood
          else if n < hold + P.fade then scale r.lastGood ⟨P.fade - (n - hold), P.fade + 1⟩ else 0)
        ∧ y.2.rec'.bridged = r.bridged
        ∧ y.2.rec'.longRuns = (if r.state = .clean then min 4294967295 (r.longRuns + 1) else r.longRuns)
        ∧ y.2.rec'.mutes = (if hold + P.fade ≤ junk.length then min 4294967295 (r.mutes + 1) else r.mutes)
        ∧ y.2.muted = junk.length - (hold + P.fade))
    ∧ (r.state = .holding → ∀ plain l, l ≠ [] → let y := taken plain (good l)
      y.1 = l ∧ y.2.rec'.state = .clean ∧ y.2.touched = false ∧ y.2.notices = 0)
    ∧ (∀ f, r.state = .fadingOut → r.fade = some f → f.step < f.length → ∀ plain l, 1 ≤ l.length → f.step + l.length ≤ f.length →
      let gain : Nat → Frac := fun n => ⟨f.start.num * (f.length - (f.step + n)), f.start.den * (f.length + 1)⟩
      (taken plain (good l)).1 = ((List.range l.length).map fun n => scale (value l n) (gain n))
      ∧ (taken plain (bad l)).1 = ((List.range l.length).map fun n => scale r.lastGood (gain n))
      ∧ ∀ y, y = taken plain (good l) ∨ y = taken plain (bad l) → y.2.touched = true ∧ y.2.muted = 0
        ∧ (f.step + l.length = f.length →
          y.2.rec'.state = .muted ∧ y.2.rec'.mutes = min 4294967295 (r.mutes + 1) ∧ y.2.notices = 1)
        ∧ (f.step + l.length < f.length → y.2.rec'.state = .fadingOut ∧ y.2.rec'.mutes = r.mutes ∧ y.2.notices = 0))
    ∧ (r.state = .muted ∨ r.state = .recovering → ∀ plain l, l ≠ [] →
      let y := taken plain (bad l)
      y.1 = List.replicate l.length 0 ∧ y.2.muted = l.length ∧ y.2.notices = 0 ∧ y.2.rec'.state = r.state
        ∧ y.2.rec'.longRuns = r.longRuns ∧ y.2.rec'.mutes = r.mutes ∧ (r.state = .recovering → y.2.rec'.recover = 0))
    ∧ (r.state = .muted ∨ r.state = .recovering → P.recover ≤ 64 → 1 ≤ P.fade → ∀ count, (r.state = .muted → count = 0) →
      (r.state = .recovering → count = r.recover) → count < P.recover → ∀ plain l, l ≠ [] →
      let wait := P.recover - count
      let y := taken plain (good l)
      y.1 = ((List.range l.length).map fun n => if n < wait then 0
          else if n < wait + P.fade then scale (value l n) ⟨n - wait + 1, P.fade + 1⟩ else value l n)
        ∧ y.2.muted = min l.length wait ∧ y.2.notices = (if wait ≤ l.length then 1 else 0)
        ∧ y.2.rec'.state = (if l.length < wait then .recovering else if l.length < wait + P.fade then .fadingIn else .clean))
    ∧ (∀ f, r.state = .fadingIn → r.fade = some f → f.step < f.length →
      (∀ plain l, 1 ≤ l.length → f.step + l.length ≤ f.length → let y := taken plain (good l)
        y.1 = ((List.range l.length).map fun n => scale (value l n) ⟨f.step + n + 1, f.length + 1⟩)
          ∧ y.2.rec'.state = (if f.step + l.length = f.length then .clean else .fadingIn) ∧ y.2.muted = 0 ∧ y.2.notices = 0)
      ∧ (∀ v, let y := taken false (bad [v])
        y.2.rec'.longRuns = min 4294967295 (r.longRuns + 1)
        ∧ (f.step = 0 → y.1 = [0] ∧ y.2.rec'.state = .muted ∧ y.2.muted = 1 ∧ y.2.notices = 1)
        ∧ (1 ≤ f.step → 1 ≤ r.gain.num → 2 ≤ P.fade → y.1 = [scale r.lastGood ⟨r.gain.num * P.fade, r.gain.den * (P.fade + 1)⟩]
          ∧ y.2.rec'.state = .fadingOut ∧ y.2.rec'.fade = some ⟨r.gain, P.fade, 1⟩ ∧ y.2.notices = 0)))

/-- A concealment operation completes: the frame leaves the list, its slot becomes CONCEALED with the channels' results, the channel records
go on from them (or start again when the PRE-READ channel is IDLE and no frame waits), DROPOUT is posted for each channel's mutes and recoveries,
every waiting coding operation waits for one frame less, and the next operation begins with the parameters in force (R66, R67, R75, R91).  The newly
CONCEALED slot takes the pin of an older one of its address in the jog window (R31, R34, R35).  A completion
with no operation running changes nothing (log entry 16, the model's choice). -/
def Obligations.ConcealmentCompletes : Prop :=
  ∀ (s : State) (P : ConcealParams) (job : ConcealJob) (rest : List ConcealJob), s.conceal.list = job :: rest →
    (s.conceal.op = none → exec .concealmentComplete s = .next s)
    ∧ (s.conceal.op = some P → ∃ t, exec .concealmentComplete s = .next t
      ∧ t.conceal.list = rest ∧ t.conceal.op = (if rest = [] then none else some s.conceal.params)
      ∧ t.coding = s.coding.map (fun op => { op with wait := op.wait - 1 }) ∧ settingsOf t = settingsOf s
      ∧ windowPins t ∧ scrubFollows s t ∧ (∀ k, job.slot ≠ some k → pinSettled s t k)
      ∧ (let told : Option Nat → List Sample × Walk → List Sample × Walk → Prop := fun addr l q =>
          let again := s.pre.closing = [] ∧ s.pre.assembly = none ∧ rest = []
          let goesOn : ConcealRec → ConcealRec := fun r => if again then
            ⟨.clean, ⟨1, 1⟩, 0, none, 0, none, 0, r.bridged, r.longRuns, r.mutes⟩ else r
          t.conceal.left = goesOn l.2.rec' ∧ t.conceal.right = goesOn q.2.rec'
            ∧ t.notices = (Nat.iterate (post .dropout 1 addr none) q.2.notices
                (Nat.iterate (post .dropout 0 addr none) l.2.notices s)).notices
        (job.slot = none → told none
          (concealChannel P false none s.conceal.left (List.replicate (framePairs job.rate) (true, 0)))
          (concealChannel P false none s.conceal.right (List.replicate (framePairs job.rate) (true, 0))))
        ∧ ∀ i, job.slot = some i →
          let x := s.slots[i]
          let plain := decide ((x.header.map (·.splice)).getD .none = .none)
          let l := concealChannel P plain x.addr s.conceal.left (slotPositions x job.rate .left)
          let q := concealChannel P plain x.addr s.conceal.right (slotPositions x job.rate .right)
          told x.addr l q
          ∧ (x.due = false → t.slots[i].state = .concealed ∧ t.slots[i].concealed = (l.2.touched || q.2.touched)
            ∧ t.slots[i].muted = ⟨l.2.muted, q.2.muted⟩ ∧ t.slots[i].bad = x.bad
            ∧ (∀ n (h : n < l.1.length), sampleAt t.slots[i].audio job.rate .left n = l.1[n])
            ∧ (∀ n (h : n < q.1.length), sampleAt t.slots[i].audio job.rate .right n = q.1[n]))))

/-! ### The intake, the copy marks and the coding -/

/-- The intake's FIFO and its takes: what an arriving pair does, and what one sample period takes from the FIFO, from the last pair, as
silence, or from the PLAYING fly bank, whose last pair hands over to the other bank when that is FULL and starves the frame otherwise; and what a
request for a bank answers (R43, R44, R82, R87, R89, R90; pairs of a bank that plays after a starvation point enter the frame, log entry 51).  After
position S − 1 a period drops one entry of the FIFO and counts a slip, but none while priming (R89; log entry 46).  A frame without a slot takes as
one with a slot, and no slot changes (R88). -/
def Obligations.IntakeTakesPairs : Prop :=
  (∀ (line : InputLine) (pair : SamplePair) (s : State),
    let heard : State := match line with
      | .analog => { s with mon := { s.mon with lastAnalog := some pair } }
      | .digital => { s with mon := { s.mon with lastDigital := some pair } }
    let src : SrcId := match line with
      | .analog => .analog
      | .digital => .digital
    let own : Source := match line with
      | .analog => .analog
      | .digital => .digital
    let entry : SamplePair × Tag := (pair, ⟨src, if s.clock.lost then none else some (s.sources.get src).epoch⟩)
    let arrives : Res → Prop := fun r => exec (.samplePairArrival line pair) s = r
    (s.intake.source ≠ own → arrives (.next heard))
    ∧ (s.intake.source = own →
      (s.intake.frame = none → s.intake.fifo.length < 128 →
        arrives (.next { heard with intake := { s.intake with fifo := s.intake.fifo ++ [entry] } }))
      ∧ (s.intake.frame = none → 128 ≤ s.intake.fifo.length →
        arrives (.next { heard with intake := { s.intake with fifo := s.intake.fifo.drop 1 ++ [entry] } }))
      ∧ (∀ f, s.intake.frame = some f → s.intake.fifo.length < 256 →
        arrives (.next { heard with intake := { s.intake with fifo := s.intake.fifo ++ [entry] } }))
      ∧ (∀ f, s.intake.frame = some f → 256 ≤ s.intake.fifo.length →
        arrives (.next { heard with intake := { s.intake with frame := some { f with slips := min 65535 (f.slips + 1) } } }))))
  ∧ (∀ s : State, exec (.inputPairTimeout .analog) s = .next { s with mon := { s.mon with lastAnalog := none } }
      ∧ exec (.inputPairTimeout .digital) s = .next { s with mon := { s.mon with lastDigital := none } })
  ∧ (∀ s : State, s.intake.frame = none → exec .intakeSamplePeriod s = .next s)
  ∧ (∀ (s : State) (f : IntakeFrame) (i : SlotId), s.intake.frame = some f → f.slot = some i → f.taken < framePairs f.rate →
    let takes : SamplePair → Tag → Nat → List (SamplePair × Tag) → Prop := fun p tag slips fifo =>
      ∃ t, exec .intakeSamplePeriod s = .next t
        ∧ t.intake = { s.intake with fifo := fifo, priming := false, frame := some { f with
            taken := f.taken + 1, tags := addTag f.tags tag 1, slips := slips, last := some (p, tag) } }
        ∧ pairAt t.slots[i].audio f.rate f.taken = p
        ∧ (∀ k, k < framePairs f.rate → k ≠ f.taken → pairAt t.slots[i].audio f.rate k = pairAt s.slots[i].audio f.rate k)
        ∧ (∀ j, j ≠ i → t.slots[j] = s.slots[j])
        ∧ { t with intake := s.intake, slots := s.slots } = s
    let silent : Nat → Bool → Prop := fun slips priming => exec .intakeSamplePeriod s = .next { s with intake := { s.intake with
      priming := priming, frame := some { f with taken := f.taken + 1, slips := slips } } }
    (s.intake.source ≠ .fly → s.intake.priming = true → s.intake.fifo.length < 128 → silent f.slips true)
    ∧ (s.intake.source ≠ .fly → (s.intake.priming = false ∨ 128 ≤ s.intake.fifo.length) →
      (∀ p tag rest, s.intake.fifo = (p, tag) :: rest → takes p tag f.slips rest)
      ∧ (∀ p tag, s.intake.fifo = [] → f.last = some (p, tag) → takes p tag (min 65535 (f.slips + 1)) [])
      ∧ (s.intake.fifo = [] → f.last = none → silent (min 65535 (f.slips + 1)) false))
    ∧ (s.intake.source = .fly →
      (∀ st, s.intake.flyStart = some st → f.taken < st → silent f.slips s.intake.priming)
      ∧ ((∀ st, s.intake.flyStart = some st → st ≤ f.taken) →
        ((∀ n, (s.banks.get n).state ≠ .playing) → silent f.slips s.intake.priming)
        ∧ ∀ n, (s.banks.get n).state = .playing → (s.banks.get n.other).state ≠ .playing →
          let b := s.banks.get n
          let src : SrcId := match n with
            | .b0 => .fly0
            | .b1 => .fly1
          let p : SamplePair := ⟨b.pairs.read (2 * b.readPos), b.pairs.read (2 * b.readPos + 1)⟩
          let tag : Tag := ⟨src, if s.clock.lost then none else some (s.sources.get src).epoch⟩
          let took : IntakeFrame := { f with taken := f.taken + 1, tags := addTag f.tags tag 1, last := some (p, tag) }
          let gives : Banks → IntakeFrame → PerPort NoticePort → Prop := fun banks frame notices =>
            ∃ t, exec .intakeSamplePeriod s = .next t ∧ pairAt t.slots[i].audio f.rate f.taken = p
              ∧ t.banks = banks ∧ t.intake = { s.intake with frame := some frame } ∧ t.notices = notices
              ∧ { t with banks := s.banks, intake := s.intake, notices := s.notices, slots := s.slots } = s
          (b.count ≠ some (b.readPos + 1) → gives (s.banks.set n { b with readPos := b.readPos + 1 }) took s.notices)
          ∧ (b.count = some (b.readPos + 1) →
            let spent : Banks := s.banks.set n { b with readPos := b.readPos + 1, state := .spent }
            ((s.banks.get n.other).state = .full → gives
              (spent.set n.other { s.banks.get n.other with state := .playing, readPos := 0 }) took
              (post .flySwitch (match n with
                | .b0 => 1
                | .b1 => 0) none none s).notices)
            ∧ ((s.banks.get n.other).state ≠ .full → gives spent { took with starve := some (f.taken + 1, n) } s.notices)))))
  ∧ (∀ (s : State) (f : IntakeFrame), s.intake.frame = some f → framePairs f.rate ≤ f.taken →
    (s.intake.source = .fly → exec .intakeSamplePeriod s = .next s)
    ∧ (s.intake.source ≠ .fly →
      (s.intake.priming = true → s.intake.fifo.length < 128 → exec .intakeSamplePeriod s = .next s)
      ∧ (s.intake.priming = false ∨ 128 ≤ s.intake.fifo.length →
        (∀ x rest, s.intake.fifo = x :: rest → exec .intakeSamplePeriod s = .next { s with intake := { s.intake with
          fifo := rest, priming := false, frame := some { f with slips := min 65535 (f.slips + 1) } } })
        ∧ (s.intake.fifo = [] → exec .intakeSamplePeriod s = .next { s with intake := { s.intake with priming := false } }))))
  ∧ (∀ (s : State) (f : IntakeFrame) (i : SlotId), s.intake.frame = some f → f.slot = none →
    let lent : State := { s with intake := { s.intake with frame := some { f with slot := some i } } }
    ∃ t u, exec .intakeSamplePeriod s = .next t ∧ exec .intakeSamplePeriod lent = .next u ∧ t.slots = s.slots
      ∧ t.intake.frame.map (fun g => { g with slot := some i }) = u.intake.frame ∧ t.intake.frame.all (fun g => g.slot.isNone) = true
      ∧ { t with intake := { t.intake with frame := u.intake.frame }, slots := u.slots } = u)
  ∧ (∀ s : State, s.banks.ok →
    let spent : Bank → Bank := fun b => if b.state = .playing then { b with state := .spent } else b
    let left : Banks := ⟨spent s.banks.b0, spent s.banks.b1⟩
    (s.banks.b0.state ≠ .full → s.banks.b1.state ≠ .full → askBank s = (.unavailable, { s with banks := left }))
    ∧ ∀ n, (s.banks.get n).state = .full → (n = .b0 ∨ s.banks.b0.state ≠ .full) →
      ((s.banks.get n).rate ≠ some s.clock.rate → askBank s = (.mismatch, { s with banks := left }))
      ∧ ((s.banks.get n).rate = some s.clock.rate → askBank s = (.granted n, { s with
          banks := left.set n { s.banks.get n with state := .playing, readPos := 0 } })))

/-- Decrementing and combining copy marks (R111). -/
def Obligations.CopyMarks : Prop :=
  (decrement .free = some .free ∧ decrement .never = none ∧ decrement (.counted 0) = none
    ∧ decrement (.counted 1) = some (.counted 0) ∧ decrement (.counted 2) = some (.counted 1)
    ∧ decrement (.counted 3) = some (.counted 2))
  ∧ combineAll [] = .free
  ∧ (∀ l : List CopyMark, l ≠ [] → combineAll l ∈ l ∧ ∀ m ∈ l, markRank m ≤ markRank (combineAll l))
  ∧ (∀ m : CopyMark, markRank m = [CopyMark.free, .counted 3, .counted 2, .counted 1, .counted 0, .never].idxOf m)
  ∧ (markCode .free = (0, 0) ∧ markCode .never = (2, 0) ∧ ∀ r : Fin 4, markCode (.counted r) = (1, r.val))
  ∧ (∀ (m : CopyMark) (rate : Rate) (tape : Option CopyMark) (a b : Bool) (addr take : Nat) (tc : Option Timecode)
      (sp : SpliceMark) (w : Bool),
      let h : Header := ⟨some addr, tc, rate, frameMark m tape a b, take, sp, w⟩
      h.onTape = true → headerOf (headerBytes h) = some h)

/-- The record decision for a tag (R119), in the order of its tests; and, from the decisions on a frame's tags and the guard table, the verdict
of its SPLICE plan and the mark of its new audio (R120, R121). -/
def Obligations.RecordDecision : Prop :=
  (∀ (x : Sources) (rate : Rate) (i : SrcId) (e : Nat),
    decideTag x rate ⟨i, none⟩ = .refuse .clock
    ∧ ((x.get i).lookup e = none → decideTag x rate ⟨i, some e⟩ = .refuse .unknown)
    ∧ ∀ st, (x.get i).lookup e = some st →
      (st.valid = false → decideTag x rate ⟨i, some e⟩ = .refuse .unknown)
      ∧ (st.valid = true →
        (∀ r, st.rate = some r → r ≠ rate → decideTag x rate ⟨i, some e⟩ = .refuse .rate)
        ∧ ((st.rate = none ∨ st.rate = some rate) →
          (st.mark = .never ∨ st.mark = .counted 0 → decideTag x rate ⟨i, some e⟩ = .refuse .cls)
          ∧ (st.mark = .free → decideTag x rate ⟨i, some e⟩ = .permit .free)
          ∧ (∀ r : Fin 4, 1 ≤ r.val → st.mark = .counted r →
              ∃ q : Fin 4, q.val + 1 = r.val ∧ decideTag x rate ⟨i, some e⟩ = .permit (.counted q)))))
  ∧ (∀ (g : Guard) (x : Sources) (rate : Rate) (a : Nat) (p : SplicePlan) (tags : List (Tag × Nat)),
    let v := verdictFor g x rate a p tags
    let permits : Tag × Nat → Prop := fun k => ∃ m, decideTag x rate k.1 = .permit m
    (guarded g a = true → v = if p.first.isSome then .guardedAtIn else .guardedHere)
    ∧ (guarded g a = false →
      (∀ before k after r, tags = before ++ k :: after → (∀ j ∈ before, permits j) → decideTag x rate k.1 = .refuse r →
        v = if p.first.isSome then .refusedAtIn r else .refusedIn r)
      ∧ ((∀ k ∈ tags, permits k) →
        v = if a + 1 < 2592000 ∧ guarded g (a + 1) = true ∧ p.final = false then .guardAhead else .permit)))
  ∧ (∀ (x : Sources) (rate : Rate) (tags : List (Tag × Nat)), let m := newAudioMark x rate tags
    (∀ k ∈ tags, ∀ q, decideTag x rate k.1 = .permit q → markRank q ≤ markRank m)
    ∧ (m = .free ∨ ∃ k ∈ tags, decideTag x rate k.1 = .permit m))

/-- Slots and coding operations.  A request takes the lowest FREE slot, then the oldest reclaimable PREREAD slot, and posts STORE_OVERRUN when there
is none (R25, R27, R28).  The operation at the front begins when it waits for no concealment and no earlier splice (log entry 37): it gets a CODED
slot and its plan, or ends for want of a slot; a prepared entry's start frame makes the entry ACTIVE and asks for the gate, and a refusal ends it
(R91, R92, R101, R143, R144).  A TAPE plan carries the tape's audio, timecode, mark and take through unchanged; a SPLICE plan mixes by the gains of
R94, ended early by R95, under the verdict of R93, with the header of R96 and R97, and its report reaches the gate and the splice (R98, R102, R145;
the pre-read slot is read at the completion, log entry 50; an unbegun completion and a second begin change nothing, log entry 16).  The model's
choices and inferences also are: an operation without a slot goes on, its frame offered and followed in timecode (log entry 20); a splice refused at
its in-point ends at the completion report (log entry 24); an early end by a verdict is at (X, 0) (log entry 26); a verdict beside a starvation
point gives the end reason (log entry 34); the causes of a refused schedule are tested in the order of R101's list (log entry 52); the span is that
of the preparation and the origin counts by the S in force (log entry 53). -/
def Obligations.CodingOperations : Prop :=
  (∀ s : State, let spare : SlotId → Prop := fun i =>
      s.slots[i].state = .concealed ∧ s.slots[i].role = some .preRead ∧ s.slots[i].due = true ∧ blocked s i = false
    (∀ i : SlotId, s.slots[i].state = .free → (∀ j, j < i → s.slots[j].state ≠ .free) → chooseSlot s = some i)
    ∧ ((∀ i : SlotId, s.slots[i].state ≠ .free) →
      (∀ before i after, s.order = before ++ i :: after → spare i → (∀ j ∈ before, ¬spare j) → chooseSlot s = some i)
      ∧ ((∀ i ∈ s.order, ¬spare i) → chooseSlot s = none))
    ∧ ∀ (k : Role) (a : Option Nat),
      (∀ i, chooseSlot s = some i → allocate k a s = (some i, { s with
        slots := s.slots.set i { Slot.reset with state := .filling, role := some k, layout := s.clock.rate }
        order := s.order.erase i ++ [i] }))
      ∧ (chooseSlot s = none → allocate k a s = (none, post .storeOverrun (match k with
          | .preRead => 0
          | .confidence => 1
          | .intake => 2
          | .coded => 3) a none s)))
  ∧ (∀ (s : State) (op : CodingOp) (rest : List CodingOp), s.coding = op :: rest →
    let S := framePairs s.clock.rate
    let began : State → BegunOp → Prop := fun t b =>
      exec .codingOperationBegin s = .next t ∧ t.coding = { op with begun := some b } :: rest
    let slotted : State → SlotId → Prop := fun t i => (∀ j, j ≠ i → t.slots[j] = s.slots[j])
      ∧ t.slots[i] = { Slot.reset with state := .filling, role := some .coded, layout := s.clock.rate }
    (op.begun.isSome = true ∨ op.wait ≠ 0 → exec .codingOperationBegin s = .next s)
    ∧ (s.eng.splice.isSome = true → (∃ p ∈ s.eng.prepared, p.start.addr = op.addr) → exec .codingOperationBegin s = .next s)
    ∧ (op.begun = none → op.wait = 0 →
      (s.eng.prepared = [] → s.eng.splice = none →
        (∀ i, chooseSlot s = some i → ∃ t, began t ⟨some i, none, lookup t op.addr, .permit, .free, false, s.clock.rate⟩ ∧ slotted t i)
        ∧ (chooseSlot s = none → ∃ t, exec .codingOperationBegin s = .next t ∧ t.coding = rest
          ∧ t.notices = (post .storeOverrun 3 (some op.addr) none s).notices
          ∧ ∀ k, op.intake.slot = some k →
            t.slots[k] = if blocked s k = true then { s.slots[k] with due := true } else Slot.reset))
      ∧ (∀ sp start i, s.eng.splice = some sp → s.eng.prepared = [] → sp.start = some start → start.addr ≤ op.addr →
          sp.lastPlanned.all (op.addr ≤ ·) = true → chooseSlot s = some i →
          let plan := splicePlan S sp start op.addr
          ∃ t b, began t b ∧ slotted t i ∧ b.slot = some i
            ∧ b.plan = some plan ∧ b.verdict = verdictFor s.guard s.sources s.clock.rate op.addr plan op.intake.tags
            ∧ b.newMark = newAudioMark s.sources s.clock.rate op.intake.tags ∧ b.finalReq = sp.finalReq ∧ b.rate = s.clock.rate)
      ∧ (∀ p e i, s.eng.splice = none → s.eng.prepared = [p] → p.start.addr = op.addr → pendingEntry s p.index = some e →
          chooseSlot s = some i → s.eng.mode = some .record →
          let tag : SpliceTag := .program s.eng.run s.eng.pass p.index.val
          let refused : Outcome → Option Reason → Prop := fun o r => ∃ t b, began t b ∧ slotted t i ∧ b.plan = none
            ∧ t.eng.splice = none ∧ t.gate = s.gate ∧ ∃ x ∈ t.eng.results, x.tag = tag ∧ x.outcome = o ∧ x.reason = r ∧ x.actualIn = none
          (s.gate.state ≠ .closed ∨ s.tl.mode ≠ .play → refused .broken none)
          ∧ (s.gate.state = .closed → s.tl.mode = .play → s.clock.lost = true → refused .refused (some .clock))
          ∧ (s.gate.state = .closed → s.tl.mode = .play → s.clock.lost = false →
            (¬(s.tl.state = .locked ∨ s.tl.state = .coasting ∨ s.tl.state = .laying) → refused .lostLock none)
            ∧ (s.tl.state = .locked ∨ s.tl.state = .coasting ∨ s.tl.state = .laying → guarded s.guard op.addr = false →
              (∀ k ∈ op.intake.tags, ∃ m, decideTag s.sources s.clock.rate k.1 = .permit m) → ∃ t b sp,
              began t b ∧ slotted t i ∧ b.plan = some (splicePlan S sp p.start op.addr) ∧ t.eng.splice = some sp
              ∧ sp.tag = tag ∧ sp.index = some p.index ∧ sp.start = some p.start ∧ sp.span = some p.span
              ∧ sp.outPoint = some e.outPoint ∧ sp.fadeIn = p.fadeIn ∧ sp.fadeOut = p.fadeOut ∧ sp.late = p.late
              ∧ sp.take = (if e.lay then 0 else s.eng.runTake.getD 0) ∧ sp.method = e.method ∧ sp.rehearse = false
              ∧ t.eng.state = .splicing ∧ t.eng.prepared = [] ∧ t.eng.active[p.index] = some ⟨e, .active⟩
              ∧ t.gate = { s.gate with
                  state := .scheduled, holder := some tag, first := some op.addr, opening := (s.gate.opening + 1) % 65536, run := 0 }))))
    ∧ (op.begun = none → exec .codingOperationComplete s = .next s)
    ∧ (∀ b i k, op.begun = some b → b.slot = some i → b.plan = none → b.pre = some k → op.intake.slot ≠ some i →
      s.slots[k].isPreRead = true → s.slots[k].addr = some op.addr → s.slots[k].layout = b.rate →
      ∀ h, s.slots[k].header = some h → ∃ t, exec .codingOperationComplete s = .next t ∧ t.coding = rest
        ∧ (∀ n, n < framePairs b.rate → pairAt t.slots[i].audio b.rate n = pairAt s.slots[k].audio b.rate n)
        ∧ t.slots[i].state = .coded ∧ t.slots[i].addr = some op.addr
        ∧ t.slots[i].header = some ⟨some op.addr, h.tc, b.rate, h.mark, h.take, .none, s.slots[k].concealed⟩
        ∧ t.mon.next = some ⟨op.addr, (List.range (framePairs b.rate)).map (pairAt s.slots[k].audio b.rate), false, h.mark⟩
        ∧ settingsOf t = settingsOf s)
    ∧ (∀ b p, op.begun = some b → b.plan = some p → (∀ i, b.slot = some i → op.intake.slot ≠ some i) →
      let c := codeFrame s op b
      let F := framePairs b.rate
      ∃ t, exec .codingOperationComplete s = .next t ∧ t.coding = rest ∧ settingsOf t = settingsOf s
        ∧ (∀ i, b.slot = some i → t.slots[i].state = .coded ∧ t.slots[i].addr = some op.addr ∧ t.slots[i].header = some c.header
          ∧ t.slots[i].tag = c.tag ∧ t.slots[i].layout = b.rate
          ∧ ∀ n (h : n < c.pairs.length), n < F → pairAt t.slots[i].audio b.rate n = c.pairs[n])
        ∧ t.mon.next = some ⟨op.addr, c.pairs, p.rehearse, c.header.mark⟩
        ∧ t.lastCoded = some (op.addr, c.header.tc)
        ∧ t.gate = (if c.final = true ∧ s.gate.holder = some p.tag ∧ s.gate.final = none
            then { s.gate with final := some op.addr } else s.gate)
        ∧ ∀ sp, s.eng.splice = some sp → sp.tag = p.tag → sp.rehearse = false →
          (∀ r, b.verdict = .refusedAtIn r → t.eng.splice = none
            ∧ ∃ x ∈ t.eng.results, x.tag = sp.tag ∧ x.outcome = .refused ∧ x.reason = some r ∧ x.actualIn = none ∧ x.actualOut = none)
          ∧ (b.verdict = .guardedAtIn → t.eng.splice = none ∧ ∃ x ∈ t.eng.results,
              x.tag = sp.tag ∧ x.outcome = .guarded ∧ x.reason = some .guarded ∧ x.actualIn = none ∧ x.actualOut = none)
          ∧ (∀ r, b.verdict = .refusedIn r → t.eng.splice = some { sp with
              final := some op.addr, reason := some (.refused, some r), early := some ⟨op.addr, 0⟩ })
          ∧ (b.verdict = .guardedHere → t.eng.splice = some { sp with
              final := some op.addr, reason := some (.guarded, some .guarded), early := some ⟨op.addr, 0⟩ })
          ∧ (b.verdict = .permit → c.early = none → c.final = false → t.eng.splice = some sp)
          ∧ (∀ x n, b.verdict = .permit → c.early = some x → c.starved = true → op.intake.starve = some (x, n) → x < F →
              t.eng.splice = some { sp with final := some op.addr, reason := some (.starved, none), early := some ⟨op.addr, x⟩ }
              ∧ t.notices = (post .flyStarved n.num (some op.addr) none s).notices)))
  ∧ (∀ (S : Nat) (sp : Splice) (start : Point) (a : Nat), let p := splicePlan S sp start a
    let T : Int := ((a : Int) - start.addr) * S - start.offset
    let O : Int := min T (max (sp.fadeIn : Int) S)
    p.tag = sp.tag ∧ p.rehearse = sp.rehearse ∧ p.fadeIn = sp.fadeIn ∧ p.fadeOut = sp.fadeOut ∧ p.method = sp.method ∧ p.take = sp.take
    ∧ p.first = (if a = start.addr then some start.offset else none) ∧ p.origin = O
    ∧ (∀ N : Nat, sp.span = some N → (p.final = true ↔ (N : Int) ≤ T + S) ∧ (p.span : Int) = max 0 (min (N - (T - O)) (O + S + sp.fadeOut))
      ∧ ∀ i, i < S → gainAt (some ⟨p.origin, p.span, p.fadeIn, p.fadeOut⟩) i = gainAt (some ⟨T, N, sp.fadeIn, sp.fadeOut⟩) i)
    ∧ (sp.span = none → p.final = false ∧ (p.span : Int) = max 0 (O + S + sp.fadeOut))
    ∧ p.mark = (if a = start.addr then (if p.final then .inOut else .inPoint) else if p.final then .outPoint else .none)
    ∧ (sp.method = .insert ∨ sp.timecode = none → p.timecode = none)
    ∧ ∀ v f, sp.method = .assemble → sp.timecode = some v → sp.inFrame = some f → p.timecode = some (Nat.iterate Timecode.next (a - f) v))
  ∧ (∀ (s : State) (op : CodingOp) (b : BegunOp) (p : SplicePlan), b.plan = some p → let c := codeFrame s op b
    let S := framePairs b.rate
    let atIn := (∃ r, b.verdict = .refusedAtIn r) ∨ b.verdict = .guardedAtIn
    let inside := (∃ r, b.verdict = .refusedIn r) ∨ b.verdict = .guardedHere
    let pre : Option SlotId := b.pre.filter fun i => s.slots[i].isPreRead && s.slots[i].addr == some op.addr
    let x : Option Slot := pre.map fun i => s.slots[i]
    let tape := slotPair s pre
    let fresh := slotPair s op.intake.slot
    let atEnd : Option Nat := if b.verdict = .guardAhead ∨ b.finalReq = true then (if p.final then none else some S) else none
    let early : Option Nat := match op.intake.starve with
      | none => atEnd
      | some (e, _) => if p.final = false ∨ p.origin + (min e S : Nat) < p.span then some (min e S) else atEnd
    let N : Int := (early.map fun e => p.origin + (e : Int)).getD p.span
    let L : Nat := (early.map fun _ => min (min p.fadeOut S) N.toNat).getD p.fadeOut
    let least : Frac → Frac → Frac := fun f g => if g.num * f.den < f.num * g.den then g else f
    let gain : Nat → Frac := fun i => let n := p.origin + i
      if n < 0 ∨ N ≤ n then ⟨0, 1⟩ else least (if n < p.fadeIn then ⟨n.toNat + 1, p.fadeIn + 1⟩ else ⟨1, 1⟩)
        (if N - L ≤ n then ⟨(N - n).toNat, L + 1⟩ else ⟨1, 1⟩)
    let mixed : Sample → Sample → Frac → Sample := fun t v g =>
      BitVec.ofInt 20 (Int.tdiv (t.toInt * ((g.den : Int) - g.num) + v.toInt * g.num) g.den)
    let tapeMark := (x.bind fun y => y.header.map (·.mark)).getD .free
    let followed := match s.lastCoded with
      | some (d, v) => if d + 1 = op.addr then v.map Timecode.next else none
      | none => none
    let tapeTc := match x with
      | some y => y.header.bind (·.tc)
      | none => followed
    c.pairs.length = S ∧ c.header.addr = some op.addr ∧ c.header.rate = b.rate
    ∧ (atIn ∨ inside → c.pairs = (List.range S).map tape ∧ c.early = none ∧ c.header.mark = tapeMark
      ∧ (c.header.rework = true ↔ ∀ y, x = some y → y.concealed = true))
    ∧ (atIn → c.header.splice = .none ∧ c.tag = none ∧ c.final = false ∧ c.header.tc = tapeTc
      ∧ c.header.take = (x.bind fun y => y.header.map (·.take)).getD 0)
    ∧ (inside → c.header.splice = .broken)
    ∧ (¬atIn → c.header.take = p.take ∧ c.tag = some p.tag ∧ c.header.tc = (if p.method = .assemble then p.timecode else tapeTc)
      ∧ (c.final = true ↔ p.final = true ∨ c.early ≠ none ∨ b.finalReq = true ∨ ∃ r, b.verdict = .refusedIn r))
    ∧ (b.verdict = .permit ∨ b.verdict = .guardAhead →
      c.early = early
      ∧ c.pairs = ((List.range S).map fun i => ⟨mixed (tape i).left (fresh i).left (gain i), mixed (tape i).right (fresh i).right (gain i)⟩)
      ∧ c.header.splice = (if early = none then p.mark else if p.first.isSome then .inOut else .outPoint)
      ∧ (let new := ∃ i, i < S ∧ 0 < (gain i).num
        let old := ∃ i, i < S ∧ (gain i).num < (gain i).den
        (new → old → c.header.mark = combine b.newMark tapeMark) ∧ (new → ¬old → c.header.mark = b.newMark)
        ∧ (¬new → old → c.header.mark = tapeMark)
        ∧ (c.header.rework = true ↔ (old ∧ ∀ y, x = some y → y.concealed = true) ∨ (new ∧ op.intake.failed = true)))))

/-- A frame mark.  With no program, no splice and the gate CLOSED, every frame in assembly with its slot: the heads are reckoned in PLAY from the
position, or in LAYING from the frame offered before, both channels close with the judge entries now due, and in PLAY a frame period begins, the
intake closes its frame and begins one (none after one of another rate), the write frame is offered for coding with the closed intake frame's slot,
tags, slips and starvation point, or a failed one, slips post INTAKE_SLIP, and PREREAD slots behind the head and CODED slots passed unwritten are
released (R8, R17, R29, R30, R49, R79, R88, R91, R106).  In any state the gate acts on the frame the head enters (R103, R105, R123, R145 to R147);
the engine prepares the frame two ahead and asks for the bank of an entry prepared before (R140, R141, R142); and the Monitor Selector chooses
PREREAD by address, or by age where no frame is known, the confidence frame closed, and the mix, which AUTO plays where the write begins (R80, R81,
R84).  The third mark after a lay's START enters LAYING at the in-point, the end of the lay goes to ACQUIRING and to HELD or DONE, and a lay that
runs off the tape ends LOST_LOCK (R17, R157, R158).  The order of a mark is log entry 7; no frame is offered above 2591999 (log entry 21); an
off-tape LAYING mark is log entry 56; a write skipped to another frame is log entry 23; a frame GUARDED HERE is log entry 54; a mark releases CODED
slots up to the entered address (log entry 20); the planned final frame stays after an early end (log entry 47); which cuts take AUTO off the mix is
log entries 28 and 63, the output position left standing outside PLAY log entry 58, the subject of INTAKE_SLIP with FLY log entry 5, positions FLY
leaves open log entry 31. -/
def Obligations.FrameMark : Prop :=
  (∀ (s : State) (f g : CaptureFrame) (i j : SlotId), s.eng.state = .idle → s.eng.splice = none → s.eng.prepared = [] → s.eng.layWait = none →
    s.gate.state = .closed → s.gate.write = none → s.coding = [] → s.pre.assembly = some f → s.pre.closing = [] → f.slot = some i →
    s.conf.assembly = some g → s.conf.closing = [] → g.slot = some j →
    let q := s.tl.position
    let d := s.geo.d
    let c := s.geo.c
    let laid := s.tl.generated.getD 2592000
    let lacks : IntakeFrame → Nat := fun k => if s.intake.source = .fly then 0 else framePairs k.rate - k.taken
    let slips : IntakeFrame → Nat := fun k => if lacks k = 0 then k.slips else min 65535 (k.slips + lacks k)
    let handed : ClosedIntake := match s.intake.frame with
      | none => ⟨none, [], 0, none, true⟩
      | some k =>
        if k.slot = none ∨ k.rate ≠ s.clock.rate then ⟨none, [], slips k, k.starve, true⟩
        else ⟨k.slot, if lacks k = 0 then k.tags else (k.last.map fun x => addTag k.tags x.2 (lacks k)).getD k.tags, slips k, k.starve, false⟩
    let tl : Timeline :=
      if s.tl.mode = .play ∧ (s.tl.state = .locked ∨ s.tl.state = .coasting) then { s.tl with
        head := if d ≤ q + 2 then some (q + 2 - d) else none
        confHead := if d + c ≤ q + 2 then some (q + 2 - (d + c)) else none
        offered := if d ≤ q + 3 ∧ q + 3 - d < 2592000 then some (q + 3 - d) else none }
      else if s.tl.mode = .play ∧ s.tl.state = .laying then
        let heads : Timeline := { s.tl with
          head := s.tl.offered, confHead := s.tl.offered.bind fun w => if c ≤ w then some (w - c) else none }
        if laid < 2592000 then { heads with
          offered := some laid, handed := some laid, generated := some (laid + 1)
          position := if laid + d - 2 < 2592000 then laid + d - 2 else q }
        else { heads with
          offered := none, handed := none, generated := none, state := .unlocked, coast := 0, candidate := none, run := 0 }
      else { s.tl with head := none, confHead := none, offered := none }
    ∃ t, exec .frameMark s = .next t ∧ t.tl = tl ∧ t.gate = s.gate
      ∧ t.pre.closing = [⟨f, true, s.tl.mode, s.tl.dir, 0⟩] ∧ t.pre.assembly.isSome = true ∧ t.conf.assembly.isSome = true
      ∧ t.conf.closing = [⟨g, true, s.tl.mode, s.tl.dir, (s.judge.filter fun e => !e.designated && decide (e.due ≤ 1)).length⟩]
      ∧ t.judge = s.judge.map (fun e => if e.designated then e else if e.due ≤ 1 then { e with due := 0, designated := true }
          else { e with due := e.due - 1 })
      ∧ (s.tl.mode = .play → t.mon.outPos = some 0 ∧ t.intake.flyStart = none
          ∧ ((∀ k, s.intake.frame = some k → k.rate = s.clock.rate) →
            ∃ k, t.intake.frame = some k ∧ k.taken = 0 ∧ k.tags = [] ∧ k.slips = 0 ∧ k.starve = none ∧ k.rate = s.clock.rate)
          ∧ (∀ k, s.intake.frame = some k → k.rate ≠ s.clock.rate → t.intake.frame = none)
          ∧ t.coding = (tl.offered.toList.map fun x => ⟨x, handed, 1 + s.conceal.list.length, none⟩))
      ∧ (s.tl.mode ≠ .play → t.mon.outPos = s.mon.outPos ∧ t.intake = s.intake ∧ t.coding = [])
      ∧ settingsOf t = settingsOf s
      ∧ (t.mon = if s.tl.mode = .play then { s.mon with
            current := s.mon.next.filter fun m => decide (tl.head = some m.addr), next := none, outPos := some 0, preSlot := t.mon.preSlot,
            confSlot := some j, autoMix := false }
          else { s.mon with current := none, next := none, autoMix := false })
      ∧ (s.order.Nodup → (s.tl.mode = .play → s.tl.state = .laying → laid < 2592000) →
        (∀ x n, s.intake.frame = some x → x.slot = some n → s.slots[n].state = .filling) →
        (3 ≤ freeSlots s →
          (s.tl.mode ≠ .play ∨ handed.slips = 0 → t.notices = s.notices)
          ∧ (s.tl.mode = .play → handed.slips ≠ 0 → ∃ n, t.notices = (post .intakeSlip n tl.offered none s).notices
            ∧ (s.intake.source = .analog → n = 0) ∧ (s.intake.source = .digital → n = 1)))
        ∧ (∀ x n, s.tl.mode = .play → s.intake.frame = some x → x.slot = some n →
          (x.rate = s.clock.rate → tl.offered.isSome = true → t.slots[n] = { s.slots[n] with
            state := .ready
            audio := (x.last.map fun y => putPairs s.slots[n].audio x.rate x.taken (List.replicate (lacks x) y.1)).getD s.slots[n].audio })
          ∧ (x.rate ≠ s.clock.rate ∨ tl.offered = none → blocked s n = false → t.slots[n] = Slot.reset
            ∨ ∃ r, t.slots[n] = { Slot.reset with state := .filling, role := some r, layout := s.clock.rate }))
        ∧ ∀ k : SlotId, (∀ x, s.intake.frame = some x → x.slot ≠ some k) →
        let behind := s.slots[k].isPreRead = true ∧ ∃ before after, s.order = before ++ k :: after
          ∧ ((∃ w a, tl.head = some w ∧ s.slots[k].addr = some a ∧ a < w)
            ∨ d - 1 ≤ (after.filter fun l => s.slots[l].isPreRead).length)
        let passed := s.slots[k].state = .coded ∧ (∀ e ∈ s.judge, e.slot ≠ k)
          ∧ ∃ w a, tl.head = some w ∧ s.slots[k].addr = some a ∧ a ≤ w
        (behind ∨ passed → if blocked s k = true then t.slots[k] = { s.slots[k] with due := true } else t.slots[k] = Slot.reset
          ∨ ∃ r, t.slots[k] = { Slot.reset with state := .filling, role := some r, layout := s.clock.rate })
        ∧ (¬behind → ¬passed → s.slots[k].state ≠ .free → (s.slots[k].due = true → blocked s k = true) → t.slots[k] = s.slots[k])))
  ∧ (∀ (s : State) (f g : CaptureFrame) (i j : SlotId), s.pre.assembly = some f → s.pre.closing = [] → f.slot = some i →
    s.conf.assembly = some g → s.conf.closing = [] → g.slot = some j →
    let u := judgeMark (intakeClose (reckon (layTick s))).2
    let v := releaseBehind (enterHead u)
    ∃ t, exec .frameMark s = .next t ∧ (u.tl.head = none → t.gate = u.gate) ∧ (∀ w, u.tl.head = some w → t.gate = (gateEnter w u).gate)
      ∧ t.tl = v.tl
      ∧ (∀ k : SlotId, (∀ x, s.intake.frame = some x → x.slot ≠ some k) →
          (v.slots[k].state ≠ .free → (v.slots[k].due = true → blocked v k = true) → t.slots[k] = v.slots[k])
          ∧ (v.slots[k] = Slot.reset → t.slots[k] = Slot.reset
            ∨ ∃ r, t.slots[k] = { Slot.reset with state := .filling, role := some r, layout := s.clock.rate }))
      ∧ (s.tl.mode ≠ .play ∨ v.tl.offered = none → t.eng = v.eng ∧ t.banks = v.banks
        ∧ (3 ≤ freeSlots v → t.notices = v.notices))
      ∧ (∀ x, s.tl.mode = .play → v.tl.offered = some x → let w := askDue v.eng.prepared (prepareAt x v)
          t.eng = w.eng ∧ t.banks = w.banks ∧ t.intake = { w.intake with frame := t.intake.frame }
          ∧ (3 ≤ freeSlots v → t.notices = w.notices))
      ∧ (s.tl.mode ≠ .play → t.mon = { s.mon with current := none, next := none, autoMix := false })
      ∧ (s.tl.mode = .play →
        t.mon = { s.mon with
          override := t.mon.override, current := s.mon.next.filter fun m => decide (t.tl.head = some m.addr), next := none, outPos := some 0,
          preSlot := t.mon.preSlot, confSlot := some j, autoMix := t.mon.autoMix }
        ∧ (t.mon.autoMix = true ↔ t.mon.current.isSome = true ∧ writeEnable t = true
          ∧ ∃ w k, t.tl.head = some w ∧ t.gate.write = some ⟨w, k, 0⟩)
        ∧ (t.tl.state = .locked ∨ t.tl.state = .coasting → ∀ k, t.mon.preSlot = some k ↔ ∃ w, t.tl.head = some w ∧ newestAt t w k)
        ∧ (¬(t.tl.state = .locked ∨ t.tl.state = .coasting) → ∀ k, t.mon.preSlot = some k ↔ t.slots[k].isPreRead = true
          ∧ ∃ before after, t.order = before ++ k :: after ∧ (after.filter fun l => t.slots[l].isPreRead).length + 1
            = min (s.geo.d - 1) (t.order.filter fun l => t.slots[l].isPreRead).length)))
  ∧ (∀ (s : State) (f g : CaptureFrame) (i j : SlotId), s.pre.assembly = some f → s.pre.closing = [] → f.slot = some i →
    s.conf.assembly = some g → s.conf.closing = [] → g.slot = some j → s.tl.mode = .play → s.tl.state = .locked ∨ s.tl.state = .coasting →
    s.eng.layWait = none → s.eng.splice = none → s.geo.d ≤ s.tl.position + 3 → s.tl.position + 3 - s.geo.d < 2592000 →
    let w := askDue s.eng.prepared (prepareAt (s.tl.position + 3 - s.geo.d) { s with intake := { s.intake with flyStart := none } })
    ∃ t, exec .frameMark s = .next t ∧ t.eng = w.eng ∧ t.banks = w.banks ∧ t.intake = { w.intake with frame := t.intake.frame })
  ∧ (∀ (s : State) (f g : CaptureFrame) (i j : SlotId), s.pre.assembly = some f → s.pre.closing = [] → f.slot = some i →
    s.conf.assembly = some g → s.conf.closing = [] → g.slot = some j →
    let d := s.geo.d
    let laid := s.tl.generated.getD 2592000
    ∃ t, exec .frameMark s = .next t
      ∧ (∀ n e, s.eng.layWait = some n → pendingEntry s 0 = some e → s.eng.splice = none →
        (1 < n → e.lay = true → s.eng.prepared = [] → s.tl.state ≠ .laying →
          t.eng = { s.eng with layWait := some (n - 1) } ∧ t.tl.state = s.tl.state)
        ∧ (n ≤ 1 → s.tl.mode = .play → e.inPoint.addr < 2592000 → let a := e.inPoint.addr
          t.tl = { s.tl with
            state := .laying, coast := 0, run := 0, candidate := none, timecode := none, head := s.tl.offered, offered := some a
            confHead := s.tl.offered.bind fun w => if s.geo.c ≤ w then some (w - s.geo.c) else none, handed := some a, generated := some (a + 1)
            position := if a + d - 2 < 2592000 then a + d - 2 else s.tl.position }
          ∧ t.eng = { s.eng with layWait := none, prepared := [⟨0, e.inPoint, false, let S := framePairs s.clock.rate
              e.outPoint.addr * S + e.outPoint.offset - (a * S + e.inPoint.offset), e.fadeIn, e.fadeOut, true⟩] }
          ∧ (t.coding.getLast?.map fun op => (op.addr, op.begun)) = some (a, none)))
      ∧ (∀ sp k w, s.tl.mode = .play → s.tl.state = .laying → s.eng.layWait = none → laid < 2592000 → s.tl.offered = some w →
        s.gate.state = .last → s.eng.splice = some sp → sp.lay = true → sp.index = some k →
        t.eng.splice = none ∧ t.tl.generated = none ∧ t.tl.handed = none ∧ t.tl.run = 0
        ∧ (laid + d - 2 < 2592000 → t.tl.state = .acquiring ∧ t.tl.candidate = some (laid + d - 2))
        ∧ (2592000 ≤ laid + d - 2 → t.tl.state = .unlocked ∧ t.tl.candidate = none)
        ∧ (s.eng.state = .finishing → t.eng.state = .done)
        ∧ (s.eng.state = .splicing → ((∃ l, l ≠ k ∧ (pendingEntry s l).isSome = true) → t.eng.state = .held)
          ∧ ((∀ l, l ≠ k → pendingEntry s l = none) → s.eng.mode = some .record → t.eng.state = .done)))
      ∧ (s.tl.mode = .play → s.tl.state = .laying → s.eng.layWait = none → 2592000 ≤ laid →
        s.eng.state = .waiting ∨ s.eng.state = .splicing ∨ s.eng.state = .finishing →
        t.tl.state = .unlocked ∧ t.tl.generated = none
        ∧ (∀ sp k, s.eng.splice = some sp → sp.index = some k → t.eng.splice = none ∧ ∃ x ∈ t.eng.results, x.tag = sp.tag ∧ x.outcome = .lostLock)
        ∧ (∀ e, pendingEntry s 0 = some e → e.lay = true → s.eng.splice = none → s.eng.mode = some .record →
          t.eng.active[(0 : Fin 16)] = some ⟨e, .ended .broken⟩ ∧ ∃ x ∈ t.eng.results, x.tag = .program s.eng.run s.eng.pass 0
            ∧ x.outcome = .broken ∧ x.actualIn = none ∧ x.actualOut = none)))
  ∧ (∀ (s : State) (a : Nat), let t := gateEnter a s
    let ends : Outcome → Option Reason → Prop := fun o r => ∀ sp, s.eng.splice = some sp →
      t.eng.splice = none ∧ ∃ x ∈ t.eng.results, x.tag = sp.tag ∧ x.outcome = o ∧ x.reason = r ∧ x.actualIn = sp.actualIn
    let cut : Outcome → Option Reason → Prop := fun o r => t.gate = s.gate.cut ∧ t.judge = s.judge ∧ ends o r
      ∧ (t.mon.autoMix = true ↔ s.mon.autoMix = true ∧ ¬(s.mon.stored = .auto ∧ s.mon.override = false))
    (s.gate.state = .closed → t = s)
    ∧ (s.gate.state = .last → t.gate = s.gate.cut ∧ t.judge = s.judge ∧ ∀ sp, s.eng.splice = some sp → t.eng.splice = none
      ∧ ∃ x ∈ t.eng.results, x.tag = sp.tag ∧ x.actualIn = sp.actualIn ∧ x.actualOut = (if sp.early.isSome then sp.early else sp.outPoint)
        ∧ (sp.reason = none → x.outcome = .done ∧ x.reason = none) ∧ ∀ o r, sp.reason = some (o, r) → x.outcome = o ∧ x.reason = r)
    ∧ (s.gate.state = .scheduled → s.gate.first = none ∨ (∃ f, s.gate.first = some f ∧ a < f) → t = s)
    ∧ ∀ tag next, s.gate.holder = some tag →
      (s.gate.state = .scheduled ∧ s.gate.first = some next ∧ next ≤ a)
        ∨ (s.gate.state = .opened ∧ ∃ w, s.gate.write = some w ∧ next = w.addr + 1) →
      let coded : SlotId → Prop := fun k => k ∈ s.order ∧ s.slots[k].state = .coded ∧ s.slots[k].addr = some a ∧ s.slots[k].tag = some tag
      let here := ∃ sp, s.eng.splice = some sp ∧ sp.tag = tag ∧ sp.early = some ⟨a, 0⟩ ∧ sp.reason = some (.guarded, some .guarded)
      (s.gate.pendingStop = true → cut .writeFault none)
      ∧ (s.gate.pendingStop = false → ((∀ k, ¬coded k) ∨ a ≠ next → cut .broken none)
        ∧ ∀ k, coded k → (∀ l, coded l → l = k) → a = next →
          (guarded s.guard a = true ∨ here → cut .guarded (some .guarded)
            ∧ (s.eng.splice = none → t.notices = (post .recordRefused 5 (some a) none s).notices))
          ∧ (guarded s.guard a = false → ¬here → ∀ h, s.slots[k].header = some h → writeEnable t = true ∧ t.slots = s.slots
            ∧ t.gate = { s.gate with state := if s.gate.final = some a then .last else .opened, write := some ⟨a, k, 0⟩ }
            ∧ t.judge = s.judge ++ [⟨a, h.take, k, tag, s.gate.opening, false, s.geo.c + 1, false⟩]
            ∧ ∀ sp, s.eng.splice = some sp → (sp.tag ≠ tag → t.eng = s.eng) ∧ (sp.tag = tag → t.eng.splice = some { sp with
                mark := some ((sp.mark.map fun m => combine m h.mark).getD h.mark)
                reworked := if h.rework then min 255 (sp.reworked + 1) else sp.reworked
                actualIn := if sp.actualIn.isSome then sp.actualIn else sp.start }))))
  ∧ (∀ (s : State) (i : SlotId), s.order.Nodup →
    let freed : State → Prop := fun t => t.slots[i] = if blocked s i = true then { s.slots[i] with due := true } else Slot.reset
    let behind := s.slots[i].isPreRead = true ∧ ∃ before after, s.order = before ++ i :: after
      ∧ ((∃ w a, s.tl.head = some w ∧ s.slots[i].addr = some a ∧ a < w)
        ∨ s.geo.d - 1 ≤ (after.filter fun k => s.slots[k].isPreRead).length)
    let passed : Nat → Prop := fun w => s.slots[i].state = .coded ∧ (∀ e ∈ s.judge, e.slot ≠ i) ∧ ∃ a, s.slots[i].addr = some a ∧ a ≤ w
    (behind → freed (releaseBehind s)) ∧ (¬behind → (releaseBehind s).slots[i] = s.slots[i])
    ∧ ∀ w, (passed w → freed (releasePassed w s)) ∧ (¬passed w → (releasePassed w s).slots[i] = s.slots[i]))
  ∧ (∀ (s : State) (x : Nat), let t := prepareAt x s
    let G := x + 2
    let S := framePairs s.clock.rate
    let active := (s.eng.state = .waiting ∨ s.eng.state = .splicing) ∧ (s.tl.state = .locked ∨ s.tl.state = .coasting)
    let beyond := (∃ sp, s.eng.splice = some sp ∧ ∀ q, sp.outPoint = some q → x < (if q.offset = 0 then q.addr - 1 else q.addr))
      ∨ ∃ p ∈ s.eng.prepared, ∃ e, pendingEntry s p.index = some e
        ∧ x < (if e.outPoint.offset = 0 then e.outPoint.addr - 1 else e.outPoint.addr)
    let lays := ∃ e, pendingEntry s 0 = some e ∧ e.lay = true
    (¬active ∨ beyond ∨ lays → t = s)
    ∧ (active → ¬beyond → ¬lays →
      ((∀ k, pendingEntry s k = none) → s.eng.splice = none → (s.eng.mode = some .record → t.eng.state = .done) ∧ t = endPass s)
      ∧ ∀ k e, pendingEntry s k = some e → (∀ p ∈ s.eng.prepared, p.index ≠ k) →
        (∀ l, l < k → pendingEntry s l = none ∨ ∃ p ∈ s.eng.prepared, p.index = l) →
        let takes : Prepared → Prop := fun p => t = nameSource e.source { s with eng := { s.eng with prepared := s.eng.prepared ++ [p] } }
        let out := e.outPoint.addr * S + e.outPoint.offset
        let past := e.outPoint.addr < G ∨ (e.outPoint.addr = G ∧ e.outPoint.offset = 0)
        let span := out - G * S
        let fadeOut := min e.fadeOut span
        (past → s.eng.mode = some .record → (∀ l, l ≠ k → pendingEntry s l = none) → t.eng.active[k] = some ⟨e, .ended .skipped⟩
          ∧ ∃ r ∈ t.eng.results, r.tag = .program s.eng.run s.eng.pass k.val ∧ r.outcome = .skipped ∧ r.actualIn = none)
        ∧ (¬past → e.inPoint.addr = G → takes
            ⟨k, e.inPoint, false, out - (G * S + e.inPoint.offset), e.fadeIn, e.fadeOut, false⟩)
        ∧ (¬past → e.inPoint.addr < G → takes ⟨k, ⟨G, 0⟩, true, span, min e.fadeIn (span - fadeOut), fadeOut, false⟩)
        ∧ (¬past → G < e.inPoint.addr → t = s)))
  ∧ (∀ (s : State) (p : Prepared) (e : Entry), s.eng.prepared = [p] → pendingEntry s p.index = some e → s.banks.ok →
    let t := askDue [p] s
    let tag : SpliceTag := .program s.eng.run s.eng.pass p.index.val
    let dropped : Outcome → Option Reason → Prop := fun o r => t.eng.prepared = [] ∧ t.intake.flyStart = none ∧ t.eng.bankFor = none
      ∧ t.eng.active[p.index] = some ⟨e, .ended o⟩ ∧ t.intake.source = .analog
      ∧ ∃ x, t.eng.results.getLast? = some x ∧ x.tag = tag ∧ x.outcome = o ∧ x.reason = r ∧ x.actualIn = none ∧ x.actualOut = none
    (p.asked = true ∨ e.source ≠ .fly → t = s)
    ∧ (p.asked = false → e.source = .fly →
      (s.banks.b0.state ≠ .full → s.banks.b1.state ≠ .full → dropped .starved none
        ∧ (e.notify = false → t.notices = (post .flyStarved 2 (some p.start.addr) none s).notices))
      ∧ ∀ n, (s.banks.get n).state = .full → (n = .b0 ∨ s.banks.b0.state ≠ .full) →
        ((s.banks.get n).rate = some s.clock.rate → t.intake.flyStart = some p.start.offset ∧ t.eng.bankFor = some tag
          ∧ t.eng.prepared = [{ p with asked := true }] ∧ (t.banks.get n).state = .playing ∧ (t.banks.get n).readPos = 0)
        ∧ ((s.banks.get n).rate ≠ some s.clock.rate → dropped .refused (some .rate)
          ∧ (e.notify = false → s.eng.mode = some .record →
            t.notices = (post .recordRefused 3 (some p.start.addr) none s).notices))))

/-! ### The output lines and the write stream -/

/-- What the lines carry in one output sample period, by the posted mode and the selection, with the output position and the scrub pointer moved on:
the scrub pair in JOG, INPUT from the intake's source, PREREAD, CONFIDENCE, the mix, and the mix alone under the rehearse override; and the status
record at the end of a block of 256 (R35, R79, R80, R81, R82, R84, R85, R124, R125; log entry 29; INPUT at every output position is log entry 48).
In JOG the output is taken before the pointer moves (log entry 27), and the pointer is kept while no window is present (log entry 32); outside PLAY
the output position stands still (log entry 58); a chosen slot gives its audio while it is CONCEALED PREREAD, or DECODED, and silence otherwise (log
entry 59).  At a mark in a rehearsal the override becomes active as the head enters the start frame, and ends with the splice: which completes at
the next frame entered after its final one, and ends BROKEN or GUARDED at a frame that a RECORD run's gate would not write (R85, R146, R147, R153;
log entries 23, 25 and 55, the model's reading).  With nothing PENDING that ends the pass: ARMED for the next one with every entry PENDING again, or
DONE after the last (R154). -/
def Obligations.OutputLines : Prop :=
  (∀ s : State, let S := framePairs s.clock.rate
    ∃ t, exec .outputSamplePeriod s = .next t
      ∧ { t with out := s.out, jog := s.jog, mon := s.mon, fresh := s.fresh } = s
      ∧ t.mon = { s.mon with outPos := if s.tl.mode = .play then s.mon.outPos.map (· + 1) else s.mon.outPos }
      ∧ (s.tl.mode ≠ .jog → t.jog = s.jog)
      ∧ (let carries : SamplePair → CopyMark → Prop := fun p m => t.out.pair = p ∧ t.out.mark = m
        let silent := carries ⟨0, 0⟩ .free
        let plain := s.tl.mode = .play ∧ s.mon.override = false
        let from' : SourceRec → Option SamplePair → Prop := fun r last =>
          carries (last.getD ⟨0, 0⟩) (if last = none then .free else if r.status.valid then r.status.mark else .never)
        let slotMark : SlotId → CopyMark := fun i => (s.slots[i].header.map (·.mark)).getD .free
        let pre := s.mon.stored = .preRead ∨ (s.mon.stored = .auto ∧ s.mon.autoMix = false)
        let mix := s.mon.override = true ∨ (s.mon.stored = .auto ∧ s.mon.autoMix = true)
        (s.tl.mode = .shuttle ∨ s.tl.mode = .spool ∨ (s.tl.mode = .stop ∧ s.mon.stored ≠ .input) → silent)
        ∧ (s.tl.mode = .stop ∨ plain → s.mon.stored = .input →
          (s.intake.source = .analog → from' s.sources.analog s.mon.lastAnalog)
          ∧ (s.intake.source = .digital → from' s.sources.digital s.mon.lastDigital)
          ∧ (s.intake.source = .fly → silent))
        ∧ (s.tl.mode = .play → s.mon.override = true ∨ s.mon.stored ≠ .input →
          (s.mon.outPos = none ∨ (∃ k, s.mon.outPos = some k ∧ S ≤ k) → silent)
          ∧ ∀ k, s.mon.outPos = some k → k < S →
            (plain → pre → (∀ i, s.mon.preSlot = some i → s.slots[i].state = .concealed → s.slots[i].role = some .preRead →
                s.slots[i].layout = s.clock.rate → carries (pairAt s.slots[i].audio s.clock.rate k) (slotMark i))
              ∧ ((∀ i, s.mon.preSlot = some i → s.slots[i].isPreRead = false) → silent))
            ∧ (plain → s.mon.stored = .confidence →
              (∀ i, s.mon.confSlot = some i → s.slots[i].state = .decoded → s.slots[i].role = some .confidence →
                s.slots[i].layout = s.clock.rate → let p := pairAt s.slots[i].audio s.clock.rate k
                carries ⟨if k ∈ s.slots[i].bad.left then 0 else p.left, if k ∈ s.slots[i].bad.right then 0 else p.right⟩ (slotMark i))
              ∧ ((∀ i, s.mon.confSlot = some i → ¬(s.slots[i].state = .decoded ∧ s.slots[i].role = some .confidence)) → silent))
            ∧ (mix → (∀ m, s.mon.current = some m → ∀ h : k < m.pairs.length, carries m.pairs[k] m.mark)
              ∧ (s.mon.current = none → silent)))
        ∧ (s.tl.mode = .jog → s.jog.window = none → silent ∧ t.jog = s.jog)
        ∧ ∀ w, s.tl.mode = .jog → s.jog.window = some w →
          let k := s.jog.pointer / 8
          let pinned : SlotId → Prop := fun i => s.slots[i].pinned = true ∧ s.slots[i].addr = some (w + k / S)
          ((∀ i, ¬pinned i) → silent)
          ∧ ∀ i, pinned i → (∀ j, pinned j → j = i) → s.slots[i].layout = s.clock.rate →
            carries (pairAt s.slots[i].audio s.clock.rate (k % S)) (slotMark i))
      ∧ (∀ w, s.tl.mode = .jog → s.jog.window = some w → s.jog.pointer < s.jog.length * S * 8 → s.tl.ratio ≤ 8 → 1 ≤ s.jog.length →
          t.jog.pointer < s.jog.length * S * 8 ∧ t.jog.pointer = (match s.tl.dir with
            | .forward => (s.jog.pointer + s.tl.ratio) % (s.jog.length * S * 8)
            | .reverse => (s.jog.pointer + (s.jog.length * S * 8 - s.tl.ratio)) % (s.jog.length * S * 8)))
      ∧ (s.out.blockCount < 256 → t.out.blockCount = s.out.blockCount + 1
          ∧ t.out.blockMark = combine s.out.blockMark t.out.mark))
  ∧ (∀ s : State, (s.out.blockCount = 256 → exec .digitalOutputBlockEnd s = .next { s with out := { s.out with
        status := some (statusByte s.out.blockMark s.clock.rate), blockCount := 0, blockMark := .free } })
      ∧ (s.out.blockCount ≠ 256 → exec .digitalOutputBlockEnd s = .next s))
  ∧ (∀ (s : State) (f g : CaptureFrame) (i j : SlotId) (sp : Splice) (start : Point), s.pre.assembly = some f → s.pre.closing = [] →
    f.slot = some i → s.conf.assembly = some g → s.conf.closing = [] → g.slot = some j → s.tl.mode = .play →
    s.tl.state = .locked ∨ s.tl.state = .coasting → s.geo.d ≤ s.tl.position + 2 → s.eng.layWait = none → s.gate.state = .closed →
    (∀ x n, s.intake.frame = some x → x.slot = some n → s.slots[n].state = .filling) →
    s.eng.splice = some sp → sp.rehearse = true → sp.start = some start →
    let w := s.tl.position + 2 - s.geo.d
    let coded := ∃ k : SlotId, k ∈ s.order ∧ s.slots[k].state = .coded ∧ s.slots[k].addr = some w ∧ s.slots[k].tag = some sp.tag
    let barred := guarded s.guard w = true ∨ (sp.early = some ⟨w, 0⟩ ∧ sp.reason = some (.guarded, some .guarded))
    ∃ t, exec .frameMark s = .next t
      ∧ (let ends : Outcome → Option Reason → Option Point → Prop := fun o r out => t.eng.splice = none ∧ t.mon.override = false
          ∧ ((∀ l, pendingEntry s l = none) → ∃ x ∈ t.eng.results, x.tag = sp.tag ∧ x.outcome = o ∧ x.reason = r
            ∧ x.actualIn = sp.actualIn ∧ x.actualOut = out)
          ∧ ((∀ l, pendingEntry s l = none) → sp.index.isSome = true → s.eng.state = .splicing → s.eng.mode = some .rehearse →
            (s.eng.passes.getD 1 ≤ s.eng.pass → t.eng.state = .done)
            ∧ (s.eng.pass < s.eng.passes.getD 1 → t.eng.state = .armed ∧ t.eng.pass = s.eng.pass + 1
              ∧ (∀ e, s.eng.active[(0 : Fin 16)] = some e → t.eng.locate = e.entry.inPoint.addr - s.eng.preroll)
              ∧ ∀ l : Fin 16, t.eng.active[l] = (s.eng.active[l]).map fun e => { e with state := .pending }))
        let enters : Nat → Prop := fun next =>
          (¬coded ∨ w ≠ next → ends .broken none (some ⟨w, 0⟩))
          ∧ (coded → w = next →
            (barred → (∀ op ∈ s.coding, op.tag = some sp.tag → ∀ b, op.begun = some b → b.verdict.atIn = false) →
              ends .guarded (some .guarded) (some ⟨w, 0⟩))
            ∧ (¬barred → t.eng.splice = some { sp with entered := some w } ∧ t.mon.override = (s.mon.override || sp.entered.isNone)))
        (sp.entered = none → (w < start.addr → t.eng.splice = some sp ∧ t.mon.override = s.mon.override)
          ∧ (start.addr ≤ w → enters start.addr))
        ∧ ∀ x, sp.entered = some x → (sp.final ≠ some x → enters (x + 1))
          ∧ (sp.final = some x → let out := if sp.early.isSome then sp.early else sp.outPoint
            (sp.reason = none → ends .done none out) ∧ ∀ o r, sp.reason = some (o, r) → ends o r out)))

/-- The write stream emits the ten sectors of the frame being written in order, and the bytes it emits are the ones a head stream
reads back; nothing is emitted without a write in progress or after its ten sectors (log entry 16, the model's choice) (R98, R103, R192). -/
def Obligations.SectorEmission : Prop :=
  (∀ s : State, s.gate.write = none → exec .sectorEmission s = .next s)
  ∧ (∀ (s : State) (w : Write), s.gate.write = some w → 10 ≤ w.sectors → exec .sectorEmission s = .next s)
  ∧ (∀ (s : State) (w : Write) (h : Header), s.gate.write = some w → w.sectors < 10 → s.slots[w.slot].header = some h →
      h.onTape = true → ∃ bytes, exec .sectorEmission s = .next { s with
          out := { s.out with sector := some bytes }, gate := { s.gate with write := some { w with sectors := w.sectors + 1 } } }
        ∧ bytes.length = 1013
        ∧ readSector bytes = ⟨some w.sectors, some h, sectorWords s.slots[w.slot].audio w.sectors⟩)

/-- The layouts of the tape, of the digital line and of fly items read back as written (R184, R192, R193, R194). -/
def Obligations.LayoutsReadBack : Prop :=
  (∀ h : Header, h.onTape = true → (headerBytes h).length = 8 ∧ headerOf (headerBytes h) = some h)
  ∧ (∀ (k : Nat) (h : Header) (words : List Sample), k < 10 → h.onTape = true → words.length = 400 →
      (sectorBytes k h words).length = 1013 ∧ readSector (sectorBytes k h words) = ⟨some k, some h, words⟩)
  ∧ (∀ (m : CopyMark) (r : Rate), statusOf (statusByte m r) = some (m, r))
  ∧ (∀ l : List SamplePair, pairsOf (l.flatMap pairBytes) = l)
  ∧ (∀ (x : RawEntry), (rawEntryBytes x).length = 25)

/-! ### What every step keeps -/

/-- The laws of the notice queues: every step keeps them (R196, R198, R199). -/
def Obligations.StepsKeepTheNoticeLaws : Prop := ∀ s t : State, noticesOk s → step s = .next t → noticesOk t

/-- The laws of the timeline: every step keeps them (R14, R17, R11). -/
def Obligations.StepsKeepTheTimelineLaws : Prop := ∀ s t : State, s.tl.ok → step s = .next t → t.tl.ok

/-- Write-enable is on exactly while an unguarded frame is being written: every step keeps it (R103, R105).  A schedule is taken exactly with the
gate CLOSED, PLAY posted, CLOCK LOST clear and the timeline LOCKED, COASTING or LAYING; otherwise its cause is handed back and nothing changes
(R100, R101); which cause comes first is log entry 52, the model's choice. -/
def Obligations.StepsKeepTheGateLaw : Prop :=
  (∀ s t : State, gateOk s → step s = .next t → gateOk t)
  ∧ (∀ s : State, gateOk s → (writeEnable s = true ↔ ∃ w, s.gate.write = some w ∧ guarded s.guard w.addr = false))
  ∧ (∀ (s : State) (tag : SpliceTag) (first : Option Nat),
    let placed := s.tl.state = .locked ∨ s.tl.state = .coasting ∨ s.tl.state = .laying
    (s.gate.state ≠ .closed → schedule tag first s = (some .busy, s))
    ∧ (s.gate.state = .closed → s.tl.mode ≠ .play → schedule tag first s = (some .transport, s))
    ∧ (s.gate.state = .closed → s.tl.mode = .play → s.clock.lost = true → schedule tag first s = (some .clock, s))
    ∧ (s.gate.state = .closed → s.tl.mode = .play → s.clock.lost = false → ¬placed → schedule tag first s = (some .lock, s))
    ∧ (s.gate.state = .closed → s.tl.mode = .play → s.clock.lost = false → placed → schedule tag first s = (none, { s with gate :=
        { s.gate with state := .scheduled, holder := some tag, first := first, opening := (s.gate.opening + 1) % 65536, run := 0 } })))

/-- At most one bank plays, the Take Counter stays in 1..255 and the results list within 16 entries: every step keeps it (R39, R137, R159).  A
result joins the end of the list, the oldest one leaving a full list and Results Lost counting it, and posts SPLICE_ENDED where it is to be
notified; the end of a splice adds its result, with no actual points for one that ended at its in-point, and gives its entry the outcome, which for
a splice that ends normally is its end reason or DONE; a lay that ends leaves LAYING.  The engine then goes to DONE from FINISHING, to WAITING, or
HELD after a lay, while entries are PENDING, and otherwise ends the pass: a rehearsal with passes left posts PASS_END with the pass ended and the
locate target, has every entry PENDING again and goes to ARMED, and any other run is DONE (R17, R139, R145, R146, R154, R156, R158, R159; the
address of a punch without a start frame is log entry 42). -/
def Obligations.StepsKeepTheBankAndEngineLaws : Prop :=
  (∀ s t : State, s.banks.ok → step s = .next t → t.banks.ok) ∧ (∀ s t : State, s.eng.ok → step s = .next t → t.eng.ok)
  ∧ (∀ (r : SpliceResult) (notify : Bool) (a : Option Nat) (s : State), let t := addResult r notify a s
    let n := match r.tag with
      | .program _ _ i => i
      | .manual _ => 16
    t.eng = { s.eng with
      results := (if s.eng.results.length < 16 then s.eng.results else s.eng.results.drop 1) ++ [r]
      resultsLost := if s.eng.results.length < 16 then s.eng.resultsLost else min 65535 (s.eng.resultsLost + 1) }
    ∧ t.notices = (if notify then (post .spliceEnded n (if r.actualOut.isSome then r.actualOut.map (·.addr) else a) none s).notices
        else s.notices)
    ∧ { t with eng := s.eng, notices := s.notices } = s)
  ∧ (∀ (o : Outcome) (r : Option Reason) (out : Option Point) (atIn : Bool) (s : State) (sp : Splice), s.eng.splice = some sp →
    let t := endSplice o r out atIn s
    let from' := if atIn then none else sp.actualIn
    let upto := if atIn then none else out
    t.eng.splice = none
    ∧ (∃ x, t.eng.results.getLast? = some x ∧ x.tag = sp.tag ∧ x.outcome = o ∧ x.reason = r ∧ x.rehearse = sp.rehearse
      ∧ x.pass = (if sp.rehearse then s.eng.pass else 0) ∧ x.actualIn = from' ∧ x.actualOut = upto ∧ x.late = sp.late ∧ x.take = sp.take
      ∧ x.mark = sp.mark ∧ x.faults = sp.faults ∧ x.reworked = sp.reworked ∧ ∀ k pass i, sp.tag = .program k pass i → x.run = k)
    ∧ (∀ i b, sp.index = some i → s.eng.active[i] = some b → t.eng.active[i] = some { b with state := .ended o })
    ∧ t.notices = (if sp.notify then (post .spliceEnded sp.tag.index (match upto, from', sp.inFrame with
        | some q, _, _ => some q.addr
        | none, some q, _ => some q.addr
        | none, none, some a => some a
        | none, none, none => sp.start.map (·.addr)) none s).notices else s.notices)
    ∧ t.gate = s.gate ∧ t.slots = s.slots
    ∧ t.tl = (if sp.lay = true ∧ s.tl.state = .laying then
        let left : Timeline := { s.tl with state := .unlocked, coast := 0, run := 0, candidate := none, generated := none, handed := none }
        match s.tl.handed with
        | some h => if h + s.geo.d - 2 < 2592000 then { left with state := .acquiring, candidate := some (h + s.geo.d - 2) } else left
        | none => left
      else s.tl))
  ∧ (∀ (o : Outcome) (r : Option Reason) (out : Option Point) (atIn : Bool) (s : State) (sp : Splice), s.eng.splice = some sp →
    let u := endSplice o r out atIn s
    let t := finishSplice o r out atIn s
    let goes : EngState → Nat → Prop := fun x n => t.eng = { u.eng with state := x } ∧ t.notices = (post .programState n none none u).notices
    (sp.index = none → t = u)
    ∧ (sp.index.isSome = true → s.eng.state = .finishing → goes .done 6)
    ∧ (sp.index.isSome = true → s.eng.state = .splicing → (∃ k, (pendingEntry u k).isSome = true) →
      if sp.lay then goes .held 4 else goes .waiting 2)
    ∧ (sp.index.isSome = true → s.eng.state = .splicing → (∀ k, pendingEntry u k = none) → t = endPass u))
  ∧ (∀ (s : State) (e : ActiveEntry), s.eng.active[(0 : Fin 16)] = some e → s.eng.state = .waiting ∨ s.eng.state = .splicing →
    let t := endPass s
    let target := e.entry.inPoint.addr - s.eng.preroll
    let again := s.eng.mode = some .rehearse ∧ s.eng.pass < s.eng.passes.getD 1
    (again → { t.eng with active := s.eng.active } = { s.eng with state := .armed, pass := s.eng.pass + 1, locate := target, prepared := [] }
      ∧ (∀ k : Fin 16, t.eng.active[k] = (s.eng.active[k]).map fun a => { a with state := .pending })
      ∧ t.notices = (post .programState 1 none none (post .passEnd s.eng.pass (some target) none s)).notices)
    ∧ (¬again → t.eng = { s.eng with state := .done } ∧ t.notices = (post .programState 6 none none s).notices))
  ∧ (∀ (s : State) (sp : Splice), s.eng.splice = some sp → ∃ x, (completeSplice s).eng.results.getLast? = some x ∧ x.tag = sp.tag
    ∧ x.actualOut = (if sp.early.isSome then sp.early else sp.outPoint)
    ∧ (sp.reason = none → x.outcome = .done ∧ x.reason = none) ∧ ∀ o r, sp.reason = some (o, r) → x.outcome = o ∧ x.reason = r)

/-- The buffers stay in canonical form: every step keeps it (log entry 36). -/
def Obligations.StepsKeepTheBuffersCanonical : Prop := ∀ s t : State, buffersWf s → step s = .next t → buffersWf t

/-- Every numeric setting stays in the range that the spec gives it: every step keeps it (R9, R10, R14, R36, R76,
R108, R109, R126, R133, R161, R198). -/
def Obligations.StepsKeepTheSettingsInRange : Prop := ∀ s t : State, settingsInRange s → step s = .next t → settingsInRange t

/-- The laws hold at reset. -/
def Obligations.LawsHoldAtReset : Prop :=
  noticesOk State.reset ∧ State.reset.tl.ok ∧ gateOk State.reset ∧ State.reset.banks.ok ∧ State.reset.eng.ok ∧ buffersWf State.reset
    ∧ settingsInRange State.reset

/-- No event or timer changes a setting; and with the Guard Lock set, nothing but power-on changes the guard table (R129, R190). -/
def Obligations.OnlyCommandsChangeSettings : Prop :=
  (∀ (i : Instr) (s : State), isEvent i = true → ∃ t, exec i s = .next t ∧ settingsOf t = settingsOf s)
  ∧ (∀ (i : Instr) (s : State), s.guard.lock = true → i ≠ .powerOnReset → ∃ t, exec i s = .next t
      ∧ t.guard.places = s.guard.places ∧ t.guard.invert = s.guard.invert)
end

