-- ==== Sys2Proof/Laws/State.lean ====
section
/-! SUPPORT. What each named update of a state leaves in each field, true by unfolding. -/

set_option Elab.async false

namespace Sys2Proof.Machine

/-! ### setSlot -/

@[simp] theorem setSlot_pending (i : SlotId) (x : Slot) (s : State) : (setSlot i x s).pending = s.pending := rfl

@[simp] theorem setSlot_fresh (i : SlotId) (x : Slot) (s : State) : (setSlot i x s).fresh = s.fresh := rfl

@[simp] theorem setSlot_framers (i : SlotId) (x : Slot) (s : State) : (setSlot i x s).framers = s.framers := rfl

@[simp] theorem setSlot_notices (i : SlotId) (x : Slot) (s : State) : (setSlot i x s).notices = s.notices := rfl

@[simp] theorem setSlot_routes (i : SlotId) (x : Slot) (s : State) : (setSlot i x s).routes = s.routes := rfl

@[simp] theorem setSlot_tl (i : SlotId) (x : Slot) (s : State) : (setSlot i x s).tl = s.tl := rfl

@[simp] theorem setSlot_geo (i : SlotId) (x : Slot) (s : State) : (setSlot i x s).geo = s.geo := rfl

@[simp] theorem setSlot_clock (i : SlotId) (x : Slot) (s : State) : (setSlot i x s).clock = s.clock := rfl

@[simp] theorem setSlot_slots (i : SlotId) (x : Slot) (s : State) : (setSlot i x s).slots = s.slots.set i x := rfl

@[simp] theorem setSlot_order (i : SlotId) (x : Slot) (s : State) : (setSlot i x s).order = s.order := rfl

@[simp] theorem setSlot_jog (i : SlotId) (x : Slot) (s : State) : (setSlot i x s).jog = s.jog := rfl

@[simp] theorem setSlot_fetch (i : SlotId) (x : Slot) (s : State) : (setSlot i x s).fetch = s.fetch := rfl

@[simp] theorem setSlot_banks (i : SlotId) (x : Slot) (s : State) : (setSlot i x s).banks = s.banks := rfl

@[simp] theorem setSlot_pre (i : SlotId) (x : Slot) (s : State) : (setSlot i x s).pre = s.pre := rfl

@[simp] theorem setSlot_conf (i : SlotId) (x : Slot) (s : State) : (setSlot i x s).conf = s.conf := rfl

@[simp] theorem setSlot_conceal (i : SlotId) (x : Slot) (s : State) : (setSlot i x s).conceal = s.conceal := rfl

@[simp] theorem setSlot_mon (i : SlotId) (x : Slot) (s : State) : (setSlot i x s).mon = s.mon := rfl

@[simp] theorem setSlot_out (i : SlotId) (x : Slot) (s : State) : (setSlot i x s).out = s.out := rfl

@[simp] theorem setSlot_intake (i : SlotId) (x : Slot) (s : State) : (setSlot i x s).intake = s.intake := rfl

@[simp] theorem setSlot_coding (i : SlotId) (x : Slot) (s : State) : (setSlot i x s).coding = s.coding := rfl

@[simp] theorem setSlot_lastCoded (i : SlotId) (x : Slot) (s : State) : (setSlot i x s).lastCoded = s.lastCoded := rfl

@[simp] theorem setSlot_gate (i : SlotId) (x : Slot) (s : State) : (setSlot i x s).gate = s.gate := rfl

@[simp] theorem setSlot_judge (i : SlotId) (x : Slot) (s : State) : (setSlot i x s).judge = s.judge := rfl

@[simp] theorem setSlot_manual (i : SlotId) (x : Slot) (s : State) : (setSlot i x s).manual = s.manual := rfl

@[simp] theorem setSlot_sources (i : SlotId) (x : Slot) (s : State) : (setSlot i x s).sources = s.sources := rfl

@[simp] theorem setSlot_guard (i : SlotId) (x : Slot) (s : State) : (setSlot i x s).guard = s.guard := rfl

@[simp] theorem setSlot_guardRelease (i : SlotId) (x : Slot) (s : State) : (setSlot i x s).guardRelease = s.guardRelease := rfl

@[simp] theorem setSlot_eng (i : SlotId) (x : Slot) (s : State) : (setSlot i x s).eng = s.eng := rfl

@[simp] theorem setSlot_cues (i : SlotId) (x : Slot) (s : State) : (setSlot i x s).cues = s.cues := rfl

@[simp] theorem setSlot_punchA (i : SlotId) (x : Slot) (s : State) : (setSlot i x s).punchA = s.punchA := rfl

@[simp] theorem setSlot_punchB (i : SlotId) (x : Slot) (s : State) : (setSlot i x s).punchB = s.punchB := rfl

/-! ### setBank -/

@[simp] theorem setBank_pending (n : BankId) (b : Bank) (s : State) : (setBank n b s).pending = s.pending := rfl

@[simp] theorem setBank_fresh (n : BankId) (b : Bank) (s : State) : (setBank n b s).fresh = s.fresh := rfl

@[simp] theorem setBank_framers (n : BankId) (b : Bank) (s : State) : (setBank n b s).framers = s.framers := rfl

@[simp] theorem setBank_notices (n : BankId) (b : Bank) (s : State) : (setBank n b s).notices = s.notices := rfl

@[simp] theorem setBank_routes (n : BankId) (b : Bank) (s : State) : (setBank n b s).routes = s.routes := rfl

@[simp] theorem setBank_tl (n : BankId) (b : Bank) (s : State) : (setBank n b s).tl = s.tl := rfl

@[simp] theorem setBank_geo (n : BankId) (b : Bank) (s : State) : (setBank n b s).geo = s.geo := rfl

@[simp] theorem setBank_clock (n : BankId) (b : Bank) (s : State) : (setBank n b s).clock = s.clock := rfl

@[simp] theorem setBank_slots (n : BankId) (b : Bank) (s : State) : (setBank n b s).slots = s.slots := rfl

@[simp] theorem setBank_order (n : BankId) (b : Bank) (s : State) : (setBank n b s).order = s.order := rfl

@[simp] theorem setBank_jog (n : BankId) (b : Bank) (s : State) : (setBank n b s).jog = s.jog := rfl

@[simp] theorem setBank_fetch (n : BankId) (b : Bank) (s : State) : (setBank n b s).fetch = s.fetch := rfl

@[simp] theorem setBank_banks (n : BankId) (b : Bank) (s : State) : (setBank n b s).banks = s.banks.set n b := rfl

@[simp] theorem setBank_pre (n : BankId) (b : Bank) (s : State) : (setBank n b s).pre = s.pre := rfl

@[simp] theorem setBank_conf (n : BankId) (b : Bank) (s : State) : (setBank n b s).conf = s.conf := rfl

@[simp] theorem setBank_conceal (n : BankId) (b : Bank) (s : State) : (setBank n b s).conceal = s.conceal := rfl

@[simp] theorem setBank_mon (n : BankId) (b : Bank) (s : State) : (setBank n b s).mon = s.mon := rfl

@[simp] theorem setBank_out (n : BankId) (b : Bank) (s : State) : (setBank n b s).out = s.out := rfl

@[simp] theorem setBank_intake (n : BankId) (b : Bank) (s : State) : (setBank n b s).intake = s.intake := rfl

@[simp] theorem setBank_coding (n : BankId) (b : Bank) (s : State) : (setBank n b s).coding = s.coding := rfl

@[simp] theorem setBank_lastCoded (n : BankId) (b : Bank) (s : State) : (setBank n b s).lastCoded = s.lastCoded := rfl

@[simp] theorem setBank_gate (n : BankId) (b : Bank) (s : State) : (setBank n b s).gate = s.gate := rfl

@[simp] theorem setBank_judge (n : BankId) (b : Bank) (s : State) : (setBank n b s).judge = s.judge := rfl

@[simp] theorem setBank_manual (n : BankId) (b : Bank) (s : State) : (setBank n b s).manual = s.manual := rfl

@[simp] theorem setBank_sources (n : BankId) (b : Bank) (s : State) : (setBank n b s).sources = s.sources := rfl

@[simp] theorem setBank_guard (n : BankId) (b : Bank) (s : State) : (setBank n b s).guard = s.guard := rfl

@[simp] theorem setBank_guardRelease (n : BankId) (b : Bank) (s : State) : (setBank n b s).guardRelease = s.guardRelease := rfl

@[simp] theorem setBank_eng (n : BankId) (b : Bank) (s : State) : (setBank n b s).eng = s.eng := rfl

@[simp] theorem setBank_cues (n : BankId) (b : Bank) (s : State) : (setBank n b s).cues = s.cues := rfl

@[simp] theorem setBank_punchA (n : BankId) (b : Bank) (s : State) : (setBank n b s).punchA = s.punchA := rfl

@[simp] theorem setBank_punchB (n : BankId) (b : Bank) (s : State) : (setBank n b s).punchB = s.punchB := rfl

/-! ### bumpFresh -/

@[simp] theorem bumpFresh_pending (s : State) : (bumpFresh s).pending = s.pending := rfl

@[simp] theorem bumpFresh_fresh (s : State) : (bumpFresh s).fresh = s.fresh + 1 := rfl

@[simp] theorem bumpFresh_framers (s : State) : (bumpFresh s).framers = s.framers := rfl

@[simp] theorem bumpFresh_notices (s : State) : (bumpFresh s).notices = s.notices := rfl

@[simp] theorem bumpFresh_routes (s : State) : (bumpFresh s).routes = s.routes := rfl

@[simp] theorem bumpFresh_tl (s : State) : (bumpFresh s).tl = s.tl := rfl

@[simp] theorem bumpFresh_geo (s : State) : (bumpFresh s).geo = s.geo := rfl

@[simp] theorem bumpFresh_clock (s : State) : (bumpFresh s).clock = s.clock := rfl

@[simp] theorem bumpFresh_slots (s : State) : (bumpFresh s).slots = s.slots := rfl

@[simp] theorem bumpFresh_order (s : State) : (bumpFresh s).order = s.order := rfl

@[simp] theorem bumpFresh_jog (s : State) : (bumpFresh s).jog = s.jog := rfl

@[simp] theorem bumpFresh_fetch (s : State) : (bumpFresh s).fetch = s.fetch := rfl

@[simp] theorem bumpFresh_banks (s : State) : (bumpFresh s).banks = s.banks := rfl

@[simp] theorem bumpFresh_pre (s : State) : (bumpFresh s).pre = s.pre := rfl

@[simp] theorem bumpFresh_conf (s : State) : (bumpFresh s).conf = s.conf := rfl

@[simp] theorem bumpFresh_conceal (s : State) : (bumpFresh s).conceal = s.conceal := rfl

@[simp] theorem bumpFresh_mon (s : State) : (bumpFresh s).mon = s.mon := rfl

@[simp] theorem bumpFresh_out (s : State) : (bumpFresh s).out = s.out := rfl

@[simp] theorem bumpFresh_intake (s : State) : (bumpFresh s).intake = s.intake := rfl

@[simp] theorem bumpFresh_coding (s : State) : (bumpFresh s).coding = s.coding := rfl

@[simp] theorem bumpFresh_lastCoded (s : State) : (bumpFresh s).lastCoded = s.lastCoded := rfl

@[simp] theorem bumpFresh_gate (s : State) : (bumpFresh s).gate = s.gate := rfl

@[simp] theorem bumpFresh_judge (s : State) : (bumpFresh s).judge = s.judge := rfl

@[simp] theorem bumpFresh_manual (s : State) : (bumpFresh s).manual = s.manual := rfl

@[simp] theorem bumpFresh_sources (s : State) : (bumpFresh s).sources = s.sources := rfl

@[simp] theorem bumpFresh_guard (s : State) : (bumpFresh s).guard = s.guard := rfl

@[simp] theorem bumpFresh_guardRelease (s : State) : (bumpFresh s).guardRelease = s.guardRelease := rfl

@[simp] theorem bumpFresh_eng (s : State) : (bumpFresh s).eng = s.eng := rfl

@[simp] theorem bumpFresh_cues (s : State) : (bumpFresh s).cues = s.cues := rfl

@[simp] theorem bumpFresh_punchA (s : State) : (bumpFresh s).punchA = s.punchA := rfl

@[simp] theorem bumpFresh_punchB (s : State) : (bumpFresh s).punchB = s.punchB := rfl

/-! ### setIntakeFrame -/

@[simp] theorem setIntakeFrame_pending (f : Option IntakeFrame) (s : State) : (setIntakeFrame f s).pending = s.pending := rfl

@[simp] theorem setIntakeFrame_fresh (f : Option IntakeFrame) (s : State) : (setIntakeFrame f s).fresh = s.fresh := rfl

@[simp] theorem setIntakeFrame_framers (f : Option IntakeFrame) (s : State) : (setIntakeFrame f s).framers = s.framers := rfl

@[simp] theorem setIntakeFrame_notices (f : Option IntakeFrame) (s : State) : (setIntakeFrame f s).notices = s.notices := rfl

@[simp] theorem setIntakeFrame_routes (f : Option IntakeFrame) (s : State) : (setIntakeFrame f s).routes = s.routes := rfl

@[simp] theorem setIntakeFrame_tl (f : Option IntakeFrame) (s : State) : (setIntakeFrame f s).tl = s.tl := rfl

@[simp] theorem setIntakeFrame_geo (f : Option IntakeFrame) (s : State) : (setIntakeFrame f s).geo = s.geo := rfl

@[simp] theorem setIntakeFrame_clock (f : Option IntakeFrame) (s : State) : (setIntakeFrame f s).clock = s.clock := rfl

@[simp] theorem setIntakeFrame_slots (f : Option IntakeFrame) (s : State) : (setIntakeFrame f s).slots = s.slots := rfl

@[simp] theorem setIntakeFrame_order (f : Option IntakeFrame) (s : State) : (setIntakeFrame f s).order = s.order := rfl

@[simp] theorem setIntakeFrame_jog (f : Option IntakeFrame) (s : State) : (setIntakeFrame f s).jog = s.jog := rfl

@[simp] theorem setIntakeFrame_fetch (f : Option IntakeFrame) (s : State) : (setIntakeFrame f s).fetch = s.fetch := rfl

@[simp] theorem setIntakeFrame_banks (f : Option IntakeFrame) (s : State) : (setIntakeFrame f s).banks = s.banks := rfl

@[simp] theorem setIntakeFrame_pre (f : Option IntakeFrame) (s : State) : (setIntakeFrame f s).pre = s.pre := rfl

@[simp] theorem setIntakeFrame_conf (f : Option IntakeFrame) (s : State) : (setIntakeFrame f s).conf = s.conf := rfl

@[simp] theorem setIntakeFrame_conceal (f : Option IntakeFrame) (s : State) : (setIntakeFrame f s).conceal = s.conceal := rfl

@[simp] theorem setIntakeFrame_mon (f : Option IntakeFrame) (s : State) : (setIntakeFrame f s).mon = s.mon := rfl

@[simp] theorem setIntakeFrame_out (f : Option IntakeFrame) (s : State) : (setIntakeFrame f s).out = s.out := rfl

@[simp] theorem setIntakeFrame_intake (f : Option IntakeFrame) (s : State) : (setIntakeFrame f s).intake = { s.intake with frame := f } := rfl

@[simp] theorem setIntakeFrame_coding (f : Option IntakeFrame) (s : State) : (setIntakeFrame f s).coding = s.coding := rfl

@[simp] theorem setIntakeFrame_lastCoded (f : Option IntakeFrame) (s : State) : (setIntakeFrame f s).lastCoded = s.lastCoded := rfl

@[simp] theorem setIntakeFrame_gate (f : Option IntakeFrame) (s : State) : (setIntakeFrame f s).gate = s.gate := rfl

@[simp] theorem setIntakeFrame_judge (f : Option IntakeFrame) (s : State) : (setIntakeFrame f s).judge = s.judge := rfl

@[simp] theorem setIntakeFrame_manual (f : Option IntakeFrame) (s : State) : (setIntakeFrame f s).manual = s.manual := rfl

@[simp] theorem setIntakeFrame_sources (f : Option IntakeFrame) (s : State) : (setIntakeFrame f s).sources = s.sources := rfl

@[simp] theorem setIntakeFrame_guard (f : Option IntakeFrame) (s : State) : (setIntakeFrame f s).guard = s.guard := rfl

@[simp] theorem setIntakeFrame_guardRelease (f : Option IntakeFrame) (s : State) : (setIntakeFrame f s).guardRelease = s.guardRelease := rfl

@[simp] theorem setIntakeFrame_eng (f : Option IntakeFrame) (s : State) : (setIntakeFrame f s).eng = s.eng := rfl

@[simp] theorem setIntakeFrame_cues (f : Option IntakeFrame) (s : State) : (setIntakeFrame f s).cues = s.cues := rfl

@[simp] theorem setIntakeFrame_punchA (f : Option IntakeFrame) (s : State) : (setIntakeFrame f s).punchA = s.punchA := rfl

@[simp] theorem setIntakeFrame_punchB (f : Option IntakeFrame) (s : State) : (setIntakeFrame f s).punchB = s.punchB := rfl

/-! ### setFramer -/

@[simp] theorem setFramer_pending (p : Port) (f : Framer) (s : State) : (setFramer p f s).pending = s.pending := rfl

@[simp] theorem setFramer_fresh (p : Port) (f : Framer) (s : State) : (setFramer p f s).fresh = s.fresh := rfl

@[simp] theorem setFramer_framers (p : Port) (f : Framer) (s : State) : (setFramer p f s).framers = s.framers.set p f := rfl

@[simp] theorem setFramer_notices (p : Port) (f : Framer) (s : State) : (setFramer p f s).notices = s.notices := rfl

@[simp] theorem setFramer_routes (p : Port) (f : Framer) (s : State) : (setFramer p f s).routes = s.routes := rfl

@[simp] theorem setFramer_tl (p : Port) (f : Framer) (s : State) : (setFramer p f s).tl = s.tl := rfl

@[simp] theorem setFramer_geo (p : Port) (f : Framer) (s : State) : (setFramer p f s).geo = s.geo := rfl

@[simp] theorem setFramer_clock (p : Port) (f : Framer) (s : State) : (setFramer p f s).clock = s.clock := rfl

@[simp] theorem setFramer_slots (p : Port) (f : Framer) (s : State) : (setFramer p f s).slots = s.slots := rfl

@[simp] theorem setFramer_order (p : Port) (f : Framer) (s : State) : (setFramer p f s).order = s.order := rfl

@[simp] theorem setFramer_jog (p : Port) (f : Framer) (s : State) : (setFramer p f s).jog = s.jog := rfl

@[simp] theorem setFramer_fetch (p : Port) (f : Framer) (s : State) : (setFramer p f s).fetch = s.fetch := rfl

@[simp] theorem setFramer_banks (p : Port) (f : Framer) (s : State) : (setFramer p f s).banks = s.banks := rfl

@[simp] theorem setFramer_pre (p : Port) (f : Framer) (s : State) : (setFramer p f s).pre = s.pre := rfl

@[simp] theorem setFramer_conf (p : Port) (f : Framer) (s : State) : (setFramer p f s).conf = s.conf := rfl

@[simp] theorem setFramer_conceal (p : Port) (f : Framer) (s : State) : (setFramer p f s).conceal = s.conceal := rfl

@[simp] theorem setFramer_mon (p : Port) (f : Framer) (s : State) : (setFramer p f s).mon = s.mon := rfl

@[simp] theorem setFramer_out (p : Port) (f : Framer) (s : State) : (setFramer p f s).out = s.out := rfl

@[simp] theorem setFramer_intake (p : Port) (f : Framer) (s : State) : (setFramer p f s).intake = s.intake := rfl

@[simp] theorem setFramer_coding (p : Port) (f : Framer) (s : State) : (setFramer p f s).coding = s.coding := rfl

@[simp] theorem setFramer_lastCoded (p : Port) (f : Framer) (s : State) : (setFramer p f s).lastCoded = s.lastCoded := rfl

@[simp] theorem setFramer_gate (p : Port) (f : Framer) (s : State) : (setFramer p f s).gate = s.gate := rfl

@[simp] theorem setFramer_judge (p : Port) (f : Framer) (s : State) : (setFramer p f s).judge = s.judge := rfl

@[simp] theorem setFramer_manual (p : Port) (f : Framer) (s : State) : (setFramer p f s).manual = s.manual := rfl

@[simp] theorem setFramer_sources (p : Port) (f : Framer) (s : State) : (setFramer p f s).sources = s.sources := rfl

@[simp] theorem setFramer_guard (p : Port) (f : Framer) (s : State) : (setFramer p f s).guard = s.guard := rfl

@[simp] theorem setFramer_guardRelease (p : Port) (f : Framer) (s : State) : (setFramer p f s).guardRelease = s.guardRelease := rfl

@[simp] theorem setFramer_eng (p : Port) (f : Framer) (s : State) : (setFramer p f s).eng = s.eng := rfl

@[simp] theorem setFramer_cues (p : Port) (f : Framer) (s : State) : (setFramer p f s).cues = s.cues := rfl

@[simp] theorem setFramer_punchA (p : Port) (f : Framer) (s : State) : (setFramer p f s).punchA = s.punchA := rfl

@[simp] theorem setFramer_punchB (p : Port) (f : Framer) (s : State) : (setFramer p f s).punchB = s.punchB := rfl

/-! ### answer -/

@[simp] theorem answer_pending (p : Port) (r : Reply) (s : State) : (answer p r s).pending = s.pending := rfl

@[simp] theorem answer_fresh (p : Port) (r : Reply) (s : State) : (answer p r s).fresh = s.fresh := rfl

@[simp] theorem answer_framers (p : Port) (r : Reply) (s : State) : (answer p r s).framers = s.framers.set p (.reply r.bytes) := rfl

@[simp] theorem answer_notices (p : Port) (r : Reply) (s : State) : (answer p r s).notices = s.notices := rfl

@[simp] theorem answer_routes (p : Port) (r : Reply) (s : State) : (answer p r s).routes = s.routes := rfl

@[simp] theorem answer_tl (p : Port) (r : Reply) (s : State) : (answer p r s).tl = s.tl := rfl

@[simp] theorem answer_geo (p : Port) (r : Reply) (s : State) : (answer p r s).geo = s.geo := rfl

@[simp] theorem answer_clock (p : Port) (r : Reply) (s : State) : (answer p r s).clock = s.clock := rfl

@[simp] theorem answer_slots (p : Port) (r : Reply) (s : State) : (answer p r s).slots = s.slots := rfl

@[simp] theorem answer_order (p : Port) (r : Reply) (s : State) : (answer p r s).order = s.order := rfl

@[simp] theorem answer_jog (p : Port) (r : Reply) (s : State) : (answer p r s).jog = s.jog := rfl

@[simp] theorem answer_fetch (p : Port) (r : Reply) (s : State) : (answer p r s).fetch = s.fetch := rfl

@[simp] theorem answer_banks (p : Port) (r : Reply) (s : State) : (answer p r s).banks = s.banks := rfl

@[simp] theorem answer_pre (p : Port) (r : Reply) (s : State) : (answer p r s).pre = s.pre := rfl

@[simp] theorem answer_conf (p : Port) (r : Reply) (s : State) : (answer p r s).conf = s.conf := rfl

@[simp] theorem answer_conceal (p : Port) (r : Reply) (s : State) : (answer p r s).conceal = s.conceal := rfl

@[simp] theorem answer_mon (p : Port) (r : Reply) (s : State) : (answer p r s).mon = s.mon := rfl

@[simp] theorem answer_out (p : Port) (r : Reply) (s : State) : (answer p r s).out = s.out := rfl

@[simp] theorem answer_intake (p : Port) (r : Reply) (s : State) : (answer p r s).intake = s.intake := rfl

@[simp] theorem answer_coding (p : Port) (r : Reply) (s : State) : (answer p r s).coding = s.coding := rfl

@[simp] theorem answer_lastCoded (p : Port) (r : Reply) (s : State) : (answer p r s).lastCoded = s.lastCoded := rfl

@[simp] theorem answer_gate (p : Port) (r : Reply) (s : State) : (answer p r s).gate = s.gate := rfl

@[simp] theorem answer_judge (p : Port) (r : Reply) (s : State) : (answer p r s).judge = s.judge := rfl

@[simp] theorem answer_manual (p : Port) (r : Reply) (s : State) : (answer p r s).manual = s.manual := rfl

@[simp] theorem answer_sources (p : Port) (r : Reply) (s : State) : (answer p r s).sources = s.sources := rfl

@[simp] theorem answer_guard (p : Port) (r : Reply) (s : State) : (answer p r s).guard = s.guard := rfl

@[simp] theorem answer_guardRelease (p : Port) (r : Reply) (s : State) : (answer p r s).guardRelease = s.guardRelease := rfl

@[simp] theorem answer_eng (p : Port) (r : Reply) (s : State) : (answer p r s).eng = s.eng := rfl

@[simp] theorem answer_cues (p : Port) (r : Reply) (s : State) : (answer p r s).cues = s.cues := rfl

@[simp] theorem answer_punchA (p : Port) (r : Reply) (s : State) : (answer p r s).punchA = s.punchA := rfl

@[simp] theorem answer_punchB (p : Port) (r : Reply) (s : State) : (answer p r s).punchB = s.punchB := rfl

/-! ### setNotices -/

@[simp] theorem setNotices_pending (p : Port) (q : NoticePort) (s : State) : (setNotices p q s).pending = s.pending := rfl

@[simp] theorem setNotices_fresh (p : Port) (q : NoticePort) (s : State) : (setNotices p q s).fresh = s.fresh := rfl

@[simp] theorem setNotices_framers (p : Port) (q : NoticePort) (s : State) : (setNotices p q s).framers = s.framers := rfl

@[simp] theorem setNotices_notices (p : Port) (q : NoticePort) (s : State) : (setNotices p q s).notices = s.notices.set p q := rfl

@[simp] theorem setNotices_routes (p : Port) (q : NoticePort) (s : State) : (setNotices p q s).routes = s.routes := rfl

@[simp] theorem setNotices_tl (p : Port) (q : NoticePort) (s : State) : (setNotices p q s).tl = s.tl := rfl

@[simp] theorem setNotices_geo (p : Port) (q : NoticePort) (s : State) : (setNotices p q s).geo = s.geo := rfl

@[simp] theorem setNotices_clock (p : Port) (q : NoticePort) (s : State) : (setNotices p q s).clock = s.clock := rfl

@[simp] theorem setNotices_slots (p : Port) (q : NoticePort) (s : State) : (setNotices p q s).slots = s.slots := rfl

@[simp] theorem setNotices_order (p : Port) (q : NoticePort) (s : State) : (setNotices p q s).order = s.order := rfl

@[simp] theorem setNotices_jog (p : Port) (q : NoticePort) (s : State) : (setNotices p q s).jog = s.jog := rfl

@[simp] theorem setNotices_fetch (p : Port) (q : NoticePort) (s : State) : (setNotices p q s).fetch = s.fetch := rfl

@[simp] theorem setNotices_banks (p : Port) (q : NoticePort) (s : State) : (setNotices p q s).banks = s.banks := rfl

@[simp] theorem setNotices_pre (p : Port) (q : NoticePort) (s : State) : (setNotices p q s).pre = s.pre := rfl

@[simp] theorem setNotices_conf (p : Port) (q : NoticePort) (s : State) : (setNotices p q s).conf = s.conf := rfl

@[simp] theorem setNotices_conceal (p : Port) (q : NoticePort) (s : State) : (setNotices p q s).conceal = s.conceal := rfl

@[simp] theorem setNotices_mon (p : Port) (q : NoticePort) (s : State) : (setNotices p q s).mon = s.mon := rfl

@[simp] theorem setNotices_out (p : Port) (q : NoticePort) (s : State) : (setNotices p q s).out = s.out := rfl

@[simp] theorem setNotices_intake (p : Port) (q : NoticePort) (s : State) : (setNotices p q s).intake = s.intake := rfl

@[simp] theorem setNotices_coding (p : Port) (q : NoticePort) (s : State) : (setNotices p q s).coding = s.coding := rfl

@[simp] theorem setNotices_lastCoded (p : Port) (q : NoticePort) (s : State) : (setNotices p q s).lastCoded = s.lastCoded := rfl

@[simp] theorem setNotices_gate (p : Port) (q : NoticePort) (s : State) : (setNotices p q s).gate = s.gate := rfl

@[simp] theorem setNotices_judge (p : Port) (q : NoticePort) (s : State) : (setNotices p q s).judge = s.judge := rfl

@[simp] theorem setNotices_manual (p : Port) (q : NoticePort) (s : State) : (setNotices p q s).manual = s.manual := rfl

@[simp] theorem setNotices_sources (p : Port) (q : NoticePort) (s : State) : (setNotices p q s).sources = s.sources := rfl

@[simp] theorem setNotices_guard (p : Port) (q : NoticePort) (s : State) : (setNotices p q s).guard = s.guard := rfl

@[simp] theorem setNotices_guardRelease (p : Port) (q : NoticePort) (s : State) : (setNotices p q s).guardRelease = s.guardRelease := rfl

@[simp] theorem setNotices_eng (p : Port) (q : NoticePort) (s : State) : (setNotices p q s).eng = s.eng := rfl

@[simp] theorem setNotices_cues (p : Port) (q : NoticePort) (s : State) : (setNotices p q s).cues = s.cues := rfl

@[simp] theorem setNotices_punchA (p : Port) (q : NoticePort) (s : State) : (setNotices p q s).punchA = s.punchA := rfl

@[simp] theorem setNotices_punchB (p : Port) (q : NoticePort) (s : State) : (setNotices p q s).punchB = s.punchB := rfl

/-! ### setRoute -/

@[simp] theorem setRoute_pending (i : Fin 16) (r : PerPort Bool) (s : State) : (setRoute i r s).pending = s.pending := rfl

@[simp] theorem setRoute_fresh (i : Fin 16) (r : PerPort Bool) (s : State) : (setRoute i r s).fresh = s.fresh := rfl

@[simp] theorem setRoute_framers (i : Fin 16) (r : PerPort Bool) (s : State) : (setRoute i r s).framers = s.framers := rfl

@[simp] theorem setRoute_notices (i : Fin 16) (r : PerPort Bool) (s : State) : (setRoute i r s).notices = s.notices := rfl

@[simp] theorem setRoute_routes (i : Fin 16) (r : PerPort Bool) (s : State) : (setRoute i r s).routes = s.routes.set i r := rfl

@[simp] theorem setRoute_tl (i : Fin 16) (r : PerPort Bool) (s : State) : (setRoute i r s).tl = s.tl := rfl

@[simp] theorem setRoute_geo (i : Fin 16) (r : PerPort Bool) (s : State) : (setRoute i r s).geo = s.geo := rfl

@[simp] theorem setRoute_clock (i : Fin 16) (r : PerPort Bool) (s : State) : (setRoute i r s).clock = s.clock := rfl

@[simp] theorem setRoute_slots (i : Fin 16) (r : PerPort Bool) (s : State) : (setRoute i r s).slots = s.slots := rfl

@[simp] theorem setRoute_order (i : Fin 16) (r : PerPort Bool) (s : State) : (setRoute i r s).order = s.order := rfl

@[simp] theorem setRoute_jog (i : Fin 16) (r : PerPort Bool) (s : State) : (setRoute i r s).jog = s.jog := rfl

@[simp] theorem setRoute_fetch (i : Fin 16) (r : PerPort Bool) (s : State) : (setRoute i r s).fetch = s.fetch := rfl

@[simp] theorem setRoute_banks (i : Fin 16) (r : PerPort Bool) (s : State) : (setRoute i r s).banks = s.banks := rfl

@[simp] theorem setRoute_pre (i : Fin 16) (r : PerPort Bool) (s : State) : (setRoute i r s).pre = s.pre := rfl

@[simp] theorem setRoute_conf (i : Fin 16) (r : PerPort Bool) (s : State) : (setRoute i r s).conf = s.conf := rfl

@[simp] theorem setRoute_conceal (i : Fin 16) (r : PerPort Bool) (s : State) : (setRoute i r s).conceal = s.conceal := rfl

@[simp] theorem setRoute_mon (i : Fin 16) (r : PerPort Bool) (s : State) : (setRoute i r s).mon = s.mon := rfl

@[simp] theorem setRoute_out (i : Fin 16) (r : PerPort Bool) (s : State) : (setRoute i r s).out = s.out := rfl

@[simp] theorem setRoute_intake (i : Fin 16) (r : PerPort Bool) (s : State) : (setRoute i r s).intake = s.intake := rfl

@[simp] theorem setRoute_coding (i : Fin 16) (r : PerPort Bool) (s : State) : (setRoute i r s).coding = s.coding := rfl

@[simp] theorem setRoute_lastCoded (i : Fin 16) (r : PerPort Bool) (s : State) : (setRoute i r s).lastCoded = s.lastCoded := rfl

@[simp] theorem setRoute_gate (i : Fin 16) (r : PerPort Bool) (s : State) : (setRoute i r s).gate = s.gate := rfl

@[simp] theorem setRoute_judge (i : Fin 16) (r : PerPort Bool) (s : State) : (setRoute i r s).judge = s.judge := rfl

@[simp] theorem setRoute_manual (i : Fin 16) (r : PerPort Bool) (s : State) : (setRoute i r s).manual = s.manual := rfl

@[simp] theorem setRoute_sources (i : Fin 16) (r : PerPort Bool) (s : State) : (setRoute i r s).sources = s.sources := rfl

@[simp] theorem setRoute_guard (i : Fin 16) (r : PerPort Bool) (s : State) : (setRoute i r s).guard = s.guard := rfl

@[simp] theorem setRoute_guardRelease (i : Fin 16) (r : PerPort Bool) (s : State) : (setRoute i r s).guardRelease = s.guardRelease := rfl

@[simp] theorem setRoute_eng (i : Fin 16) (r : PerPort Bool) (s : State) : (setRoute i r s).eng = s.eng := rfl

@[simp] theorem setRoute_cues (i : Fin 16) (r : PerPort Bool) (s : State) : (setRoute i r s).cues = s.cues := rfl

@[simp] theorem setRoute_punchA (i : Fin 16) (r : PerPort Bool) (s : State) : (setRoute i r s).punchA = s.punchA := rfl

@[simp] theorem setRoute_punchB (i : Fin 16) (r : PerPort Bool) (s : State) : (setRoute i r s).punchB = s.punchB := rfl

/-! ### setCue -/

@[simp] theorem setCue_pending (i : Fin 24) (c : Cue) (s : State) : (setCue i c s).pending = s.pending := rfl

@[simp] theorem setCue_fresh (i : Fin 24) (c : Cue) (s : State) : (setCue i c s).fresh = s.fresh := rfl

@[simp] theorem setCue_framers (i : Fin 24) (c : Cue) (s : State) : (setCue i c s).framers = s.framers := rfl

@[simp] theorem setCue_notices (i : Fin 24) (c : Cue) (s : State) : (setCue i c s).notices = s.notices := rfl

@[simp] theorem setCue_routes (i : Fin 24) (c : Cue) (s : State) : (setCue i c s).routes = s.routes := rfl

@[simp] theorem setCue_tl (i : Fin 24) (c : Cue) (s : State) : (setCue i c s).tl = s.tl := rfl

@[simp] theorem setCue_geo (i : Fin 24) (c : Cue) (s : State) : (setCue i c s).geo = s.geo := rfl

@[simp] theorem setCue_clock (i : Fin 24) (c : Cue) (s : State) : (setCue i c s).clock = s.clock := rfl

@[simp] theorem setCue_slots (i : Fin 24) (c : Cue) (s : State) : (setCue i c s).slots = s.slots := rfl

@[simp] theorem setCue_order (i : Fin 24) (c : Cue) (s : State) : (setCue i c s).order = s.order := rfl

@[simp] theorem setCue_jog (i : Fin 24) (c : Cue) (s : State) : (setCue i c s).jog = s.jog := rfl

@[simp] theorem setCue_fetch (i : Fin 24) (c : Cue) (s : State) : (setCue i c s).fetch = s.fetch := rfl

@[simp] theorem setCue_banks (i : Fin 24) (c : Cue) (s : State) : (setCue i c s).banks = s.banks := rfl

@[simp] theorem setCue_pre (i : Fin 24) (c : Cue) (s : State) : (setCue i c s).pre = s.pre := rfl

@[simp] theorem setCue_conf (i : Fin 24) (c : Cue) (s : State) : (setCue i c s).conf = s.conf := rfl

@[simp] theorem setCue_conceal (i : Fin 24) (c : Cue) (s : State) : (setCue i c s).conceal = s.conceal := rfl

@[simp] theorem setCue_mon (i : Fin 24) (c : Cue) (s : State) : (setCue i c s).mon = s.mon := rfl

@[simp] theorem setCue_out (i : Fin 24) (c : Cue) (s : State) : (setCue i c s).out = s.out := rfl

@[simp] theorem setCue_intake (i : Fin 24) (c : Cue) (s : State) : (setCue i c s).intake = s.intake := rfl

@[simp] theorem setCue_coding (i : Fin 24) (c : Cue) (s : State) : (setCue i c s).coding = s.coding := rfl

@[simp] theorem setCue_lastCoded (i : Fin 24) (c : Cue) (s : State) : (setCue i c s).lastCoded = s.lastCoded := rfl

@[simp] theorem setCue_gate (i : Fin 24) (c : Cue) (s : State) : (setCue i c s).gate = s.gate := rfl

@[simp] theorem setCue_judge (i : Fin 24) (c : Cue) (s : State) : (setCue i c s).judge = s.judge := rfl

@[simp] theorem setCue_manual (i : Fin 24) (c : Cue) (s : State) : (setCue i c s).manual = s.manual := rfl

@[simp] theorem setCue_sources (i : Fin 24) (c : Cue) (s : State) : (setCue i c s).sources = s.sources := rfl

@[simp] theorem setCue_guard (i : Fin 24) (c : Cue) (s : State) : (setCue i c s).guard = s.guard := rfl

@[simp] theorem setCue_guardRelease (i : Fin 24) (c : Cue) (s : State) : (setCue i c s).guardRelease = s.guardRelease := rfl

@[simp] theorem setCue_eng (i : Fin 24) (c : Cue) (s : State) : (setCue i c s).eng = s.eng := rfl

@[simp] theorem setCue_cues (i : Fin 24) (c : Cue) (s : State) : (setCue i c s).cues = s.cues.set i c := rfl

@[simp] theorem setCue_punchA (i : Fin 24) (c : Cue) (s : State) : (setCue i c s).punchA = s.punchA := rfl

@[simp] theorem setCue_punchB (i : Fin 24) (c : Cue) (s : State) : (setCue i c s).punchB = s.punchB := rfl

/-! ### setPunch -/

@[simp] theorem setPunch_pending (l : PunchLine) (x : Punch) (s : State) : (setPunch l x s).pending = s.pending := by
  cases l <;> rfl

@[simp] theorem setPunch_fresh (l : PunchLine) (x : Punch) (s : State) : (setPunch l x s).fresh = s.fresh := by
  cases l <;> rfl

@[simp] theorem setPunch_framers (l : PunchLine) (x : Punch) (s : State) : (setPunch l x s).framers = s.framers := by
  cases l <;> rfl

@[simp] theorem setPunch_notices (l : PunchLine) (x : Punch) (s : State) : (setPunch l x s).notices = s.notices := by
  cases l <;> rfl

@[simp] theorem setPunch_routes (l : PunchLine) (x : Punch) (s : State) : (setPunch l x s).routes = s.routes := by
  cases l <;> rfl

@[simp] theorem setPunch_tl (l : PunchLine) (x : Punch) (s : State) : (setPunch l x s).tl = s.tl := by
  cases l <;> rfl

@[simp] theorem setPunch_geo (l : PunchLine) (x : Punch) (s : State) : (setPunch l x s).geo = s.geo := by
  cases l <;> rfl

@[simp] theorem setPunch_clock (l : PunchLine) (x : Punch) (s : State) : (setPunch l x s).clock = s.clock := by
  cases l <;> rfl

@[simp] theorem setPunch_slots (l : PunchLine) (x : Punch) (s : State) : (setPunch l x s).slots = s.slots := by
  cases l <;> rfl

@[simp] theorem setPunch_order (l : PunchLine) (x : Punch) (s : State) : (setPunch l x s).order = s.order := by
  cases l <;> rfl

@[simp] theorem setPunch_jog (l : PunchLine) (x : Punch) (s : State) : (setPunch l x s).jog = s.jog := by
  cases l <;> rfl

@[simp] theorem setPunch_fetch (l : PunchLine) (x : Punch) (s : State) : (setPunch l x s).fetch = s.fetch := by
  cases l <;> rfl

@[simp] theorem setPunch_banks (l : PunchLine) (x : Punch) (s : State) : (setPunch l x s).banks = s.banks := by
  cases l <;> rfl

@[simp] theorem setPunch_pre (l : PunchLine) (x : Punch) (s : State) : (setPunch l x s).pre = s.pre := by
  cases l <;> rfl

@[simp] theorem setPunch_conf (l : PunchLine) (x : Punch) (s : State) : (setPunch l x s).conf = s.conf := by
  cases l <;> rfl

@[simp] theorem setPunch_conceal (l : PunchLine) (x : Punch) (s : State) : (setPunch l x s).conceal = s.conceal := by
  cases l <;> rfl

@[simp] theorem setPunch_mon (l : PunchLine) (x : Punch) (s : State) : (setPunch l x s).mon = s.mon := by
  cases l <;> rfl

@[simp] theorem setPunch_out (l : PunchLine) (x : Punch) (s : State) : (setPunch l x s).out = s.out := by
  cases l <;> rfl

@[simp] theorem setPunch_intake (l : PunchLine) (x : Punch) (s : State) : (setPunch l x s).intake = s.intake := by
  cases l <;> rfl

@[simp] theorem setPunch_coding (l : PunchLine) (x : Punch) (s : State) : (setPunch l x s).coding = s.coding := by
  cases l <;> rfl

@[simp] theorem setPunch_lastCoded (l : PunchLine) (x : Punch) (s : State) : (setPunch l x s).lastCoded = s.lastCoded := by
  cases l <;> rfl

@[simp] theorem setPunch_gate (l : PunchLine) (x : Punch) (s : State) : (setPunch l x s).gate = s.gate := by
  cases l <;> rfl

@[simp] theorem setPunch_judge (l : PunchLine) (x : Punch) (s : State) : (setPunch l x s).judge = s.judge := by
  cases l <;> rfl

@[simp] theorem setPunch_manual (l : PunchLine) (x : Punch) (s : State) : (setPunch l x s).manual = s.manual := by
  cases l <;> rfl

@[simp] theorem setPunch_sources (l : PunchLine) (x : Punch) (s : State) : (setPunch l x s).sources = s.sources := by
  cases l <;> rfl

@[simp] theorem setPunch_guard (l : PunchLine) (x : Punch) (s : State) : (setPunch l x s).guard = s.guard := by
  cases l <;> rfl

@[simp] theorem setPunch_guardRelease (l : PunchLine) (x : Punch) (s : State) : (setPunch l x s).guardRelease = s.guardRelease := by
  cases l <;> rfl

@[simp] theorem setPunch_eng (l : PunchLine) (x : Punch) (s : State) : (setPunch l x s).eng = s.eng := by
  cases l <;> rfl

@[simp] theorem setPunch_cues (l : PunchLine) (x : Punch) (s : State) : (setPunch l x s).cues = s.cues := by
  cases l <;> rfl

@[simp] theorem setPunch_punchA (l : PunchLine) (x : Punch) (s : State) : (setPunch l x s).punchA = match l with
    | .a => x
    | .b => s.punchA := by
  cases l <;> rfl

@[simp] theorem setPunch_punchB (l : PunchLine) (x : Punch) (s : State) : (setPunch l x s).punchB = match l with
    | .a => s.punchB
    | .b => x := by
  cases l <;> rfl

/-! ### setCapture -/

@[simp] theorem setCapture_pending (ch : HeadStream) (c : Capture) (s : State) : (setCapture ch c s).pending = s.pending := by
  cases ch <;> rfl

@[simp] theorem setCapture_fresh (ch : HeadStream) (c : Capture) (s : State) : (setCapture ch c s).fresh = s.fresh := by
  cases ch <;> rfl

@[simp] theorem setCapture_framers (ch : HeadStream) (c : Capture) (s : State) : (setCapture ch c s).framers = s.framers := by
  cases ch <;> rfl

@[simp] theorem setCapture_notices (ch : HeadStream) (c : Capture) (s : State) : (setCapture ch c s).notices = s.notices := by
  cases ch <;> rfl

@[simp] theorem setCapture_routes (ch : HeadStream) (c : Capture) (s : State) : (setCapture ch c s).routes = s.routes := by
  cases ch <;> rfl

@[simp] theorem setCapture_tl (ch : HeadStream) (c : Capture) (s : State) : (setCapture ch c s).tl = s.tl := by
  cases ch <;> rfl

@[simp] theorem setCapture_geo (ch : HeadStream) (c : Capture) (s : State) : (setCapture ch c s).geo = s.geo := by
  cases ch <;> rfl

@[simp] theorem setCapture_clock (ch : HeadStream) (c : Capture) (s : State) : (setCapture ch c s).clock = s.clock := by
  cases ch <;> rfl

@[simp] theorem setCapture_slots (ch : HeadStream) (c : Capture) (s : State) : (setCapture ch c s).slots = s.slots := by
  cases ch <;> rfl

@[simp] theorem setCapture_order (ch : HeadStream) (c : Capture) (s : State) : (setCapture ch c s).order = s.order := by
  cases ch <;> rfl

@[simp] theorem setCapture_jog (ch : HeadStream) (c : Capture) (s : State) : (setCapture ch c s).jog = s.jog := by
  cases ch <;> rfl

@[simp] theorem setCapture_fetch (ch : HeadStream) (c : Capture) (s : State) : (setCapture ch c s).fetch = s.fetch := by
  cases ch <;> rfl

@[simp] theorem setCapture_banks (ch : HeadStream) (c : Capture) (s : State) : (setCapture ch c s).banks = s.banks := by
  cases ch <;> rfl

@[simp] theorem setCapture_pre (ch : HeadStream) (c : Capture) (s : State) : (setCapture ch c s).pre = match ch with
    | .preRead => c
    | .confidence => s.pre := by
  cases ch <;> rfl

@[simp] theorem setCapture_conf (ch : HeadStream) (c : Capture) (s : State) : (setCapture ch c s).conf = match ch with
    | .preRead => s.conf
    | .confidence => c := by
  cases ch <;> rfl

@[simp] theorem setCapture_conceal (ch : HeadStream) (c : Capture) (s : State) : (setCapture ch c s).conceal = s.conceal := by
  cases ch <;> rfl

@[simp] theorem setCapture_mon (ch : HeadStream) (c : Capture) (s : State) : (setCapture ch c s).mon = s.mon := by
  cases ch <;> rfl

@[simp] theorem setCapture_out (ch : HeadStream) (c : Capture) (s : State) : (setCapture ch c s).out = s.out := by
  cases ch <;> rfl

@[simp] theorem setCapture_intake (ch : HeadStream) (c : Capture) (s : State) : (setCapture ch c s).intake = s.intake := by
  cases ch <;> rfl

@[simp] theorem setCapture_coding (ch : HeadStream) (c : Capture) (s : State) : (setCapture ch c s).coding = s.coding := by
  cases ch <;> rfl

@[simp] theorem setCapture_lastCoded (ch : HeadStream) (c : Capture) (s : State) : (setCapture ch c s).lastCoded = s.lastCoded := by
  cases ch <;> rfl

@[simp] theorem setCapture_gate (ch : HeadStream) (c : Capture) (s : State) : (setCapture ch c s).gate = s.gate := by
  cases ch <;> rfl

@[simp] theorem setCapture_judge (ch : HeadStream) (c : Capture) (s : State) : (setCapture ch c s).judge = s.judge := by
  cases ch <;> rfl

@[simp] theorem setCapture_manual (ch : HeadStream) (c : Capture) (s : State) : (setCapture ch c s).manual = s.manual := by
  cases ch <;> rfl

@[simp] theorem setCapture_sources (ch : HeadStream) (c : Capture) (s : State) : (setCapture ch c s).sources = s.sources := by
  cases ch <;> rfl

@[simp] theorem setCapture_guard (ch : HeadStream) (c : Capture) (s : State) : (setCapture ch c s).guard = s.guard := by
  cases ch <;> rfl

@[simp] theorem setCapture_guardRelease (ch : HeadStream) (c : Capture) (s : State) : (setCapture ch c s).guardRelease = s.guardRelease := by
  cases ch <;> rfl

@[simp] theorem setCapture_eng (ch : HeadStream) (c : Capture) (s : State) : (setCapture ch c s).eng = s.eng := by
  cases ch <;> rfl

@[simp] theorem setCapture_cues (ch : HeadStream) (c : Capture) (s : State) : (setCapture ch c s).cues = s.cues := by
  cases ch <;> rfl

@[simp] theorem setCapture_punchA (ch : HeadStream) (c : Capture) (s : State) : (setCapture ch c s).punchA = s.punchA := by
  cases ch <;> rfl

@[simp] theorem setCapture_punchB (ch : HeadStream) (c : Capture) (s : State) : (setCapture ch c s).punchB = s.punchB := by
  cases ch <;> rfl

/-! ### post -/

@[simp] theorem post_pending (k : NoticeKind) (n : Nat) (a : Option Nat) (c : Option Result) (s : State) : (post k n a c s).pending = s.pending := rfl

@[simp] theorem post_fresh (k : NoticeKind) (n : Nat) (a : Option Nat) (c : Option Result) (s : State) : (post k n a c s).fresh = s.fresh := rfl

@[simp] theorem post_framers (k : NoticeKind) (n : Nat) (a : Option Nat) (c : Option Result) (s : State) : (post k n a c s).framers = s.framers := rfl

@[simp] theorem post_routes (k : NoticeKind) (n : Nat) (a : Option Nat) (c : Option Result) (s : State) : (post k n a c s).routes = s.routes := rfl

@[simp] theorem post_tl (k : NoticeKind) (n : Nat) (a : Option Nat) (c : Option Result) (s : State) : (post k n a c s).tl = s.tl := rfl

@[simp] theorem post_geo (k : NoticeKind) (n : Nat) (a : Option Nat) (c : Option Result) (s : State) : (post k n a c s).geo = s.geo := rfl

@[simp] theorem post_clock (k : NoticeKind) (n : Nat) (a : Option Nat) (c : Option Result) (s : State) : (post k n a c s).clock = s.clock := rfl

@[simp] theorem post_slots (k : NoticeKind) (n : Nat) (a : Option Nat) (c : Option Result) (s : State) : (post k n a c s).slots = s.slots := rfl

@[simp] theorem post_order (k : NoticeKind) (n : Nat) (a : Option Nat) (c : Option Result) (s : State) : (post k n a c s).order = s.order := rfl

@[simp] theorem post_jog (k : NoticeKind) (n : Nat) (a : Option Nat) (c : Option Result) (s : State) : (post k n a c s).jog = s.jog := rfl

@[simp] theorem post_fetch (k : NoticeKind) (n : Nat) (a : Option Nat) (c : Option Result) (s : State) : (post k n a c s).fetch = s.fetch := rfl

@[simp] theorem post_banks (k : NoticeKind) (n : Nat) (a : Option Nat) (c : Option Result) (s : State) : (post k n a c s).banks = s.banks := rfl

@[simp] theorem post_pre (k : NoticeKind) (n : Nat) (a : Option Nat) (c : Option Result) (s : State) : (post k n a c s).pre = s.pre := rfl

@[simp] theorem post_conf (k : NoticeKind) (n : Nat) (a : Option Nat) (c : Option Result) (s : State) : (post k n a c s).conf = s.conf := rfl

@[simp] theorem post_conceal (k : NoticeKind) (n : Nat) (a : Option Nat) (c : Option Result) (s : State) : (post k n a c s).conceal = s.conceal := rfl

@[simp] theorem post_mon (k : NoticeKind) (n : Nat) (a : Option Nat) (c : Option Result) (s : State) : (post k n a c s).mon = s.mon := rfl

@[simp] theorem post_out (k : NoticeKind) (n : Nat) (a : Option Nat) (c : Option Result) (s : State) : (post k n a c s).out = s.out := rfl

@[simp] theorem post_intake (k : NoticeKind) (n : Nat) (a : Option Nat) (c : Option Result) (s : State) : (post k n a c s).intake = s.intake := rfl

@[simp] theorem post_coding (k : NoticeKind) (n : Nat) (a : Option Nat) (c : Option Result) (s : State) : (post k n a c s).coding = s.coding := rfl

@[simp] theorem post_lastCoded (k : NoticeKind) (n : Nat) (a : Option Nat) (c : Option Result) (s : State) :
    (post k n a c s).lastCoded = s.lastCoded := rfl

@[simp] theorem post_gate (k : NoticeKind) (n : Nat) (a : Option Nat) (c : Option Result) (s : State) : (post k n a c s).gate = s.gate := rfl

@[simp] theorem post_judge (k : NoticeKind) (n : Nat) (a : Option Nat) (c : Option Result) (s : State) : (post k n a c s).judge = s.judge := rfl

@[simp] theorem post_manual (k : NoticeKind) (n : Nat) (a : Option Nat) (c : Option Result) (s : State) : (post k n a c s).manual = s.manual := rfl

@[simp] theorem post_sources (k : NoticeKind) (n : Nat) (a : Option Nat) (c : Option Result) (s : State) : (post k n a c s).sources = s.sources := rfl

@[simp] theorem post_guard (k : NoticeKind) (n : Nat) (a : Option Nat) (c : Option Result) (s : State) : (post k n a c s).guard = s.guard := rfl

@[simp] theorem post_guardRelease (k : NoticeKind) (n : Nat) (a : Option Nat) (c : Option Result) (s : State) :
    (post k n a c s).guardRelease = s.guardRelease := rfl

@[simp] theorem post_eng (k : NoticeKind) (n : Nat) (a : Option Nat) (c : Option Result) (s : State) : (post k n a c s).eng = s.eng := rfl

@[simp] theorem post_cues (k : NoticeKind) (n : Nat) (a : Option Nat) (c : Option Result) (s : State) : (post k n a c s).cues = s.cues := rfl

@[simp] theorem post_punchA (k : NoticeKind) (n : Nat) (a : Option Nat) (c : Option Result) (s : State) : (post k n a c s).punchA = s.punchA := rfl

@[simp] theorem post_punchB (k : NoticeKind) (n : Nat) (a : Option Nat) (c : Option Result) (s : State) : (post k n a c s).punchB = s.punchB := rfl

/-! ### setEntryState -/

@[simp] theorem setEntryState_pending (i : Fin 16) (st : EntryState) (s : State) : (setEntryState i st s).pending = s.pending := rfl

@[simp] theorem setEntryState_fresh (i : Fin 16) (st : EntryState) (s : State) : (setEntryState i st s).fresh = s.fresh := rfl

@[simp] theorem setEntryState_framers (i : Fin 16) (st : EntryState) (s : State) : (setEntryState i st s).framers = s.framers := rfl

@[simp] theorem setEntryState_notices (i : Fin 16) (st : EntryState) (s : State) : (setEntryState i st s).notices = s.notices := rfl

@[simp] theorem setEntryState_routes (i : Fin 16) (st : EntryState) (s : State) : (setEntryState i st s).routes = s.routes := rfl

@[simp] theorem setEntryState_tl (i : Fin 16) (st : EntryState) (s : State) : (setEntryState i st s).tl = s.tl := rfl

@[simp] theorem setEntryState_geo (i : Fin 16) (st : EntryState) (s : State) : (setEntryState i st s).geo = s.geo := rfl

@[simp] theorem setEntryState_clock (i : Fin 16) (st : EntryState) (s : State) : (setEntryState i st s).clock = s.clock := rfl

@[simp] theorem setEntryState_slots (i : Fin 16) (st : EntryState) (s : State) : (setEntryState i st s).slots = s.slots := rfl

@[simp] theorem setEntryState_order (i : Fin 16) (st : EntryState) (s : State) : (setEntryState i st s).order = s.order := rfl

@[simp] theorem setEntryState_jog (i : Fin 16) (st : EntryState) (s : State) : (setEntryState i st s).jog = s.jog := rfl

@[simp] theorem setEntryState_fetch (i : Fin 16) (st : EntryState) (s : State) : (setEntryState i st s).fetch = s.fetch := rfl

@[simp] theorem setEntryState_banks (i : Fin 16) (st : EntryState) (s : State) : (setEntryState i st s).banks = s.banks := rfl

@[simp] theorem setEntryState_pre (i : Fin 16) (st : EntryState) (s : State) : (setEntryState i st s).pre = s.pre := rfl

@[simp] theorem setEntryState_conf (i : Fin 16) (st : EntryState) (s : State) : (setEntryState i st s).conf = s.conf := rfl

@[simp] theorem setEntryState_conceal (i : Fin 16) (st : EntryState) (s : State) : (setEntryState i st s).conceal = s.conceal := rfl

@[simp] theorem setEntryState_mon (i : Fin 16) (st : EntryState) (s : State) : (setEntryState i st s).mon = s.mon := rfl

@[simp] theorem setEntryState_out (i : Fin 16) (st : EntryState) (s : State) : (setEntryState i st s).out = s.out := rfl

@[simp] theorem setEntryState_intake (i : Fin 16) (st : EntryState) (s : State) : (setEntryState i st s).intake = s.intake := rfl

@[simp] theorem setEntryState_coding (i : Fin 16) (st : EntryState) (s : State) : (setEntryState i st s).coding = s.coding := rfl

@[simp] theorem setEntryState_lastCoded (i : Fin 16) (st : EntryState) (s : State) : (setEntryState i st s).lastCoded = s.lastCoded := rfl

@[simp] theorem setEntryState_gate (i : Fin 16) (st : EntryState) (s : State) : (setEntryState i st s).gate = s.gate := rfl

@[simp] theorem setEntryState_judge (i : Fin 16) (st : EntryState) (s : State) : (setEntryState i st s).judge = s.judge := rfl

@[simp] theorem setEntryState_manual (i : Fin 16) (st : EntryState) (s : State) : (setEntryState i st s).manual = s.manual := rfl

@[simp] theorem setEntryState_sources (i : Fin 16) (st : EntryState) (s : State) : (setEntryState i st s).sources = s.sources := rfl

@[simp] theorem setEntryState_guard (i : Fin 16) (st : EntryState) (s : State) : (setEntryState i st s).guard = s.guard := rfl

@[simp] theorem setEntryState_guardRelease (i : Fin 16) (st : EntryState) (s : State) : (setEntryState i st s).guardRelease = s.guardRelease := rfl

@[simp] theorem setEntryState_cues (i : Fin 16) (st : EntryState) (s : State) : (setEntryState i st s).cues = s.cues := rfl

@[simp] theorem setEntryState_punchA (i : Fin 16) (st : EntryState) (s : State) : (setEntryState i st s).punchA = s.punchA := rfl

@[simp] theorem setEntryState_punchB (i : Fin 16) (st : EntryState) (s : State) : (setEntryState i st s).punchB = s.punchB := rfl

/-! ### closeGate -/

@[simp] theorem closeGate_pending (s : State) : (closeGate s).pending = s.pending := rfl

@[simp] theorem closeGate_fresh (s : State) : (closeGate s).fresh = s.fresh := rfl

@[simp] theorem closeGate_framers (s : State) : (closeGate s).framers = s.framers := rfl

@[simp] theorem closeGate_notices (s : State) : (closeGate s).notices = s.notices := rfl

@[simp] theorem closeGate_routes (s : State) : (closeGate s).routes = s.routes := rfl

@[simp] theorem closeGate_tl (s : State) : (closeGate s).tl = s.tl := rfl

@[simp] theorem closeGate_geo (s : State) : (closeGate s).geo = s.geo := rfl

@[simp] theorem closeGate_clock (s : State) : (closeGate s).clock = s.clock := rfl

@[simp] theorem closeGate_slots (s : State) : (closeGate s).slots = s.slots := rfl

@[simp] theorem closeGate_order (s : State) : (closeGate s).order = s.order := rfl

@[simp] theorem closeGate_jog (s : State) : (closeGate s).jog = s.jog := rfl

@[simp] theorem closeGate_fetch (s : State) : (closeGate s).fetch = s.fetch := rfl

@[simp] theorem closeGate_banks (s : State) : (closeGate s).banks = s.banks := rfl

@[simp] theorem closeGate_pre (s : State) : (closeGate s).pre = s.pre := rfl

@[simp] theorem closeGate_conf (s : State) : (closeGate s).conf = s.conf := rfl

@[simp] theorem closeGate_conceal (s : State) : (closeGate s).conceal = s.conceal := rfl

@[simp] theorem closeGate_mon (s : State) : (closeGate s).mon = s.mon := rfl

@[simp] theorem closeGate_out (s : State) : (closeGate s).out = s.out := rfl

@[simp] theorem closeGate_intake (s : State) : (closeGate s).intake = s.intake := rfl

@[simp] theorem closeGate_coding (s : State) : (closeGate s).coding = s.coding := rfl

@[simp] theorem closeGate_lastCoded (s : State) : (closeGate s).lastCoded = s.lastCoded := rfl

@[simp] theorem closeGate_judge (s : State) : (closeGate s).judge = s.judge := rfl

@[simp] theorem closeGate_manual (s : State) : (closeGate s).manual = s.manual := rfl

@[simp] theorem closeGate_sources (s : State) : (closeGate s).sources = s.sources := rfl

@[simp] theorem closeGate_guard (s : State) : (closeGate s).guard = s.guard := rfl

@[simp] theorem closeGate_guardRelease (s : State) : (closeGate s).guardRelease = s.guardRelease := rfl

@[simp] theorem closeGate_eng (s : State) : (closeGate s).eng = s.eng := rfl

@[simp] theorem closeGate_cues (s : State) : (closeGate s).cues = s.cues := rfl

@[simp] theorem closeGate_punchA (s : State) : (closeGate s).punchA = s.punchA := rfl

@[simp] theorem closeGate_punchB (s : State) : (closeGate s).punchB = s.punchB := rfl

/-! ### Reading back one of the three ports -/

@[simp] theorem PerPort.get_set_same {α : Type} (x : PerPort α) (p : Port) (a : α) : (x.set p a).get p = a := by
  cases p <;> rfl

@[simp] theorem PerPort.get_set_other {α : Type} (x : PerPort α) {p q : Port} (a : α) (h : q ≠ p) :
    (x.set p a).get q = x.get q := by
  cases p <;> cases q <;> first | rfl | exact absurd rfl h

@[simp] theorem Banks.get_set_same (b : Banks) (n : BankId) (x : Bank) : (b.set n x).get n = x := by
  cases n <;> rfl

@[simp] theorem Banks.get_set_other (b : Banks) {n m : BankId} (x : Bank) (h : m ≠ n) : (b.set n x).get m = b.get m := by
  cases n <;> cases m <;> first | rfl | exact absurd rfl h

end Sys2Proof.Machine
end

