-- ==== Sys2Proof/Laws/Ops.lean ====
section
/-! SUPPORT. What the shared operations do, said once: taking a command, replies, slots, notices and the counts of bytes. -/

set_option Elab.async false

namespace Sys2Proof.Machine

/-! ### Taking a command (R182, R183) -/

theorem command_permitted {p : Port} {cmd : Nat} (hp : permitted p cmd = true) (body : State → State × Reply) (s : State) :
    command p cmd true body s = answer p (body s).2 (body s).1 := by
  simp [command, hp]

theorem command_fits {p : Port} {cmd : Nat} {fits : Bool} (hp : permitted p cmd = true) (hf : fits = true)
    (body : State → State × Reply) (s : State) : command p cmd fits body s = answer p (body s).2 (body s).1 := by
  subst hf
  exact command_permitted hp body s

theorem command_privilege {p : Port} {cmd : Nat} (hp : permitted p cmd = false) (fits : Bool) (body : State → State × Reply)
    (s : State) : command p cmd fits body s = answer p (refuse .privilege) s := by
  simp [command, hp]

theorem command_range {p : Port} {cmd : Nat} (hp : permitted p cmd = true) (body : State → State × Reply) (s : State) :
    command p cmd false body s = answer p (refuse .range) s := by
  simp [command, hp]

/-- All that taking a command can do: a refusal that changes only the framer, or the body with its reply. -/
theorem command_cases (p : Port) (cmd : Nat) (fits : Bool) (body : State → State × Reply) (s : State) :
    (∃ r : Result, command p cmd fits body s = answer p (refuse r) s)
      ∨ command p cmd fits body s = answer p (body s).2 (body s).1 := by
  unfold command
  split
  · exact Or.inl ⟨_, rfl⟩
  · split
    · exact Or.inl ⟨_, rfl⟩
    · exact Or.inr rfl

theorem setting_taken {ok : Bool} (h : ok = true) (f : State → State) (s : State) : setting ok f s = (f s, done) := by
  simp [setting, h]

theorem setting_refused {ok : Bool} (h : ok = false) (f : State → State) (s : State) : setting ok f s = (s, refuse .range) := by
  simp [setting, h]

/-- The Deck Port may issue every command (R183). -/
@[simp] theorem permitted_deck (cmd : Nat) : permitted .deck cmd = true := rfl

/-! ### Counts of bytes (R184, R191) -/

@[simp] theorem be_length (n x : Nat) : (be n x).length = n := by
  induction n with
  | zero => rfl
  | succ n ih => simp [be, ih]

@[simp] theorem flagByte_length (b : Bool) : (flagByte b).length = 1 := rfl

theorem optBytes_length (n : Nat) {o : Option (List Byte)} (h : ∀ l, o = some l → l.length = n) :
    (optBytes n o).length = n + 1 := by
  cases o with
  | none => simp [optBytes]
  | some l => simp [optBytes, h l rfl]

@[simp] theorem addrBytes_length (a : Nat) : (addrBytes a).length = 3 := be_length ..

@[simp] theorem tcBytes_length (t : Timecode) : (tcBytes t).length = 4 := by simp [tcBytes]

@[simp] theorem pointBytes_length (p : Point) : (pointBytes p).length = 5 := by simp [pointBytes]

@[simp] theorem markBytes_length (m : CopyMark) : (markBytes m).length = 2 := by simp [markBytes]

@[simp] theorem sampleBytes_length (v : Sample) : (sampleBytes v).length = 3 := be_length ..

@[simp] theorem fracBytes_length (f : Frac) : (fracBytes f).length = 8 := by simp [fracBytes]

@[simp] theorem headerBytes_length (h : Header) : (headerBytes h).length = 8 := rfl

@[simp] theorem noticeBytes_length (n : Notice) : (noticeBytes n).length = 7 := rfl

/-- A reply is its code, its data length and its data (R191). -/
theorem Reply.bytes_length (r : Reply) : r.bytes.length = r.data.length + 2 := by
  simp [Reply.bytes]
  omega

/-- A function applied to every place is applied at each place. -/
@[simp] theorem mapPlaces_get {α β : Type} {n : Nat} (f : α → β) (v : Vector α n) (i : Fin n) : (mapPlaces f v)[i] = f v[i] := by
  simp [mapPlaces]

/-! ### Slots -/

theorem setSlot_get_same (i : SlotId) (x : Slot) (s : State) : (setSlot i x s).slots[i] = x := by
  simp [setSlot]

theorem setSlot_get_other {i j : SlotId} (h : i ≠ j) (x : Slot) (s : State) : (setSlot i x s).slots[j] = s.slots[j] := by
  simp only [setSlot, Fin.getElem_fin]
  exact Vector.getElem_set_ne i.isLt j.isLt fun e => h (Fin.ext e)

theorem modifySlot_get_same (i : SlotId) (f : Slot → Slot) (s : State) : (modifySlot i f s).slots[i] = f s.slots[i] :=
  setSlot_get_same ..

theorem modifySlot_get_other {i j : SlotId} (h : i ≠ j) (f : Slot → Slot) (s : State) :
    (modifySlot i f s).slots[j] = s.slots[j] := setSlot_get_other h ..

theorem releaseSlot_get_same (i : SlotId) (s : State) : (releaseSlot i s).slots[i] = Slot.reset :=
  setSlot_get_same i Slot.reset s

theorem releaseSlot_get_other {i j : SlotId} (h : i ≠ j) (s : State) : (releaseSlot i s).slots[j] = s.slots[j] :=
  setSlot_get_other h Slot.reset s

/-- A release, or its deferral, touches no other slot (R31). -/
theorem releaseOrDue_get_other {i j : SlotId} (h : i ≠ j) (s : State) : (releaseOrDue i s).slots[j] = s.slots[j] := by
  unfold releaseOrDue
  split
  · exact modifySlot_get_other h ..
  · exact releaseSlot_get_other h ..

/-- A deferred release that is no longer blocked empties its slot; nothing else changes a slot (R31). -/
theorem settleDue_get (i j : SlotId) (s : State) :
    (settleDue i s).slots[j] = if j = i ∧ s.slots[i].due = true ∧ blocked s i = false then Slot.reset else s.slots[j] := by
  unfold settleDue
  cases hd : s.slots[i].due <;> cases hb : blocked s i
  · exact (if_neg fun h => nomatch h.2.1).symm
  · exact (if_neg fun h => nomatch h.2.1).symm
  · by_cases hj : j = i
    · subst hj
      exact (releaseSlot_get_same ..).trans (if_pos ⟨rfl, rfl, rfl⟩).symm
    · exact (releaseSlot_get_other (fun h => hj h.symm) s).trans (if_neg fun h => hj h.1).symm
  · exact (if_neg fun h => nomatch h.2.2).symm

/-! ### Notices (R196, R199) -/

/-- A notice that is not routed to a port leaves its queue; a routed one is taken by it (R196, R199). -/
theorem post_get (k : NoticeKind) (n : Nat) (a : Option Nat) (c : Option Result) (s : State) (p : Port) :
    (post k n a c s).notices.get p
      = if (s.routes[kindIndex k]).get p = true then (s.notices.get p).take k n a c else s.notices.get p := by
  cases p <;> rfl

/-! ### The guard table (R126) -/

/-- Without invert an address is guarded when some span includes it, with invert when none does (R126). -/
theorem guarded_eq (g : Guard) (a : Nat) : guarded g a = true ↔ ((g.places.toList.any (inSpan a)) = true ↔ g.invert = false) := by
  unfold guarded
  cases g.places.toList.any (inSpan a) <;> cases g.invert <;> simp

end Sys2Proof.Machine
end

