-- ==== Sys2Proof/Laws/Jog.lean ====
section
/-! SUPPORT. The jog window: what bringing the pins into the condition of R34 does to each slot, to the order and to the rest of the state. -/

set_option Elab.async false

namespace Sys2Proof.Machine

/-! ### The newest slot with a property -/

theorem getLast?_filter_eq_some_iff {α : Type} (p : α → Bool) (x : α) (l : List α) :
    (l.filter p).getLast? = some x ↔ p x = true ∧ ∃ before after, l = before ++ x :: after ∧ ∀ y ∈ after, ¬(p y = true) := by
  induction l with
  | nil => simp
  | cons a t ih =>
    by_cases ha : p a = true
    · rw [List.filter_cons_of_pos ha]
      rcases h : (t.filter p).getLast? with _ | y
      · have hn : t.filter p = [] := List.getLast?_eq_none_iff.1 h
        have hall : ∀ y ∈ t, ¬(p y = true) := by simpa [List.filter_eq_nil_iff] using hn
        rw [hn]
        constructor
        · intro e
          obtain rfl : a = x := by simpa using e
          exact ⟨ha, [], t, rfl, hall⟩
        · rintro ⟨hx, before, after, e, _⟩
          cases before with
          | nil => simp only [List.nil_append, List.cons.injEq] at e; simp [e.1]
          | cons b bs =>
            simp only [List.cons_append, List.cons.injEq] at e
            exact absurd hx (hall x (by rw [e.2]; simp))
      · have hne : t.filter p ≠ [] := by intro hn; simp [hn] at h
        rw [List.getLast?_cons, h]
        rw [h] at ih
        constructor
        · intro e
          obtain rfl : y = x := by simpa using e
          obtain ⟨hy, before, after, e', hafter⟩ := ih.1 rfl
          exact ⟨hy, a :: before, after, by rw [e', List.cons_append], hafter⟩
        · rintro ⟨hx, before, after, e, hafter⟩
          cases before with
          | nil =>
            simp only [List.nil_append, List.cons.injEq] at e
            refine absurd ?_ hne
            rw [List.filter_eq_nil_iff]
            rw [e.2]
            exact hafter
          | cons b bs =>
            simp only [List.cons_append, List.cons.injEq] at e
            have := ih.2 ⟨hx, bs, after, e.2, hafter⟩
            simpa using this
    · rw [List.filter_cons_of_neg ha, ih]
      constructor
      · rintro ⟨hx, before, after, e, hafter⟩
        exact ⟨hx, a :: before, after, by rw [e, List.cons_append], hafter⟩
      · rintro ⟨hx, before, after, e, hafter⟩
        cases before with
        | nil =>
          simp only [List.nil_append, List.cons.injEq] at e
          exact absurd (e.1 ▸ hx) ha
        | cons b bs =>
          simp only [List.cons_append, List.cons.injEq] at e
          exact ⟨hx, bs, after, e.2, hafter⟩

/-- A lookup by address gives a slot exactly when it is the newest CONCEALED PREREAD slot of the address (R26, R34). -/
theorem lookup_eq_some_iff (s : State) (a : Nat) (i : SlotId) : lookup s a = some i ↔ newestAt s a i := by
  unfold lookup newest newestAt
  rw [getLast?_filter_eq_some_iff]
  simp

/-- A slot is to be pinned exactly when the window covers it (R34). -/
theorem wantPin_iff (s : State) (w : Nat) (i : SlotId) :
    wantPin s w i = true ↔ ∃ a, w ≤ a ∧ a < w + s.jog.length ∧ newestAt s a i := by
  unfold wantPin
  cases h : s.slots[i].addr with
  | none =>
    constructor
    · intro e
      cases e
    · rintro ⟨a, _, _, h3⟩
      exact absurd (h.symm.trans h3.1.2) (by simp)
  | some b =>
    simp only [Bool.and_eq_true, decide_eq_true_eq, beq_iff_eq, lookup_eq_some_iff]
    constructor
    · rintro ⟨⟨h1, h2⟩, h3⟩
      exact ⟨b, h1, h2, h3⟩
    · rintro ⟨a, h1, h2, h3⟩
      obtain rfl : b = a := Option.some.inj (h.symm.trans h3.1.2)
      exact ⟨⟨h1, h2⟩, h3⟩

/-! ### Releasing what is due -/

/-- A slot that is due and that nothing defers (R31). -/
def releasable (s : State) (i : SlotId) : Bool := s.slots[i].due && !blocked s i

theorem settleDue_eq (i : SlotId) (s : State) : settleDue i s = if releasable s i then releaseSlot i s else s := rfl

theorem releaseSlot_frame (i : SlotId) (s : State) : { releaseSlot i s with slots := s.slots, order := s.order } = s := rfl

/-- Every slot of a list is settled: those that are due and that nothing defers are emptied (R31). -/
def settleAll (l : List SlotId) (s : State) : State := l.foldl (fun t i => settleDue i t) s

theorem settleAll_cons (i : SlotId) (l : List SlotId) (s : State) : settleAll (i :: l) s = settleAll l (settleDue i s) := rfl

theorem settleDue_frame (i : SlotId) (s : State) : { settleDue i s with slots := s.slots, order := s.order } = s := by
  rw [settleDue_eq]
  split <;> rfl

theorem releasable_settleDue (i j : SlotId) (s : State) :
    releasable (settleDue i s) j = (releasable s j && !(j == i)) := by
  rw [settleDue_eq]
  by_cases hr : releasable s i = true
  · rw [if_pos hr]
    by_cases hj : j = i
    · subst hj
      have hd : (releaseSlot j s).slots[j].due = false := by rw [releaseSlot_get_same]; rfl
      simp only [releasable] at *
      rw [hd]
      simp
    · have hg : (releaseSlot i s).slots[j] = s.slots[j] := releaseSlot_get_other (fun h => hj h.symm) s
      have hb : blocked (releaseSlot i s) j = blocked s j := by
        unfold blocked
        rw [hg]
        rfl
      simp [releasable, hg, hb, hj]
  · rw [if_neg hr]
    by_cases hj : j = i
    · subst hj
      simp [hr]
    · simp [hj]

/-- What settling a list does to each slot (R31). -/
theorem settleAll_get (l : List SlotId) (s : State) (j : SlotId) :
    (settleAll l s).slots[j] = if j ∈ l ∧ releasable s j = true then Slot.reset else s.slots[j] := by
  induction l generalizing s with
  | nil => simp [settleAll]
  | cons i t ih =>
    rw [settleAll_cons, ih, releasable_settleDue]
    have hg : (settleDue i s).slots[j] = if j = i ∧ releasable s i = true then Slot.reset else s.slots[j] := by
      rw [settleDue_get]
      simp [releasable]
    rw [hg]
    by_cases hj : j = i
    · subst hj
      simp
    · simp [hj]

/-- Settling a list leaves everything but the slots and the order. -/
theorem settleAll_frame (l : List SlotId) (s : State) : { settleAll l s with slots := s.slots, order := s.order } = s := by
  induction l generalizing s with
  | nil => rfl
  | cons i t ih =>
    have h1 := congrArg (fun u : State => { u with slots := s.slots, order := s.order }) (ih (settleDue i s))
    exact h1.trans (settleDue_frame i s)

theorem settleAll_jog (l : List SlotId) (s : State) : (settleAll l s).jog = s.jog := by
  have h := settleAll_frame l s
  exact (congrArg State.jog h :)

theorem settleAll_tl (l : List SlotId) (s : State) : (settleAll l s).tl = s.tl := by
  have h := settleAll_frame l s
  exact (congrArg State.tl h :)

theorem settleAll_clock (l : List SlotId) (s : State) : (settleAll l s).clock = s.clock := by
  have h := settleAll_frame l s
  exact (congrArg State.clock h :)

theorem settleAll_fetch (l : List SlotId) (s : State) : (settleAll l s).fetch = s.fetch := by
  have h := settleAll_frame l s
  exact (congrArg State.fetch h :)

/-- Settling a list only takes released slots out of the order: a property that no released slot has filters it as before. -/
theorem settleAll_order (l : List SlotId) (s : State) (p : SlotId → Bool) (h : ∀ j, releasable s j = true → p j = false) :
    (settleAll l s).order.filter p = s.order.filter p := by
  induction l generalizing s with
  | nil => rfl
  | cons i t ih =>
    rw [settleAll_cons, ih]
    · rw [settleDue_eq]
      split
      · rename_i hr
        show (s.order.erase i).filter p = _
        have hp := h i hr
        clear ih h hr
        induction s.order with
        | nil => rfl
        | cons a r ihr =>
          by_cases ha : a = i
          · subst ha
            rw [List.erase_cons_head, List.filter_cons_of_neg (by simp [hp])]
          · rw [List.erase_cons_tail (by simpa using ha)]
            simp only [List.filter_cons, ihr]
      · rfl
    · intro j hj
      rw [releasable_settleDue] at hj
      exact h j (by simp_all)

theorem settleAll_sublist (l : List SlotId) (s : State) : (settleAll l s).order.Sublist s.order := by
  induction l generalizing s with
  | nil => exact List.Sublist.refl _
  | cons i t ih =>
    refine (ih _).trans ?_
    show (settleDue i s).order.Sublist s.order
    rw [settleDue_eq]
    split
    · exact List.erase_sublist
    · exact List.Sublist.refl _

/-- A released slot leaves the order (R31). -/
theorem settleAll_notMem {l : List SlotId} {s : State} {i : SlotId} (hn : s.order.Nodup) (hi : i ∈ l) (hr : releasable s i = true) :
    i ∉ (settleAll l s).order := by
  induction l generalizing s with
  | nil => cases hi
  | cons k t ih =>
    rw [settleAll_cons]
    by_cases hk : i = k
    · subst hk
      refine fun hmem => absurd ((settleAll_sublist t _).subset hmem) ?_
      rw [settleDue_eq, if_pos hr]
      exact hn.not_mem_erase
    · refine ih (hn.sublist (settleAll_sublist [k] s)) ?_ ?_
      · rcases List.mem_cons.1 hi with h | h
        exacts [absurd h hk, h]
      · rw [releasable_settleDue, hr]
        simp [hk]

theorem mem_slotIds (i : SlotId) : i ∈ slotIds := List.mem_finRange i

/-! ### Fetches (R38) -/

theorem fetching_iff (f : Fetch) (i : SlotId) : fetching f i = true ↔ ∃ q, f = .inFlight q ∧ q.slot = i := by
  cases f <;> simp [fetching]

/-- A fetch in flight of some port has the slot as its source (R38). -/
theorem beingFetched_iff (s : State) (i : SlotId) : beingFetched s i = true ↔ ∃ p f, s.fetch.get p = .inFlight f ∧ f.slot = i := by
  simp only [beingFetched, Bool.or_eq_true, fetching_iff]
  constructor
  · rintro ((⟨f, h⟩ | ⟨f, h⟩) | ⟨f, h⟩)
    exacts [⟨.deck, f, h⟩, ⟨.transport, f, h⟩, ⟨.studio, f, h⟩]
  · rintro ⟨p, f, h⟩
    cases p
    exacts [.inl (.inl ⟨f, h⟩), .inl (.inr ⟨f, h⟩), .inr ⟨f, h⟩]

/-! ### The pins (R34) -/

/-- The state with the pins of R34 for its window, nothing released yet. -/
def pinned (s : State) : State :=
  { s with slots := Vector.ofFn fun i => { s.slots[i] with pinned := match s.jog.window with
      | none => false
      | some w => wantPin s w i } }

theorem pinned_jog (s : State) : (pinned s).jog = s.jog := by simp only [pinned]

theorem pinned_tl (s : State) : (pinned s).tl = s.tl := by simp only [pinned]

theorem pinned_clock (s : State) : (pinned s).clock = s.clock := by simp only [pinned]

theorem pinned_fetch (s : State) : (pinned s).fetch = s.fetch := by simp only [pinned]

theorem pinned_order (s : State) : (pinned s).order = s.order := by simp only [pinned]

theorem syncPins_eq (s : State) : syncPins s = settleAll slotIds (pinned s) := rfl

theorem pinned_get (s : State) (i : SlotId) :
    (pinned s).slots[i] = { s.slots[i] with pinned := match s.jog.window with
      | none => false
      | some w => wantPin s w i } := by
  simp [pinned]

theorem pinned_iff (s : State) (i : SlotId) : (pinned s).slots[i].pinned = true ↔ windowCovers s s i := by
  rw [pinned_get]
  unfold windowCovers
  cases s.jog.window with
  | none => simp
  | some w => simp [wantPin_iff]

theorem syncPins_get (s : State) (i : SlotId) :
    (syncPins s).slots[i] = if releasable (pinned s) i = true then Slot.reset else (pinned s).slots[i] := by
  rw [syncPins_eq, settleAll_get]
  simp [mem_slotIds]

theorem syncPins_jog (s : State) : (syncPins s).jog = s.jog := by
  rw [syncPins_eq, settleAll_jog, pinned_jog]

theorem syncPins_tl (s : State) : (syncPins s).tl = s.tl := by
  rw [syncPins_eq, settleAll_tl, pinned_tl]

theorem syncPins_clock (s : State) : (syncPins s).clock = s.clock := by
  rw [syncPins_eq, settleAll_clock, pinned_clock]

theorem syncPins_fetch (s : State) : (syncPins s).fetch = s.fetch := by
  rw [syncPins_eq, settleAll_fetch, pinned_fetch]

/-- A slot that the window covers keeps its pin and is not released. -/
theorem releasable_covered {s : State} {i : SlotId} (h : windowCovers s s i) : releasable (pinned s) i = false := by
  have hp := (pinned_iff s i).2 h
  unfold releasable blocked
  rw [hp]
  simp

/-- Releasing slots that are not the newest of an address, and moving pins, leaves the newest slot of the address. -/
theorem newestAt_released {s u : State} {gone g : SlotId → Bool} {a : Nat}
    (hslots : ∀ j, u.slots[j] = if gone j = true then Slot.reset else { s.slots[j] with pinned := g j })
    (horder : ∀ p : SlotId → Bool, (∀ j, gone j = true → p j = false) → u.order.filter p = s.order.filter p)
    (hkeep : ∀ k, newestAt s a k → gone k = false) (i : SlotId) : newestAt u a i ↔ newestAt s a i := by
  have hmatch : ∀ j, (u.slots[j].isPreRead && u.slots[j].addr == some a)
      = ((s.slots[j].isPreRead && s.slots[j].addr == some a) && !gone j) := by
    intro j
    rw [hslots]
    cases gone j <;> simp [Slot.isPreRead, Slot.reset]
  have hnew : lookup u a = (s.order.filter fun j => (s.slots[j].isPreRead && s.slots[j].addr == some a) && !gone j).getLast? := by
    rw [← horder _ fun j hj => by rw [hj]; simp]
    unfold lookup newest
    simp only [hmatch]
  have up : ∀ k, newestAt s a k → lookup u a = some k := by
    intro k hk
    rw [hnew, getLast?_filter_eq_some_iff]
    have hg := hkeep k hk
    obtain ⟨hm, l, r, e, hall⟩ := hk
    refine ⟨?_, l, r, e, fun y hy hy' => hall y hy ?_⟩
    · rw [hm.1, hm.2, hg]
      simp
    · simp only [Bool.and_eq_true, beq_iff_eq] at hy'
      exact hy'.1
  rw [← lookup_eq_some_iff, ← lookup_eq_some_iff]
  constructor
  · intro h
    have hi := h
    rw [hnew, getLast?_filter_eq_some_iff] at hi
    obtain ⟨hm, l, r, e, -⟩ := hi
    have hmem : i ∈ s.order.filter fun j => s.slots[j].isPreRead && s.slots[j].addr == some a :=
      List.mem_filter.2 ⟨by rw [e]; simp, ((Bool.and_eq_true _ _).mp hm).1⟩
    cases hk : lookup s a with
    | none => exact absurd (List.getLast?_eq_none_iff.1 hk) (List.ne_nil_of_mem hmem)
    | some k => exact ((up k ((lookup_eq_some_iff _ _ _).1 hk)).symm.trans h)
  · exact fun h => up i ((lookup_eq_some_iff _ _ _).1 h)

/-- The newest CONCEALED PREREAD slot of an address in the window is the same after the pins have been brought into their condition. -/
theorem syncPins_newest {s : State} {w a : Nat} (hw : s.jog.window = some w) (h1 : w ≤ a) (h2 : a < w + s.jog.length) (i : SlotId) :
    newestAt (syncPins s) a i ↔ newestAt s a i :=
  newestAt_released (fun j => (syncPins_get s j).trans (by rw [pinned_get]))
    (fun p h => by
      rw [syncPins_eq, settleAll_order _ _ _ h, pinned_order])
    (fun _ hk => releasable_covered ⟨w, a, hw, h1, h2, hk⟩) i

/-- Which slots are pinned once the pins have been brought into their condition (R34). -/
theorem syncPins_pinned (s : State) (i : SlotId) : (syncPins s).slots[i].pinned = true ↔ windowCovers s s i := by
  rw [← pinned_iff, syncPins_get]
  cases hr : releasable (pinned s) i with
  | false => simp
  | true =>
    have : (pinned s).slots[i].pinned = false := by
      cases hp : (pinned s).slots[i].pinned with
      | false => rfl
      | true => rw [releasable_covered ((pinned_iff s i).1 hp)] at hr; cases hr
    rw [if_pos rfl, this]
    simp [Slot.reset]

/-- Nothing that is due and not deferred is left. -/
theorem syncPins_due (s : State) (i : SlotId) (h : (syncPins s).slots[i].due = true) : blocked (syncPins s) i = true := by
  unfold blocked beingFetched
  rw [syncPins_fetch]
  rw [syncPins_get] at h ⊢
  cases hr : releasable (pinned s) i with
  | true => rw [hr, if_pos rfl] at h; cases h
  | false =>
    rw [hr, if_neg (by simp)] at h
    rw [if_neg (by simp)]
    simp only [releasable, h, Bool.true_and, Bool.not_eq_false'] at hr
    exact hr

/-- The pins after they have been brought into their condition, with the window where the timeline puts it (R31, R34). -/
theorem syncPins_windowPins {s : State} (h : windowFollows s) : windowPins (syncPins s) := by
  refine ⟨?_, fun i => ?_, syncPins_due s⟩
  · unfold windowFollows at *
    rw [syncPins_jog, syncPins_tl]
    exact h
  · rw [syncPins_pinned]
    unfold windowCovers
    rw [syncPins_jog]
    constructor
    · rintro ⟨w, a, hw, h1, h2, h3⟩
      exact ⟨w, a, hw, h1, h2, (syncPins_newest hw h1 h2 i).2 h3⟩
    · rintro ⟨w, a, hw, h1, h2, h3⟩
      exact ⟨w, a, hw, h1, h2, (syncPins_newest hw h1 h2 i).1 h3⟩

/-- What bringing the pins into their condition does to each slot (R31, R34). -/
theorem syncPins_settled (s : State) (i : SlotId) : pinSettled s (syncPins s) i := by
  have hrel : releasable (pinned s) i = true
      ↔ s.slots[i].due = true ∧ s.slots[i].isHeld = false ∧ (pinned s).slots[i].pinned = false ∧ beingFetched s i = false := by
    have hb : beingFetched (pinned s) i = beingFetched s i := by unfold beingFetched; rw [pinned_fetch]
    have hd : (pinned s).slots[i].due = s.slots[i].due := by rw [pinned_get]
    have hh : (pinned s).slots[i].isHeld = s.slots[i].isHeld := by rw [pinned_get]; rfl
    unfold releasable blocked
    rw [hb, hd, hh]
    simp [and_assoc]
  have hp : (syncPins s).slots[i].pinned = (pinned s).slots[i].pinned :=
    Bool.eq_iff_iff.2 ((syncPins_pinned s i).trans (pinned_iff s i).symm)
  unfold pinSettled
  rw [hp, ← beingFetched_iff]
  refine ⟨fun h => ?_, fun h => ?_⟩
  · have hr : ¬(releasable (pinned s) i = true) := by
      rw [hrel]
      rintro ⟨h1, h2, h3, h4⟩
      rw [h1, h2, h3, h4] at h
      simp at h
    rw [syncPins_get, if_neg hr, pinned_get]
  · have hr : releasable (pinned s) i = true := by
      rw [hrel]
      simp only [not_or, Bool.not_eq_false, Bool.not_eq_true] at h
      exact ⟨h.1, h.2.1, h.2.2.2, h.2.2.1⟩
    refine ⟨by rw [syncPins_get, if_pos hr], fun hn => ?_⟩
    rw [syncPins_eq]
    exact settleAll_notMem (by rw [pinned_order]; exact hn) (mem_slotIds i) hr

/-- The state with the window where the timeline puts it, and the scrub pointer with it. -/
def windowed (s : State) : State :=
  { s with jog := { s.jog with window := jogWindowAt s, pointer := match s.jog.window, jogWindowAt s with
      | none, some f => formedPointer s f
      | _, _ => s.jog.pointer } }

theorem jogSync_eq (s : State) : jogSync s = syncPins (windowed s) := by
  unfold jogSync windowed
  rfl

/-- The window forms, moves or ends with the timeline, and the pins with it (R34). -/
theorem jogSync_windowPins (s : State) : windowPins (jogSync s) := by
  rw [jogSync_eq]
  apply syncPins_windowPins
  show jogWindowAt s = _
  unfold jogWindowAt
  cases h : s.tl.state <;> simp [windowed, TlState.placed, h]

/-- The scrub pointer with it (R35). -/
theorem jogSync_scrubFollows (s : State) : scrubFollows s (jogSync s) := by
  unfold scrubFollows
  rw [jogSync_eq, syncPins_jog, syncPins_tl, syncPins_clock]
  refine ⟨rfl, ?_⟩
  unfold windowed
  dsimp only
  cases s.jog.window <;> cases jogWindowAt s <;> rfl

end Sys2Proof.Machine
end

