-- ==== Sys2Proof/Laws/Memory.lean ====
section
/-! SUPPORT. The canonical form of the buffers: every operation on a buffer keeps it, and what a write reads back as. -/

set_option Elab.async false

namespace Sys2Proof.Machine

/-- Every listed place lies at or above `a`. -/
def Memory.from (m : Memory) (a : Nat) : Prop := ∀ e ∈ m, a ≤ e.1

/-- The canonical form as a pairwise order and the absence of listed zeros. -/
def Memory.Sorted (m : Memory) : Prop := List.Pairwise (fun x y : Nat × Sample => x.1 < y.1) m ∧ ∀ e ∈ m, e.2 ≠ 0

theorem Memory.wf_iff_sorted : ∀ m : Memory, m.wf = true ↔ m.Sorted
  | [] => by simp [Memory.wf, Memory.Sorted]
  | [(a, v)] => by simp [Memory.wf, Memory.Sorted]
  | (a, v) :: (b, w) :: t => by
    have ih := Memory.wf_iff_sorted ((b, w) :: t)
    simp only [Memory.wf, Bool.and_eq_true, bne_iff_ne, ne_eq, decide_eq_true_eq, ih, Memory.Sorted, List.pairwise_cons,
      List.mem_cons, forall_eq_or_imp]
    constructor
    · rintro ⟨⟨hv, hab⟩, ⟨h1, h2⟩, h3, h4⟩
      exact ⟨⟨⟨hab, fun e he => lt_trans hab (h1 e he)⟩, h1, h2⟩, hv, h3, h4⟩
    · rintro ⟨⟨⟨hab, _⟩, h1, h2⟩, hv, h3, h4⟩
      exact ⟨⟨hv, hab⟩, ⟨h1, h2⟩, h3, h4⟩

theorem Memory.place_bounds : ∀ (a : Nat) (l : List Sample), ∀ e ∈ Memory.place a l, a ≤ e.1 ∧ e.1 < a + l.length ∧ e.2 ≠ 0
  | _, [] => by simp [Memory.place]
  | a, v :: t => by
    intro e he
    have ih := Memory.place_bounds (a + 1) t
    unfold Memory.place at he
    split at he
    · obtain ⟨h1, h2, h3⟩ := ih e he
      simp only [List.length_cons]
      exact ⟨by omega, by omega, h3⟩
    · rename_i hv
      rcases List.mem_cons.mp he with rfl | he
      · exact ⟨le_refl _, by simp, hv⟩
      · obtain ⟨h1, h2, h3⟩ := ih e he
        simp only [List.length_cons]
        exact ⟨by omega, by omega, h3⟩

theorem Memory.place_sorted : ∀ (a : Nat) (l : List Sample), (Memory.place a l).Sorted
  | _, [] => by simp [Memory.place, Memory.Sorted]
  | a, v :: t => by
    have ih := Memory.place_sorted (a + 1) t
    unfold Memory.place
    split
    · exact ih
    · rename_i hv
      refine ⟨List.pairwise_cons.mpr ⟨fun e he => ?_, ih.1⟩, fun e he => ?_⟩
      · exact lt_of_lt_of_le (Nat.lt_succ_self a) (Memory.place_bounds (a + 1) t e he).1
      · rcases List.mem_cons.mp he with rfl | he
        · exact hv
        · exact ih.2 e he

theorem Memory.splice_sorted {m : Memory} (h : m.Sorted) (a : Nat) (l : List Sample) : (m.splice a l).Sorted := by
  unfold Memory.splice
  refine ⟨?_, fun e he => ?_⟩
  · rw [List.pairwise_append, List.pairwise_append]
    refine ⟨⟨h.1.filter _, (Memory.place_sorted a l).1, fun x hx y hy => ?_⟩, h.1.filter _, fun x hx y hy => ?_⟩
    · have h1 := (List.mem_filter.mp hx).2
      have h2 := (Memory.place_bounds a l y hy).1
      simp only [decide_eq_true_eq] at h1
      exact lt_of_lt_of_le h1 h2
    · have h2 := (List.mem_filter.mp hy).2
      simp only [decide_eq_true_eq] at h2
      rcases List.mem_append.mp hx with hx | hx
      · have h1 := (List.mem_filter.mp hx).2
        simp only [decide_eq_true_eq] at h1
        omega
      · have h1 := (Memory.place_bounds a l x hx).2.1
        omega
  · rcases List.mem_append.mp he with he | he
    · rcases List.mem_append.mp he with he | he
      · exact h.2 e (List.mem_filter.mp he).1
      · exact (Memory.place_bounds a l e he).2.2
    · exact h.2 e (List.mem_filter.mp he).1

theorem Memory.place_wf (a : Nat) (l : List Sample) : (Memory.place a l).wf = true :=
  (Memory.wf_iff_sorted _).mpr (Memory.place_sorted a l)

theorem Memory.splice_wf {m : Memory} (h : m.wf = true) (a : Nat) (l : List Sample) : (m.splice a l).wf = true :=
  (Memory.wf_iff_sorted _).mpr (Memory.splice_sorted ((Memory.wf_iff_sorted _).mp h) a l)

theorem Memory.write_wf {m : Memory} (h : m.wf = true) (a : Nat) (v : Sample) : (m.write a v).wf = true :=
  Memory.splice_wf h a [v]

theorem putPair_wf {m : Memory} (h : m.wf = true) (r : Rate) (i : Nat) (p : SamplePair) : (putPair m r i p).wf = true :=
  Memory.write_wf (Memory.write_wf h _ _) _ _

theorem putPairs_wf : ∀ (l : List SamplePair) {m : Memory} (_ : m.wf = true) (r : Rate) (i : Nat), (putPairs m r i l).wf = true
  | [], _, h, _, _ => h
  | _ :: t, _, h, r, i => putPairs_wf t (putPair_wf h r i _) r (i + 1)

theorem storePairs_wf : ∀ (l : List SamplePair) (len : Nat) {m : Memory} (_ : m.wf = true) (i : Nat),
    (storePairs len m i l).wf = true
  | [], _, _, h, _ => h
  | _ :: t, len, _, h, _ => storePairs_wf t len (Memory.write_wf (Memory.write_wf h _ _) _ _) _

theorem putChannel_wf : ∀ (l : List Sample) (r : Rate) (c : Chan) (i : Nat) {m : Memory} (_ : m.wf = true),
    (putChannel r c i l m).wf = true
  | [], _, _, _, _, h => h
  | _ :: t, r, c, i, _, h => putChannel_wf t r c (i + 1) (Memory.write_wf h _ _)

theorem applyRebuild_wf (l : List (Nat × List Sample)) {m : Memory} (e : Vector SectorEntry 10) (h : m.wf = true) :
    (applyRebuild l m e).1.wf = true := by
  unfold applyRebuild
  induction l generalizing m e with
  | nil => exact h
  | cons x t ih => exact ih _ (Memory.splice_wf h _ _)

/-! ### Reading back -/

/-- The word at a place, as a search. -/
theorem Memory.read_eq_zero {m : Memory} {a : Nat} (h : ∀ e ∈ m, e.1 ≠ a) : m.read a = 0 := by
  induction m with
  | nil => rfl
  | cons e t ih =>
    unfold Memory.read
    rw [if_neg (h e (List.mem_cons_self ..))]
    exact ih fun x hx => h x (List.mem_cons_of_mem _ hx)

theorem Memory.read_append_left {m n : Memory} {a : Nat} (h : ∀ e ∈ n, e.1 ≠ a) : Memory.read (m ++ n) a = m.read a := by
  induction m with
  | nil => exact Memory.read_eq_zero h
  | cons e t ih =>
    show (if e.1 = a then e.2 else Memory.read (t ++ n) a) = (if e.1 = a then e.2 else Memory.read t a)
    rw [ih]

theorem Memory.read_append_right {m n : Memory} {a : Nat} (h : ∀ e ∈ m, e.1 ≠ a) : Memory.read (m ++ n) a = n.read a := by
  induction m with
  | nil => rfl
  | cons e t ih =>
    show (if e.1 = a then e.2 else Memory.read (t ++ n) a) = n.read a
    rw [if_neg (h e (List.mem_cons_self ..))]
    exact ih fun x hx => h x (List.mem_cons_of_mem _ hx)

theorem Memory.read_filter {m : Memory} {a : Nat} {f : Nat × Sample → Bool} (h : ∀ e ∈ m, e.1 = a → f e = true) :
    Memory.read (m.filter f) a = m.read a := by
  induction m with
  | nil => rfl
  | cons e t ih =>
    have ih' := ih fun x hx => h x (List.mem_cons_of_mem _ hx)
    by_cases hf : f e = true
    · rw [List.filter_cons_of_pos hf]
      show (if e.1 = a then e.2 else Memory.read (List.filter f t) a) = (if e.1 = a then e.2 else Memory.read t a)
      rw [ih']
    · rw [List.filter_cons_of_neg hf, ih']
      have : e.1 ≠ a := fun he => hf (h e (List.mem_cons_self ..) he)
      show Memory.read t a = (if e.1 = a then e.2 else Memory.read t a)
      rw [if_neg this]

theorem Memory.read_place : ∀ (a : Nat) (l : List Sample) (b : Nat), a ≤ b → Memory.read (Memory.place a l) b = l.getD (b - a) 0
  | _, [], _, _ => by simp [Memory.place, Memory.read]
  | a, v :: t, b, hab => by
    have ih := Memory.read_place (a + 1) t b
    unfold Memory.place
    rcases Nat.eq_or_lt_of_le hab with rfl | hlt
    · split
      · rename_i hv
        rw [Memory.read_eq_zero fun e he => by have := (Memory.place_bounds (a + 1) t e he).1; omega]
        simp [hv]
      · simp [Memory.read]
    · have hd : b - a = (b - (a + 1)) + 1 := by omega
      rw [hd, List.getD_cons_succ, ← ih (by omega)]
      split
      · rfl
      · show (if a = b then v else _) = _
        rw [if_neg (by omega)]

/-- Inside a splice the spliced word is read. -/
theorem Memory.read_splice_in (m : Memory) (a : Nat) (l : List Sample) (b : Nat) (h1 : a ≤ b) (h2 : b < a + l.length) :
    (m.splice a l).read b = l.getD (b - a) 0 := by
  unfold Memory.splice
  rw [Memory.read_append_left, Memory.read_append_right, Memory.read_place a l b h1]
  · intro e he
    have := (List.mem_filter.mp he).2
    simp only [decide_eq_true_eq] at this
    omega
  · intro e he
    have := (List.mem_filter.mp he).2
    simp only [decide_eq_true_eq] at this
    omega

/-- Outside a splice every place reads as before. -/
theorem Memory.read_splice_out (m : Memory) (a : Nat) (l : List Sample) (b : Nat) (h : b < a ∨ a + l.length ≤ b) :
    (m.splice a l).read b = m.read b := by
  unfold Memory.splice
  have hplace : ∀ e ∈ Memory.place a l, e.1 ≠ b := fun e he => by
    have := Memory.place_bounds a l e he
    omega
  rcases h with h | h
  · rw [Memory.read_append_left, Memory.read_append_left hplace, Memory.read_filter]
    · intro e _ he
      simp only [decide_eq_true_eq]
      omega
    · intro e he
      have := (List.mem_filter.mp he).2
      simp only [decide_eq_true_eq] at this
      omega
  · rw [Memory.read_append_right, Memory.read_filter]
    · intro e _ he
      simp only [decide_eq_true_eq]
      omega
    · intro e he
      rcases List.mem_append.mp he with he | he
      · have := (List.mem_filter.mp he).2
        simp only [decide_eq_true_eq] at this
        omega
      · exact hplace e he

theorem Memory.read_write_same (m : Memory) (a : Nat) (v : Sample) : (m.write a v).read a = v := by
  unfold Memory.write
  rw [Memory.read_splice_in m a [v] a (le_refl a) (by simp)]
  simp

theorem Memory.read_write_other (m : Memory) (a b : Nat) (v : Sample) (h : b ≠ a) : (m.write a v).read b = m.read b := by
  unfold Memory.write
  exact Memory.read_splice_out m a [v] b (by simp only [List.length_singleton]; omega)

end Sys2Proof.Machine
end

