-- ==== Sys2Proof/Laws/Move.lean ====
section
/-! SUPPORT. What the inner work of a step can do, said once: a `Move` keeps the settings and every law of Safety.lean; a `Calm` one
also leaves the timeline's record alone, unless it ends a lay.  They compose, and each shared operation is one. -/

set_option Elab.async false

set_option linter.unreachableTactic false
set_option linter.unusedTactic false

namespace Sys2Proof.Machine

/-- The inner work of a step, from `s` to `t`: the settings stay, and every law that held holds. -/
structure Move (s t : State) : Prop where
  settings : settingsOf t = settingsOf s
  notices : noticesOk s → noticesOk t
  tl : s.tl.ok → t.tl.ok
  gate : gateOk s → gateOk t
  banks : s.banks.ok → t.banks.ok
  eng : s.eng.ok → t.eng.ok
  buffers : buffersWf s → buffersWf t

theorem Move.refl (s : State) : Move s s := ⟨rfl, id, id, id, id, id, id⟩

theorem Move.trans {s t u : State} (h : Move s t) (k : Move t u) : Move s u :=
  ⟨k.settings.trans h.settings, fun x => k.notices (h.notices x), fun x => k.tl (h.tl x), fun x => k.gate (h.gate x),
   fun x => k.banks (h.banks x), fun x => k.eng (h.eng x), fun x => k.buffers (h.buffers x)⟩

theorem Move.ite {s t u : State} {c : Prop} [Decidable c] (h : c → Move s t) (k : ¬c → Move s u) :
    Move s (if c then t else u) := by
  split
  · exact h ‹_›
  · exact k ‹_›

theorem foldl_move {α : Type} {f : State → α → State} (h : ∀ s a, Move s (f s a)) (l : List α) (s : State) :
    Move s (l.foldl f s) := by
  induction l generalizing s with
  | nil => exact Move.refl s
  | cons a t ih => exact (h s a).trans (ih _)

/-- An update of the fields that the inner work of a step changes, with what the settings and the laws ask of each. -/
theorem Move.fields {s t : State} {fresh : Nat} {tl : Timeline} {clock : Clock} {order : List SlotId} {jog : Jog}
    {fetch : PerPort Fetch} {pre conf : Capture} {conceal : Conceal} {mon : Monitor} {out : Outputs} {intake : Intake}
    {coding : List CodingOp} {lastCoded : Option (Nat × Option Timecode)} {gate : Gate} {judge : List JudgeEntry}
    {sources : Sources} {eng : Engine} {cues : Vector Cue 24} {punchA punchB : Punch}
    (h : Move s t)
    (htl : tl.settings = t.tl.settings) (htl' : t.tl.ok → tl.ok)
    (hclock : clock.selection = t.clock.selection) (hclock' : clock.configured = t.clock.configured)
    (hjog : jog.length = t.jog.length) (hconceal : conceal.params = t.conceal.params) (hmon : mon.stored = t.mon.stored)
    (hgate : gate.faultLimit = t.gate.faultLimit) (hgate' : t.gate.ok t.guard → gate.ok t.guard)
    (hsources : sources.policy = t.sources.policy)
    (hdraft : eng.draft = t.eng.draft) (hversion : eng.version = t.eng.version) (hpreroll : eng.preroll = t.eng.preroll)
    (heng : t.eng.ok → eng.ok) (hpre : t.pre.wf → pre.wf) (hconf : t.conf.wf → conf.wf) :
    Move s { t with
      fresh := fresh, tl := tl, clock := clock, order := order, jog := jog, fetch := fetch, pre := pre, conf := conf,
      conceal := conceal, mon := mon, out := out, intake := intake, coding := coding, lastCoded := lastCoded, gate := gate,
      judge := judge, sources := sources, eng := eng, cues := cues, punchA := punchA, punchB := punchB } := by
  refine h.trans ⟨?_, id, htl', hgate', id, heng, fun hb => ⟨hb.1, hb.2.1, hpre hb.2.2.1, hconf hb.2.2.2⟩⟩
  unfold settingsOf
  simp only [htl, hclock, hclock', hjog, hconceal, hmon, hgate, hsources, hdraft, hversion, hpreroll]

/-- An update of the slots that keeps their audio in canonical form. -/
theorem Move.slots {s : State} {slots : Vector Slot Config.slotCount}
    (h : (∀ i : SlotId, s.slots[i].audio.wf = true) → ∀ i : SlotId, slots[i].audio.wf = true) :
    Move s { s with slots := slots } :=
  ⟨rfl, id, id, id, id, id, fun hb => ⟨h hb.1, hb.2⟩⟩

/-- A move that leaves the timeline's record alone, unless it ends a lay. -/
structure Calm (s t : State) : Prop where
  settings : settingsOf t = settingsOf s
  notices : noticesOk s → noticesOk t
  tl : s.tl.ok → t.tl.ok
  gate : gateOk s → gateOk t
  banks : s.banks.ok → t.banks.ok
  eng : s.eng.ok → t.eng.ok
  buffers : buffersWf s → buffersWf t
  still : s.tl.state ≠ .laying → t.tl = s.tl

theorem Calm.toMove {s t : State} (h : Calm s t) : Move s t :=
  ⟨h.settings, h.notices, h.tl, h.gate, h.banks, h.eng, h.buffers⟩

theorem Calm.refl (s : State) : Calm s s := ⟨rfl, id, id, id, id, id, id, fun _ => rfl⟩

theorem Calm.trans {s t u : State} (h : Calm s t) (k : Calm t u) : Calm s u :=
  ⟨k.settings.trans h.settings, fun x => k.notices (h.notices x), fun x => k.tl (h.tl x), fun x => k.gate (h.gate x),
   fun x => k.banks (h.banks x), fun x => k.eng (h.eng x), fun x => k.buffers (h.buffers x),
   fun x => (k.still (by rw [h.still x]; exact x)).trans (h.still x)⟩

theorem Calm.ite {s t u : State} {c : Prop} [Decidable c] (h : c → Calm s t) (k : ¬c → Calm s u) :
    Calm s (if c then t else u) := by
  split
  · exact h ‹_›
  · exact k ‹_›

theorem foldl_calm {α : Type} {f : State → α → State} (h : ∀ s a, Calm s (f s a)) (l : List α) (s : State) :
    Calm s (l.foldl f s) := by
  induction l generalizing s with
  | nil => exact Calm.refl s
  | cons a t ih => exact (h s a).trans (ih _)

/-- The same for a calm move. -/
theorem Calm.fields {s t : State} {fresh : Nat} {tl : Timeline} {clock : Clock} {order : List SlotId} {jog : Jog}
    {fetch : PerPort Fetch} {pre conf : Capture} {conceal : Conceal} {mon : Monitor} {out : Outputs} {intake : Intake}
    {coding : List CodingOp} {lastCoded : Option (Nat × Option Timecode)} {gate : Gate} {judge : List JudgeEntry}
    {sources : Sources} {eng : Engine} {cues : Vector Cue 24} {punchA punchB : Punch}
    (h : Calm s t)
    (htl : tl.settings = t.tl.settings) (htl' : t.tl.ok → tl.ok)
    (hclock : clock.selection = t.clock.selection) (hclock' : clock.configured = t.clock.configured)
    (hjog : jog.length = t.jog.length) (hconceal : conceal.params = t.conceal.params) (hmon : mon.stored = t.mon.stored)
    (hgate : gate.faultLimit = t.gate.faultLimit) (hgate' : t.gate.ok t.guard → gate.ok t.guard)
    (hsources : sources.policy = t.sources.policy)
    (hdraft : eng.draft = t.eng.draft) (hversion : eng.version = t.eng.version) (hpreroll : eng.preroll = t.eng.preroll)
    (heng : t.eng.ok → eng.ok) (hpre : t.pre.wf → pre.wf) (hconf : t.conf.wf → conf.wf)
    (hstill : t.tl.state ≠ .laying → tl = t.tl := by exact fun _ => rfl) :
    Calm s { t with
      fresh := fresh, tl := tl, clock := clock, order := order, jog := jog, fetch := fetch, pre := pre, conf := conf,
      conceal := conceal, mon := mon, out := out, intake := intake, coding := coding, lastCoded := lastCoded, gate := gate,
      judge := judge, sources := sources, eng := eng, cues := cues, punchA := punchA, punchB := punchB } := by
  refine h.trans ⟨?_, id, htl', hgate', id, heng, fun hb => ⟨hb.1, hb.2.1, hpre hb.2.2.1, hconf hb.2.2.2⟩, hstill⟩
  unfold settingsOf
  simp only [htl, hclock, hclock', hjog, hconceal, hmon, hgate, hsources, hdraft, hversion, hpreroll]

/-- An update of the slots that keeps their audio in canonical form. -/
theorem Calm.slots {s : State} {slots : Vector Slot Config.slotCount}
    (h : (∀ i : SlotId, s.slots[i].audio.wf = true) → ∀ i : SlotId, slots[i].audio.wf = true) :
    Calm s { s with slots := slots } :=
  ⟨rfl, id, id, id, id, id, fun hb => ⟨h hb.1, hb.2⟩, fun _ => rfl⟩

/-! ### Notices -/

theorem sameEntry_iff (k : NoticeKind) (subject : Nat) (n : Notice) :
    sameEntry k subject n = true ↔ n.kind = k ∧ n.subject = subject := by
  simp [sameEntry]

theorem NoticePort.take_settings (q : NoticePort) (k : NoticeKind) (sub : Nat) (a : Option Nat) (c : Option Result) :
    (q.take k sub a c).attention = q.attention ∧ (q.take k sub a c).expiryTime = q.expiryTime := by
  unfold NoticePort.take
  split
  · exact ⟨rfl, rfl⟩
  · split <;> exact ⟨rfl, rfl⟩

/-- Taking a notice keeps the law of a queue (R199). -/
theorem NoticePort.take_ok {q : NoticePort} (h : q.ok) (k : NoticeKind) (sub : Nat) (a : Option Nat) (c : Option Result) :
    (q.take k sub a c).ok := by
  obtain ⟨h1, h2, h3, h4, h5⟩ := h
  unfold NoticePort.take
  split
  · refine ⟨by simpa using h1, ?_, ?_, h4, h5⟩
    · have : ((fun n : Notice => (n.kind, n.subject)) ∘ fun n : Notice =>
          if sameEntry k sub n then { n with count := saturate 255 (n.count + 1) } else n)
          = fun n : Notice => (n.kind, n.subject) := by
        funext n
        simp only [Function.comp]
        split <;> rfl
      simpa only [List.map_map, this] using h2
    · intro n hn
      obtain ⟨m, hm, rfl⟩ := List.mem_map.mp hn
      have := h3 m hm
      split
      · refine ⟨?_, ?_, this.2.2⟩
        · show 1 ≤ min 255 (m.count + 1)
          omega
        · exact Nat.min_le_left ..
      · exact this
  · rename_i hno
    split
    · exact ⟨h1, h2, h3, Nat.min_le_left .., h5⟩
    · rename_i hlen
      refine ⟨?_, ?_, ?_, h4, h5⟩
      · simp only [List.length_append, List.length_singleton]
        omega
      · simp only [List.map_append, List.map_cons, List.map_nil]
        refine List.nodup_append.mpr ⟨h2, by simp, fun x hx y hy => ?_⟩
        obtain ⟨m, hm, rfl⟩ := List.mem_map.mp hx
        simp only [List.mem_singleton] at hy
        subst hy
        intro he
        simp only [Prod.mk.injEq] at he
        exact hno (List.any_eq_true.mpr ⟨m, hm, (sameEntry_iff k sub m).mpr he⟩)
      · intro n hn
        rcases List.mem_append.mp hn with hn | hn
        · exact h3 n hn
        · simp only [List.mem_singleton] at hn
          subst hn
          refine ⟨by simp, by simp, ?_⟩
          dsimp only
          split <;> simp_all

theorem offerNotice_ok {q : NoticePort} (h : q.ok) (on : Bool) (k : NoticeKind) (sub : Nat) (a : Option Nat)
    (c : Option Result) : (offerNotice on k sub a c q).ok := by
  unfold offerNotice
  split
  · exact NoticePort.take_ok h ..
  · exact h

theorem offerNotice_settings (on : Bool) (k : NoticeKind) (sub : Nat) (a : Option Nat) (c : Option Result) (q : NoticePort) :
    ((offerNotice on k sub a c q).attention, (offerNotice on k sub a c q).expiryTime) = (q.attention, q.expiryTime) := by
  unfold offerNotice
  split
  · rw [(NoticePort.take_settings ..).1, (NoticePort.take_settings ..).2]
  · rfl

/-- Posting a notice is a calm move: it touches the queues alone. -/
theorem post_move (k : NoticeKind) (sub : Nat) (a : Option Nat) (c : Option Result) (s : State) : Calm s (post k sub a c s) := by
  refine ⟨?_, fun h => ?_, id, id, id, id, id, fun _ => rfl⟩
  · unfold post settingsOf PerPort.map
    simp only [offerNotice_settings]
  · exact ⟨offerNotice_ok h.1 .., offerNotice_ok h.2.1 .., offerNotice_ok h.2.2 ..⟩

theorem post_calm {s t : State} (h : Calm s t) (k : NoticeKind) (n : Nat) (a : Option Nat) (c : Option Result) : Calm s (post k n a c t) :=
  h.trans (post_move k n a c t)

theorem post_step {s t : State} (h : Move s t) (k : NoticeKind) (n : Nat) (a : Option Nat) (c : Option Result) : Move s (post k n a c t) :=
  h.trans (post_move k n a c t).toMove

/-! ### Slots -/

theorem bumpFresh_move (s : State) : Calm s (bumpFresh s) := by
  unfold bumpFresh
  repeat' first
    | with_reducible exact Calm.refl _
    | dsimp only
    | split
    | refine Calm.fields ?_ rfl id rfl rfl rfl rfl rfl rfl id rfl rfl rfl rfl id id id

theorem bumpFresh_calm {s t : State} (h : Calm s t) : Calm s (bumpFresh t) :=
  h.trans (bumpFresh_move t)

theorem bumpFresh_step {s t : State} (h : Move s t) : Move s (bumpFresh t) :=
  h.trans (bumpFresh_move t).toMove

theorem setSlot_move (i : SlotId) {x : Slot} {s : State} (h : buffersWf s → x.audio.wf = true) : Calm s (setSlot i x s) := by
  refine ⟨rfl, id, id, id, id, id, fun hb => ⟨fun j => ?_, hb.2⟩, fun _ => rfl⟩
  show (s.slots.set i x)[j].audio.wf = true
  by_cases hij : (i : Nat) = j
  · have : (s.slots.set i x)[(j : Nat)] = x := by
      simp [← hij]
    rw [Fin.getElem_fin, this]
    exact h hb
  · have : (s.slots.set i x)[(j : Nat)] = s.slots[(j : Nat)] := by
      rw [Vector.getElem_set_ne]
      exact hij
    rw [Fin.getElem_fin, this]
    exact hb.1 j

theorem modifySlot_move (i : SlotId) {f : Slot → Slot} (s : State) (h : ∀ x : Slot, x.audio.wf = true → (f x).audio.wf = true) :
    Calm s (modifySlot i f s) := setSlot_move i fun hb => h _ (hb.1 i)

/-- A change of a slot that leaves its audio alone. -/
theorem modifySlot_keep (i : SlotId) {f : Slot → Slot} (s : State) (h : ∀ x : Slot, (f x).audio = x.audio) :
    Calm s (modifySlot i f s) := modifySlot_move i s fun x hx => by rw [h x]; exact hx

theorem setSlot_reset (i : SlotId) (s : State) : Calm s (setSlot i Slot.reset s) := setSlot_move i fun _ => rfl

theorem releaseSlot_move (i : SlotId) (s : State) : Calm s (releaseSlot i s) :=
  (setSlot_reset i s).fields rfl id rfl rfl rfl rfl rfl rfl id rfl rfl rfl rfl id id id

theorem releaseOrDue_move (i : SlotId) (s : State) : Calm s (releaseOrDue i s) := by
  unfold releaseOrDue
  split
  · exact modifySlot_keep i s (by intro x; rfl)
  · exact releaseSlot_move i s

theorem releaseSlot_calm {s t : State} (h : Calm s t) (i : SlotId) : Calm s (releaseSlot i t) :=
  h.trans (releaseSlot_move i t)

theorem releaseSlot_step {s t : State} (h : Move s t) (i : SlotId) : Move s (releaseSlot i t) :=
  h.trans (releaseSlot_move i t).toMove

theorem releaseOrDue_calm {s t : State} (h : Calm s t) (i : SlotId) : Calm s (releaseOrDue i t) :=
  h.trans (releaseOrDue_move i t)

theorem releaseOrDue_step {s t : State} (h : Move s t) (i : SlotId) : Move s (releaseOrDue i t) :=
  h.trans (releaseOrDue_move i t).toMove

theorem settleDue_move (i : SlotId) (s : State) : Calm s (settleDue i s) := by
  unfold settleDue
  repeat' first
    | with_reducible exact Calm.refl _
    | with_reducible apply releaseSlot_calm
    | dsimp only
    | split
    | refine Calm.fields ?_ rfl id rfl rfl rfl rfl rfl rfl id rfl rfl rfl rfl id id id

theorem settleDue_calm {s t : State} (h : Calm s t) (i : SlotId) : Calm s (settleDue i t) :=
  h.trans (settleDue_move i t)

theorem settleDue_step {s t : State} (h : Move s t) (i : SlotId) : Move s (settleDue i t) :=
  h.trans (settleDue_move i t).toMove

theorem releaseAll_move (l : List SlotId) (s : State) : Calm s (releaseAll l s) :=
  foldl_calm (fun t i => releaseOrDue_move i t) l s

theorem releaseAll_calm {s t : State} (h : Calm s t) (l : List SlotId) : Calm s (releaseAll l t) :=
  h.trans (releaseAll_move l t)

theorem releaseAll_step {s t : State} (h : Move s t) (l : List SlotId) : Move s (releaseAll l t) :=
  h.trans (releaseAll_move l t).toMove

theorem abandonSlot_move (o : Option SlotId) (s : State) : Calm s (abandonSlot o s) := by
  unfold abandonSlot
  repeat' first
    | with_reducible exact Calm.refl _
    | with_reducible apply releaseSlot_calm
    | dsimp only
    | split
    | refine Calm.fields ?_ rfl id rfl rfl rfl rfl rfl rfl id rfl rfl rfl rfl id id id

theorem abandonSlot_calm {s t : State} (h : Calm s t) (o : Option SlotId) : Calm s (abandonSlot o t) :=
  h.trans (abandonSlot_move o t)

theorem abandonSlot_step {s t : State} (h : Move s t) (o : Option SlotId) : Move s (abandonSlot o t) :=
  h.trans (abandonSlot_move o t).toMove

theorem releaseOpt_move (o : Option SlotId) (s : State) : Calm s (releaseOpt o s) := by
  unfold releaseOpt
  repeat' first
    | with_reducible exact Calm.refl _
    | with_reducible apply releaseOrDue_calm
    | dsimp only
    | split
    | refine Calm.fields ?_ rfl id rfl rfl rfl rfl rfl rfl id rfl rfl rfl rfl id id id

theorem releaseOpt_calm {s t : State} (h : Calm s t) (o : Option SlotId) : Calm s (releaseOpt o t) :=
  h.trans (releaseOpt_move o t)

theorem releaseOpt_step {s t : State} (h : Move s t) (o : Option SlotId) : Move s (releaseOpt o t) :=
  h.trans (releaseOpt_move o t).toMove

theorem allocate_move (role : Role) (a : Option Nat) (s : State) : Calm s (allocate role a s).2 := by
  unfold allocate
  split
  · exact ((releaseSlot_move _ s).trans (setSlot_move _ fun _ => rfl)).fields rfl id rfl rfl rfl rfl rfl rfl id rfl rfl rfl rfl id id id
  · exact post_move ..

/-! ### The Frame Store -/

theorem syncPins_move (s : State) : Calm s (syncPins s) := by
  unfold syncPins
  dsimp only
  generalize slotIds = l
  refine Calm.trans ?_ (foldl_calm (fun t i => settleDue_move i t) l _)
  refine Calm.slots fun hb j => ?_
  simpa using hb j

theorem allocate_calm {s t : State} (h : Calm s t) (r : Role) (a : Option Nat) : Calm s (allocate r a t).2 :=
  h.trans (allocate_move r a t)

theorem allocate_step {s t : State} (h : Move s t) (r : Role) (a : Option Nat) : Move s (allocate r a t).2 :=
  h.trans (allocate_move r a t).toMove

theorem syncPins_calm {s t : State} (h : Calm s t) : Calm s (syncPins t) :=
  h.trans (syncPins_move t)

theorem syncPins_step {s t : State} (h : Move s t) : Move s (syncPins t) :=
  h.trans (syncPins_move t).toMove

theorem jogSync_move (s : State) : Calm s (jogSync s) := by
  unfold jogSync
  repeat' first
    | with_reducible exact Calm.refl _
    | with_reducible apply syncPins_calm
    | dsimp only
    | split
    | refine Calm.fields ?_ rfl id rfl rfl rfl rfl rfl rfl id rfl rfl rfl rfl id id id

theorem jogSync_calm {s t : State} (h : Calm s t) : Calm s (jogSync t) :=
  h.trans (jogSync_move t)

theorem jogSync_step {s t : State} (h : Move s t) : Move s (jogSync t) :=
  h.trans (jogSync_move t).toMove

theorem resetPointer_move (s : State) : Calm s (resetPointer s) := by
  unfold resetPointer
  repeat' first
    | with_reducible exact Calm.refl _
    | dsimp only
    | split
    | refine Calm.fields ?_ rfl id rfl rfl rfl rfl rfl rfl id rfl rfl rfl rfl id id id

theorem resetPointer_calm {s t : State} (h : Calm s t) : Calm s (resetPointer t) :=
  h.trans (resetPointer_move t)

theorem resetPointer_step {s t : State} (h : Move s t) : Move s (resetPointer t) :=
  h.trans (resetPointer_move t).toMove

theorem completeFetch_move (p : Port) (s : State) : Calm s (completeFetch p s) := by
  unfold completeFetch
  repeat' first
    | with_reducible exact Calm.refl _
    | with_reducible apply bumpFresh_calm
    | with_reducible apply settleDue_calm
    | dsimp only
    | split
    | refine Calm.fields ?_ rfl id rfl rfl rfl rfl rfl rfl id rfl rfl rfl rfl id id id

theorem completeFetch_calm {s t : State} (h : Calm s t) (p : Port) : Calm s (completeFetch p t) :=
  h.trans (completeFetch_move p t)

theorem completeFetch_step {s t : State} (h : Move s t) (p : Port) : Move s (completeFetch p t) :=
  h.trans (completeFetch_move p t).toMove

theorem endHold_move (p : Port) (i : SlotId) (s : State) : Calm s (endHold p i s) := by
  unfold endHold
  refine Calm.trans ?_ (settleDue_move ..)
  refine Calm.fields ?_ rfl id rfl rfl rfl rfl rfl rfl id rfl rfl rfl rfl id id id
  refine modifySlot_keep i s ?_
  intro x
  rfl

theorem endHolds_move (p : Port) (s : State) : Calm s (endHolds p s) := by
  unfold endHolds
  refine foldl_calm (fun t i => ?_) slotIds s
  split
  · exact endHold_move p i t
  · exact Calm.refl t

theorem endHold_calm {s t : State} (h : Calm s t) (p : Port) (i : SlotId) : Calm s (endHold p i t) :=
  h.trans (endHold_move p i t)

theorem endHold_step {s t : State} (h : Move s t) (p : Port) (i : SlotId) : Move s (endHold p i t) :=
  h.trans (endHold_move p i t).toMove

theorem endHolds_calm {s t : State} (h : Calm s t) (p : Port) : Calm s (endHolds p t) :=
  h.trans (endHolds_move p t)

theorem endHolds_step {s t : State} (h : Move s t) (p : Port) : Move s (endHolds p t) :=
  h.trans (endHolds_move p t).toMove

theorem dropFetch_move (p : Port) (s : State) : Calm s (dropFetch p s) := by
  unfold dropFetch
  repeat' first
    | with_reducible exact Calm.refl _
    | with_reducible apply settleDue_calm
    | dsimp only
    | split
    | refine Calm.fields ?_ rfl id rfl rfl rfl rfl rfl rfl id rfl rfl rfl rfl id id id

theorem dropFetch_calm {s t : State} (h : Calm s t) (p : Port) : Calm s (dropFetch p t) :=
  h.trans (dropFetch_move p t)

theorem dropFetch_step {s t : State} (h : Move s t) (p : Port) : Move s (dropFetch p t) :=
  h.trans (dropFetch_move p t).toMove


/-! ### The Copy Status Unit -/

theorem Sources.set_policy (x : Sources) (i : SrcId) (r : SourceRec) : (x.set i r).policy = x.policy := by
  cases i <;> rfl

theorem setStatus_move (i : SrcId) (st : SourceStatus) (s : State) : Calm s (setStatus i st s) := by
  unfold setStatus
  dsimp only
  split
  · exact Calm.refl s
  · refine Calm.trans ?_ (post_move ..)
    exact (Calm.refl s).fields rfl id rfl rfl rfl rfl rfl rfl id (Sources.set_policy ..) rfl rfl rfl id id id

theorem invalidate_move (i : SrcId) (s : State) : Calm s (invalidate i s) := setStatus_move ..

theorem setStatus_calm {s t : State} (h : Calm s t) (i : SrcId) (st : SourceStatus) : Calm s (setStatus i st t) :=
  h.trans (setStatus_move i st t)

theorem setStatus_step {s t : State} (h : Move s t) (i : SrcId) (st : SourceStatus) : Move s (setStatus i st t) :=
  h.trans (setStatus_move i st t).toMove

theorem invalidate_calm {s t : State} (h : Calm s t) (i : SrcId) : Calm s (invalidate i t) :=
  h.trans (invalidate_move i t)

theorem invalidate_step {s t : State} (h : Move s t) (i : SrcId) : Move s (invalidate i t) :=
  h.trans (invalidate_move i t).toMove

theorem digitalStatus_move (b : Byte) (s : State) : Calm s (digitalStatus b s) := by
  unfold digitalStatus
  repeat' first
    | with_reducible exact Calm.refl _
    | with_reducible apply setStatus_calm
    | with_reducible apply invalidate_calm
    | dsimp only
    | split
    | refine Calm.fields ?_ rfl id rfl rfl rfl rfl rfl rfl id rfl rfl rfl rfl id id id

theorem digitalStatus_calm {s t : State} (h : Calm s t) (b : Byte) : Calm s (digitalStatus b t) :=
  h.trans (digitalStatus_move b t)

theorem digitalStatus_step {s t : State} (h : Move s t) (b : Byte) : Move s (digitalStatus b t) :=
  h.trans (digitalStatus_move b t).toMove

theorem statusTimeout_move (s : State) : Calm s (statusTimeout s) := by
  unfold statusTimeout
  repeat' first
    | with_reducible exact Calm.refl _
    | with_reducible apply invalidate_calm
    | dsimp only
    | split
    | refine Calm.fields ?_ rfl id rfl rfl rfl rfl rfl rfl id rfl rfl rfl rfl id id id

theorem statusTimeout_calm {s t : State} (h : Calm s t) : Calm s (statusTimeout t) :=
  h.trans (statusTimeout_move t)

theorem statusTimeout_step {s t : State} (h : Move s t) : Move s (statusTimeout t) :=
  h.trans (statusTimeout_move t).toMove


/-! ### The fly banks -/

theorem setBank_move (n : BankId) {b : Bank} {s : State} (h1 : s.banks.ok → (s.banks.set n b).ok)
    (h2 : buffersWf s → b.pairs.wf = true) : Calm s (setBank n b s) := by
  refine ⟨rfl, id, id, id, h1, id, fun hb => ⟨hb.1, ?_, hb.2.2⟩, fun _ => rfl⟩
  cases n
  · exact ⟨h2 hb, hb.2.1.2⟩
  · exact ⟨hb.2.1.1, h2 hb⟩

/-- A bank that is not PLAYING afterwards. -/
theorem setBank_stopped (n : BankId) {b : Bank} {s : State} (h1 : b.state ≠ .playing)
    (h2 : buffersWf s → b.pairs.wf = true) : Calm s (setBank n b s) := by
  refine setBank_move n (fun _ => ?_) h2
  cases n
  · exact fun h => h1 h.1
  · exact fun h => h1 h.2

theorem getBank_wf {s : State} (h : buffersWf s) (n : BankId) : (s.banks.get n).pairs.wf = true := by
  cases n
  · exact h.2.1.1
  · exact h.2.1.2

theorem spendPlaying_move (s : State) : Calm s (spendPlaying s) := by
  unfold spendPlaying
  split
  · exact Calm.refl s
  · rename_i n _
    exact setBank_stopped n (by simp) fun h => getBank_wf h n

/-- Once the PLAYING bank is spent, none plays. -/
theorem spendPlaying_none {s : State} (h : s.banks.ok) :
    (spendPlaying s).banks.b0.state ≠ .playing ∧ (spendPlaying s).banks.b1.state ≠ .playing := by
  have hno : ¬(s.banks.b0.state = .playing ∧ s.banks.b1.state = .playing) := h
  unfold spendPlaying playing
  by_cases h0 : s.banks.b0.state = .playing
  · have h1 : s.banks.b1.state ≠ .playing := fun h1 => hno ⟨h0, h1⟩
    simp [h0, h1, setBank, Banks.set, Banks.get]
  · by_cases h1 : s.banks.b1.state = .playing
    · simp [h1, setBank, Banks.set, Banks.get, h0]
    · simp [h0, h1]

theorem askBank_move (s : State) : Calm s (askBank s).2 := by
  unfold askBank
  dsimp only
  split
  · exact spendPlaying_move s
  · rename_i n _
    split
    · exact spendPlaying_move s
    · have hp := spendPlaying_move s
      refine ⟨hp.settings, hp.notices, hp.tl, hp.gate, fun h => ?_, hp.eng, fun hb => ?_, hp.still⟩
      · obtain ⟨h0, h1⟩ := spendPlaying_none h
        cases n
        · exact fun hb => h1 hb.2
        · exact fun hb => h0 hb.1
      · have hb' := hp.buffers hb
        refine ⟨hb'.1, ?_, hb'.2.2⟩
        cases n
        · exact hb'.2.1
        · exact hb'.2.1

theorem bankRanOut_move (n : BankId) (k : Nat) (s : State) : Calm s (bankRanOut n k s) := by
  have h1 : Calm s (setBank n { s.banks.get n with state := .spent } s) :=
    setBank_stopped n (by simp) fun h => getBank_wf h n
  unfold bankRanOut
  dsimp only
  split
  · refine Calm.trans ?_ (post_move ..)
    refine h1.trans (setBank_move n.other (fun _ => ?_) fun h => getBank_wf h n.other)
    cases n <;> simp [Banks.ok, Banks.set, BankId.other, setBank]
  · exact h1.fields rfl id rfl rfl rfl rfl rfl rfl id rfl rfl rfl rfl id id id

theorem resizeBanks_move (s : State) : Calm s (resizeBanks s) := by
  have h1 : Calm s { s with banks := ⟨s.banks.b0.resized (bankLength s), s.banks.b1.resized (bankLength s)⟩ } :=
    ⟨rfl, id, id, id, id, id, id, fun _ => rfl⟩
  unfold resizeBanks
  dsimp only
  split
  · exact h1
  · split
    · exact h1.trans (bankRanOut_move ..)
    · exact h1

/-! ### The intake -/

theorem spendPlaying_calm {s t : State} (h : Calm s t) : Calm s (spendPlaying t) :=
  h.trans (spendPlaying_move t)

theorem spendPlaying_step {s t : State} (h : Move s t) : Move s (spendPlaying t) :=
  h.trans (spendPlaying_move t).toMove

theorem askBank_calm {s t : State} (h : Calm s t) : Calm s (askBank t).2 :=
  h.trans (askBank_move t)

theorem askBank_step {s t : State} (h : Move s t) : Move s (askBank t).2 :=
  h.trans (askBank_move t).toMove

theorem bankRanOut_calm {s t : State} (h : Calm s t) (n : BankId) (k : Nat) : Calm s (bankRanOut n k t) :=
  h.trans (bankRanOut_move n k t)

theorem bankRanOut_step {s t : State} (h : Move s t) (n : BankId) (k : Nat) : Move s (bankRanOut n k t) :=
  h.trans (bankRanOut_move n k t).toMove

theorem resizeBanks_calm {s t : State} (h : Calm s t) : Calm s (resizeBanks t) :=
  h.trans (resizeBanks_move t)

theorem resizeBanks_step {s t : State} (h : Move s t) : Move s (resizeBanks t) :=
  h.trans (resizeBanks_move t).toMove

theorem nameSource_move (src : Source) (s : State) : Calm s (nameSource src s) := by
  unfold nameSource
  repeat' first
    | with_reducible exact Calm.refl _
    | dsimp only
    | split
    | refine Calm.fields ?_ rfl id rfl rfl rfl rfl rfl rfl id rfl rfl rfl rfl id id id

theorem nameSource_calm {s t : State} (h : Calm s t) (src : Source) : Calm s (nameSource src t) :=
  h.trans (nameSource_move src t)

theorem nameSource_step {s t : State} (h : Move s t) (src : Source) : Move s (nameSource src t) :=
  h.trans (nameSource_move src t).toMove

theorem setIntakeFrame_move (f : Option IntakeFrame) (s : State) : Calm s (setIntakeFrame f s) := by
  unfold setIntakeFrame
  repeat' first
    | with_reducible exact Calm.refl _
    | dsimp only
    | split
    | refine Calm.fields ?_ rfl id rfl rfl rfl rfl rfl rfl id rfl rfl rfl rfl id id id

theorem setIntakeFrame_calm {s t : State} (h : Calm s t) (f : Option IntakeFrame) : Calm s (setIntakeFrame f t) :=
  h.trans (setIntakeFrame_move f t)

theorem setIntakeFrame_step {s t : State} (h : Move s t) (f : Option IntakeFrame) : Move s (setIntakeFrame f t) :=
  h.trans (setIntakeFrame_move f t).toMove

theorem acceptPair_move (line : InputLine) (pair : SamplePair) (s : State) : Calm s (acceptPair line pair s) := by
  unfold acceptPair
  repeat' first
    | with_reducible exact Calm.refl _
    | with_reducible apply setIntakeFrame_calm
    | dsimp only
    | split
    | refine Calm.fields ?_ rfl id rfl rfl rfl rfl rfl rfl id rfl rfl rfl rfl id id id

theorem acceptPair_calm {s t : State} (h : Calm s t) (line : InputLine) (pair : SamplePair) : Calm s (acceptPair line pair t) :=
  h.trans (acceptPair_move line pair t)

theorem acceptPair_step {s t : State} (h : Move s t) (line : InputLine) (pair : SamplePair) : Move s (acceptPair line pair t) :=
  h.trans (acceptPair_move line pair t).toMove

theorem notePair_move (line : InputLine) (pair : Option SamplePair) (s : State) : Calm s (notePair line pair s) := by
  unfold notePair
  repeat' first
    | with_reducible exact Calm.refl _
    | dsimp only
    | split
    | refine Calm.fields ?_ rfl id rfl rfl rfl rfl rfl rfl id rfl rfl rfl rfl id id id

theorem notePair_calm {s t : State} (h : Calm s t) (line : InputLine) (pair : Option SamplePair) : Calm s (notePair line pair t) :=
  h.trans (notePair_move line pair t)

theorem notePair_step {s t : State} (h : Move s t) (line : InputLine) (pair : Option SamplePair) : Move s (notePair line pair t) :=
  h.trans (notePair_move line pair t).toMove


theorem storeIntake_move (o : Option SlotId) (r : Rate) (i : Nat) (l : List SamplePair) (s : State) :
    Calm s (storeIntake o r i l s) := by
  cases o with
  | none => exact Calm.refl s
  | some k =>
    unfold storeIntake
    refine modifySlot_move k s ?_
    intro x h
    exact putPairs_wf l h r i

theorem storeIntake_calm {s t : State} (h : Calm s t) (o : Option SlotId) (r : Rate) (i : Nat) (l : List SamplePair) : Calm s (storeIntake o r i l t) :=
  h.trans (storeIntake_move o r i l t)

theorem storeIntake_step {s t : State} (h : Move s t) (o : Option SlotId) (r : Rate) (i : Nat) (l : List SamplePair) : Move s (storeIntake o r i l t) :=
  h.trans (storeIntake_move o r i l t).toMove

theorem takePair_move (f : IntakeFrame) (p : SamplePair) (tag : Tag) (s : State) : Calm s (takePair f p tag s) := by
  unfold takePair
  repeat' first
    | with_reducible exact Calm.refl _
    | with_reducible apply setIntakeFrame_calm
    | with_reducible apply storeIntake_calm
    | dsimp only
    | split
    | refine Calm.fields ?_ rfl id rfl rfl rfl rfl rfl rfl id rfl rfl rfl rfl id id id

theorem takePair_calm {s t : State} (h : Calm s t) (f : IntakeFrame) (p : SamplePair) (tag : Tag) : Calm s (takePair f p tag t) :=
  h.trans (takePair_move f p tag t)

theorem takePair_step {s t : State} (h : Move s t) (f : IntakeFrame) (p : SamplePair) (tag : Tag) : Move s (takePair f p tag t) :=
  h.trans (takePair_move f p tag t).toMove

theorem takeSilence_move (f : IntakeFrame) (s : State) : Calm s (takeSilence f s) := by
  unfold takeSilence
  repeat' first
    | with_reducible exact Calm.refl _
    | with_reducible apply setIntakeFrame_calm
    | dsimp only
    | split
    | refine Calm.fields ?_ rfl id rfl rfl rfl rfl rfl rfl id rfl rfl rfl rfl id id id

theorem takeSilence_calm {s t : State} (h : Calm s t) (f : IntakeFrame) : Calm s (takeSilence f t) :=
  h.trans (takeSilence_move f t)

theorem takeSilence_step {s t : State} (h : Move s t) (f : IntakeFrame) : Move s (takeSilence f t) :=
  h.trans (takeSilence_move f t).toMove

theorem lineTake_move (f : IntakeFrame) (s : State) : Calm s (lineTake f s) := by
  unfold lineTake
  repeat' first
    | with_reducible exact Calm.refl _
    | with_reducible apply setIntakeFrame_calm
    | with_reducible apply takePair_calm
    | with_reducible apply takeSilence_calm
    | dsimp only
    | split
    | refine Calm.fields ?_ rfl id rfl rfl rfl rfl rfl rfl id rfl rfl rfl rfl id id id

theorem lineTake_calm {s t : State} (h : Calm s t) (f : IntakeFrame) : Calm s (lineTake f t) :=
  h.trans (lineTake_move f t)

theorem lineTake_step {s t : State} (h : Move s t) (f : IntakeFrame) : Move s (lineTake f t) :=
  h.trans (lineTake_move f t).toMove


theorem flyTake_move (f : IntakeFrame) (s : State) : Calm s (flyTake f s) := by
  unfold flyTake
  refine Calm.ite (fun _ => Calm.refl s) fun _ => Calm.ite (fun _ => takeSilence_move ..) fun _ => ?_
  split
  · exact takeSilence_move ..
  · rename_i n _
    have h1 : Calm s (setBank n { s.banks.get n with readPos := (s.banks.get n).readPos + 1 } s) := by
      refine setBank_move n (fun h => ?_) fun h => getBank_wf h n
      cases n <;> exact h
    dsimp only
    split
    · exact (h1.trans (takePair_move ..)).trans (bankRanOut_move ..)
    · exact h1.trans (takePair_move ..)

theorem flyTake_calm {s t : State} (h : Calm s t) (f : IntakeFrame) : Calm s (flyTake f t) :=
  h.trans (flyTake_move f t)

theorem flyTake_step {s t : State} (h : Move s t) (f : IntakeFrame) : Move s (flyTake f t) :=
  h.trans (flyTake_move f t).toMove

theorem intakePeriod_move (s : State) : Calm s (intakePeriod s) := by
  unfold intakePeriod
  repeat' first
    | with_reducible exact Calm.refl _
    | with_reducible apply lineTake_calm
    | with_reducible apply flyTake_calm
    | dsimp only
    | split
    | refine Calm.fields ?_ rfl id rfl rfl rfl rfl rfl rfl id rfl rfl rfl rfl id id id

theorem intakePeriod_calm {s t : State} (h : Calm s t) : Calm s (intakePeriod t) :=
  h.trans (intakePeriod_move t)

theorem intakePeriod_step {s t : State} (h : Move s t) : Move s (intakePeriod t) :=
  h.trans (intakePeriod_move t).toMove

theorem fillFrame_move (f : IntakeFrame) (s : State) : Calm s (fillFrame f s).2 := by
  unfold fillFrame
  repeat' first
    | with_reducible exact Calm.refl _
    | with_reducible apply storeIntake_calm
    | dsimp only
    | split
    | refine Calm.fields ?_ rfl id rfl rfl rfl rfl rfl rfl id rfl rfl rfl rfl id id id

theorem fillFrame_calm {s t : State} (h : Calm s t) (f : IntakeFrame) : Calm s (fillFrame f t).2 :=
  h.trans (fillFrame_move f t)

theorem fillFrame_step {s t : State} (h : Move s t) (f : IntakeFrame) : Move s (fillFrame f t).2 :=
  h.trans (fillFrame_move f t).toMove

theorem postSlip_move (f : IntakeFrame) (o : Option Nat) (s : State) : Calm s (postSlip f o s) := by
  unfold postSlip
  repeat' first
    | with_reducible exact Calm.refl _
    | with_reducible apply post_calm
    | with_reducible apply bumpFresh_calm
    | dsimp only
    | split
    | refine Calm.fields ?_ rfl id rfl rfl rfl rfl rfl rfl id rfl rfl rfl rfl id id id

theorem postSlip_calm {s t : State} (h : Calm s t) (f : IntakeFrame) (o : Option Nat) : Calm s (postSlip f o t) :=
  h.trans (postSlip_move f o t)

theorem postSlip_step {s t : State} (h : Move s t) (f : IntakeFrame) (o : Option Nat) : Move s (postSlip f o t) :=
  h.trans (postSlip_move f o t).toMove


theorem closeIntake_move (o : Option Nat) (s : State) : Calm s (closeIntake o s).2 := by
  unfold closeIntake
  split
  · exact (Calm.refl s).fields rfl id rfl rfl rfl rfl rfl rfl id rfl rfl rfl rfl id id id
  · dsimp only
    have h : ∀ g, Calm s (postSlip g o (fillFrame g s).2) := fun g => (fillFrame_move ..).trans (postSlip_move ..)
    split
    · with_reducible refine Calm.trans ?_ (modifySlot_keep _ _ ?_)
      rotate_left
      · intro x
        rfl
      refine Calm.fields ?_ rfl id rfl rfl rfl rfl rfl rfl id rfl rfl rfl rfl id id id
      exact (fillFrame_move ..).trans (postSlip_move ..)
    · refine Calm.trans ?_ (abandonSlot_move ..)
      refine Calm.fields ?_ rfl id rfl rfl rfl rfl rfl rfl id rfl rfl rfl rfl id id id
      exact (fillFrame_move ..).trans (postSlip_move ..)

theorem closeIntake_calm {s t : State} (h : Calm s t) (o : Option Nat) : Calm s (closeIntake o t).2 :=
  h.trans (closeIntake_move o t)

theorem closeIntake_step {s t : State} (h : Move s t) (o : Option Nat) : Move s (closeIntake o t).2 :=
  h.trans (closeIntake_move o t).toMove

theorem beginIntake_move (s : State) : Calm s (beginIntake s) := by
  unfold beginIntake
  repeat' first
    | with_reducible exact Calm.refl _
    | with_reducible apply allocate_calm
    | with_reducible apply setIntakeFrame_calm
    | dsimp only
    | split
    | refine Calm.fields ?_ rfl id rfl rfl rfl rfl rfl rfl id rfl rfl rfl rfl id id id

theorem beginIntake_calm {s t : State} (h : Calm s t) : Calm s (beginIntake t) :=
  h.trans (beginIntake_move t)

theorem beginIntake_step {s t : State} (h : Move s t) : Move s (beginIntake t) :=
  h.trans (beginIntake_move t).toMove

theorem abandonIntake_move (s : State) : Calm s (abandonIntake s) := by
  unfold abandonIntake
  repeat' first
    | with_reducible exact Calm.refl _
    | with_reducible apply abandonSlot_calm
    | dsimp only
    | split
    | refine Calm.fields ?_ rfl id rfl rfl rfl rfl rfl rfl id rfl rfl rfl rfl id id id

theorem abandonIntake_calm {s t : State} (h : Calm s t) : Calm s (abandonIntake t) :=
  h.trans (abandonIntake_move t)

theorem abandonIntake_step {s t : State} (h : Move s t) : Move s (abandonIntake t) :=
  h.trans (abandonIntake_move t).toMove


end Sys2Proof.Machine
end

