-- ==== Sys2Proof/Laws/MoveEngine.lean ====
section
/-! SUPPORT. The Edit Engine's and the record gate's shared operations are calm moves (Laws/Move.lean). -/

set_option Elab.async false

set_option linter.unreachableTactic false
set_option linter.unusedTactic false

namespace Sys2Proof.Machine

/-! ### Results and entries -/

theorem setEng_move (st : EngState) (s : State) : Calm s (setEng st s) := by
  unfold setEng
  repeat' first
    | with_reducible exact Calm.refl _
    | with_reducible apply post_calm
    | dsimp only
    | split
    | refine Calm.fields ?_ rfl id rfl rfl rfl rfl rfl rfl id rfl rfl rfl rfl id id id

theorem setEng_calm {s t : State} (h : Calm s t) (st : EngState) : Calm s (setEng st t) :=
  h.trans (setEng_move st t)

theorem setEng_step {s t : State} (h : Move s t) (st : EngState) : Move s (setEng st t) :=
  h.trans (setEng_move st t).toMove

theorem setEntryState_move (i : Fin 16) (st : EntryState) (s : State) : Calm s (setEntryState i st s) := by
  unfold setEntryState
  repeat' first
    | with_reducible exact Calm.refl _
    | dsimp only
    | split
    | refine Calm.fields ?_ rfl id rfl rfl rfl rfl rfl rfl id rfl rfl rfl rfl id id id

theorem setEntryState_calm {s t : State} (h : Calm s t) (i : Fin 16) (st : EntryState) : Calm s (setEntryState i st t) :=
  h.trans (setEntryState_move i st t)

theorem setEntryState_step {s t : State} (h : Move s t) (i : Fin 16) (st : EntryState) : Move s (setEntryState i st t) :=
  h.trans (setEntryState_move i st t).toMove

/-- The results list keeps at most 16 entries (R159). -/
theorem addResult_move (r : SpliceResult) (notify : Bool) (inAddr : Option Nat) (s : State) :
    Calm s (addResult r notify inAddr s) := by
  have key : ∀ e : Engine, e.results.length ≤ 16 →
      ((if decide (16 ≤ e.results.length) = true then e.results.drop 1 else e.results) ++ [r]).length ≤ 16 := by
    intro e he
    split
    · simp only [List.length_append, List.length_drop, List.length_singleton]
      omega
    · rename_i hn
      simp only [decide_eq_true_eq] at hn
      simp only [List.length_append, List.length_singleton]
      omega
  have lost : ∀ e : Engine, e.resultsLost ≤ 65535 →
      (if decide (16 ≤ e.results.length) = true then saturate 65535 (e.resultsLost + 1) else e.resultsLost) ≤ 65535 := by
    intro e he
    split
    · exact Nat.min_le_left ..
    · exact he
  have h : Calm s { s with eng := { s.eng with
      results := (if decide (16 ≤ s.eng.results.length) = true then s.eng.results.drop 1 else s.eng.results) ++ [r]
      resultsLost := if decide (16 ≤ s.eng.results.length) = true then saturate 65535 (s.eng.resultsLost + 1)
        else s.eng.resultsLost } } :=
    (Calm.refl s).fields rfl id rfl rfl rfl rfl rfl rfl id rfl rfl rfl rfl
      (fun hk => ⟨key _ hk.1, lost _ hk.2.1, hk.2.2⟩) id id
  unfold addResult
  dsimp only
  split
  · exact post_calm h ..
  · exact h

theorem addResult_calm {s t : State} (h : Calm s t) (r : SpliceResult) (notify : Bool) (a : Option Nat) : Calm s (addResult r notify a t) :=
  h.trans (addResult_move r notify a t)

theorem addResult_step {s t : State} (h : Move s t) (r : SpliceResult) (notify : Bool) (a : Option Nat) : Move s (addResult r notify a t) :=
  h.trans (addResult_move r notify a t).toMove

theorem endPending_move (i : Fin 16) (e : Entry) (o : Outcome) (r : Option Reason) (late : Bool) (s : State) : Calm s (endPending i e o r late s) := by
  unfold endPending
  repeat' first
    | with_reducible exact Calm.refl _
    | with_reducible apply setEntryState_calm
    | with_reducible apply addResult_calm
    | dsimp only
    | split
    | refine Calm.fields ?_ rfl id rfl rfl rfl rfl rfl rfl id rfl rfl rfl rfl id id id

theorem endPending_calm {s t : State} (h : Calm s t) (i : Fin 16) (e : Entry) (o : Outcome) (r : Option Reason) (late : Bool) : Calm s (endPending i e o r late t) :=
  h.trans (endPending_move i e o r late t)

theorem endPending_step {s t : State} (h : Move s t) (i : Fin 16) (e : Entry) (o : Outcome) (r : Option Reason) (late : Bool) : Move s (endPending i e o r late t) :=
  h.trans (endPending_move i e o r late t).toMove

theorem skipPending_move (s : State) : Calm s (skipPending s) := by
  unfold skipPending
  refine foldl_calm (fun t i => ?_) placeIds s
  split
  · exact endPending_move ..
  · exact Calm.refl t

theorem skipPending_calm {s t : State} (h : Calm s t) : Calm s (skipPending t) :=
  h.trans (skipPending_move t)

theorem skipPending_step {s t : State} (h : Move s t) : Move s (skipPending t) :=
  h.trans (skipPending_move t).toMove

theorem spendFor_move (tag : SpliceTag) (s : State) : Calm s (spendFor tag s) := by
  unfold spendFor
  repeat' first
    | with_reducible exact Calm.refl _
    | with_reducible apply spendPlaying_calm
    | dsimp only
    | split
    | refine Calm.fields ?_ rfl id rfl rfl rfl rfl rfl rfl id rfl rfl rfl rfl id id id

theorem spendFor_calm {s t : State} (h : Calm s t) (tag : SpliceTag) : Calm s (spendFor tag t) :=
  h.trans (spendFor_move tag t)

theorem spendFor_step {s t : State} (h : Move s t) (tag : SpliceTag) : Move s (spendFor tag t) :=
  h.trans (spendFor_move tag t).toMove

theorem spendAny_move (s : State) : Calm s (spendAny s) := by
  unfold spendAny
  repeat' first
    | with_reducible exact Calm.refl _
    | with_reducible apply spendPlaying_calm
    | dsimp only
    | split
    | refine Calm.fields ?_ rfl id rfl rfl rfl rfl rfl rfl id rfl rfl rfl rfl id id id

theorem spendAny_calm {s t : State} (h : Calm s t) : Calm s (spendAny t) :=
  h.trans (spendAny_move t)

theorem spendAny_step {s t : State} (h : Move s t) : Move s (spendAny t) :=
  h.trans (spendAny_move t).toMove

/-! ### The timeline -/

theorem leaveLaying_limit (t : Timeline) (d : Nat) :
    (leaveLaying t d).coastLimit = t.coastLimit ∧ (leaveLaying t d).mode = t.mode ∧ (leaveLaying t d).coast = 0
      ∧ ((leaveLaying t d).state = .acquiring ∨ (leaveLaying t d).state = .unlocked) := by
  unfold leaveLaying
  dsimp only
  split
  · split
    · exact ⟨rfl, rfl, rfl, Or.inl rfl⟩
    · exact ⟨rfl, rfl, rfl, Or.inr rfl⟩
  · exact ⟨rfl, rfl, rfl, Or.inr rfl⟩

theorem leaveLaying_settings (t : Timeline) (d : Nat) : (leaveLaying t d).settings = t.settings := by
  unfold leaveLaying
  dsimp only
  split
  · split <;> rfl
  · rfl

/-- A timeline that moves, off or on a lock, with no coast. -/
theorem Timeline.ok_of_moving {t : Timeline} (h1 : 1 ≤ t.coastLimit) (h2 : t.coast = 0) (h3 : t.mode ≠ .stop) (h4 : t.mode ≠ .spool)
    (h5 : t.state ≠ .parked) (h6 : t.state ≠ .laying) : t.ok :=
  ⟨⟨h1, by omega, fun _ => h2⟩, ⟨fun h => absurd h h5, fun h => (h.elim h3 h4).elim⟩, fun h => absurd h h6⟩

/-- A timeline that is not PARKED is in a moving mode. -/
theorem Timeline.ok.moving {t : Timeline} (h : t.ok) (h5 : t.state ≠ .parked) : t.mode ≠ .stop ∧ t.mode ≠ .spool :=
  ⟨fun hm => h5 (h.2.1.mpr (Or.inl hm)), fun hm => h5 (h.2.1.mpr (Or.inr hm))⟩

theorem leaveLaying_ok {t : Timeline} (h1 : 1 ≤ t.coastLimit) (h3 : t.mode ≠ .stop) (h4 : t.mode ≠ .spool) (d : Nat) :
    (leaveLaying t d).ok := by
  obtain ⟨a, b, c, e⟩ := leaveLaying_limit t d
  refine Timeline.ok_of_moving (by rw [a]; exact h1) c (by rw [b]; exact h3) (by rw [b]; exact h4) ?_ ?_
  · rcases e with e | e <;> rw [e] <;> decide
  · rcases e with e | e <;> rw [e] <;> decide

theorem endLay_move (s : State) : Calm s (endLay s) := by
  unfold endLay
  split
  · rename_i hl
    refine (Calm.refl s).fields (leaveLaying_settings s.tl s.geo.d) (fun h => ?_) rfl rfl rfl rfl rfl rfl id rfl rfl rfl rfl id id id (fun h => absurd hl h)
    have hp : s.tl.state ≠ .parked := by rw [hl]; decide
    exact leaveLaying_ok h.1.1 (h.moving hp).1 (h.moving hp).2 _
  · exact Calm.refl s

theorem endLay_calm {s t : State} (h : Calm s t) : Calm s (endLay t) :=
  h.trans (endLay_move t)

theorem endLay_step {s t : State} (h : Move s t) : Move s (endLay t) :=
  h.trans (endLay_move t).toMove

/-! ### The end of a splice -/

theorem closeEntry_move (sp : Splice) (o : Outcome) (s : State) : Calm s (closeEntry sp o s) := by
  unfold closeEntry
  repeat' first
    | with_reducible exact Calm.refl _
    | with_reducible apply bumpFresh_calm
    | with_reducible apply setEntryState_calm
    | dsimp only
    | split
    | refine Calm.fields ?_ rfl id rfl rfl rfl rfl rfl rfl id rfl rfl rfl rfl id id id

theorem closeEntry_calm {s t : State} (h : Calm s t) (sp : Splice) (o : Outcome) : Calm s (closeEntry sp o t) :=
  h.trans (closeEntry_move sp o t)

theorem closeEntry_step {s t : State} (h : Move s t) (sp : Splice) (o : Outcome) : Move s (closeEntry sp o t) :=
  h.trans (closeEntry_move sp o t).toMove

theorem nameAfter_move (s : State) : Calm s (nameAfter s) := by
  unfold nameAfter
  repeat' first
    | with_reducible exact Calm.refl _
    | with_reducible apply nameSource_calm
    | dsimp only
    | split
    | refine Calm.fields ?_ rfl id rfl rfl rfl rfl rfl rfl id rfl rfl rfl rfl id id id

theorem nameAfter_calm {s t : State} (h : Calm s t) : Calm s (nameAfter t) :=
  h.trans (nameAfter_move t)

theorem nameAfter_step {s t : State} (h : Move s t) : Move s (nameAfter t) :=
  h.trans (nameAfter_move t).toMove

theorem endOverride_move (sp : Splice) (s : State) : Calm s (endOverride sp s) := by
  unfold endOverride
  repeat' first
    | with_reducible exact Calm.refl _
    | dsimp only
    | split
    | refine Calm.fields ?_ rfl id rfl rfl rfl rfl rfl rfl id rfl rfl rfl rfl id id id

theorem endOverride_calm {s t : State} (h : Calm s t) (sp : Splice) : Calm s (endOverride sp t) :=
  h.trans (endOverride_move sp t)

theorem endOverride_step {s t : State} (h : Move s t) (sp : Splice) : Move s (endOverride sp t) :=
  h.trans (endOverride_move sp t).toMove

theorem endLayOf_move (sp : Splice) (s : State) : Calm s (endLayOf sp s) := by
  unfold endLayOf
  repeat' first
    | with_reducible exact Calm.refl _
    | with_reducible apply endLay_calm
    | dsimp only
    | split
    | refine Calm.fields ?_ rfl id rfl rfl rfl rfl rfl rfl id rfl rfl rfl rfl id id id

theorem endLayOf_calm {s t : State} (h : Calm s t) (sp : Splice) : Calm s (endLayOf sp t) :=
  h.trans (endLayOf_move sp t)

theorem endLayOf_step {s t : State} (h : Move s t) (sp : Splice) : Move s (endLayOf sp t) :=
  h.trans (endLayOf_move sp t).toMove

theorem endSplice_move (o : Outcome) (r : Option Reason) (out : Option Point) (atIn : Bool) (s : State) : Calm s (endSplice o r out atIn s) := by
  unfold endSplice
  repeat' first
    | with_reducible exact Calm.refl _
    | with_reducible apply addResult_calm
    | with_reducible apply spendFor_calm
    | with_reducible apply closeEntry_calm
    | with_reducible apply nameAfter_calm
    | with_reducible apply endOverride_calm
    | with_reducible apply endLayOf_calm
    | dsimp only
    | split
    | refine Calm.fields ?_ rfl id rfl rfl rfl rfl rfl rfl id rfl rfl rfl rfl id id id

theorem endSplice_calm {s t : State} (h : Calm s t) (o : Outcome) (r : Option Reason) (out : Option Point) (atIn : Bool) : Calm s (endSplice o r out atIn t) :=
  h.trans (endSplice_move o r out atIn t)

theorem endSplice_step {s t : State} (h : Move s t) (o : Outcome) (r : Option Reason) (out : Option Point) (atIn : Bool) : Move s (endSplice o r out atIn t) :=
  h.trans (endSplice_move o r out atIn t).toMove

theorem endPass_move (s : State) : Calm s (endPass s) := by
  unfold endPass
  repeat' first
    | with_reducible exact Calm.refl _
    | with_reducible apply post_calm
    | with_reducible apply setEng_calm
    | dsimp only
    | split
    | refine Calm.fields ?_ rfl id rfl rfl rfl rfl rfl rfl id rfl rfl rfl rfl id id id

theorem endPass_calm {s t : State} (h : Calm s t) : Calm s (endPass t) :=
  h.trans (endPass_move t)

theorem endPass_step {s t : State} (h : Move s t) : Move s (endPass t) :=
  h.trans (endPass_move t).toMove

theorem afterSplice_move (punch lay : Bool) (s : State) : Calm s (afterSplice punch lay s) := by
  unfold afterSplice
  repeat' first
    | with_reducible exact Calm.refl _
    | with_reducible apply setEng_calm
    | with_reducible apply endPass_calm
    | dsimp only
    | split
    | refine Calm.fields ?_ rfl id rfl rfl rfl rfl rfl rfl id rfl rfl rfl rfl id id id

theorem afterSplice_calm {s t : State} (h : Calm s t) (punch lay : Bool) : Calm s (afterSplice punch lay t) :=
  h.trans (afterSplice_move punch lay t)

theorem afterSplice_step {s t : State} (h : Move s t) (punch lay : Bool) : Move s (afterSplice punch lay t) :=
  h.trans (afterSplice_move punch lay t).toMove

theorem finishSplice_move (o : Outcome) (r : Option Reason) (out : Option Point) (atIn : Bool) (s : State) : Calm s (finishSplice o r out atIn s) := by
  unfold finishSplice
  repeat' first
    | with_reducible exact Calm.refl _
    | with_reducible apply endSplice_calm
    | with_reducible apply afterSplice_calm
    | dsimp only
    | split
    | refine Calm.fields ?_ rfl id rfl rfl rfl rfl rfl rfl id rfl rfl rfl rfl id id id

theorem finishSplice_calm {s t : State} (h : Calm s t) (o : Outcome) (r : Option Reason) (out : Option Point) (atIn : Bool) : Calm s (finishSplice o r out atIn t) :=
  h.trans (finishSplice_move o r out atIn t)

theorem finishSplice_step {s t : State} (h : Move s t) (o : Outcome) (r : Option Reason) (out : Option Point) (atIn : Bool) : Move s (finishSplice o r out atIn t) :=
  h.trans (finishSplice_move o r out atIn t).toMove

theorem completeSplice_move (s : State) : Calm s (completeSplice s) := by
  unfold completeSplice
  repeat' first
    | with_reducible exact Calm.refl _
    | with_reducible apply finishSplice_calm
    | dsimp only
    | split
    | refine Calm.fields ?_ rfl id rfl rfl rfl rfl rfl rfl id rfl rfl rfl rfl id id id

theorem completeSplice_calm {s t : State} (h : Calm s t) : Calm s (completeSplice t) :=
  h.trans (completeSplice_move t)

theorem completeSplice_step {s t : State} (h : Move s t) : Move s (completeSplice t) :=
  h.trans (completeSplice_move t).toMove

theorem breakLay_move (s : State) : Calm s (breakLay s) := by
  unfold breakLay
  repeat' first
    | with_reducible exact Calm.refl _
    | with_reducible apply endPending_calm
    | dsimp only
    | split
    | refine Calm.fields ?_ rfl id rfl rfl rfl rfl rfl rfl id rfl rfl rfl rfl id id id

theorem breakLay_calm {s t : State} (h : Calm s t) : Calm s (breakLay t) :=
  h.trans (breakLay_move t)

theorem breakLay_step {s t : State} (h : Move s t) : Move s (breakLay t) :=
  h.trans (breakLay_move t).toMove

theorem engineBreak_move (s : State) : Calm s (engineBreak s) := by
  unfold engineBreak
  repeat' first
    | with_reducible exact Calm.refl _
    | with_reducible apply nameSource_calm
    | with_reducible apply setEng_calm
    | with_reducible apply spendAny_calm
    | with_reducible apply endSplice_calm
    | with_reducible apply endPass_calm
    | with_reducible apply breakLay_calm
    | dsimp only
    | split
    | refine Calm.fields ?_ rfl id rfl rfl rfl rfl rfl rfl id rfl rfl rfl rfl id id id

theorem engineBreak_calm {s t : State} (h : Calm s t) : Calm s (engineBreak t) :=
  h.trans (engineBreak_move t)

theorem engineBreak_step {s t : State} (h : Move s t) : Move s (engineBreak t) :=
  h.trans (engineBreak_move t).toMove

theorem engineGain_move (s : State) : Calm s (engineGain s) := by
  unfold engineGain
  repeat' first
    | with_reducible exact Calm.refl _
    | with_reducible apply setEng_calm
    | dsimp only
    | split
    | refine Calm.fields ?_ rfl id rfl rfl rfl rfl rfl rfl id rfl rfl rfl rfl id id id

theorem engineGain_calm {s t : State} (h : Calm s t) : Calm s (engineGain t) :=
  h.trans (engineGain_move t)

theorem engineGain_step {s t : State} (h : Move s t) : Move s (engineGain t) :=
  h.trans (engineGain_move t).toMove

theorem countFault_move (tag : SpliceTag) (s : State) : Calm s (countFault tag s) := by
  have key : ∀ f : SpliceResult → SpliceResult, s.eng.ok → ({ s.eng with results := s.eng.results.map f } : Engine).ok :=
    fun f h => ⟨by simpa using h.1, h.2⟩
  unfold countFault
  split
  · split
    · exact (Calm.refl s).fields rfl id rfl rfl rfl rfl rfl rfl id rfl rfl rfl rfl id id id
    · exact (Calm.refl s).fields rfl id rfl rfl rfl rfl rfl rfl id rfl rfl rfl rfl (key _) id id
  · exact (Calm.refl s).fields rfl id rfl rfl rfl rfl rfl rfl id rfl rfl rfl rfl (key _) id id

theorem countFault_calm {s t : State} (h : Calm s t) (tag : SpliceTag) : Calm s (countFault tag t) :=
  h.trans (countFault_move tag t)

theorem countFault_step {s t : State} (h : Move s t) (tag : SpliceTag) : Move s (countFault tag t) :=
  h.trans (countFault_move tag t).toMove

/-! ### The record gate -/

theorem dropOp_move (op : CodingOp) (s : State) : Calm s (dropOp op s) := by
  unfold dropOp
  repeat' first
    | with_reducible exact Calm.refl _
    | with_reducible apply abandonSlot_calm
    | with_reducible apply releaseOpt_calm
    | dsimp only
    | split
    | refine Calm.fields ?_ rfl id rfl rfl rfl rfl rfl rfl id rfl rfl rfl rfl id id id

theorem dropOp_calm {s t : State} (h : Calm s t) (op : CodingOp) : Calm s (dropOp op t) :=
  h.trans (dropOp_move op t)

theorem dropOp_step {s t : State} (h : Move s t) (op : CodingOp) : Move s (dropOp op t) :=
  h.trans (dropOp_move op t).toMove

theorem abandonOps_move (f : CodingOp → Bool) (s : State) : Calm s (abandonOps f s) := by
  unfold abandonOps
  refine Calm.trans ?_ (foldl_calm (fun t op => dropOp_move op t) _ _)
  exact (Calm.refl s).fields rfl id rfl rfl rfl rfl rfl rfl id rfl rfl rfl rfl id id id

theorem abandonOps_calm {s t : State} (h : Calm s t) (f : CodingOp → Bool) : Calm s (abandonOps f t) :=
  h.trans (abandonOps_move f t)

theorem abandonOps_step {s t : State} (h : Move s t) (f : CodingOp → Bool) : Move s (abandonOps f t) :=
  h.trans (abandonOps_move f t).toMove

theorem releaseFilling_move (s : State) : Calm s (releaseFilling s) := by
  unfold releaseFilling
  refine Calm.trans ?_ (foldl_calm (fun t op => abandonSlot_calm (Calm.refl t) _) _ _)
  exact (Calm.refl s).fields rfl id rfl rfl rfl rfl rfl rfl id rfl rfl rfl rfl id id id

theorem releaseFilling_calm {s t : State} (h : Calm s t) : Calm s (releaseFilling t) :=
  h.trans (releaseFilling_move t)

theorem releaseUnwritten_move (s : State) : Calm s (releaseUnwritten s) := by
  unfold releaseUnwritten
  repeat' first
    | with_reducible exact Calm.refl _
    | with_reducible apply releaseFilling_calm
    | with_reducible apply releaseAll_calm
    | dsimp only
    | split
    | refine Calm.fields ?_ rfl id rfl rfl rfl rfl rfl rfl id rfl rfl rfl rfl id id id

theorem releaseUnwritten_calm {s t : State} (h : Calm s t) : Calm s (releaseUnwritten t) :=
  h.trans (releaseUnwritten_move t)

theorem releaseUnwritten_step {s t : State} (h : Move s t) : Move s (releaseUnwritten t) :=
  h.trans (releaseUnwritten_move t).toMove

theorem closeGate_move (s : State) : Calm s (closeGate s) :=
  (Calm.refl s).fields rfl id rfl rfl rfl rfl rfl rfl (fun _ => ⟨⟨nofun, fun h => nomatch h⟩, fun _ h => nomatch h⟩) rfl rfl rfl rfl id id id

theorem closeGate_calm {s t : State} (h : Calm s t) : Calm s (closeGate t) :=
  h.trans (closeGate_move t)

theorem closeGate_step {s t : State} (h : Move s t) : Move s (closeGate t) :=
  h.trans (closeGate_move t).toMove

theorem markPartial_move (s : State) : Calm s (markPartial s) := by
  unfold markPartial
  repeat' first
    | with_reducible exact Calm.refl _
    | dsimp only
    | split
    | refine Calm.fields ?_ rfl id rfl rfl rfl rfl rfl rfl id rfl rfl rfl rfl id id id

theorem markPartial_calm {s t : State} (h : Calm s t) : Calm s (markPartial t) :=
  h.trans (markPartial_move t)

theorem markPartial_step {s t : State} (h : Move s t) : Move s (markPartial t) :=
  h.trans (markPartial_move t).toMove

theorem closeByCut_move (s : State) : Calm s (closeByCut s) := by
  unfold closeByCut
  repeat' first
    | with_reducible exact Calm.refl _
    | with_reducible apply abandonOps_calm
    | with_reducible apply releaseUnwritten_calm
    | with_reducible apply closeGate_calm
    | with_reducible apply markPartial_calm
    | dsimp only
    | split
    | refine Calm.fields ?_ rfl id rfl rfl rfl rfl rfl rfl id rfl rfl rfl rfl id id id

theorem closeByCut_calm {s t : State} (h : Calm s t) : Calm s (closeByCut t) :=
  h.trans (closeByCut_move t)

theorem closeByCut_step {s t : State} (h : Move s t) : Move s (closeByCut t) :=
  h.trans (closeByCut_move t).toMove

theorem cutGate_move (c : CutCause) (s : State) : Calm s (cutGate c s) := by
  unfold cutGate
  repeat' first
    | with_reducible exact Calm.refl _
    | with_reducible apply post_calm
    | with_reducible apply finishSplice_calm
    | with_reducible apply releaseUnwritten_calm
    | with_reducible apply closeByCut_calm
    | dsimp only
    | split
    | refine Calm.fields ?_ rfl id rfl rfl rfl rfl rfl rfl id rfl rfl rfl rfl id id id

/-- A cut after the write in progress has ended, of a gate that was OPEN or not, leaves the gate CLOSED (R104). -/
theorem cutWritten_move (c : CutCause) (s : State) : Calm s (cutGate c (endWrite s)) := by
  have hw : s.gate.state = .closed → Calm s (endWrite s) := fun hc =>
    (Calm.refl s).fields rfl id rfl rfl rfl rfl rfl rfl
      (fun _ => ⟨⟨nofun, fun h => by rw [show s.gate.state = .closed from hc] at h; exact nomatch h⟩, fun _ h => nomatch h⟩) rfl rfl rfl rfl id id id
  have hb : Calm s (closeByCut (endWrite s)) := by
    have h : Calm s (closeGate (markPartial (endWrite s))) := closeGate_move s
    unfold closeByCut
    dsimp only
    exact (releaseUnwritten_calm (abandonOps_calm h _)).fields rfl id rfl rfl rfl rfl rfl rfl id rfl rfl rfl rfl id id id
  unfold cutGate
  split
  · have h := hw ‹_›
    split
    · exact releaseUnwritten_calm h
    · exact releaseUnwritten_calm h
    · exact h
  · dsimp only
    split
    · exact finishSplice_calm hb ..
    · exact finishSplice_calm hb ..
    · exact finishSplice_calm hb ..
    · exact finishSplice_calm (post_calm hb ..) ..
    all_goals exact hb

theorem cutWritten_calm {s t : State} (h : Calm s t) (c : CutCause) : Calm s (cutGate c (endWrite t)) :=
  h.trans (cutWritten_move c t)

theorem cutGate_calm {s t : State} (h : Calm s t) (c : CutCause) : Calm s (cutGate c t) :=
  h.trans (cutGate_move c t)

theorem cutGate_step {s t : State} (h : Move s t) (c : CutCause) : Move s (cutGate c t) :=
  h.trans (cutGate_move c t).toMove

theorem rehearseCut_move (o : Outcome) (r : Option Reason) (out : Option Point) (s : State) : Calm s (rehearseCut o r out s) := by
  unfold rehearseCut
  repeat' first
    | with_reducible exact Calm.refl _
    | with_reducible apply finishSplice_calm
    | with_reducible apply abandonOps_calm
    | split

theorem rehearseCut_calm {s t : State} (h : Calm s t) (o : Outcome) (r : Option Reason) (out : Option Point) :
    Calm s (rehearseCut o r out t) :=
  h.trans (rehearseCut_move o r out t)

theorem rehearseCut_step {s t : State} (h : Move s t) (o : Outcome) (r : Option Reason) (out : Option Point) :
    Move s (rehearseCut o r out t) :=
  h.trans (rehearseCut_move o r out t).toMove

theorem rehearseGuard_move (s : State) : Calm s (rehearseGuard s) := by
  unfold rehearseGuard
  repeat' first
    | with_reducible exact Calm.refl _
    | with_reducible apply rehearseCut_calm
    | split

theorem schedule_move (tag : SpliceTag) (first : Option Nat) (s : State) : Calm s (schedule tag first s).2 := by
  unfold schedule
  split
  · exact Calm.refl s
  · rename_i hr
    have hc : s.gate.state = .closed := by
      unfold scheduleRefusal at hr
      split at hr
      · exact nomatch hr
      · exact not_not.mp ‹_›
    refine (Calm.refl s).fields rfl id rfl rfl rfl rfl rfl rfl (fun h => ⟨⟨fun hw => ?_, fun h => nomatch h⟩, h.2⟩) rfl rfl rfl rfl id id id
    have := h.1.mp hw
    rw [hc] at this
    exact nomatch this

theorem schedule_calm {s t : State} (h : Calm s t) (tag : SpliceTag) (first : Option Nat) : Calm s (schedule tag first t).2 :=
  h.trans (schedule_move tag first t)

theorem schedule_step {s t : State} (h : Move s t) (tag : SpliceTag) (first : Option Nat) : Move s (schedule tag first t).2 :=
  h.trans (schedule_move tag first t).toMove

theorem withdraw_move (tag : SpliceTag) (s : State) : Calm s (withdraw tag s) := by
  unfold withdraw
  repeat' first
    | with_reducible exact Calm.refl _
    | with_reducible apply closeGate_calm
    | dsimp only
    | split
    | refine Calm.fields ?_ rfl id rfl rfl rfl rfl rfl rfl id rfl rfl rfl rfl id id id

theorem withdraw_calm {s t : State} (h : Calm s t) (tag : SpliceTag) : Calm s (withdraw tag t) :=
  h.trans (withdraw_move tag t)

theorem withdraw_step {s t : State} (h : Move s t) (tag : SpliceTag) : Move s (withdraw tag t) :=
  h.trans (withdraw_move tag t).toMove

theorem requestFinal_move (s : State) : Calm s (requestFinal s) := by
  unfold requestFinal
  repeat' first
    | with_reducible exact Calm.refl _
    | dsimp only
    | split
    | refine Calm.fields ?_ rfl id rfl rfl rfl rfl rfl rfl id rfl rfl rfl rfl id id id

theorem requestFinal_calm {s t : State} (h : Calm s t) : Calm s (requestFinal t) :=
  h.trans (requestFinal_move t)

theorem requestFinal_step {s t : State} (h : Move s t) : Move s (requestFinal t) :=
  h.trans (requestFinal_move t).toMove

theorem reportWrite_move (tag : SpliceTag) (hd : Option Header) (s : State) : Calm s (reportWrite tag hd s) := by
  unfold reportWrite
  repeat' first
    | with_reducible exact Calm.refl _
    | dsimp only
    | split
    | refine Calm.fields ?_ rfl id rfl rfl rfl rfl rfl rfl id rfl rfl rfl rfl id id id

theorem reportWrite_calm {s t : State} (h : Calm s t) (tag : SpliceTag) (hd : Option Header) : Calm s (reportWrite tag hd t) :=
  h.trans (reportWrite_move tag hd t)

theorem reportWrite_step {s t : State} (h : Move s t) (tag : SpliceTag) (hd : Option Header) : Move s (reportWrite tag hd t) :=
  h.trans (reportWrite_move tag hd t).toMove

/-- A write begins only for a frame that is not guarded (R103, R105). -/
theorem beginWrite_move {tag : SpliceTag} {a : Nat} {i : SlotId} {s : State} (h : guarded s.guard a = false) :
    Calm s (beginWrite tag a i s) := by
  unfold beginWrite
  dsimp only
  refine reportWrite_calm ?_ ..
  refine (Calm.refl s).fields rfl id rfl rfl rfl rfl rfl rfl (fun _ => ⟨⟨fun _ => ?_, fun _ => rfl⟩, fun w hw => ?_⟩) rfl rfl rfl rfl id id id
  · dsimp only
    split
    · exact Or.inr rfl
    · exact Or.inl rfl
  · obtain rfl : _ = w := Option.some.inj hw
    exact h

theorem abandonUpTo_move (a : Nat) (s : State) : Calm s (abandonUpTo a s) := by
  unfold abandonUpTo
  repeat' first
    | with_reducible exact Calm.refl _
    | with_reducible apply abandonOps_calm
    | dsimp only
    | split
    | refine Calm.fields ?_ rfl id rfl rfl rfl rfl rfl rfl id rfl rfl rfl rfl id id id

theorem abandonUpTo_calm {s t : State} (h : Calm s t) (a : Nat) : Calm s (abandonUpTo a t) :=
  h.trans (abandonUpTo_move a t)

theorem abandonUpTo_step {s t : State} (h : Move s t) (a : Nat) : Move s (abandonUpTo a t) :=
  h.trans (abandonUpTo_move a t).toMove

theorem tryWrite_move (tag : SpliceTag) (expected a : Nat) (s : State) : Calm s (tryWrite tag expected a s) := by
  unfold tryWrite
  split
  · exact cutWritten_move ..
  · split
    · exact cutWritten_calm (abandonUpTo_move ..) ..
    · split
      · exact cutWritten_move ..
      · split
        · exact cutWritten_move ..
        · rename_i hg
          exact beginWrite_move (by
            simp only [barred, Bool.or_eq_true, not_or, Bool.not_eq_true] at hg
            exact hg.1)

theorem tryWrite_calm {s t : State} (h : Calm s t) (tag : SpliceTag) (expected a : Nat) : Calm s (tryWrite tag expected a t) :=
  h.trans (tryWrite_move tag expected a t)

theorem tryWrite_step {s t : State} (h : Move s t) (tag : SpliceTag) (expected a : Nat) : Move s (tryWrite tag expected a t) :=
  h.trans (tryWrite_move tag expected a t).toMove

theorem gateEnter_move (a : Nat) (s : State) : Calm s (gateEnter a s) := by
  unfold gateEnter
  split
  · exact Calm.refl s
  · exact completeSplice_calm (closeGate_move s)
  · split
    · exact Calm.refl s
    · split
      · exact Calm.refl s
      · exact tryWrite_move ..
  · split
    · exact Calm.refl s
    · exact tryWrite_move ..
  · exact Calm.refl s

theorem gateEnter_calm {s t : State} (h : Calm s t) (a : Nat) : Calm s (gateEnter a t) :=
  h.trans (gateEnter_move a t)

theorem gateEnter_step {s t : State} (h : Move s t) (a : Nat) : Move s (gateEnter a t) :=
  h.trans (gateEnter_move a t).toMove

theorem releasePassed_move (a : Nat) (s : State) : Calm s (releasePassed a s) := by
  unfold releasePassed
  repeat' first
    | with_reducible exact Calm.refl _
    | with_reducible apply releaseAll_calm
    | dsimp only
    | split
    | refine Calm.fields ?_ rfl id rfl rfl rfl rfl rfl rfl id rfl rfl rfl rfl id id id

theorem releasePassed_calm {s t : State} (h : Calm s t) (a : Nat) : Calm s (releasePassed a t) :=
  h.trans (releasePassed_move a t)

theorem releasePassed_step {s t : State} (h : Move s t) (a : Nat) : Move s (releasePassed a t) :=
  h.trans (releasePassed_move a t).toMove

theorem emitSector_move (s : State) : Calm s (emitSector s) := by
  unfold emitSector
  split
  · exact Calm.refl s
  · rename_i w hw
    split
    · exact Calm.refl s
    · split
      · exact Calm.refl s
      · refine (Calm.refl s).fields rfl id rfl rfl rfl rfl rfl rfl (fun h => ⟨⟨fun _ => ?_, fun _ => rfl⟩, fun x hx => ?_⟩) rfl rfl rfl rfl id id id
        · exact h.1.mp (by rw [hw]; rfl)
        · obtain rfl : _ = x := Option.some.inj hx
          exact h.2 w hw

theorem emitSector_calm {s t : State} (h : Calm s t) : Calm s (emitSector t) :=
  h.trans (emitSector_move t)

theorem emitSector_step {s t : State} (h : Move s t) : Move s (emitSector t) :=
  h.trans (emitSector_move t).toMove

theorem guardChanged_move (s : State) : Calm s (guardChanged s) := by
  unfold guardChanged
  repeat' first
    | with_reducible exact Calm.refl _
    | exact rehearseGuard_move s
    | exact cutGate_move _ s
    | split

/-! ### The Confidence Judge -/

theorem countRun_ok (e : JudgeEntry) (f : Bool) {x : Gate} {g : Guard} (h : x.ok g) : (countRun e f x).ok g := by
  unfold countRun
  dsimp only
  split
  · exact h
  · split <;> exact h

theorem countRun_limit (e : JudgeEntry) (f : Bool) (x : Gate) : (countRun e f x).faultLimit = x.faultLimit := by
  unfold countRun
  dsimp only
  split
  · rfl
  · split <;> rfl

theorem judgeEntry_move (e : JudgeEntry) (x : Option Slot) (s : State) : Calm s (judgeEntry e x s) := by
  unfold judgeEntry
  have h : Calm s (releaseOrDue e.slot { s with
      judge := s.judge.erase e, gate := countRun e (faultSubject e x).isSome s.gate }) :=
    releaseOrDue_calm ((Calm.refl s).fields rfl id rfl rfl rfl rfl rfl (countRun_limit ..) (countRun_ok e _) rfl rfl rfl rfl id id id) ..
  dsimp only
  split
  · exact h
  · split
    · exact post_calm h ..
    · exact post_calm (countFault_calm h ..) ..

theorem judgeEntry_calm {s t : State} (h : Calm s t) (e : JudgeEntry) (x : Option Slot) : Calm s (judgeEntry e x t) :=
  h.trans (judgeEntry_move e x t)

theorem judgeEntry_step {s t : State} (h : Move s t) (e : JudgeEntry) (x : Option Slot) : Move s (judgeEntry e x t) :=
  h.trans (judgeEntry_move e x t).toMove

theorem judgeClose_move (n : Nat) (x : Option Slot) (s : State) : Calm s (judgeClose n x s) :=
  foldl_calm (fun t e => judgeEntry_move e x t) _ s

theorem judgeClose_calm {s t : State} (h : Calm s t) (n : Nat) (x : Option Slot) : Calm s (judgeClose n x t) :=
  h.trans (judgeClose_move n x t)

theorem judgeClose_step {s t : State} (h : Move s t) (n : Nat) (x : Option Slot) : Move s (judgeClose n x t) :=
  h.trans (judgeClose_move n x t).toMove

theorem tickJudge_move (s : State) : Calm s (tickJudge s) := by
  unfold tickJudge
  repeat' first
    | with_reducible exact Calm.refl _
    | dsimp only
    | split
    | refine Calm.fields ?_ rfl id rfl rfl rfl rfl rfl rfl id rfl rfl rfl rfl id id id

theorem tickJudge_calm {s t : State} (h : Calm s t) : Calm s (tickJudge t) :=
  h.trans (tickJudge_move t)

theorem tickJudge_step {s t : State} (h : Move s t) : Move s (tickJudge t) :=
  h.trans (tickJudge_move t).toMove

theorem dropUnjudged_move (s : State) : Calm s (dropUnjudged s) := by
  unfold dropUnjudged
  repeat' first
    | with_reducible exact Calm.refl _
    | with_reducible apply releaseAll_calm
    | dsimp only
    | split
    | refine Calm.fields ?_ rfl id rfl rfl rfl rfl rfl rfl id rfl rfl rfl rfl id id id

theorem dropUnjudged_calm {s t : State} (h : Calm s t) : Calm s (dropUnjudged t) :=
  h.trans (dropUnjudged_move t)

theorem dropUnjudged_step {s t : State} (h : Move s t) : Move s (dropUnjudged t) :=
  h.trans (dropUnjudged_move t).toMove

end Sys2Proof.Machine
end

