-- ==== Sys2Proof/Laws/MoveProgram.lean ====
section
/-! SUPPORT. Programs, punches, the timeline, capture, concealment, cues and closes are calm moves (Laws/Move.lean). -/

set_option Elab.async false

set_option linter.unreachableTactic false
set_option linter.unusedTactic false

namespace Sys2Proof.Machine

/-! ### Programs and punches -/

theorem nextTake_range {s : State} (h : s.eng.ok) : 1 ≤ nextTake s ∧ nextTake s ≤ 255 := by
  unfold nextTake
  obtain ⟨_, _, _, _⟩ := h
  split <;> omega

theorem acceptStart_move (m : RunMode) (passes : Nat) (s : State) : Calm s (acceptStart m passes s) := by
  unfold acceptStart
  extract_lets take e s1 target src s2
  have h1 : Calm s s1 := by
    refine (Calm.refl s).fields rfl id rfl rfl rfl rfl rfl rfl id rfl rfl rfl rfl (fun h => ⟨h.1, h.2.1, ?_⟩) id id
    have hn := nextTake_range h
    obtain ⟨_, _, hc⟩ := h
    show 1 ≤ (if m = .record then take else e.takeCounter) ∧ (if m = .record then take else e.takeCounter) ≤ 255
    split
    · exact hn
    · exact hc
  have located : ∀ (u : State) (_ : Calm s u) (x : Nat), Calm s { u with eng := { u.eng with locate := x } } :=
    fun u k x => k.fields rfl id rfl rfl rfl rfl rfl rfl id rfl rfl rfl rfl id id id
  have h2 : Calm s s2 := located s1 h1 target
  clear_value s2
  split
  · exact h2
  · split
    · with_reducible apply setEng_calm
      with_reducible apply nameSource_calm
      exact h2.fields rfl id rfl rfl rfl rfl rfl rfl id rfl rfl rfl rfl id id id
    · exact Calm.ite (fun _ => setEng_calm h2 _) fun _ => setEng_calm (post_calm h2 ..) _

theorem acceptStart_calm {s t : State} (h : Calm s t) (m : RunMode) (passes : Nat) : Calm s (acceptStart m passes t) :=
  h.trans (acceptStart_move m passes t)

theorem acceptStart_step {s t : State} (h : Move s t) (m : RunMode) (passes : Nat) : Move s (acceptStart m passes t) :=
  h.trans (acceptStart_move m passes t).toMove

theorem startProgram_move (m : RunMode) (passes : Nat) (version : Option Nat) (s : State) : Calm s (startProgram m passes version s).1 := by
  unfold startProgram
  repeat' first
    | with_reducible exact Calm.refl _
    | with_reducible apply acceptStart_calm
    | dsimp only
    | split
    | refine Calm.fields ?_ rfl id rfl rfl rfl rfl rfl rfl id rfl rfl rfl rfl id id id

theorem startProgram_calm {s t : State} (h : Calm s t) (m : RunMode) (passes : Nat) (version : Option Nat) : Calm s (startProgram m passes version t).1 :=
  h.trans (startProgram_move m passes version t)

theorem startProgram_step {s t : State} (h : Move s t) (m : RunMode) (passes : Nat) (version : Option Nat) : Move s (startProgram m passes version t).1 :=
  h.trans (startProgram_move m passes version t).toMove

theorem dropProgram_move (s : State) : Calm s (dropProgram s) := by
  unfold dropProgram
  extract_lets s1 src
  have h1 : Calm s s1 := skipPending_move s
  clear_value s1
  with_reducible apply endLay_calm
  with_reducible apply nameSource_calm
  with_reducible apply spendAny_calm
  exact h1.fields rfl id rfl rfl rfl rfl rfl rfl id rfl rfl rfl rfl id id id

theorem dropProgram_calm {s t : State} (h : Calm s t) : Calm s (dropProgram t) :=
  h.trans (dropProgram_move t)

theorem dropProgram_step {s t : State} (h : Move s t) : Move s (dropProgram t) :=
  h.trans (dropProgram_move t).toMove

theorem stopSplice_move (s : State) : Calm s (stopSplice s) := by
  unfold stopSplice
  repeat' first
    | with_reducible exact Calm.refl _
    | with_reducible apply endSplice_calm
    | with_reducible apply abandonOps_calm
    | with_reducible apply cutGate_calm
    | dsimp only
    | split
    | refine Calm.fields ?_ rfl id rfl rfl rfl rfl rfl rfl id rfl rfl rfl rfl id id id

theorem stopSplice_calm {s t : State} (h : Calm s t) : Calm s (stopSplice t) :=
  h.trans (stopSplice_move t)

theorem stopSplice_step {s t : State} (h : Move s t) : Move s (stopSplice t) :=
  h.trans (stopSplice_move t).toMove

theorem stopNow_move (s : State) : Calm s (stopNow s).1 := by
  unfold stopNow
  repeat' first
    | with_reducible exact Calm.refl _
    | with_reducible apply setEng_calm
    | with_reducible apply dropProgram_calm
    | with_reducible apply stopSplice_calm
    | dsimp only
    | split
    | refine Calm.fields ?_ rfl id rfl rfl rfl rfl rfl rfl id rfl rfl rfl rfl id id id

theorem stopNow_calm {s t : State} (h : Calm s t) : Calm s (stopNow t).1 :=
  h.trans (stopNow_move t)

theorem stopNow_step {s t : State} (h : Move s t) : Move s (stopNow t).1 :=
  h.trans (stopNow_move t).toMove

theorem dropAhead_move (s : State) : Calm s (dropAhead s) := by
  unfold dropAhead
  extract_lets s1 s2 s3
  have h1 : Calm s s1 := skipPending_move s
  have h2 : Calm s s2 := Calm.ite (fun _ => spendAny_calm h1) fun _ => h1
  have h3 : Calm s s3 := Calm.ite (fun _ => h2) fun _ => nameSource_calm h2 _
  clear_value s3
  exact h3.fields rfl id rfl rfl rfl rfl rfl rfl id rfl rfl rfl rfl id id id

theorem dropAhead_calm {s t : State} (h : Calm s t) : Calm s (dropAhead t) :=
  h.trans (dropAhead_move t)

theorem dropAhead_step {s t : State} (h : Move s t) : Move s (dropAhead t) :=
  h.trans (dropAhead_move t).toMove

theorem stopAtEnd_move (s : State) : Calm s (stopAtEnd s).1 := by
  unfold stopAtEnd
  repeat' first
    | with_reducible exact Calm.refl _
    | with_reducible apply setEng_calm
    | with_reducible apply requestFinal_calm
    | with_reducible apply dropProgram_calm
    | with_reducible apply dropAhead_calm
    | dsimp only
    | split
    | refine Calm.fields ?_ rfl id rfl rfl rfl rfl rfl rfl id rfl rfl rfl rfl id id id

theorem stopAtEnd_calm {s t : State} (h : Calm s t) : Calm s (stopAtEnd t).1 :=
  h.trans (stopAtEnd_move t)

theorem stopAtEnd_step {s t : State} (h : Move s t) : Move s (stopAtEnd t).1 :=
  h.trans (stopAtEnd_move t).toMove

theorem postScheduleRefusal_move (c : ScheduleRefusal) (a : Option Nat) (s : State) : Calm s (postScheduleRefusal c a s) := by
  unfold postScheduleRefusal
  repeat' first
    | with_reducible exact Calm.refl _
    | with_reducible apply post_calm
    | dsimp only
    | split
    | refine Calm.fields ?_ rfl id rfl rfl rfl rfl rfl rfl id rfl rfl rfl rfl id id id

theorem postScheduleRefusal_calm {s t : State} (h : Calm s t) (c : ScheduleRefusal) (a : Option Nat) : Calm s (postScheduleRefusal c a t) :=
  h.trans (postScheduleRefusal_move c a t)

theorem postScheduleRefusal_step {s t : State} (h : Move s t) (c : ScheduleRefusal) (a : Option Nat) : Move s (postScheduleRefusal c a t) :=
  h.trans (postScheduleRefusal_move c a t).toMove

theorem punchBank_move (tag : SpliceTag) (s : State) : Calm s (punchBank tag s) := by
  unfold punchBank
  repeat' first
    | with_reducible exact Calm.refl _
    | with_reducible apply post_calm
    | with_reducible apply askBank_calm
    | with_reducible apply endSplice_calm
    | with_reducible apply withdraw_calm
    | dsimp only
    | split
    | refine Calm.fields ?_ rfl id rfl rfl rfl rfl rfl rfl id rfl rfl rfl rfl id id id

theorem punchBank_calm {s t : State} (h : Calm s t) (tag : SpliceTag) : Calm s (punchBank tag t) :=
  h.trans (punchBank_move tag t)

theorem punchBank_step {s t : State} (h : Move s t) (tag : SpliceTag) : Move s (punchBank tag t) :=
  h.trans (punchBank_move tag t).toMove

theorem openPunch_move (s : State) : Calm s (openPunch s) := by
  unfold openPunch
  extract_lets take fade sp src s1
  have h1 : Calm s s1 := by
    with_reducible apply nameSource_calm
    exact (Calm.refl s).fields rfl id rfl rfl rfl rfl rfl rfl id rfl rfl rfl rfl
      (fun h => ⟨h.1, h.2.1, nextTake_range h⟩) id id
  clear_value s1
  have h2 := schedule_calm h1 sp.tag none
  split
  · rename_i hs
    rw [hs] at h2
    exact endSplice_calm (postScheduleRefusal_calm h2 ..) ..
  · rename_i hs
    rw [hs] at h2
    exact Calm.ite (fun _ => punchBank_calm h2 _) fun _ => h2

theorem openPunch_calm {s t : State} (h : Calm s t) : Calm s (openPunch t) :=
  h.trans (openPunch_move t)

theorem openPunch_step {s t : State} (h : Move s t) : Move s (openPunch t) :=
  h.trans (openPunch_move t).toMove

theorem punchIn_move (s : State) : Calm s (punchIn s).1 := by
  unfold punchIn
  repeat' first
    | with_reducible exact Calm.refl _
    | with_reducible apply openPunch_calm
    | dsimp only
    | split
    | refine Calm.fields ?_ rfl id rfl rfl rfl rfl rfl rfl id rfl rfl rfl rfl id id id

theorem punchIn_calm {s t : State} (h : Calm s t) : Calm s (punchIn t).1 :=
  h.trans (punchIn_move t)

theorem punchIn_step {s t : State} (h : Move s t) : Move s (punchIn t).1 :=
  h.trans (punchIn_move t).toMove

theorem punchOut_move (s : State) : Calm s (punchOut s).1 := by
  unfold punchOut
  repeat' first
    | with_reducible exact Calm.refl _
    | with_reducible apply requestFinal_calm
    | dsimp only
    | split
    | refine Calm.fields ?_ rfl id rfl rfl rfl rfl rfl rfl id rfl rfl rfl rfl id id id

theorem punchOut_calm {s t : State} (h : Calm s t) : Calm s (punchOut t).1 :=
  h.trans (punchOut_move t)

theorem punchOut_step {s t : State} (h : Move s t) : Move s (punchOut t).1 :=
  h.trans (punchOut_move t).toMove

theorem punchToggle_move (s : State) : Calm s (punchToggle s).1 := by
  unfold punchToggle
  repeat' first
    | with_reducible exact Calm.refl _
    | with_reducible apply punchIn_calm
    | with_reducible apply punchOut_calm
    | dsimp only
    | split
    | refine Calm.fields ?_ rfl id rfl rfl rfl rfl rfl rfl id rfl rfl rfl rfl id id id

theorem punchToggle_calm {s t : State} (h : Calm s t) : Calm s (punchToggle t).1 :=
  h.trans (punchToggle_move t)

theorem punchToggle_step {s t : State} (h : Move s t) : Move s (punchToggle t).1 :=
  h.trans (punchToggle_move t).toMove


end Sys2Proof.Machine
end

