-- ==== Sys2Proof/Laws/MoveTimeline.lean ====
section
/-! SUPPORT. The Timeline Unit's changes of record are moves (Laws/Move.lean). -/

set_option Elab.async false

set_option linter.unreachableTactic false
set_option linter.unusedTactic false

namespace Sys2Proof.Machine

/-! ### What a change of record keeps -/

/-- The posting and the Coast Limit stay, and the timeline's laws, where they held, hold. -/
structure Timeline.Follows (t u : Timeline) : Prop where
  settings : u.settings = t.settings
  ok : t.ok → u.ok

theorem Timeline.Follows.refl (t : Timeline) : t.Follows t := ⟨rfl, id⟩

theorem Timeline.settings_limit {t u : Timeline} (h : u.settings = t.settings) : u.coastLimit = t.coastLimit :=
  congrArg TimelineSettings.coastLimit h

theorem Timeline.settings_mode {t u : Timeline} (h : u.settings = t.settings) : u.mode = t.mode :=
  congrArg TimelineSettings.mode h

/-- A record that differs only in places that no law of the timeline reads. -/
theorem Timeline.ok_congr {t u : Timeline} (h : t.ok) (h1 : u.coastLimit = t.coastLimit) (h2 : u.coast = t.coast)
    (h3 : u.state = t.state) (h4 : u.mode = t.mode) : u.ok := by
  unfold Timeline.ok at *
  rw [h1, h2, h3, h4]
  exact h

theorem Timeline.unlock_follows {t : Timeline} (h : t.ok → t.state ≠ .parked) : t.Follows t.unlock :=
  ⟨rfl, fun k => Timeline.ok_of_moving k.1.1 rfl (k.moving (h k)).1 (k.moving (h k)).2 (fun h => nomatch h) (fun h => nomatch h)⟩

theorem Timeline.extrapolate_same {t u : Timeline} (h : t.extrapolate = some u) :
    u.settings = t.settings := by
  unfold Timeline.extrapolate at h
  split at h
  · split at h
    · cases h
      rfl
    · exact nomatch h
  · split at h <;> split at h
    · cases h
      rfl
    · exact nomatch h
    · cases h
      rfl
    · exact nomatch h
  · cases h
    rfl

theorem Timeline.ok_of_coasting {t : Timeline} (h1 : 1 ≤ t.coastLimit) (h2 : t.coast ≤ t.coastLimit) (h3 : t.mode ≠ .stop)
    (h4 : t.mode ≠ .spool) (h5 : t.state = .coasting) : t.ok :=
  ⟨⟨h1, h2, fun h => absurd h5 h⟩, by rw [h5]; exact ⟨fun h => (nomatch h), fun h => (h.elim h3 h4).elim⟩,
   by rw [h5]; exact nofun⟩

theorem Timeline.coastOn_follows (t : Timeline) : t.Follows t.coastOn := by
  unfold Timeline.coastOn
  split
  · rename_i hs
    have hp : t.state ≠ .parked := by rw [hs]; decide
    split
    · rename_i u hu
      have e := Timeline.extrapolate_same hu
      have a := Timeline.settings_limit e
      have b := Timeline.settings_mode e
      refine ⟨e, fun k => Timeline.ok_of_coasting ?_ ?_ ?_ ?_ rfl⟩
      · exact a ▸ k.1.1
      · exact a ▸ k.1.1
      · exact b ▸ (k.moving hp).1
      · exact b ▸ (k.moving hp).2
    · exact Timeline.unlock_follows fun _ => hp
  · rename_i hs
    have hp : t.state ≠ .parked := by rw [hs]; decide
    split
    · exact Timeline.unlock_follows fun _ => hp
    · rename_i hc
      split
      · rename_i u hu
        have e := Timeline.extrapolate_same hu
        have a := Timeline.settings_limit e
        have b := Timeline.settings_mode e
        have hs' : u.state = .coasting := by
          unfold Timeline.extrapolate at hu
          split at hu
          · split at hu
            · cases hu
              exact hs
            · exact nomatch hu
          · split at hu <;> split at hu
            · cases hu
              exact hs
            · exact nomatch hu
            · cases hu
              exact hs
            · exact nomatch hu
          · cases hu
            exact hs
        refine ⟨e, fun k => Timeline.ok_of_coasting ?_ ?_ ?_ ?_ hs'⟩
        · exact a ▸ k.1.1
        · show t.coast + 1 ≤ u.coastLimit
          rw [a]
          omega
        · exact b ▸ (k.moving hp).1
        · exact b ▸ (k.moving hp).2
      · exact Timeline.unlock_follows fun _ => hp
  · rename_i hs
    exact Timeline.unlock_follows fun _ => by rw [hs]; decide
  · exact Timeline.Follows.refl t

theorem Timeline.closeHeaded_follows (t : Timeline) (h : Header) (a : Nat) : t.Follows (t.closeHeaded h a) := by
  have key : ∀ u : Timeline, u.settings = t.settings → t.state ≠ .parked → u.coast = 0 →
      u.state ≠ .parked → u.state ≠ .laying → t.Follows u := fun u h h3 h4 h5 h6 =>
    have h1 := Timeline.settings_limit h
    have h2 := Timeline.settings_mode h
    ⟨h, fun k => Timeline.ok_of_moving (h1 ▸ k.1.1) h4 (h2 ▸ (k.moving h3).1) (h2 ▸ (k.moving h3).2) h5 h6⟩
  unfold Timeline.closeHeaded
  extract_lets t1 restart lockAt
  split
  · rename_i hs
    exact key _ rfl (by rw [hs]; decide) rfl (fun h => nomatch h) (fun h => nomatch h)
  · rename_i hs
    have hp : t.state ≠ .parked := by rw [hs]; decide
    split
    · split
      · exact key _ rfl hp rfl (fun h => nomatch h) (fun h => nomatch h)
      · exact ⟨rfl, fun k => Timeline.ok_congr k rfl rfl rfl rfl⟩
    · exact key _ rfl hp rfl (fun h => nomatch h) (fun h => nomatch h)
  all_goals try exact Timeline.Follows.refl t
  all_goals
    rename_i hs
    have hp : t.state ≠ .parked := by rw [hs]; decide
    split
    · exact key _ rfl hp rfl (fun h => nomatch h) (fun h => nomatch h)
    · exact key _ rfl hp rfl (fun h => nomatch h) (fun h => nomatch h)

/-- A close reaches a timeline that is in a reading mode (R13, R16). -/
theorem Timeline.afterClose_follows (t : Timeline) (v : Option Header) : t.Follows (t.afterClose v) := by
  unfold Timeline.afterClose
  split
  · exact Timeline.closeHeaded_follows ..
  · exact Timeline.closeHeaded_follows ..
  · rename_i hm _
    refine ⟨rfl, fun k => Timeline.ok_of_moving k.1.1 rfl ?_ ?_ (fun h => nomatch h) (fun h => nomatch h)⟩
    · show t.mode ≠ .stop
      rw [hm]
      decide
    · show t.mode ≠ .spool
      rw [hm]
      decide
  · split
    · exact Timeline.Follows.refl t
    · exact Timeline.coastOn_follows t
  · split
    · exact Timeline.Follows.refl t
    · exact Timeline.coastOn_follows t
  · exact Timeline.Follows.refl t

/-! ### A cut for a lock loss or a break leaves the timeline's record alone (R104) -/

theorem foldl_tl {α : Type} {f : State → α → State} (h : ∀ s a, (f s a).tl = s.tl) (l : List α) (s : State) :
    (l.foldl f s).tl = s.tl := by
  induction l generalizing s with
  | nil => rfl
  | cons a t ih => exact (ih _).trans (h s a)

theorem releaseOrDue_tl (i : SlotId) (s : State) : (releaseOrDue i s).tl = s.tl := by
  unfold releaseOrDue
  split <;> rfl

theorem abandonSlot_tl (o : Option SlotId) (s : State) : (abandonSlot o s).tl = s.tl := by
  cases o <;> rfl

theorem dropOp_tl (op : CodingOp) (s : State) : (dropOp op s).tl = s.tl := by
  unfold dropOp releaseOpt
  split
  · exact (releaseOrDue_tl ..).trans (abandonSlot_tl ..)
  · exact abandonSlot_tl ..

theorem releaseUnwritten_tl (s : State) : (releaseUnwritten s).tl = s.tl := by
  unfold releaseUnwritten releaseFilling
  exact (foldl_tl (fun t _ => abandonSlot_tl _ t) _ _).trans (foldl_tl (fun t i => releaseOrDue_tl i t) _ s)

theorem abandonOps_tl (f : CodingOp → Bool) (s : State) : (abandonOps f s).tl = s.tl := by
  unfold abandonOps
  exact foldl_tl (fun t op => dropOp_tl op t) _ _

theorem closeByCut_tl (s : State) : (closeByCut s).tl = s.tl := by
  unfold closeByCut
  refine (releaseUnwritten_tl _).trans ((abandonOps_tl ..).trans ?_)
  unfold markPartial closeGate
  split <;> rfl

theorem cutLock_tl (s : State) : (cutGate .lock s).tl = s.tl := by
  unfold cutGate
  split
  · exact releaseUnwritten_tl s
  · exact closeByCut_tl s

/-! ### Moves -/

/-- Taking a new record is a move when the Coast Limit stays and the laws follow. -/
theorem timelineSet_move {t : Timeline} {s : State} (h : s.tl.Follows t) : Move s (timelineSet t s) := by
  unfold timelineSet
  extract_lets old entered exited s1 s2 s3
  have h1 : Move s s1 := (Move.refl s).fields h.settings h.ok rfl rfl rfl rfl rfl rfl id rfl rfl rfl rfl id id id
  have h2 : Move s s2 := Move.ite (fun _ => post_step h1 ..) fun _ => Move.ite (fun _ => post_step h1 ..) fun _ => h1
  have h3 : Move s s3 := Move.ite (fun _ => cutGate_step (engineBreak_step h2) _) fun _ => h2
  exact jogSync_step (Move.ite (fun _ => engineGain_step h3) fun _ => h3)

theorem timelineSet_step {s u : State} (h : Move s u) {t : Timeline} (k : u.tl.Follows t) : Move s (timelineSet t u) :=
  h.trans (timelineSet_move k)

theorem timelineClose_move (v : Option Header) (s : State) : Move s (timelineClose v s) :=
  timelineSet_move (Timeline.afterClose_follows ..)

theorem timelineClose_step {s t : State} (h : Move s t) (v : Option Header) : Move s (timelineClose v t) :=
  h.trans (timelineClose_move v t)

theorem markTimeout_move (s : State) : Move s (markTimeout s) := by
  unfold markTimeout
  split
  · exact Move.refl s
  · rename_i hm
    split
    · rename_i hl
      refine timelineSet_move ⟨rfl, fun k => Timeline.ok_of_moving k.1.1 rfl ?_ ?_ (fun h => nomatch h) (fun h => nomatch h)⟩
      · exact (k.moving (by rw [hl]; decide)).1
      · exact (k.moving (by rw [hl]; decide)).2
    · exact timelineSet_move (Timeline.coastOn_follows _)

theorem shuttleExpiry_move (s : State) : Move s (shuttleExpiry s) :=
  Move.ite (fun _ => Move.refl s) fun _ => timelineSet_move (Timeline.coastOn_follows _)

/-- A lay begins: the timeline enters LAYING in PLAY (R17). -/
theorem layTick_move (s : State) : Move s (layTick s) := by
  unfold layTick
  split
  · exact Move.refl s
  · split
    · exact (Move.refl s).fields rfl id rfl rfl rfl rfl rfl rfl id rfl rfl rfl rfl id id id
    · extract_lets src s1
      have h1 : Move s s1 := (Move.refl s).fields rfl id rfl rfl rfl rfl rfl rfl id rfl rfl rfl rfl id id id
      clear_value s1
      split
      · exact h1
      · split
        · exact h1
        · rename_i hm
          extract_lets t prep
          with_reducible refine timelineSet_step ?_ ?_
          · exact h1.fields rfl id rfl rfl rfl rfl rfl rfl id rfl rfl rfl rfl id id id
          refine ⟨rfl, fun k => ?_⟩
          have hm' : s1.tl.mode = .play := not_not.mp hm
          refine ⟨⟨k.1.1, Nat.zero_le _, fun _ => rfl⟩, ⟨fun h => (nomatch h), fun h => ?_⟩, fun _ => hm'⟩
          rcases h with h | h <;> exact absurd (hm'.symm.trans h) (by decide)

theorem layTick_step {s t : State} (h : Move s t) : Move s (layTick t) := h.trans (layTick_move t)

theorem reckon_move (s : State) : Move s (reckon s) := by
  have key : ∀ u : Timeline, u.settings = s.tl.settings → u.coast = s.tl.coast → u.state = s.tl.state →
      Move s { s with tl := u } := fun u h h2 h3 =>
    (Move.refl s).fields h (fun k => Timeline.ok_congr k (Timeline.settings_limit h) h2 h3 (Timeline.settings_mode h)) rfl rfl rfl rfl rfl rfl id rfl rfl rfl rfl id id id
  unfold reckon
  split
  · exact key _ rfl rfl rfl
  · split
    · exact key _ rfl rfl rfl
    · exact key _ rfl rfl rfl
    · rename_i hl
      extract_lets g
      split
      · exact key _ rfl rfl rfl
      · with_reducible refine timelineSet_step (cutWritten_move .lock s).toMove ?_
        rw [show (cutGate .lock (endWrite s)).tl = s.tl from cutLock_tl (endWrite s)]
        refine ⟨rfl, fun k => ?_⟩
        have hp : s.tl.state ≠ .parked := by rw [hl]; decide
        exact Timeline.ok_of_moving k.1.1 rfl (k.moving hp).1 (k.moving hp).2 (fun h => nomatch h) (fun h => nomatch h)
    · exact key _ rfl rfl rfl

theorem reckon_step {s t : State} (h : Move s t) : Move s (reckon t) := h.trans (reckon_move t)

/-! ### Postings -/

/-- The posting a timeline holds after a posting, with what the posting does not name as before (R10). -/
theorem Timeline.posted_settings (t : Timeline) (q : Posting) (d : Nat) :
    (t.posted q d).settings = ⟨t.coastLimit, q.mode, q.dir.getD t.dir, q.ratio.getD t.ratio, q.speed.getD t.speed⟩ := by
  unfold Timeline.posted
  extract_lets u
  split
  · rfl
  · split
    · rfl
    · split
      · rfl
      · rfl
      · exact leaveLaying_settings u d
      all_goals rfl

/-- A posting is answered within the laws (R11). -/
theorem Timeline.posted_ok {t : Timeline} (q : Posting) (d : Nat) (k : t.ok) : (t.posted q d).ok := by
  unfold Timeline.posted
  extract_lets u
  split
  · rename_i hm
    exact ⟨⟨k.1.1, Nat.zero_le _, fun _ => rfl⟩, ⟨fun _ => hm, fun _ => rfl⟩, fun h => nomatch h⟩
  · rename_i hm
    have h3 : u.mode ≠ .stop := fun h => hm (Or.inl h)
    have h4 : u.mode ≠ .spool := fun h => hm (Or.inr h)
    split
    · rename_i he
      exact Timeline.ok_congr k rfl rfl rfl he.1.symm
    · split
      · rename_i hs
        exact Timeline.ok_of_moving k.1.1 (k.1.2.2 (by rw [hs]; decide)) h3 h4 (fun h => nomatch h) (fun h => nomatch h)
      · rename_i hs
        have e : u.state = .acquiring := hs
        refine Timeline.ok_of_moving k.1.1 (k.1.2.2 (by rw [hs]; decide)) h3 h4 ?_ ?_
        · exact fun h => nomatch e.symm.trans h
        · exact fun h => nomatch e.symm.trans h
      · exact leaveLaying_ok (t := u) k.1.1 h3 h4 d
      all_goals
        rename_i hs
        refine ⟨⟨k.1.1, k.1.2.1, k.1.2.2⟩, ?_, ?_⟩
        · exact ⟨fun h => (nomatch hs.symm.trans h), fun h => (h.elim h3 h4).elim⟩
        · exact fun h => nomatch hs.symm.trans h

/-- Whatever record the timeline takes, what follows it is a calm move. -/
theorem timelineSet_after (t : Timeline) (s : State) : Calm { s with tl := t } (timelineSet t s) := by
  unfold timelineSet
  extract_lets old entered exited s1 s2 s3
  have h1 : Calm s1 s1 := Calm.refl _
  have h2 : Calm s1 s2 := Calm.ite (fun _ => post_calm h1 ..) fun _ => Calm.ite (fun _ => post_calm h1 ..) fun _ => h1
  have h3 : Calm s1 s3 := Calm.ite (fun _ => cutGate_calm (engineBreak_calm h2) _) fun _ => h2
  exact jogSync_calm (Calm.ite (fun _ => engineGain_calm h3) fun _ => h3)

/-- Once the timeline has taken a record that is not LAYING, it holds that record. -/
theorem timelineSet_tl {t : Timeline} (h : t.state ≠ .laying) (s : State) : (timelineSet t s).tl = t :=
  (timelineSet_after t s).still h

end Sys2Proof.Machine
end

