-- ==== Sys2Proof/Laws/MoveClose.lean ====
section
/-! SUPPORT. Capture, concealment, cues and closes are moves (Laws/Move.lean). -/

set_option Elab.async false

set_option linter.unreachableTactic false
set_option linter.unusedTactic false

namespace Sys2Proof.Machine

/-! ### Buffers that come of other buffers -/

/-- A slot takes audio that is in canonical form when all buffers are. -/
theorem Move.setSlot {s t : State} (h : Move s t) (i : SlotId) {x : Slot} (k : buffersWf s → x.audio.wf = true) :
    Move s (setSlot i x t) :=
  ⟨h.settings, h.notices, h.tl, h.gate, h.banks, h.eng, fun hb => (setSlot_move i fun _ => k hb).buffers (h.buffers hb)⟩

theorem Move.modifySlot {s t : State} (h : Move s t) (i : SlotId) {f : Slot → Slot}
    (k : buffersWf s → (f t.slots[i]).audio.wf = true) : Move s (modifySlot i f t) := h.setSlot i k

theorem Move.keepSlot {s t : State} (h : Move s t) (i : SlotId) {f : Slot → Slot} (k : ∀ x : Slot, (f x).audio = x.audio) :
    Move s (Machine.modifySlot i f t) := h.trans (modifySlot_keep i t k).toMove

theorem capture_wf {s : State} (h : buffersWf s) (ch : HeadStream) : (capture s ch).wf := by
  cases ch
  · exact h.2.2.1
  · exact h.2.2.2

theorem Move.setCapture {s t : State} (h : Move s t) (ch : HeadStream) {c : Capture} (k : buffersWf s → c.wf) :
    Move s (setCapture ch c t) := by
  cases ch
  · exact ⟨h.settings, h.notices, h.tl, h.gate, h.banks, h.eng, fun hb => ⟨(h.buffers hb).1, (h.buffers hb).2.1, k hb, (h.buffers hb).2.2.2⟩⟩
  · exact ⟨h.settings, h.notices, h.tl, h.gate, h.banks, h.eng, fun hb => ⟨(h.buffers hb).1, (h.buffers hb).2.1, (h.buffers hb).2.2.1, k hb⟩⟩

/-- The channel of a state that a move reached is in canonical form when the start's buffers are. -/
theorem Move.capture {s t : State} (h : Move s t) (ch : HeadStream) (hb : buffersWf s) : (Machine.capture t ch).wf :=
  capture_wf (h.buffers hb) ch

theorem Move.slot {s t : State} (h : Move s t) (hb : buffersWf s) (i : SlotId) : t.slots[i].audio.wf = true := (h.buffers hb).1 i

/-! ### Frames in assembly -/

theorem countCapture_step {s t : State} (h : Move s t) (ch : HeadStream) (f : CaptureStats → CaptureStats) :
    Move s (countCapture ch f t) := h.setCapture ch fun hb => h.capture ch hb

theorem setAssembly_step {s t : State} (h : Move s t) (ch : HeadStream) {o : Option CaptureFrame}
    (k : buffersWf s → ∀ f, o = some f → f.wf) : Move s (setAssembly ch o t) :=
  h.setCapture ch fun hb => ⟨k hb, (h.capture ch hb).2⟩

theorem setSlotAddr_step {s t : State} (h : Move s t) (o : Option SlotId) (a : Option Nat) : Move s (setSlotAddr o a t) := by
  cases o with
  | none => exact h
  | some i =>
    unfold setSlotAddr
    refine h.keepSlot i ?_
    intro x
    rfl

theorem beginFrame_step {s t : State} (h : Move s t) (ch : HeadStream) (a : Option Nat) : Move s (beginFrame ch a t) := by
  unfold beginFrame
  dsimp only
  refine setAssembly_step (setSlotAddr_step (allocate_step h ..) ..) ch fun _ f hf => ?_
  obtain rfl : _ = f := Option.some.inj hf
  exact ⟨rfl, rfl⟩

theorem closeEvent_step {s t : State} (h : Move s t) (ch : HeadStream) (b : Bool) (n : Nat) (a : Option Nat) :
    Move s (closeEvent ch b n a t) := by
  unfold closeEvent
  dsimp only
  split
  · exact h
  · rename_i f hf
    refine beginFrame_step (h.setCapture ch fun hb => ⟨fun _ (hx : none = some _) => (nomatch hx), fun x hx => ?_⟩) ..
    rcases List.mem_append.mp hx with hx | hx
    · exact (h.capture ch hb).2 x hx
    · obtain rfl := List.mem_singleton.mp hx
      exact (h.capture ch hb).1 f hf

theorem startReading_step {s t : State} (h : Move s t) (ch : HeadStream) : Move s (startReading ch t) :=
  Move.ite (fun _ => beginFrame_step h ..) fun _ => h

theorem enterIdle_step {s t : State} (h : Move s t) (ch : HeadStream) : Move s (enterIdle ch t) := by
  unfold enterIdle
  split
  · have h1 : Move s (Machine.setCapture ch { Machine.capture t ch with reference := none, headless := 0 } t) :=
      h.setCapture ch fun hb => h.capture ch hb
    dsimp only
    split
    · exact h1
    · exact releaseAll_step h1 _
  · exact h

theorem stopReading_step {s t : State} (h : Move s t) (ch : HeadStream) : Move s (stopReading ch t) := by
  unfold stopReading
  split
  · exact h
  · exact enterIdle_step (abandonSlot_step (setAssembly_step h ch (o := none) fun _ _ hf => nomatch hf) _) _

theorem Calm.setSlot {s t : State} (h : Calm s t) (i : SlotId) {x : Slot} (k : buffersWf s → x.audio.wf = true) :
    Calm s (setSlot i x t) :=
  ⟨h.settings, h.notices, h.tl, h.gate, h.banks, h.eng, fun hb => (setSlot_move i fun _ => k hb).buffers (h.buffers hb), h.still⟩

theorem Calm.modifySlot {s t : State} (h : Calm s t) (i : SlotId) {f : Slot → Slot}
    (k : buffersWf s → (f t.slots[i]).audio.wf = true) : Calm s (modifySlot i f t) := h.setSlot i k

theorem Calm.keepSlot {s t : State} (h : Calm s t) (i : SlotId) {f : Slot → Slot} (k : ∀ x : Slot, (f x).audio = x.audio) :
    Calm s (Machine.modifySlot i f t) := h.trans (modifySlot_keep i t k)

theorem Calm.setCapture {s t : State} (h : Calm s t) (ch : HeadStream) {c : Capture} (k : buffersWf s → c.wf) :
    Calm s (setCapture ch c t) := by
  cases ch
  · exact ⟨h.settings, h.notices, h.tl, h.gate, h.banks, h.eng, fun hb => ⟨(h.buffers hb).1, (h.buffers hb).2.1, k hb, (h.buffers hb).2.2.2⟩, h.still⟩
  · exact ⟨h.settings, h.notices, h.tl, h.gate, h.banks, h.eng, fun hb => ⟨(h.buffers hb).1, (h.buffers hb).2.1, (h.buffers hb).2.2.1, k hb⟩, h.still⟩

theorem Calm.capture {s t : State} (h : Calm s t) (ch : HeadStream) (hb : buffersWf s) : (Machine.capture t ch).wf :=
  capture_wf (h.buffers hb) ch

theorem Calm.slot {s t : State} (h : Calm s t) (hb : buffersWf s) (i : SlotId) : t.slots[i].audio.wf = true := (h.buffers hb).1 i

/-! ### Frames in assembly, calmly -/

theorem countCapture_calm {s t : State} (h : Calm s t) (ch : HeadStream) (f : CaptureStats → CaptureStats) :
    Calm s (countCapture ch f t) := h.setCapture ch fun hb => h.capture ch hb

theorem setAssembly_calm {s t : State} (h : Calm s t) (ch : HeadStream) {o : Option CaptureFrame}
    (k : buffersWf s → ∀ f, o = some f → f.wf) : Calm s (setAssembly ch o t) :=
  h.setCapture ch fun hb => ⟨k hb, (h.capture ch hb).2⟩

theorem setSlotAddr_calm {s t : State} (h : Calm s t) (o : Option SlotId) (a : Option Nat) : Calm s (setSlotAddr o a t) := by
  cases o with
  | none => exact h
  | some i =>
    unfold setSlotAddr
    refine h.keepSlot i ?_
    intro x
    rfl

theorem beginFrame_calm {s t : State} (h : Calm s t) (ch : HeadStream) (a : Option Nat) : Calm s (beginFrame ch a t) := by
  unfold beginFrame
  dsimp only
  refine setAssembly_calm (setSlotAddr_calm (allocate_calm h ..) ..) ch fun _ f hf => ?_
  obtain rfl : _ = f := Option.some.inj hf
  exact ⟨rfl, rfl⟩

theorem closeEvent_calm {s t : State} (h : Calm s t) (ch : HeadStream) (b : Bool) (n : Nat) (a : Option Nat) :
    Calm s (closeEvent ch b n a t) := by
  unfold closeEvent
  dsimp only
  split
  · exact h
  · rename_i f hf
    refine beginFrame_calm (h.setCapture ch fun hb => ⟨fun _ (hx : none = some _) => (nomatch hx), fun x hx => ?_⟩) ..
    rcases List.mem_append.mp hx with hx | hx
    · exact (h.capture ch hb).2 x hx
    · obtain rfl := List.mem_singleton.mp hx
      exact (h.capture ch hb).1 f hf

theorem startReading_calm {s t : State} (h : Calm s t) (ch : HeadStream) : Calm s (startReading ch t) :=
  Calm.ite (fun _ => beginFrame_calm h ..) fun _ => h

theorem enterIdle_calm {s t : State} (h : Calm s t) (ch : HeadStream) : Calm s (enterIdle ch t) := by
  unfold enterIdle
  split
  · have h1 : Calm s (Machine.setCapture ch { Machine.capture t ch with reference := none, headless := 0 } t) :=
      h.setCapture ch fun hb => h.capture ch hb
    dsimp only
    split
    · exact h1
    · exact releaseAll_calm h1 _
  · exact h

theorem stopReading_calm {s t : State} (h : Calm s t) (ch : HeadStream) : Calm s (stopReading ch t) := by
  unfold stopReading
  split
  · exact h
  · exact enterIdle_calm (abandonSlot_calm (setAssembly_calm h ch (o := none) fun _ _ hf => nomatch hf) _) _

/-! ### Sector arrivals -/

theorem storeSector_step {s t : State} (h : Move s t) (ch : HeadStream) {f : CaptureFrame} (hf : buffersWf s → f.wf) (k : Nat)
    (x : SectorEntry) (l : List Sample) : Move s (storeSector ch f k x l t) := by
  unfold storeSector
  dsimp only
  split
  · refine setAssembly_step h ch fun hb g hg => ?_
    obtain rfl : _ = g := Option.some.inj hg
    exact ⟨Memory.place_wf .., (hf hb).2⟩
  · split
    · refine setAssembly_step h ch fun hb g hg => ?_
      obtain rfl : _ = g := Option.some.inj hg
      exact ⟨(hf hb).1, Memory.place_wf ..⟩
    · have h1 : Move s (setAssembly ch (some { f with entries := setEntry f.entries k x }) t) := by
        refine setAssembly_step h ch fun hb g hg => ?_
        obtain rfl : _ = g := Option.some.inj hg
        exact hf hb
      split
      · exact h1
      · exact h1.modifySlot _ fun hb => Memory.splice_wf (h1.slot hb _) ..

theorem storeGood_step {s t : State} (h : Move s t) (ch : HeadStream) {f : CaptureFrame} (hf : buffersWf s → f.wf) (k : Nat)
    (x : Header) (l : List Sample) : Move s (storeGood ch f k x l t) := by
  have h1 : Move s (setAssembly ch (some f) t) := by
    refine setAssembly_step h ch fun hb g hg => ?_
    obtain rfl : _ = g := Option.some.inj hg
    exact hf hb
  unfold storeGood
  split
  · exact h1
  · exact h1
  · exact storeSector_step h ch hf ..

theorem failedArrival_step {s t : State} (h : Move s t) (ch : HeadStream) {f : CaptureFrame} (hf : buffersWf s → f.wf)
    (o : Option Nat) (l : List Sample) : Move s (failedArrival ch f o l t) := by
  have h1 := countCapture_step h ch (CaptureStats.addFailed 1)
  unfold failedArrival
  dsimp only
  split
  · split
    · exact storeSector_step h1 ch hf ..
    · exact h1
  · exact h1

theorem placeGood_step {s t : State} (h : Move s t) (ch : HeadStream) {f : CaptureFrame} (hf : buffersWf s → f.wf) (k a : Nat)
    (x : Header) (l : List Sample) : Move s (placeGood ch f k a x l t) := by
  have h1 := setSlotAddr_step h f.slot (some a)
  unfold placeGood
  dsimp only
  split
  · exact storeGood_step h1 ch (f := { f with addr := some a }) hf ..
  · refine countCapture_step (setAssembly_step h1 ch fun hb g hg => ?_) ..
    obtain rfl : _ = g := Option.some.inj hg
    exact hf hb

theorem goodArrival_step {s t : State} (h : Move s t) (ch : HeadStream) {f : CaptureFrame} (hf : buffersWf s → f.wf) (k a : Nat)
    (x : Header) (l : List Sample) : Move s (goodArrival ch f k a x l t) := by
  unfold goodArrival
  split
  · exact placeGood_step h ch hf ..
  · split
    · exact placeGood_step h ch hf ..
    · have h1 := closeEvent_step h ch false 0 (some a)
      dsimp only
      split
      · rename_i g hg
        exact placeGood_step h1 ch (fun hb => (h1.capture ch hb).1 g hg) ..
      · exact h1

theorem arrive_step {s t : State} (h : Move s t) (ch : HeadStream) (b : List Byte) : Move s (arrive ch b t) := by
  unfold arrive
  split
  · exact h
  · rename_i f hf
    have hw : buffersWf s → f.wf := fun hb => (h.capture ch hb).1 f hf
    dsimp only
    split
    · split
      · exact goodArrival_step h ch hw ..
      · exact h
    · exact failedArrival_step h ch hw ..

/-! ### Concealment -/

theorem beginConceal_step {s t : State} (h : Move s t) : Move s (beginConceal t) := by
  unfold beginConceal
  split
  · exact h.fields rfl id rfl rfl rfl rfl rfl rfl id rfl rfl rfl rfl id id id
  · exact h

theorem joinConceal_step {s t : State} (h : Move s t) (o : Option SlotId) : Move s (joinConceal o t) :=
  beginConceal_step (h.fields rfl id rfl rfl rfl rfl rfl rfl id rfl rfl rfl rfl id id id)

theorem concealIdle_step {s t : State} (h : Move s t) : Move s (concealIdle t) :=
  Move.ite (fun _ => h.fields rfl id rfl rfl rfl rfl rfl rfl id rfl rfl rfl rfl id id id) fun _ => h

theorem concealIdle_calm {s t : State} (h : Calm s t) : Calm s (concealIdle t) :=
  Calm.ite (fun _ => h.fields rfl id rfl rfl rfl rfl rfl rfl id rfl rfl rfl rfl id id id) fun _ => h

theorem postDropouts_step {s t : State} (h : Move s t) (c : Chan) (a : Option Nat) (n : Nat) : Move s (postDropouts c a n t) := by
  induction n generalizing t with
  | zero => exact h
  | succ n ih => exact ih (post_step h ..)

theorem countConcealed_step {s t : State} (h : Move s t) : Move s (countConcealed t) := h.fields rfl id rfl rfl rfl rfl rfl rfl id rfl rfl rfl rfl id id id

theorem concealComplete_step {s t : State} (h : Move s t) : Move s (concealComplete t) := by
  unfold concealComplete
  split
  · extract_lets x addr plain positions l q src s1 s2 s3
    have h1 : Move s s1 := h.fields rfl id rfl rfl rfl rfl rfl rfl id rfl rfl rfl rfl id id id
    have h2 : Move s s2 := postDropouts_step (postDropouts_step h1 ..) ..
    have h3 : Move s s3 := by
      change Move s (match (_ : Option SlotId) with | some i => _ | none => _)
      split
      · refine h2.modifySlot _ fun hb => ?_
        exact putChannel_wf _ _ _ _ (putChannel_wf _ _ _ _ (h2.slot hb _))
      · exact h2
    exact concealIdle_step (beginConceal_step (jogSync_step (countConcealed_step h3)))
  · exact h

/-! ### Cues and punch inputs -/

theorem setCue_step {s t : State} (h : Move s t) (i : Fin 24) (c : Cue) : Move s (setCue i c t) := h.fields rfl id rfl rfl rfl rfl rfl rfl id rfl rfl rfl rfl id id id

theorem setPunch_step {s t : State} (h : Move s t) (l : PunchLine) (x : Punch) : Move s (setPunch l x t) := by
  cases l <;> exact h.fields rfl id rfl rfl rfl rfl rfl rfl id rfl rfl rfl rfl id id id

theorem cueAction_step {s t : State} (h : Move s t) (a : CueAction) : Move s (cueAction a t).1 := by
  cases a
  · exact h
  · exact startProgram_step h ..
  · exact startProgram_step h ..
  · exact stopAtEnd_step h
  · exact stopNow_step h
  · exact punchToggle_step h

theorem fireCue_step {s t : State} (h : Move s t) (i : Fin 24) (tc : Timecode) (a : Option Nat) : Move s (fireCue i tc a t) :=
  post_step (setCue_step (cueAction_step h _) ..) ..

theorem matchPass_step {s t : State} (h : Move s t) (tc : Timecode) (a : Option Nat) : Move s (matchPass tc a t) :=
  h.trans (foldl_move (fun u i => Move.ite (fun _ => fireCue_step (Move.refl u) i tc a) fun _ => Move.refl u) _ t)

theorem cueFrame_step {s t : State} (h : Move s t) (o : Option Header) : Move s (cueFrame o t) := by
  unfold cueFrame
  split
  · split
    · split
      · exact matchPass_step h ..
      · exact h
    · exact h
  · exact h

theorem punchAction_step {s t : State} (h : Move s t) (x : Punch) (b : Bool) : Move s (punchAction x b t).1 := by
  unfold punchAction
  split
  · exact h
  · split
    · exact punchToggle_step h
    · split
      · exact punchIn_step h
      · exact punchOut_step h
  · exact startProgram_step h ..
  · exact stopAtEnd_step h
  · exact stopNow_step h

theorem detect_step {s t : State} (h : Move s t) (l : PunchLine) (b : Bool) : Move s (detect l b t) :=
  setPunch_step (post_step (setPunch_step (punchAction_step (setPunch_step h ..) ..) ..) ..) ..

theorem punchSample_step {s t : State} (h : Move s t) (l : PunchLine) (v : Level) : Move s (punchSample l v t) := by
  unfold punchSample
  dsimp only
  split
  · exact Move.ite (fun _ => detect_step (setPunch_step h ..) ..) fun _ => setPunch_step h ..
  · exact setPunch_step h ..

/-! ### Closes -/

theorem handPreRead_step {s t : State} (h : Move s t) (v w : Option Header) (o : Option SlotId) : Move s (handPreRead v w o t) :=
  joinConceal_step (cueFrame_step (timelineClose_step h _) _) _

theorem handConfidence_step {s t : State} (h : Move s t) (o : Option SlotId) (n : Nat) : Move s (handConfidence o n t) := by
  unfold handConfidence
  split
  · exact judgeClose_step h ..
  · refine judgeClose_step (releaseAll_step (h.keepSlot _ ?_) _) ..
    intro x
    rfl

theorem completeFront_step {s t : State} (h : Move s t) (ch : HeadStream) (cf : ClosingFrame) : Move s (completeFront ch cf t) := by
  have drop : ∀ c : Capture, c.wf → ∀ x ∈ c.closing.drop 1, x.frame.wf := fun c hc x hx => hc.2 x (List.mem_of_mem_drop hx)
  unfold completeFront
  dsimp only
  split
  · have h1 : Move s (Machine.setCapture ch ((Machine.capture t ch).closedAbsent
        (inherited t (Machine.capture t ch) cf (saturate 31 ((Machine.capture t ch).headless + 1)))) t) :=
      h.setCapture ch fun hb => ⟨(h.capture ch hb).1, drop _ (h.capture ch hb)⟩
    split
    · exact handPreRead_step h1 ..
    · exact handConfidence_step h1 ..
  · rename_i i _
    have h1 : Move s (Machine.setCapture ch ((Machine.capture t ch).closedSlot (closeStages t (Machine.capture t ch) cf t.slots[i].audio))
        (Machine.modifySlot i (fun x => x.closed (closeStages t (Machine.capture t ch) cf t.slots[i].audio) t.clock.rate) t)) := by
      refine Move.setCapture (h.modifySlot i fun hb => ?_) ch fun hb => ⟨(h.capture ch hb).1, drop _ (h.capture ch hb)⟩
      exact applyRebuild_wf _ _ (h.slot hb i)
    split
    · exact handPreRead_step h1 ..
    · exact handConfidence_step h1 ..

theorem afterClose_step {s t : State} (h : Move s t) (ch : HeadStream) : Move s (afterClose ch t) :=
  concealIdle_step (startReading_step (enterIdle_step h _) _)

theorem settleAbsent_step {s t : State} (h : Move s t) (ch : HeadStream) (n : Nat) : Move s (settleAbsent ch n t) := by
  induction n generalizing t with
  | zero => exact h
  | succ n ih =>
    unfold settleAbsent
    split
    · exact Move.ite (fun _ => ih (afterClose_step (completeFront_step h ..) _)) fun _ => h
    · exact h

theorem settleCloses_step {s t : State} (h : Move s t) (ch : HeadStream) : Move s (settleCloses ch t) := settleAbsent_step h ..

theorem closeComplete_step {s t : State} (h : Move s t) (ch : HeadStream) : Move s (closeComplete ch t) := by
  unfold closeComplete
  split
  · exact h
  · exact settleCloses_step (afterClose_step (completeFront_step h ..) _) _

end Sys2Proof.Machine
end

