-- ==== Sys2Proof/Laws/MoveMark.lean ====
section
/-! SUPPORT. Coding, the mark, the outputs, postings, the clock and the expiry of a notice are moves (Laws/Move.lean). -/

set_option Elab.async false

set_option linter.unreachableTactic false
set_option linter.unusedTactic false

namespace Sys2Proof.Machine

/-! ### Coding -/

theorem requestGate_step {s t : State} (h : Move s t) (sp : Splice) (a : Nat) : Move s (requestGate sp a t).2 := by
  unfold requestGate
  split
  · exact h
  · exact schedule_step h ..

theorem startEntry_step {s t : State} (h : Move s t) (p : Prepared) (e : Entry) (a : Nat) : Move s (startEntry p e a t).2 := by
  unfold startEntry
  extract_lets sp plan src s1
  have h1 : Move s s1 := by
    with_reducible apply setEng_step
    with_reducible apply setEntryState_step
    exact h.fields rfl id rfl rfl rfl rfl rfl rfl id rfl rfl rfl rfl id id id
  clear_value s1
  have h2 := requestGate_step h1 sp a
  split
  · rename_i hs
    rw [hs] at h2
    exact h2
  · rename_i hs
    rw [hs] at h2
    exact finishSplice_step (Move.ite (fun _ => h2) fun _ => postScheduleRefusal_step h2 ..) ..

theorem startPunch_step {s t : State} (h : Move s t) (sp : Splice) (a : Nat) : Move s (startPunch sp a t).2 := by
  unfold startPunch
  extract_lets start sp1 gate src
  refine h.fields rfl id rfl rfl rfl rfl rfl ?_ (fun k => ?_) rfl rfl rfl rfl id id id
  · show (if _ then _ else _ : Gate).faultLimit = _
    split <;> rfl
  · show (if _ then _ else _ : Gate).ok _
    split <;> exact k

theorem formPlan_step {s t : State} (h : Move s t) (a : Nat) : Move s (formPlan a t).2 := by
  unfold formPlan
  split
  · split
    · exact startPunch_step h ..
    · split <;> exact h
  · split
    · exact h
    · split
      · exact h
      · exact startEntry_step h ..

theorem codingFailed_step {s t : State} (h : Move s t) (op : CodingOp) (plan : Option SplicePlan) :
    Move s (codingFailed op plan t) := by
  unfold codingFailed
  have h1 : Move s (releaseOpt op.intake.slot { t with coding := t.coding.drop 1 }) := by
    with_reducible apply releaseOpt_step
    exact h.fields rfl id rfl rfl rfl rfl rfl rfl id rfl rfl rfl rfl id id id
  generalize releaseOpt op.intake.slot { t with coding := t.coding.drop 1 } = s1 at h1
  dsimp only
  split
  · exact h1
  · rename_i p
    have h2 : Move s (if s1.gate.holder = some p.tag then cutGate .store s1 else s1) :=
      Move.ite (fun _ => cutGate_step h1 _) fun _ => h1
    exact Move.ite (fun _ => finishSplice_step h2 ..) fun _ => h2

theorem postVerdict_step {s t : State} (h : Move s t) (v : Verdict) (p : SplicePlan) (a : Nat) : Move s (postVerdict v p a t) := by
  unfold postVerdict
  split
  · exact h
  · exact Move.ite (fun _ => h) fun _ => post_step h ..

theorem startOp_step {s t : State} (h : Move s t) (op : CodingOp) (plan : Option SplicePlan) (i : SlotId) :
    Move s (startOp op plan i t) := by
  unfold startOp
  dsimp only
  split
  · exact h.fields rfl id rfl rfl rfl rfl rfl rfl id rfl rfl rfl rfl id id id
  · have h3 : ∀ u v p a, Move s u → Move s (postVerdict v p a u) := fun u v p a k => postVerdict_step k v p a
    split
    · with_reducible apply withdraw_step
      with_reducible apply h3
      exact h.fields rfl id rfl rfl rfl rfl rfl rfl id rfl rfl rfl rfl id id id
    · with_reducible apply h3
      exact h.fields rfl id rfl rfl rfl rfl rfl rfl id rfl rfl rfl rfl id id id

theorem beginCoding_step {s t : State} (h : Move s t) : Move s (beginCoding t) := by
  unfold beginCoding
  split
  · exact h
  · rename_i op _ _
    split
    · exact h
    · have h1 := formPlan_step h op.addr
      generalize formPlan op.addr t = r at h1
      obtain ⟨plan, u⟩ := r
      have h2 := allocate_step h1 .coded (some op.addr)
      dsimp only
      generalize allocate .coded (some op.addr) u = q at h2
      obtain ⟨o, v⟩ := q
      cases o with
      | none => exact codingFailed_step h2 ..
      | some i => exact startOp_step h2 ..

theorem postStarved_step {s t : State} (h : Move s t) (c : Coded) (x : Option (Nat × BankId)) (a : Nat) :
    Move s (postStarved c x a t) := by
  unfold postStarved
  split
  · exact post_step h ..
  · exact h

theorem reportCoded_step {s t : State} (h : Move s t) (S a : Nat) (p : SplicePlan) (v : Verdict) (c : Coded)
    (x : Option (Nat × BankId)) : Move s (reportCoded S a p v c x t) := by
  unfold reportCoded
  split
  · exact h
  · split
    · exact h
    · split
      · exact finishSplice_step h ..
      · exact finishSplice_step h ..
      · with_reducible apply postStarved_step
        exact h.fields rfl id rfl rfl rfl rfl rfl rfl id rfl rfl rfl rfl id id id

theorem recordFinal_step {s t : State} (h : Move s t) (p : SplicePlan) (a : Nat) (b : Bool) : Move s (recordFinal p a b t) :=
  Move.ite (fun _ => h.fields rfl id rfl rfl rfl rfl rfl rfl id rfl rfl rfl rfl id id id) fun _ => h

theorem storeCoded_step {s t : State} (h : Move s t) (o : Option SlotId) (a : Nat) (r : Rate) (c : Coded) :
    Move s (storeCoded o a r c t) := by
  unfold storeCoded
  split
  · exact h
  · exact Move.modifySlot h _ fun hb => putPairs_wf _ (h.slot hb _) _ _

theorem completeCoding_step {s t : State} (h : Move s t) : Move s (completeCoding t) := by
  unfold completeCoding
  split
  · exact h
  · rename_i op rest _
    split
    · exact h
    · rename_i b _
      generalize codeFrame t op b = c
      extract_lets cc s1 s2 mix src s3
      have h1 : Move s s1 := by
        with_reducible apply storeCoded_step
        exact h.fields rfl id rfl rfl rfl rfl rfl rfl id rfl rfl rfl rfl id id id
      have h2 : Move s s2 := releaseOpt_step h1 _
      have h3 : Move s s3 := by
        show Move s (bumpFresh _)
        with_reducible apply bumpFresh_step
        exact h2.fields rfl id rfl rfl rfl rfl rfl rfl id rfl rfl rfl rfl id id id
      clear_value s3
      split
      · exact h3
      · exact reportCoded_step (recordFinal_step h3 ..) ..

/-! ### The mark -/

theorem prepareEntry_step {s t : State} (h : Move s t) (p : Prepared) (e : Entry) : Move s (prepareEntry p e t) := by
  unfold prepareEntry
  with_reducible apply nameSource_step
  exact h.fields rfl id rfl rfl rfl rfl rfl rfl id rfl rfl rfl rfl id id id

theorem prepareScan_step {s t : State} (h : Move s t) (G : Nat) (l : List (Fin 16)) : Move s (prepareScan G l t) := by
  induction l generalizing t with
  | nil => exact h
  | cons i rest ih =>
    unfold prepareScan
    split
    · exact ih h
    · dsimp only
      refine Move.ite (fun _ => ih h) fun _ => Move.ite (fun _ => ih (endPending_step h ..)) fun _ =>
        Move.ite (fun _ => prepareEntry_step h ..) fun _ => Move.ite (fun _ => prepareEntry_step h ..) fun _ => h

theorem prepareAt_step {s t : State} (h : Move s t) (x : Nat) : Move s (prepareAt x t) := by
  have h1 : Move s (prepareScan (x + 2) placeIds t) := prepareScan_step h ..
  exact Move.ite (fun _ => h) fun _ => Move.ite (fun _ => h) fun _ => Move.ite (fun _ => endPass_step h1) fun _ => h1

theorem dropUnbanked_step {s t : State} (h : Move s t) (p : Prepared) (e : Entry) (o : Outcome) (r : Option Reason) :
    Move s (dropUnbanked p e o r t) := by
  unfold dropUnbanked
  dsimp only
  with_reducible apply nameAfter_step
  with_reducible apply endPending_step
  exact h.fields rfl id rfl rfl rfl rfl rfl rfl id rfl rfl rfl rfl id id id

theorem askFor_step {s t : State} (h : Move s t) (p : Prepared) (e : Entry) : Move s (askFor p e t) := by
  unfold askFor
  have h1 : Move s (askBank { t with intake := { t.intake with flyStart := some p.start.offset } }).2 := by
    with_reducible apply askBank_step
    exact h.fields rfl id rfl rfl rfl rfl rfl rfl id rfl rfl rfl rfl id id id
  generalize askBank { t with intake := { t.intake with flyStart := some p.start.offset } } = r at h1
  obtain ⟨a, u⟩ := r
  have h2 : Move s { u with eng := { u.eng with bankFor := none } } := h1.fields rfl id rfl rfl rfl rfl rfl rfl id rfl rfl rfl rfl id id id
  cases a with
  | granted n => exact h1.fields rfl id rfl rfl rfl rfl rfl rfl id rfl rfl rfl rfl id id id
  | unavailable => exact dropUnbanked_step (post_step h2 ..) ..
  | mismatch => exact dropUnbanked_step (Move.ite (fun _ => h2) fun _ => post_step h2 ..) ..

theorem askDue_step {s t : State} (h : Move s t) (l : List Prepared) : Move s (askDue l t) := by
  unfold askDue
  split
  · exact askFor_step h ..
  · exact h

theorem rehearseWrite_step {s t : State} (h : Move s t) (sp : Splice) (x w : Nat) : Move s (rehearseWrite sp x w t) :=
  Move.ite (fun _ => finishSplice_step h ..) fun _ => Move.ite (fun _ => rehearseCut_step h ..) fun _ =>
    h.fields rfl id rfl rfl rfl rfl rfl rfl id rfl rfl rfl rfl id id id

theorem rehearseMark_step {s t : State} (h : Move s t) (w : Nat) : Move s (rehearseMark w t) := by
  unfold rehearseMark
  split
  · exact h
  · split
    · exact Move.ite (fun _ => h) fun _ => rehearseWrite_step h ..
    · exact Move.ite (fun _ => completeSplice_step h) fun _ => rehearseWrite_step h ..
    · exact h

theorem enterHead_step {s t : State} (h : Move s t) : Move s (enterHead t) := by
  unfold enterHead
  split
  · exact h
  · exact releasePassed_step (abandonUpTo_step (rehearseMark_step (gateEnter_step h _) _) _) _

theorem releaseBehind_step {s t : State} (h : Move s t) : Move s (releaseBehind t) := releaseAll_step h _

theorem judgeMark_step {s t : State} (h : Move s t) : Move s (judgeMark t) := by
  refine tickJudge_step (Move.ite (fun _ => h) fun _ => ?_)
  unfold dropDue
  dsimp only
  with_reducible apply releaseAll_step
  exact h.fields rfl id rfl rfl rfl rfl rfl rfl id rfl rfl rfl rfl id id id

theorem offer_step {s t : State} (h : Move s t) (o : Option ClosedIntake) : Move s (offer o t) := by
  unfold offer
  split
  · exact h.fields rfl id rfl rfl rfl rfl rfl rfl id rfl rfl rfl rfl id id id
  · exact releaseOpt_step h _

theorem monitorMark_step {s t : State} (h : Move s t) (o : Option SlotId) : Move s (monitorMark o t) :=
  Move.ite (fun _ => h.fields rfl id rfl rfl rfl rfl rfl rfl id rfl rfl rfl rfl id id id) fun _ => h.fields rfl id rfl rfl rfl rfl rfl rfl id rfl rfl rfl rfl id id id

theorem intakeClose_step {s t : State} (h : Move s t) : Move s (intakeClose t).2 := by
  unfold intakeClose
  split
  · exact closeIntake_step h _
  · exact h

theorem engineMark_step {s t : State} (h : Move s t) : Move s (engineMark t) := by
  unfold engineMark
  split
  · exact askDue_step (prepareAt_step h _) _
  · exact h

theorem playMark_step {s t : State} (h : Move s t) (stale : Bool) (o : Option ClosedIntake) : Move s (playMark stale o t) :=
  Move.ite (fun _ => engineMark_step (offer_step (Move.ite (fun _ => h) fun _ => beginIntake_step h) _)) fun _ => h

theorem takeMark_step {s t : State} (h : Move s t) : Move s (takeMark t) := by
  have h2 : Move s (intakeClose (reckon (layTick t))).2 := intakeClose_step (reckon_step (layTick_step h))
  unfold takeMark
  dsimp only
  exact settleCloses_step (settleCloses_step (monitorMark_step (playMark_step (closeEvent_step (closeEvent_step
    (releaseBehind_step (enterHead_step (judgeMark_step h2))) ..) ..) _ _) _) _) _

/-! ### The outputs -/

theorem moveScrub_step {s t : State} (h : Move s t) : Move s (moveScrub t) := by
  unfold moveScrub
  split
  · exact h
  · exact h.fields rfl id rfl rfl rfl rfl rfl rfl id rfl rfl rfl rfl id id id

theorem outputPeriod_step {s t : State} (h : Move s t) : Move s (outputPeriod t) := by
  unfold outputPeriod
  have h1 : Move s { t with out := t.out.carry (carriedNow t) } := h.fields rfl id rfl rfl rfl rfl rfl rfl id rfl rfl rfl rfl id id id
  generalize ({ t with out := t.out.carry (carriedNow t) } : State) = s1 at h1
  dsimp only
  with_reducible apply bumpFresh_step
  split
  · exact moveScrub_step h1
  · exact h1.fields rfl id rfl rfl rfl rfl rfl rfl id rfl rfl rfl rfl id id id
  · exact h1

theorem blockEnd_step {s t : State} (h : Move s t) : Move s (blockEnd t) := Move.ite (fun _ => h.fields rfl id rfl rfl rfl rfl rfl rfl id rfl rfl rfl rfl id id id) fun _ => h

/-! ### Postings -/

theorem leavePlay_step {s t : State} (h : Move s t) : Move s (leavePlay t) := by
  have h2 : Move s (dropUnjudged (abandonIntake (abandonOps (fun _ => true) (cutGate .transport (engineBreak t))))) :=
    dropUnjudged_step (abandonIntake_step (abandonOps_step (cutGate_step (engineBreak_step h) _) _))
  unfold leavePlay
  dsimp only
  generalize dropUnjudged (abandonIntake (abandonOps (fun _ => true) (cutGate .transport (engineBreak t)))) = u at h2
  exact h2.fields rfl (fun k => Timeline.ok_congr k rfl rfl rfl rfl) rfl rfl rfl rfl rfl rfl id rfl rfl rfl rfl id id id

theorem readersFollow_step {s t : State} (h : Move s t) : Move s (readersFollow t) :=
  concealIdle_step (startReading_step (stopReading_step (startReading_step (stopReading_step h _) _) _) _)

/-- Leaving PLAY forgets the heads; with no lay it leaves the rest of the timeline's record alone. -/
theorem leavePlay_tl {s : State} (h : s.tl.state ≠ .laying) : (leavePlay s).tl = s.tl.unreckoned := by
  have h2 : Calm s (dropUnjudged (abandonIntake (abandonOps (fun _ => true) (cutGate .transport (engineBreak s))))) :=
    dropUnjudged_calm (abandonIntake_calm (abandonOps_calm (cutGate_calm (engineBreak_calm (Calm.refl s)) _) _))
  have h3 := h2.still h
  show (dropUnjudged (abandonIntake (abandonOps (fun _ => true) (cutGate .transport (engineBreak s))))).tl.unreckoned = _
  rw [h3]

theorem readersFollow_calm {s t : State} (h : Calm s t) : Calm s (readersFollow t) :=
  concealIdle_calm (startReading_calm (stopReading_calm (startReading_calm (stopReading_calm h _) _) _) _)

/-- A posting takes the timeline's new record, and what follows it is a move (R10, R11). -/
theorem takePosting_after (q : Posting) (s : State) :
    Move { s with tl := s.tl.posted q s.geo.d } (takePosting q s) := by
  have h1 := (timelineSet_after (s.tl.posted q s.geo.d) s).toMove
  unfold takePosting
  dsimp only
  generalize timelineSet (s.tl.posted q s.geo.d) s = s1 at h1
  generalize ({ s with tl := s.tl.posted q s.geo.d } : State) = u at h1
  have h2 : Move u (if s.tl.mode = .play ∧ q.mode ≠ .play then leavePlay s1 else s1) :=
    Move.ite (fun _ => leavePlay_step h1) fun _ => h1
  generalize (if s.tl.mode = .play ∧ q.mode ≠ .play then leavePlay s1 else s1) = s2 at h2
  exact readersFollow_step (Move.ite (fun _ => h2.fields rfl id rfl rfl rfl rfl rfl rfl id rfl rfl rfl rfl id id id) fun _ => h2)

/-! ### The clock -/

/-- A new clock record with the same settings is a move (R20). -/
theorem setClock_step {s t : State} (h : Move s t) {c : Clock} (h1 : c.selection = t.clock.selection)
    (h2 : c.configured = t.clock.configured) : Move s (setClock c t) := by
  have k : Move s { t with clock := c } := h.fields rfl id h1 h2 rfl rfl rfl rfl id rfl rfl rfl rfl id id id
  unfold setClock
  dsimp only
  refine Move.ite (fun _ => k) fun _ => ?_
  with_reducible apply resetPointer_step
  with_reducible apply resizeBanks_step
  with_reducible apply abandonOps_step
  exact k

theorem clockCut_step {s t : State} (h : Move s t) : Move s (clockCut t) :=
  cutGate_step (rehearseCut_step h ..) _

theorem referenceLost_step {s t : State} (h : Move s t) : Move s (referenceLost t) := by
  unfold referenceLost
  refine Move.ite (fun _ => h) fun _ => ?_
  have h1 : Move s (post .clockLost (lostSubject t.clock.selection) none none { t with clock := { t.clock with lost := true } }) := by
    with_reducible apply post_step
    exact h.fields rfl id rfl rfl rfl rfl rfl rfl id rfl rfl rfl rfl id id id
  dsimp only
  generalize post .clockLost (lostSubject t.clock.selection) none none { t with clock := { t.clock with lost := true } } = u at h1
  with_reducible apply clockCut_step
  exact setClock_step h1 rfl rfl

theorem referenceAdopted_step {s t : State} (h : Move s t) : Move s (referenceAdopted t) := by
  unfold referenceAdopted
  refine Move.ite (fun _ => h) fun _ => setClock_step h ?_ ?_ <;> (unfold Clock.adopt; split <;> rfl)

theorem setTrack_settings (c : Clock) (r : RefLine) (x : RefTrack) :
    (c.setTrack r x).selection = c.selection ∧ (c.setTrack r x).configured = c.configured := by
  cases r <;> exact ⟨rfl, rfl⟩

theorem setTrack_step {s t : State} (h : Move s t) (r : RefLine) (x : RefTrack) :
    Move s { t with clock := t.clock.setTrack r x } :=
  h.fields rfl id (setTrack_settings ..).1 (setTrack_settings ..).2 rfl rfl rfl rfl id rfl rfl rfl rfl id id id

/-! ### The expiry of a notice -/

theorem NoticePort.expire_settings (q : NoticePort) (k : NoticeKind) (n : Nat) :
    (q.expire k n).attention = q.attention ∧ (q.expire k n).expiryTime = q.expiryTime := by
  unfold NoticePort.expire
  split <;> exact ⟨rfl, rfl⟩

theorem NoticePort.expire_ok {q : NoticePort} (h : q.ok) (k : NoticeKind) (n : Nat) : (q.expire k n).ok := by
  obtain ⟨h1, h2, h3, h4, h5⟩ := h
  unfold NoticePort.expire
  split
  · refine ⟨Nat.le_trans (List.length_filter_le ..) h1, ?_, fun x hx => h3 x (List.mem_filter.mp hx).1, h4, Nat.min_le_left ..⟩
    exact List.Nodup.sublist (List.Sublist.map _ List.filter_sublist) h2
  · exact ⟨h1, h2, h3, h4, h5⟩

theorem expireNotice_step {s t : State} (h : Move s t) (p : Port) (k : NoticeKind) (n : Nat) :
    Move s (setNotices p ((t.notices.get p).expire k n) t) := by
  refine ⟨?_, fun x => ?_, h.tl, h.gate, h.banks, h.eng, h.buffers⟩
  · rw [← h.settings]
    unfold settingsOf
    cases p <;>
      simp only [setNotices, PerPort.set, PerPort.get, PerPort.map, (NoticePort.expire_settings ..).1,
        (NoticePort.expire_settings ..).2]
  · obtain ⟨h1, h2, h3⟩ := h.notices x
    cases p
    · exact ⟨NoticePort.expire_ok h1 .., h2, h3⟩
    · exact ⟨h1, NoticePort.expire_ok h2 .., h3⟩
    · exact ⟨h1, h2, NoticePort.expire_ok h3 ..⟩

end Sys2Proof.Machine
end

