-- ==== Sys2Proof/Laws/PerInstr.lean ====
section
/-! SUPPORT. A statement about every row as syntax, one lemma for each constructor. -/

set_option Elab.async false

namespace Sys2Proof.Laws.Catalogue

/-- A row that is a command names a byte of the catalogue, and is no event. -/
def Statement (i : Instr) : Prop :=
  match Machine.catalogue i with
  | some (_, c) => c < 256 ∧ Machine.known (BitVec.ofNat 8 c) = true ∧ Machine.isEvent i = false
  | none => True

theorem powerOnReset : Statement (.powerOnReset) := trivial

theorem selectFall (p : Port) : Statement (.selectFall p) := trivial

theorem selectRise (p : Port) : Statement (.selectRise p) := trivial

theorem unknownCommand (p : Port) (b : Byte) : Statement (.unknownCommand p b) := trivial

theorem postTransport (p : Port) (mode dir arg : Byte) : Statement (.postTransport p mode dir arg) := by refine ⟨?_, ?_, rfl⟩ <;> decide

theorem queryTimeline (p : Port) : Statement (.queryTimeline p) := by refine ⟨?_, ?_, rfl⟩ <;> decide

theorem setCoastLimit (p : Port) (limit : Byte) : Statement (.setCoastLimit p limit) := by refine ⟨?_, ?_, rfl⟩ <;> decide

theorem setReference (p : Port) (selection : Byte) : Statement (.setReference p selection) := by refine ⟨?_, ?_, rfl⟩ <;> decide

theorem setRate (p : Port) (rate : Byte) : Statement (.setRate p rate) := by refine ⟨?_, ?_, rfl⟩ <;> decide

theorem clearClockLost (p : Port) : Statement (.clearClockLost p) := by refine ⟨?_, ?_, rfl⟩ <;> decide

theorem queryClock (p : Port) : Statement (.queryClock p) := by refine ⟨?_, ?_, rfl⟩ <;> decide

theorem holdFrame (p : Port) (addr : BitVec 24) : Statement (.holdFrame p addr) := by refine ⟨?_, ?_, rfl⟩ <;> decide

theorem releaseFrame (p : Port) (addr : BitVec 24) : Statement (.releaseFrame p addr) := by refine ⟨?_, ?_, rfl⟩ <;> decide

theorem readAudio (p : Port) (addr : BitVec 24) (channel : Byte) (start : BitVec 16) (count : Byte) : Statement (.readAudio p addr channel start count) := by refine ⟨?_, ?_, rfl⟩ <;> decide

theorem setJogWindow (p : Port) (length : Byte) : Statement (.setJogWindow p length) := by refine ⟨?_, ?_, rfl⟩ <;> decide

theorem writeFly (p : Port) (bank : Byte) (start : BitVec 16) (pairs : List SamplePair) : Statement (.writeFly p bank start pairs) := by refine ⟨?_, ?_, rfl⟩ <;> decide

theorem writeFlyNext (p : Port) (bank : Byte) (pairs : List SamplePair) : Statement (.writeFlyNext p bank pairs) := by refine ⟨?_, ?_, rfl⟩ <;> decide

theorem closeBank (p : Port) (bank : Byte) (count : BitVec 16) (cls remaining rate : Byte) : Statement (.closeBank p bank count cls remaining rate) := by refine ⟨?_, ?_, rfl⟩ <;> decide

theorem releaseBank (p : Port) (bank : Byte) : Statement (.releaseBank p bank) := by refine ⟨?_, ?_, rfl⟩ <;> decide

theorem queryBanks (p : Port) : Statement (.queryBanks p) := by refine ⟨?_, ?_, rfl⟩ <;> decide

theorem queryStatistics (p : Port) : Statement (.queryStatistics p) := by refine ⟨?_, ?_, rfl⟩ <;> decide

theorem clearStatistics (p : Port) : Statement (.clearStatistics p) := by refine ⟨?_, ?_, rfl⟩ <;> decide

theorem setConceal (p : Port) (bridge hold : Byte) (fade : BitVec 16) (recover : Byte) : Statement (.setConceal p bridge hold fade recover) := by refine ⟨?_, ?_, rfl⟩ <;> decide

theorem setMonitor (p : Port) (selection : Byte) : Statement (.setMonitor p selection) := by refine ⟨?_, ?_, rfl⟩ <;> decide

theorem setHeadGeometry (p : Port) (d c : Byte) : Statement (.setHeadGeometry p d c) := by refine ⟨?_, ?_, rfl⟩ <;> decide

theorem setFaultLimit (p : Port) (limit : Byte) : Statement (.setFaultLimit p limit) := by refine ⟨?_, ?_, rfl⟩ <;> decide

theorem setManualPunch (p : Port) (source : Byte) (fade : BitVec 16) : Statement (.setManualPunch p source fade) := by refine ⟨?_, ?_, rfl⟩ <;> decide

theorem setAnalogPolicy (p : Port) (cls remaining : Byte) : Statement (.setAnalogPolicy p cls remaining) := by refine ⟨?_, ?_, rfl⟩ <;> decide

theorem writeGuardSpan (p : Port) (place : Byte) (first last : BitVec 24) : Statement (.writeGuardSpan p place first last) := by refine ⟨?_, ?_, rfl⟩ <;> decide

theorem eraseGuardSpan (p : Port) (place : Byte) : Statement (.eraseGuardSpan p place) := by refine ⟨?_, ?_, rfl⟩ <;> decide

theorem setGuardInvert (p : Port) (flag : Byte) : Statement (.setGuardInvert p flag) := by refine ⟨?_, ?_, rfl⟩ <;> decide

theorem setGuardLock (p : Port) : Statement (.setGuardLock p) := by refine ⟨?_, ?_, rfl⟩ <;> decide

theorem clearGuardLock (p : Port) (release : Bool) : Statement (.clearGuardLock p release) := by refine ⟨?_, ?_, rfl⟩ <;> decide

theorem querySources (p : Port) (release : Bool) : Statement (.querySources p release) := by refine ⟨?_, ?_, rfl⟩ <;> decide

theorem writeEntry (p : Port) (place : Byte) (entry : RawEntry) : Statement (.writeEntry p place entry) := by refine ⟨?_, ?_, rfl⟩ <;> decide

theorem eraseEntry (p : Port) (place : Byte) : Statement (.eraseEntry p place) := by refine ⟨?_, ?_, rfl⟩ <;> decide

theorem readEntry (p : Port) (selector place : Byte) : Statement (.readEntry p selector place) := by refine ⟨?_, ?_, rfl⟩ <;> decide

theorem startProgram (p : Port) (mode passes : Byte) (version : BitVec 16) : Statement (.startProgram p mode passes version) := by refine ⟨?_, ?_, rfl⟩ <;> decide

theorem stopProgramNow (p : Port) : Statement (.stopProgramNow p) := by refine ⟨?_, ?_, rfl⟩ <;> decide

theorem stopProgramAtEnd (p : Port) : Statement (.stopProgramAtEnd p) := by refine ⟨?_, ?_, rfl⟩ <;> decide

theorem punchIn (p : Port) : Statement (.punchIn p) := by refine ⟨?_, ?_, rfl⟩ <;> decide

theorem punchOut (p : Port) : Statement (.punchOut p) := by refine ⟨?_, ?_, rfl⟩ <;> decide

theorem queryProgram (p : Port) : Statement (.queryProgram p) := by refine ⟨?_, ?_, rfl⟩ <;> decide

theorem readResult (p : Port) (position : Byte) : Statement (.readResult p position) := by refine ⟨?_, ?_, rfl⟩ <;> decide

theorem clearResults (p : Port) : Statement (.clearResults p) := by refine ⟨?_, ?_, rfl⟩ <;> decide

theorem setPreroll (p : Port) (preroll : BitVec 16) : Statement (.setPreroll p preroll) := by refine ⟨?_, ?_, rfl⟩ <;> decide

theorem writeCue (p : Port) (entry hh mm ss ff action rep armed : Byte) : Statement (.writeCue p entry hh mm ss ff action rep armed) := by refine ⟨?_, ?_, rfl⟩ <;> decide

theorem eraseCue (p : Port) (entry : Byte) : Statement (.eraseCue p entry) := by refine ⟨?_, ?_, rfl⟩ <;> decide

theorem armCue (p : Port) (entry arm : Byte) : Statement (.armCue p entry arm) := by refine ⟨?_, ?_, rfl⟩ <;> decide

theorem configurePunch (p : Port) (input active detection period rep action : Byte) : Statement (.configurePunch p input active detection period rep action) := by refine ⟨?_, ?_, rfl⟩ <;> decide

theorem armPunch (p : Port) (input arm : Byte) : Statement (.armPunch p input arm) := by refine ⟨?_, ?_, rfl⟩ <;> decide

theorem clearPunch (p : Port) (input : Byte) : Statement (.clearPunch p input) := by refine ⟨?_, ?_, rfl⟩ <;> decide

theorem queryPunch (p : Port) : Statement (.queryPunch p) := by refine ⟨?_, ?_, rfl⟩ <;> decide

theorem collectNotice (p : Port) : Statement (.collectNotice p) := by refine ⟨?_, ?_, rfl⟩ <;> decide

theorem setRoute (p : Port) (kind route : Byte) : Statement (.setRoute p kind route) := by refine ⟨?_, ?_, rfl⟩ <;> decide

theorem setAttention (p : Port) (flag : Byte) : Statement (.setAttention p flag) := by refine ⟨?_, ?_, rfl⟩ <;> decide

theorem setExpiry (p : Port) (seconds : Byte) : Statement (.setExpiry p seconds) := by refine ⟨?_, ?_, rfl⟩ <;> decide

theorem resetPort (p : Port) : Statement (.resetPort p) := by refine ⟨?_, ?_, rfl⟩ <;> decide

theorem resetDevice (p : Port) : Statement (.resetDevice p) := by refine ⟨?_, ?_, rfl⟩ <;> decide

theorem frameMark : Statement (.frameMark) := trivial

theorem sectorArrival (ch : HeadStream) (bytes : List Byte) : Statement (.sectorArrival ch bytes) := trivial

theorem samplePairArrival (line : InputLine) (pair : SamplePair) : Statement (.samplePairArrival line pair) := trivial

theorem digitalStatusRecord (record : Byte) : Statement (.digitalStatusRecord record) := trivial

theorem referenceLost : Statement (.referenceLost) := trivial

theorem referenceAdopted : Statement (.referenceAdopted) := trivial

theorem markTimeout : Statement (.markTimeout) := trivial

theorem shuttleTimerExpiry : Statement (.shuttleTimerExpiry) := trivial

theorem statusTimeout : Statement (.statusTimeout) := trivial

theorem noticeExpiry (p : Port) (kind : NoticeKind) (subject : Nat) : Statement (.noticeExpiry p kind subject) := trivial

theorem punchSample (line : PunchLine) (level : Level) : Statement (.punchSample line level) := trivial

theorem outputSamplePeriod : Statement (.outputSamplePeriod) := trivial

theorem intakeSamplePeriod : Statement (.intakeSamplePeriod) := trivial

theorem digitalOutputBlockEnd : Statement (.digitalOutputBlockEnd) := trivial

theorem inputPairTimeout (line : InputLine) : Statement (.inputPairTimeout line) := trivial

theorem sectorEmission : Statement (.sectorEmission) := trivial

theorem closeOperationComplete (ch : HeadStream) : Statement (.closeOperationComplete ch) := trivial

theorem concealmentComplete : Statement (.concealmentComplete) := trivial

theorem codingOperationBegin : Statement (.codingOperationBegin) := trivial

theorem codingOperationComplete : Statement (.codingOperationComplete) := trivial

theorem fetchComplete (p : Port) : Statement (.fetchComplete p) := trivial

theorem byteCompletion (p : Port) (b : Byte) : Statement (.byteCompletion p b) := trivial

theorem referencePresent (ref : RefLine) (rate : Rate) : Statement (.referencePresent ref rate) := trivial

theorem referenceAbsent (ref : RefLine) : Statement (.referenceAbsent ref) := trivial

end Sys2Proof.Laws.Catalogue
end

