-- ==== Sys2Proof/WellFormed.lean ====
section
/-! DEFINITION. Well-formedness: what no sender can put on a line.  Every value of every other operand can be sent, so it is
judged by `exec`, not here. -/

namespace Sys2Proof

/-- The length byte of WRITE FLY and WRITE FLY NEXT holds 0 to 255 (R181). -/
def wfPairs (pairs : List SamplePair) : Bool := decide (pairs.length ≤ 255)

/-- A delivered sector has at most 1013 bytes (R192). -/
def wfSector (bytes : List Byte) : Bool := decide (bytes.length ≤ 1013)

/-- UNKNOWN_COMMAND carries a byte outside the catalogue (R181). -/
def wfUnknown (b : Byte) : Bool := !Machine.known b

/-- A notice's subject lies in 0..255 (R196). -/
def wfSubject (n : Nat) : Bool := decide (n < 256)

/-- A command or event that some agent can send. -/
def Instr.wellFormed : Instr → Bool
  | .writeFly _ _ _ pairs => wfPairs pairs
  | .writeFlyNext _ _ pairs => wfPairs pairs
  | .sectorArrival _ bytes => wfSector bytes
  | .unknownCommand _ b => wfUnknown b
  | .noticeExpiry _ _ subject => wfSubject subject
  | _ => true

end Sys2Proof
end

