-- ==== Sys2Proof/Tests/Slice0.lean ====
section
/-! SUPPORT. Small tests of one step each, the well-formedness smoke tests, and, for every statement that has hypotheses, a state and operands
that meet them (test_witness_<statement>). -/

set_option Elab.async false

namespace Sys2Proof.Tests

open Sys2Proof.Machine

set_option maxRecDepth 20000

/-! ### Helpers -/

/-- The state after a command or event. -/
def after (i : Instr) (s : State) : State :=
  match exec i s with
  | .next t => t
  | .fault _ => s
  | .refused _ => s

/-- The reply that the Deck Port sends. -/
def reply (s : State) : List Byte :=
  match s.framers.deck with
  | .reply l => l
  | _ => []

def base : State := State.reset

/-- PLAY, LOCKED at 100, on a kept clock. -/
def locked : State :=
  { base with tl := { Timeline.reset with mode := .play, state := .locked, position := 100 }, clock := { Clock.reset with lost := false } }

def tl (f : Timeline → Timeline) (s : State) : State := { s with tl := f s.tl }
def gate (f : Gate → Gate) (s : State) : State := { s with gate := f s.gate }
def eng (f : Engine → Engine) (s : State) : State := { s with eng := f s.eng }
def framer (f : Framer) (s : State) : State := { s with framers := { s.framers with deck := f } }
def slot0 (x : Slot) (s : State) : State := { s with slots := s.slots.set 0 x, order := [0] }

def header : Header := ⟨some 7, some ⟨1, 2, 3, 4⟩, .r48, .counted 2, 9, .none, false⟩

/-- A CONCEALED PREREAD slot of frame 7. -/
def concealed : Slot := { Slot.reset with state := .concealed, role := some .preRead, addr := some 7, header := some header }

def filling (r : Role) : Slot := { Slot.reset with state := .filling, role := some r }

def emptyFrame (a : Option Nat) (o : Option SlotId) : CaptureFrame := ⟨a, o, noEntries, [], []⟩

def entry : Entry :=
  { inPoint := ⟨200, 0⟩, outPoint := ⟨204, 0⟩, source := .analog, method := .insert, timecode := none, lay := false, fadeIn := 0,
    fadeOut := 0, take := none, notify := false }

def rawEntry : RawEntry := ⟨200, 0, 204, 0, 0, 0, 0, 0, 0, 0, 0, 0, 0, 0, 0, 0, 0⟩

def draft1 (s : State) : State := eng (fun e => { e with draft := e.draft.set 0 (some entry), version := 1 }) s

def manualTag : SpliceTag := .manual 2

/-- An open punch. -/
def punch : Splice :=
  { tag := manualTag, index := none, rehearse := false, lay := false, notify := true, source := .analog, method := .insert,
    inFrame := none, timecode := none, start := none, outPoint := none, span := none, fadeIn := 0, fadeOut := 0, late := false,
    take := 2, actualIn := none, final := none, early := none, reason := none, mark := none, faults := 0, reworked := 0,
    finalReq := false, entered := none }

def punched : State := eng (fun e => { e with splice := some punch }) locked

def progTag : SpliceTag := .program 1 1 0

/-- The splice of entry 0 of a running program, from (200, 0) to (204, 0). -/
def progSplice : Splice :=
  { punch with tag := progTag, index := some 0, inFrame := some 200, start := some ⟨200, 0⟩, outPoint := some ⟨204, 0⟩, span := some 6400,
               notify := false }

/-- A RECORD run in SPLICING, with entry 0 ACTIVE and entry 1 PENDING. -/
def running : State :=
  eng (fun e => { e with
    state := .splicing, run := 1, pass := 1, mode := some .record, passes := some 1, runTake := some 2, splice := some progSplice
    active := (e.active.set 0 (some ⟨entry, .active⟩)).set 1 (some ⟨{ entry with inPoint := ⟨300, 0⟩, outPoint := ⟨304, 0⟩ }, .pending⟩) })
    locked

def coded (a : Nat) : Slot :=
  { Slot.reset with state := .coded, role := some .coded, addr := some a, header := some header, tag := some progTag }

/-- The gate SCHEDULED for the program's splice, from frame 200 on. -/
def scheduled (s : State) : State :=
  gate (fun g => { g with state := .scheduled, holder := some progTag, first := some 200, opening := 1 }) s

def plan : SplicePlan := splicePlan 1600 progSplice ⟨200, 0⟩ 200

def begunOp (a : Nat) (p : Option SplicePlan) : CodingOp :=
  ⟨a, failedIntake, 0, some ⟨some 1, p, some 0, .permit, .free, false, .r48⟩⟩

def bank0 (b : Bank) (s : State) : State := { s with banks := ⟨b, Bank.reset⟩ }

def prepared0 : Prepared := ⟨1, ⟨300, 0⟩, false, 6400, 0, 0, false⟩

def notice (k : NoticeKind) (n : Nat) (d : Option Nat) : Notice := ⟨k, n, 1, none, none, d⟩
def queued (l : List Notice) (s : State) : State := { s with notices := { s.notices with deck := { s.notices.deck with queue := l } } }

/-! ### Well-formedness: an ill-formed command for each check -/

theorem test_wf_writeFly : Instr.wellFormed (.writeFly .deck 0 0 (List.replicate 256 ⟨0, 0⟩)) = false := by decide
theorem test_wf_writeFly_max : Instr.wellFormed (.writeFly .deck 0 0 (List.replicate 255 ⟨0, 0⟩)) = true := by decide
theorem test_wf_writeFlyNext : Instr.wellFormed (.writeFlyNext .deck 0 (List.replicate 256 ⟨0, 0⟩)) = false := by decide
theorem test_wf_sector : Instr.wellFormed (.sectorArrival .preRead (List.replicate 1014 0)) = false := by decide
theorem test_wf_sector_max : Instr.wellFormed (.sectorArrival .preRead (List.replicate 1013 0)) = true := by decide
theorem test_wf_unknown : Instr.wellFormed (.unknownCommand .deck 0x10) = false := by decide
theorem test_wf_subject : Instr.wellFormed (.noticeExpiry .deck .dropout 256) = false := by decide
theorem test_wf_codes : Instr.wellFormed (.setMonitor .deck 0xFF) = true := by decide

/-! ### No word spells a command -/

theorem test_decode (nbits w : Nat) : decodeTableWord nbits w = none := rfl
theorem test_withFetchWord (s : State) (nbits w : Nat) : s.withFetchWord nbits w = s := rfl

/-! ### Ports -/

theorem test_select : (after (.selectFall .deck) base).framers.deck = .command := by decide
theorem test_selectRise : (after (.selectRise .deck) (framer .draining base)).framers.deck = .idle := by decide
theorem test_unknown : reply (after (.unknownCommand .deck 0) (framer .command base)) = [0x0A, 0] := by decide
theorem test_byte_parameters : (after (.byteCompletion .deck 0x12) (framer .command base)).framers.deck = .parameters [0x12] := by decide
theorem test_byte_taken : (after (.byteCompletion .deck 9) (framer (.parameters [0x12]) base)).tl.coastLimit = 9 := by decide
theorem test_privilege : (after (.setRoute .transport 1 0) base).framers.transport = .reply [4, 0] := by decide
theorem test_powerOn : (after .powerOnReset (framer .command locked)).framers.deck = .draining := by decide
theorem test_resetDevice : (after (.resetDevice .deck) locked).clock.lost = false := by decide
theorem test_resetPort : (after (.resetPort .deck) (queued [notice .cueFired 0 none] base)).notices.deck.queue = [] := by decide

/-! ### Timeline and clock -/

theorem test_post_play : (after (.postTransport .deck 1 0 0) base).tl.state = .acquiring := by decide
theorem test_post_range : reply (after (.postTransport .deck 1 1 0) base) = [5, 0] := by decide
theorem test_queryTimeline : (reply (after (.queryTimeline .deck) base)).length = 29 := by decide
theorem test_coastLimit : reply (after (.setCoastLimit .deck 31) base) = [5, 0] := by decide
theorem test_setReference : (after (.setReference .deck 1) base).clock.selection = .word := by decide
theorem test_setRate : (after (.setRate .deck 1) base).clock.rate = .r44 := by decide
theorem test_clearClockLost : (after (.clearClockLost .deck) base).clock.lost = false := by decide
theorem test_queryClock : (reply (after (.queryClock .deck) base)).take 5 = [1, 7, 0, 0, 0] := by decide
theorem test_geometry : (after (.setHeadGeometry .deck 6 4) base).geo = ⟨6, 4⟩ := by decide
theorem test_markTimeout : (after .markTimeout locked).tl.position = 101 := by decide
theorem test_shuttleTimer : (after .shuttleTimerExpiry (tl (fun t => { t with mode := .shuttle }) locked)).tl.position = 102 := by decide
theorem test_frameMark : (after .frameMark locked).tl.head = some 99 := by decide
theorem test_frameMark_offered : (after .frameMark locked).coding.map (·.addr) = [100] := by decide
theorem test_referencePresent : (after (.referencePresent .word .r44) base).clock.word = ⟨true, some .r44⟩ := by decide
theorem test_referenceAbsent : (after (.referenceAbsent .word) base).clock.word = ⟨false, none⟩ := by decide
theorem test_referenceAdopted :
    (after .referenceAdopted { locked with clock := { locked.clock with selection := .word } }).clock.running = .word := by decide
theorem test_referenceLost :
    (after .referenceLost { locked with clock := { locked.clock with selection := .word } }).clock.lost = true := by decide

/-! ### Frame Store and fly banks -/

theorem test_hold : (after (.holdFrame .deck 7) (slot0 concealed base)).slots[0].holders.deck = true := by decide
theorem test_release :
    (after (.releaseFrame .deck 7) (slot0 { concealed with holders := ⟨true, false, false⟩ } base)).slots[0].isHeld = false := by decide
theorem test_readAudio : reply (after (.readAudio .deck 7 0 0 4) (slot0 { concealed with holders := ⟨true, false, false⟩ } base)) = [1, 1, 0] := by
  decide
theorem test_fetchComplete : fetchBusy (after (.fetchComplete .deck)
    { base with fetch := { base.fetch with deck := .inFlight ⟨7, .left, 0, 0, 0, false⟩ } }).fetch.deck = false := by decide
theorem test_jogWindow : (after (.setJogWindow .deck 8) (tl (fun t => { t with mode := .jog }) locked)).jog.window = some 96 := by decide
theorem test_writeFly : (after (.writeFly .deck 0 6399 [⟨1, 2⟩, ⟨3, 4⟩]) base).banks.b0.writePos = 1 := by decide
theorem test_writeFlyNext : (after (.writeFlyNext .deck 1 [⟨1, 2⟩]) base).banks.b1.pairs = [(0, 1), (1, 2)] := by decide
theorem test_closeBank : (after (.closeBank .deck 0 5 0 0 0) { base with banks := ⟨{ Bank.reset with state := .loading }, Bank.reset⟩ }).banks.b0.count
    = some 5 := by decide
theorem test_releaseBank : (after (.releaseBank .deck 0) { base with banks := ⟨{ Bank.reset with state := .full }, Bank.reset⟩ }).banks.b0.state
    = .empty := by decide
theorem test_queryBanks : (reply (after (.queryBanks .deck) base)).length = 30 := by decide

/-! ### Capture, concealment, monitor -/

theorem test_sector_short : (after (.sectorArrival .preRead []) { base with pre := { Capture.reset with assembly := some (emptyFrame none none) } }).pre.stats.failed
    = 1 := by decide
theorem test_conceal_set : (after (.setConceal .deck 16 64 1024 64) base).conceal.params = ⟨16, 64, 1024, 64⟩ := by decide
theorem test_statistics : (reply (after (.queryStatistics .deck) base)).length = 89 := by decide
theorem test_clearStatistics : (after (.clearStatistics .deck) { base with pre := { Capture.reset with stats := ⟨1, 2, 3, 4, 5⟩ } }).pre.stats
    = ⟨0, 0, 0, 0, 0⟩ := by decide
theorem test_monitor : (after (.setMonitor .deck 2) base).mon.stored = .confidence := by decide
theorem test_output : (after .outputSamplePeriod base).out.blockCount = 1 := by decide
theorem test_blockEnd : (after .digitalOutputBlockEnd { base with out := { base.out with blockCount := 256, blockMark := .never } }).out.status
    = some 0x82 := by decide
theorem test_bridge : (concealChannel ⟨8, 16, 256, 32⟩ true none ConcealRec.reset [(false, 10), (true, 0), (true, 0), (false, 40)]).1
    = [10, 20, 30, 40] := by decide
theorem test_parity : mulAlpha 0x80000 = 9 := by decide
theorem test_conceal_idle : (after .concealmentComplete base).conceal.list = [] := by decide
theorem test_close_idle : (after (.closeOperationComplete .preRead) base).pre.closing = [] := by decide

/-! ### Intake, coding, gate -/

theorem test_pair : (after (.samplePairArrival .analog ⟨1, 2⟩) base).intake.fifo = [(⟨1, 2⟩, ⟨.analog, none⟩)] := by decide
theorem test_pairTimeout : (after (.inputPairTimeout .digital) { base with mon := { base.mon with lastDigital := some ⟨1, 2⟩ } }).mon.lastDigital
    = none := by decide
theorem test_intake : ((after .intakeSamplePeriod { base with intake := { Intake.reset with
    fifo := [(⟨1, 2⟩, ⟨.analog, some 0⟩)], frame := some ⟨none, 0, [], 0, none, .r48, none⟩ } }).intake.frame.map (·.taken)) = some 1 := by decide
theorem test_codingBegin : (after .codingOperationBegin { base with coding := [⟨7, failedIntake, 0, none⟩] }).coding.map (·.begun.isSome) = [true] := by
  decide
theorem test_codingComplete_idle : (after .codingOperationComplete base).coding = [] := by decide
theorem test_emission_idle : (after .sectorEmission base).out.sector = none := by decide
theorem test_faultLimit : (after (.setFaultLimit .deck 8) base).gate.faultLimit = 8 := by decide
theorem test_manual : (after (.setManualPunch .deck 2 3200) base).manual = ⟨.fly, 3200⟩ := by decide

/-! ### Copy status and guard -/

theorem test_policy : (after (.setAnalogPolicy .deck 1 3) base).sources.analog.epoch = 1 := by decide
theorem test_statusRecord : (after (.digitalStatusRecord 0x56) base).sources.digital.status = ⟨true, .counted 1, some .r44⟩ := by decide
theorem test_statusTimeout : (after .statusTimeout base).sources.timedOut = true := by decide
theorem test_guardSpan : (after (.writeGuardSpan .deck 7 5 9) base).guard.places[7] = some ⟨5, 9⟩ := by decide
theorem test_guardErase : reply (after (.eraseGuardSpan .deck 8) base) = [5, 0] := by decide
theorem test_guardInvert : guarded (after (.setGuardInvert .deck 1) base).guard 0 = true := by decide
theorem test_guardLock : (after (.setGuardLock .deck) base).guard.lock = true := by decide
theorem test_guardUnlock : reply (after (.clearGuardLock .deck false) base) = [8, 0] := by decide
theorem test_querySources : (after (.querySources .deck true) base).guardRelease = true := by decide

/-! ### Edit Engine -/

theorem test_writeEntry : (after (.writeEntry .deck 0 rawEntry) base).eng.draft[0] = some entry := by decide
theorem test_eraseEntry : (after (.eraseEntry .deck 0) (draft1 base)).eng.draft[0] = none := by decide
theorem test_readEntry : (reply (after (.readEntry .deck 0 0) base)).length = 30 := by decide
theorem test_start : reply (after (.startProgram .deck 0 1 1) (draft1 base)) = [2, 3, 1, 0, 2] := by decide
theorem test_start_armed : (after (.startProgram .deck 0 1 1) (draft1 base)).eng.state = .armed := by decide
theorem test_stopNow : (after (.stopProgramNow .deck) (eng (fun e => { e with state := .armed }) base)).eng.state = .aborted := by decide
theorem test_stopAtEnd : (after (.stopProgramAtEnd .deck) (eng (fun e => { e with state := .held }) base)).eng.state = .done := by decide
theorem test_punchIn : (after (.punchIn .deck) locked).gate.state = .scheduled := by decide
theorem test_punchOut : ((after (.punchOut .deck) punched).eng.splice.map (·.finalReq)) = some true := by decide
theorem test_queryProgram : (reply (after (.queryProgram .deck) base)).take 3 = [1, 22, 0] := by decide
theorem test_readResult : reply (after (.readResult .deck 0) base) = [5, 0] := by decide
theorem test_clearResults : (after (.clearResults .deck) (eng (fun e => { e with resultsLost := 3 }) base)).eng.resultsLost = 0 := by decide
theorem test_preroll : (after (.setPreroll .deck 300) base).eng.preroll = 300 := by decide

/-! ### Cues, punch inputs, notices -/

theorem test_writeCue : (after (.writeCue .deck 23 1 0xFF 3 4 5 1 1) base).cues[23].armed = true := by decide
theorem test_eraseCue : reply (after (.eraseCue .deck 24) base) = [5, 0] := by decide
theorem test_armCue : reply (after (.armCue .deck 0 0) base) = [6, 0] := by decide
theorem test_configurePunch : (after (.configurePunch .deck 1 0 1 3 1 4) base).punchB.period = .ms20 := by decide
theorem test_armPunch : (after (.armPunch .deck 0 0) base).punchA.armed = true := by decide
theorem test_clearPunch : (after (.clearPunch .deck 0) { base with punchA := { Punch.reset with detected := true } }).punchA.detected = false := by decide
theorem test_queryPunch : (reply (after (.queryPunch .deck) base)).length = 26 := by decide
theorem test_punchSample : (after (.punchSample .a .low) { base with punchA := { Punch.reset with armed := true, previous := .low } }).punchA.detected
    = true := by decide
theorem test_collect : (reply (after (.collectNotice .deck) (queued [notice .writeFault 1 none] base))) = [1, 10, 9, 1, 1, 0, 0, 0, 0, 0, 0, 0] := by
  decide
theorem test_route : (after (.setRoute .deck 16 5) base).routes[15] = ⟨true, false, true⟩ := by decide
theorem test_attention : (after (.setAttention .deck 0) base).notices.deck.attention = false := by decide
theorem test_expiry : (after (.setExpiry .deck 8) base).notices.deck.expiryTime = 8 := by decide
theorem test_noticeExpiry : (after (.noticeExpiry .deck .dropout 1) (queued [notice .dropout 1 (some 4)] base)).notices.deck.expired = 1 := by decide

/-! ### Witnesses: for each statement with hypotheses, a state and operands that meet them, clause by clause -/

theorem test_witness_EveryStepAnswersANextState : base.pending = [] := rfl

theorem test_witness_PowerOnAndDeviceReset : permitted .deck 0x7F = true := rfl

theorem test_witness_PortResetActsOnItsOwnPort :
    let free := slot0 { concealed with due := true, holders := ⟨true, false, false⟩ } base
    let pinned := slot0 { concealed with due := true, pinned := true, holders := ⟨true, false, false⟩ } base
    (Port.deck ≠ .transport) ∧ free.slots[0].holders.get .deck = true ∧ free.slots[0].due = true ∧ free.slots[0].pinned = false
      ∧ free.slots[0].holders = ⟨true, false, false⟩ ∧ free.fetch = ⟨.empty, .empty, .empty⟩ ∧ free.order.Nodup
      ∧ (pinned.slots[0].due = true ∧ pinned.slots[0].pinned = true) := by decide

theorem test_witness_FramersMove :
    base.framers.get .deck = .idle ∧ (framer .command base).framers.get .deck ≠ .idle ∧ (framer .draining base).framers.get .deck = .draining
      ∧ ((framer .command base).framers.get .deck = .command ∧ known 0x10 = true)
      ∧ (framer (.parameters [0x12]) base).framers.get .deck = .parameters (0x12 :: [])
      ∧ (framer (.reply [1, 0]) base).framers.get .deck = .reply (1 :: 0 :: [])
      ∧ (framer (.reply [0]) base).framers.get .deck = .reply [0] := by decide

theorem test_witness_UnknownCommandIsAnswered :
    (known 0x13 = false ∧ (framer .command base).framers.get .deck = .command)
      ∧ (framer (.reply [0x0A, 0x00]) base).framers.get .deck = .reply [0x0A, 0x00]
      ∧ (framer (.reply [0x00]) base).framers.get .deck = .reply [0x00]
      ∧ (framer .draining base).framers.get .deck = .draining
      ∧ (known 0x7F = true ∧ (0x7F : Byte) ≠ 0x24 ∧ (0x7F : Byte) ≠ 0x25)
      ∧ (Port.studio ≠ .transport ∧ ([] : List SamplePair).length < 1)
      ∧ 64 < (List.replicate 65 silence).length := by decide

theorem test_witness_TransactionsAreTheRows : 2 ≤ (2 : Byte).toNat ∧ 2 ≤ (255 : Byte).toNat := by decide

theorem test_witness_PrivilegeAndRefusals :
    (catalogue (.setRoute .transport 1 1) = some (.transport, 0x71) ∧ permitted .transport 0x71 = false)
      ∧ (catalogue (.resetDevice .studio) = some (.studio, 0x7F) ∧ permitted .studio 0x7F = false) := by decide

theorem test_witness_PostTransport :
    postingOf 1 1 0 = none ∧ postingOf 2 0 9 = none ∧ postingOf 5 0 0 = none ∧ postingOf 2 1 8 = some ⟨.jog, some .reverse, some 8, none⟩
      ∧ postingOf 3 0 2 = some ⟨.shuttle, some .forward, none, some 2⟩ ∧ postingOf 1 0 7 = some ⟨.play, none, none, none⟩
      ∧ postingOf 0 0 0 = some ⟨.stop, none, none, none⟩ := by decide

/-- Leaving PLAY in a program, with a frame in assembly, an intake frame and a frame that no judgement awaits; and the entry to a reading mode. -/
theorem test_witness_PostTransport_effects :
    let f : IntakeFrame := ⟨some 1, 3, [], 0, none, .r48, none⟩
    let s : State := slot0 (coded 206) { running with
      intake := { Intake.reset with frame := some f }, pre := { Capture.reset with assembly := some (emptyFrame none (some 2)) } }
    (s.tl.mode = .play ∧ Mode.stop ≠ .play) ∧ s.tl.state = .locked ∧ (s.tl.posted ⟨.stop, none, none, none⟩ s.geo.d).state = .parked
      ∧ (s.slots[(0 : SlotId)].state = .coded ∧ s.judge = [] ∧ blocked s 0 = false) ∧ (s.intake.frame = some f ∧ f.slot = some 1)
      ∧ (s.eng.state = .splicing ∧ s.eng.splice = some progSplice ∧ punchOpen s = false ∧ punchOpen punched = true)
      ∧ ((pendingEntry s 1).isSome = true ∧ progSplice.index ≠ some 1) ∧ (eng (fun e => { e with state := .finishing }) s).eng.state = .finishing
      ∧ s.pre.assembly = some (emptyFrame none (some 2)) ∧ s.pre.closing = []
      ∧ (base.tl.mode ≠ .play ∧ base.pre.assembly = none ∧ base.pre.closing = []) ∧ (locked.eng.splice = none ∧ locked.eng.state = .idle) := by
  decide

/-- A posting to JOG from PLAY and one within JOG, with the slot of frame 7 in the window that is then present. -/
theorem test_witness_PostTransport_window :
    let s : State := slot0 concealed (tl (fun t => { t with position := 7 }) locked)
    let t := after (.postTransport .deck 2 0 4) s
    (∀ i ∈ [(0 : SlotId)], windowCovers t s i) ∧ s.intake.frame = none ∧ s.coding = [] ∧ s.pre.assembly = none ∧ s.conf.assembly = none
      ∧ t.tl.mode = .jog ∧ (t.tl.posted ⟨.jog, some .reverse, some 4, none⟩ 3).state = .locked ∧ s.slots[(0 : SlotId)].state = .concealed := by
  refine ⟨?_, by decide⟩
  intro i hi
  obtain rfl : i = 0 := by simpa using hi
  exact ⟨4, 7, by decide, by decide, by decide, by decide, [], [], by decide, by simp⟩

theorem test_witness_TimelineAnswersAPosting :
    let q : Posting := ⟨.play, none, none, none⟩
    let r : Posting := ⟨.jog, some .reverse, some 1, none⟩
    let lay : Nat → Timeline := fun h => { locked.tl with state := .laying, handed := some h }
    (Mode.spool = .stop ∨ Mode.spool = .spool) ∧ q.mode ≠ .stop ∧ q.mode ≠ .spool
      ∧ (locked.tl.mode = q.mode ∧ locked.tl.dir = q.dir.getD locked.tl.dir)
      ∧ ¬(locked.tl.mode = r.mode ∧ locked.tl.dir = r.dir.getD locked.tl.dir) ∧ r.mode ≠ .stop ∧ r.mode ≠ .spool
      ∧ base.tl.state = .parked ∧ (locked.tl.state = .locked ∨ locked.tl.state = .coasting ∨ locked.tl.state = .unlocked)
      ∧ (tl (fun t => { t with state := .acquiring }) locked).tl.state = .acquiring
      ∧ ((lay 2591998).state = .laying ∧ (lay 2591998).handed = some 2591998 ∧ 2591998 + 3 - 2 < 2592000)
      ∧ ((lay 2591999).handed = some 2591999 ∧ 2592000 ≤ 2591999 + 3 - 2) ∧ { lay 0 with handed := none }.handed = none := by decide

theorem test_witness_SetCoastLimit :
    permitted .studio 0x12 = true ∧ (0 : Byte).toNat < 1 ∧ 30 < (31 : Byte).toNat ∧ (1 ≤ (1 : Byte).toNat ∧ (1 : Byte).toNat ≤ 30)
      ∧ (1 ≤ (30 : Byte).toNat ∧ (30 : Byte).toNat ≤ 30) ∧ (locked.tl.state = .coasting → locked.tl.coast ≤ (1 : Byte).toNat) := by decide

theorem test_witness_TimersCoastTheTimeline :
    let coast : Nat → Timeline → Timeline := fun p t => { t with state := .coasting, coast := 8, position := p }
    let op := begunOp 205 none
    let s : State := slot0 (coded 206) { tl (coast 100) running with coding := [op] }
    locked.tl.mode = .play ∧ (tl (fun t => { t with mode := .shuttle }) locked).tl.mode = .shuttle ∧ base.tl.mode ≠ .play
      ∧ base.tl.mode ≠ .shuttle ∧ (locked.eng.splice = none ∧ locked.eng.state = .idle)
      ∧ (after .markTimeout s).tl.state = .unlocked ∧ (after .markTimeout locked).tl.state = .coasting
      ∧ (after .markTimeout (tl (fun t => { t with position := 2591998 }) locked)).tl.position = 2591999
      ∧ (after .markTimeout (tl (fun t => { t with position := 2591999 }) locked)).tl.state = .unlocked
      ∧ (scheduled s).gate.state ≠ .closed ∧ (s.slots[(0 : SlotId)].state = .coded ∧ s.judge = [] ∧ blocked s 0 = false)
      ∧ (s.coding = [op] ∧ op.begun.map (·.slot) = some (some 1) ∧ blocked s 1 = false)
      ∧ s.eng.state = .splicing ∧ s.eng.splice = some progSplice := by decide

theorem test_witness_HeadGeometry :
    let fits : Byte → Byte → Prop := fun d c => 2 ≤ d.toNat ∧ d.toNat ≤ 6 ∧ 1 ≤ c.toNat ∧ c.toNat ≤ 4
    let free : State → Prop := fun s => (s.eng.state = .idle ∨ s.eng.state = .done ∨ s.eng.state = .aborted) ∧ s.gate.state = .closed
    permitted .deck 0x34 = true ∧ ¬fits 1 1 ∧ ¬fits 7 4 ∧ ¬fits 2 0 ∧ ¬fits 6 5 ∧ fits 2 1 ∧ fits 6 4 ∧ free base
      ∧ ¬free (gate (fun g => { g with state := .opened }) base) ∧ ¬free (eng (fun e => { e with state := .armed }) base)
      ∧ (locked.tl.mode = .play ∧ (locked.tl.state = .locked ∨ locked.tl.state = .coasting)) ∧ permitted .deck 0x7F = true := by decide

theorem test_witness_ClockCommands :
    let word : State := { locked with clock := { locked.clock with word := ⟨true, some .r48⟩, selection := .word } }
    (permitted .deck 0x14 = true ∧ permitted .deck 0x15 = true ∧ permitted .transport 0x16 = false ∧ permitted .studio 0x16 = true)
      ∧ named refSels 3 = none ∧ named refSels 2 = some .digital ∧ named refSels 1 = some .word ∧ named refSels 0 = some .internal
      ∧ named rates 2 = none ∧ named rates 1 = some .r44
      ∧ (gate (fun g => { g with state := .last }) base).gate.state ≠ .closed
      ∧ (base.gate.state = .closed ∧ base.clock.lost = true)
      ∧ (word.gate.state = .closed ∧ word.clock.lost = false ∧ word.clock.track .word = ⟨true, some word.clock.rate⟩)
      ∧ (RefSel.digital ≠ .internal ∧ word.clock.track .digital ≠ ⟨true, some word.clock.rate⟩)
      ∧ word.clock.selection ≠ .internal ∧ locked.clock.selection = .internal
      ∧ (base.clock.track base.clock.selection).present = true
      ∧ ({ base.clock with selection := .word }.track .word).present = false := by decide

theorem test_witness_ClockCommands_pointer :
    let jog : State := { base with jog := ⟨4, some 96, 0⟩ }
    (after (.setRate .deck 0) base).clock.rate = base.clock.rate ∧ (after (.setRate .deck 1) jog).clock.rate ≠ jog.clock.rate
      ∧ jog.jog.window = some 96 ∧ base.jog.window = none := by decide

/-- A change of the rate shortens bank 0, which had played 5880 of its 6400 pairs: it has run out then.  Bank 1 is FULL or is not. -/
theorem test_witness_ClockCommands_banks :
    let s : State → State := bank0 { Bank.reset with state := .playing, count := some 6400, readPos := 5880, rate := some .r48 }
    let full : State := { s base with banks := ⟨(s base).banks.b0, { Bank.reset with state := .full, count := some 100 }⟩ }
    (after (.setRate .deck 1) (s base)).clock.rate = .r44 ∧ (s base).clock.rate = .r48 ∧ 4 * framePairs .r44 = 5880
      ∧ (s base).banks.b1.state ≠ .playing ∧ (s base).banks.b1.state ≠ .full ∧ full.banks.b1.state = .full
      ∧ (after (.setRate .deck 1) (s base)).banks.b0.state = .spent ∧ (after (.setRate .deck 1) full).banks.b1.state = .playing
      ∧ (after (.setRate .deck 1) (bank0 { Bank.reset with state := .playing, count := some 6400, readPos := 5879 } base)).banks.b0.count
          = some 5880 := by decide

theorem test_witness_ReferenceEvents :
    let on : RefSel → State := fun r => { locked with clock := { locked.clock with selection := r } }
    (base.clock.lost = true ∨ base.clock.running = base.clock.selection)
      ∧ ((on .word).clock.lost = false ∧ (on .word).clock.running ≠ .word ∧ (on .word).clock.selection = .word)
      ∧ ((on .digital).clock.lost = false ∧ (on .digital).clock.running ≠ .digital ∧ (on .digital).clock.selection = .digital)
      ∧ (on .word).clock.selection ≠ .internal := by decide

theorem test_witness_HoldFrame :
    let found := slot0 concealed base
    let mine := slot0 { concealed with holders := ⟨true, false, false⟩ } base
    let f : State → Nat → Option SlotId := fun s a => newest s fun x =>
      (x.state == .decoded || x.state == .concealed || x.state == .coded) && x.addr == some a
    permitted .deck 0x20 = true ∧ 2592000 ≤ (2592000 : BitVec 24).toNat ∧ f base 7 = none
      ∧ ((7 : BitVec 24).toNat < 2592000 ∧ f found 7 = some 0 ∧ f mine 7 = some 0)
      ∧ mine.slots[(0 : SlotId)].holders.get .deck = true
      ∧ (found.slots[(0 : SlotId)].isHeld = false ∧ heldCount found < 6 ∧ 2 ≤ freeCount found)
      ∧ (mine.slots[(0 : SlotId)].holders.get .studio = false ∧ mine.slots[(0 : SlotId)].isHeld = true) := by decide

/-- The third case of HOLD FRAME: one FREE slot is left. -/
theorem test_witness_HoldFrame_full :
    let full : State := { base with slots := (Vector.replicate 20 (filling .preRead)).set 0 concealed, order := [0] }
    full.slots[(0 : SlotId)].isHeld = false ∧ freeCount full < 2 := by decide

theorem test_witness_ReleaseFrame :
    let mine := slot0 { concealed with holders := ⟨true, false, false⟩ } base
    let due := slot0 { concealed with due := true, holders := ⟨true, false, false⟩ } base
    permitted .deck 0x21 = true ∧ heldSlot base .deck 7 = none ∧ 2592000 ≤ (2592000 : BitVec 24).toNat
      ∧ heldSlot mine .deck (7 : BitVec 24).toNat = some 0 ∧ mine.slots[(0 : SlotId)].due = false
      ∧ heldSlot due .deck (7 : BitVec 24).toNat = some 0
      ∧ (due.slots[(0 : SlotId)].due = true ∧ due.slots[(0 : SlotId)].pinned = false
        ∧ due.slots[(0 : SlotId)].holders = ⟨true, false, false⟩ ∧ due.fetch = ⟨.empty, .empty, .empty⟩) := by decide

/-- The two cases of FETCH_COMPLETE: the slot is free to be released, and it is not. -/
theorem test_witness_ReadAudio_complete :
    let f : FetchParams := ⟨7, .left, 0, 64, 0, false⟩
    let fetching : Bool → State := fun due => slot0 { concealed with due := due } { base with fetch := { base.fetch with deck := .inFlight f } }
    (fetching true).fetch.get .deck = .inFlight f ∧ (fetching true).slots[f.slot].due = true ∧ (fetching true).slots[f.slot].pinned = false
      ∧ (fetching true).slots[f.slot].holders = ⟨false, false, false⟩ ∧ (fetching false).slots[f.slot].due = false := by decide

theorem test_witness_ReadAudio :
    let mine := slot0 { concealed with holders := ⟨true, false, false⟩ } base
    let f : FetchParams := ⟨7, .left, 0, 64, 0, false⟩
    let fetching : State := { mine with fetch := { mine.fetch with deck := .inFlight f } }
    permitted .deck 0x22 = true ∧ fetching.fetch.get .deck = .inFlight f ∧ fetchBusy (mine.fetch.get .deck) = false
      ∧ ¬(1 ≤ (0 : Byte).toNat) ∧ 2 ≤ (2 : Byte).toNat ∧ heldSlot base .deck 7 = none
      ∧ (1 ≤ (64 : Byte).toNat ∧ (64 : Byte).toNat ≤ 64 ∧ (1536 : BitVec 16).toNat < framePairs mine.clock.rate
        ∧ (1536 : BitVec 16).toNat + (64 : Byte).toNat ≤ framePairs mine.clock.rate ∧ (1 : Byte).toNat < 2
        ∧ heldSlot mine .deck (7 : BitVec 24).toNat = some 0) := by decide

theorem test_witness_SetJogWindow :
    let jog := after (.setJogWindow .deck 4) (tl (fun t => { t with mode := .jog }) locked)
    permitted .deck 0x23 = true ∧ (3 : Byte).toNat ∉ [1, 2, 4, 8] ∧ (8 : Byte).toNat ∈ [1, 2, 4, 8] ∧ jog.jog.window = some 100 := by decide

/-- A slot in the window, and one that is due and leaves it. -/
theorem test_witness_SetJogWindow_pins :
    let s : Nat → State := fun n => slot0 { concealed with pinned := true, due := true } (tl (fun t => { t with mode := .jog, position := n }) locked)
    let t := after (.setJogWindow .deck 1) (s 6)
    (∀ i ∈ [(0 : SlotId)], windowCovers (after (.setJogWindow .deck 8) (s 0)) (s 0) i)
      ∧ t.slots[(0 : SlotId)].pinned = false ∧ (s 6).slots[(0 : SlotId)].due = true ∧ (s 6).slots[(0 : SlotId)].isHeld = false
      ∧ beingFetched (s 6) 0 = false ∧ (s 6).order.Nodup ∧ (after (.setJogWindow .deck 1) base).jog.window = none := by
  refine ⟨?_, by decide⟩
  intro i hi
  obtain rfl : i = 0 := by simpa using hi
  exact ⟨0, 7, by decide, by decide, by decide, by decide, [], [], by decide, by simp⟩

theorem test_jog_pin :
    (after (.setJogWindow .deck 4) (slot0 concealed (tl (fun t => { t with mode := .jog, position := 5 }) locked))).slots[(0 : SlotId)].pinned
      = true := by decide

theorem test_witness_FlyWritesStoreTheirPairs :
    let b : BankState → State := fun x => { base with banks := ⟨{ Bank.reset with state := x }, Bank.reset⟩ }
    permitted .studio 0x24 = true ∧ permitted .studio 0x25 = true ∧ bankOf 0 = some .b0 ∧ bankOf 1 = some .b1 ∧ bankOf 2 = none
      ∧ ([] : List SamplePair).length < 1 ∧ 64 < (List.replicate 65 silence).length
      ∧ 4 * framePairs base.clock.rate ≤ (6400 : BitVec 16).toNat ∧ (6399 : BitVec 16).toNat < 4 * framePairs base.clock.rate
      ∧ (List.replicate 64 silence).length ≤ 64
      ∧ ((b .playing).banks.get .b0).state = .playing ∧ ((b .loading).banks.get .b0).state ≠ .playing
      ∧ ((b .loading).banks.get .b0).state ≠ .spent ∧ (base.banks.get .b0).writePos < 4 * framePairs base.clock.rate
      ∧ ([silence].length ≤ 1 ∧ 0 < 1) := by decide

theorem test_witness_FlyWritesStoreTheirPairs_next :
    let b : BankState → State := fun x => { base with banks := ⟨{ Bank.reset with state := x, writePos := 6399 }, Bank.reset⟩ }
    ((b .playing).banks.get .b0).state = .playing ∧ ((b .spent).banks.get .b0).state = .spent
      ∧ ((b .spent).banks.get .b0).writePos < 4 * framePairs (b .spent).clock.rate ∧ [silence].length = 1 := by decide

theorem test_witness_CloseAndReleaseBank :
    let b : BankState → State := fun x => { base with banks := ⟨{ Bank.reset with state := x }, Bank.reset⟩ }
    permitted .deck 0x26 = true ∧ permitted .deck 0x27 = true ∧ bankOf 0 = some .b0 ∧ copyMarkOf 1 3 = some (.counted 3) ∧ copyMarkOf 1 4 = none
      ∧ copyMarkOf 3 0 = none ∧ named rates 1 = some .r44 ∧ named rates 2 = none ∧ bankOf 2 = none
      ∧ (0 : BitVec 16).toNat < 1 ∧ 4 * framePairs base.clock.rate < (6401 : BitVec 16).toNat
      ∧ (1 ≤ (6400 : BitVec 16).toNat ∧ (6400 : BitVec 16).toNat ≤ 4 * framePairs base.clock.rate)
      ∧ ((b .spent).banks.get .b0).state ≠ .loading ∧ ((b .spent).banks.get .b0).state ≠ .full ∧ ((b .full).banks.get .b0).state = .full
      ∧ (base.banks.get .b0).state = .empty ∧ ((b .playing).banks.get .b0).state = .playing
      ∧ (((b .spent).banks.get .b0).state ≠ .empty ∧ ((b .spent).banks.get .b0).state ≠ .playing) := by decide

/-- A record that takes the status it has and one that takes another, with a history of 31 and of 32 statuses. -/
theorem test_witness_CloseAndReleaseBank_records :
    let st : SourceStatus := ⟨true, .counted 3, some .r44⟩
    let rec' : Nat → SourceRec := fun n => ⟨st, 65535, List.replicate n (0, st)⟩
    (rec' 31).status = st ∧ { (rec' 31).status with valid := false } ≠ st ∧ (rec' 31).history.length < 32 ∧ ¬(rec' 32).history.length < 32
      ∧ BankId.b0.src = .fly0 ∧ BankId.b1.src = .fly1 ∧ SrcId.analog ≠ BankId.b0.src
      ∧ base.sources.fly0.status ≠ st := by decide

theorem test_witness_SettingCommands :
    Port.studio ≠ .transport ∧ named monSels 3 = some .auto ∧ named monSels 4 = none ∧ 8 < (9 : Byte).toNat ∧ (8 : Byte).toNat ≤ 8
      ∧ (named sourceList 2 = some .fly ∧ (3200 : BitVec 16).toNat ≤ 3200) ∧ named sourceList 3 = none ∧ 3200 < (3201 : BitVec 16).toNat
      ∧ 30 ≤ (30 : BitVec 16).toNat ∧ (300 : BitVec 16).toNat ≤ 300 ∧ (29 : BitVec 16).toNat < 30 ∧ 300 < (301 : BitVec 16).toNat := by decide

theorem test_witness_GuardCommandsChangeTheTable :
    let fits : Byte → BitVec 24 → BitVec 24 → Prop := fun p a b => p.toNat < 8 ∧ a.toNat ≤ b.toNat ∧ b.toNat < 2592000
    let writing := gate (fun g => { g with state := .opened, write := some ⟨7, 0, 0⟩ }) base
    let sp : Splice := { progSplice with rehearse := true, actualIn := some ⟨200, 0⟩ }
    let rehearsed : State := eng (fun e => { e with splice := some sp }) (tl (fun t => { t with head := some 200 }) running)
    let table : Guard := { base.guard with places := base.guard.places.set! 7 (some ⟨7, 7⟩) }
    base.guard.lock = false ∧ ¬fits 8 0 0 ∧ ¬fits 0 6 5 ∧ ¬fits 0 0 2592000 ∧ fits 7 2591999 2591999 ∧ 8 ≤ (8 : Byte).toNat ∧ 2 ≤ (2 : Byte).toNat
      ∧ (base.gate.state = .closed ∧ base.eng.splice = none) ∧ (7 : Byte).toNat < 8 ∧ (1 : Byte).toNat < 2
      ∧ (gate (fun g => { g with state := .scheduled }) base).gate.write = none
      ∧ (writing.gate.state ≠ .closed ∧ writing.gate.write = some ⟨7, 0, 0⟩ ∧ writing.guard.lock = false ∧ fits 7 7 7)
      ∧ (rehearsed.gate.state = .closed ∧ rehearsed.eng.splice = some sp ∧ sp.rehearse = true ∧ sp.actualIn = some ⟨200, 0⟩
        ∧ rehearsed.tl.head = some 200 ∧ rehearsed.coding = [])
      ∧ guarded table 7 = true ∧ guarded table 8 = false := by decide

/-- A frame that an erased span leaves guarded, and one that a changed invert flag guards, while it is written or rehearsed. -/
theorem test_witness_GuardCommandsChangeTheTable_inverted :
    let span : Guard := { base.guard with places := base.guard.places.set! 0 (some ⟨7, 200⟩) }
    let sp : Splice := { progSplice with rehearse := true, actualIn := some ⟨200, 0⟩ }
    let writing : Guard → State := fun g => gate (fun x => { x with state := .opened, write := some ⟨7, 0, 0⟩ }) { base with guard := g }
    let rehearsed : Guard → State := fun g =>
      eng (fun e => { e with splice := some sp }) (tl (fun t => { t with head := some 200 }) { running with guard := g })
    ∀ g ∈ [span, { span with invert := true }], (writing g).guard.lock = false ∧ (writing g).gate.state ≠ .closed
      ∧ (writing g).gate.write = some ⟨7, 0, 0⟩ ∧ (rehearsed g).gate.state = .closed ∧ (rehearsed g).eng.splice = some sp
      ∧ (rehearsed g).tl.head = some 200 ∧ (rehearsed g).coding = []
      ∧ guarded { g with places := g.places.set! 0 none } 7 = g.invert ∧ guarded { g with invert := false } 200 = true
      ∧ guarded { g with invert := true } 200 = false := by decide

theorem test_witness_GuardLock :
    { base.guard with lock := true }.lock = true ∧ (1 : Byte).toNat < 2 := by decide

theorem test_witness_GuardedAddresses :
    base.guard.invert = false ∧ { base.guard with invert := true }.invert = true := by decide

theorem test_witness_SourceRecordsAreFed :
    permitted .deck 0x40 = true ∧ copyMarkOf 1 4 = none ∧ copyMarkOf 2 9 = some .never ∧ SrcId.fly0 ≠ .analog
      ∧ statusOf 0x02 = some (.free, .r48) ∧ statusOf 0x00 = none
      ∧ (base.sources.get .analog).status = ⟨true, .free, none⟩ ∧ (base.sources.get .digital).status ≠ ⟨true, .free, some .r48⟩ := by decide

theorem test_witness_DraftListAndItsReplies :
    Port.studio ≠ .transport ∧ entryOf rawEntry = some entry ∧ (15 : Byte).toNat < 16 ∧ entry.valid (framePairs base.clock.rate) = true
      ∧ { entry with inPoint := entry.outPoint }.valid (framePairs base.clock.rate) = false
      ∧ entryOf { rawEntry with source := 3 } = none ∧ 16 ≤ (16 : Byte).toNat ∧ 2 ≤ (2 : Byte).toNat ∧ (15 : Byte).toNat = (15 : Fin 16).val
      ∧ base.eng.results[(0 : Byte).toNat]? = none := by decide

theorem test_witness_StartProgram :
    let resting : State → Prop := fun s => s.eng.state = .idle ∨ s.eng.state = .done ∨ s.eng.state = .aborted
    let s := draft1 base
    Port.studio ≠ .transport ∧ named runModes 2 = none ∧ named runModes 0 = some .record ∧ named runModes 1 = some .rehearse
      ∧ ¬resting (eng (fun e => { e with state := .held }) base) ∧ punchOpen punched = true
      ∧ resting s ∧ punchOpen s = false ∧ ¬((0 : Byte).toNat = 1) ∧ (1 : Byte).toNat = 1 ∧ (2 : BitVec 16).toNat ≠ s.eng.version
      ∧ (1 : BitVec 16).toNat = s.eng.version ∧ programCheck .record base = false ∧ programCheck .record s = true ∧ draftLays s = false
      ∧ (1 ≤ (15 : Byte).toNat ∧ (15 : Byte).toNat ≤ 15) ∧ programCheck .rehearse s = true := by decide

/-- A lay entry, refused with STATE outside PLAY. -/
theorem test_witness_StartProgram_lay :
    let s := eng (fun e => { e with draft := e.draft.set 0 (some { entry with method := .assemble, lay := true }), version := 1 }) base
    programCheck .record s = true ∧ draftLays s = true ∧ s.tl.mode ≠ .play := by decide

/-- Two entries that meet as closely as they may, and an accepted start below the locate target, at it, and of a lay. -/
theorem test_witness_StartProgram_accepted :
    let next : Entry := { entry with inPoint := ⟨204, 1⟩, outPoint := ⟨205, 0⟩ }
    let two : State := eng (fun e => { e with draft := e.draft.set 1 (some next) }) (draft1 locked)
    let touching : State := eng (fun e => { e with draft := e.draft.set 1 (some { next with inPoint := ⟨204, 0⟩ }) }) (draft1 locked)
    let lay : State := eng (fun e => { e with draft := e.draft.set 0 (some { entry with method := .assemble, lay := true }) }) locked
    let start : State → State := fun s => (startProgram .record 1 none s).1
    (programCheck .record two = true ∧ programCheck .record touching = false ∧ (1 : Fin 16).val = (0 : Fin 16).val + 1)
      ∧ (programCheck .record lay = true ∧ draftLays lay = true ∧ lay.tl.mode = .play ∧ (start lay).eng.state = .waiting)
      ∧ ((draft1 locked).tl.state = .locked ∧ 100 < 200 - 90 ∧ (start (draft1 locked)).eng.state = .waiting)
      ∧ ¬110 < 200 - 90 ∧ (start (draft1 (tl (fun t => { t with position := 110 }) locked))).eng.state = .armed := by decide

theorem test_witness_StopProgram :
    let at' : EngState → State := fun x => eng (fun e => { e with state := x }) locked
    punchOpen base = false ∧ punchOpen punched = true ∧ (base.eng.state = .idle ∨ base.eng.state = .done ∨ base.eng.state = .aborted)
      ∧ (at' .held).eng.state = .held ∧ (at' .splicing).eng.state = .splicing ∧ (at' .finishing).eng.state = .finishing
      ∧ punchOpen (at' .splicing) = false := by decide

/-- A splice and a PENDING entry at a stop, with a list of results that is full; a bank made PLAYING; a rehearsed splice; and a prepared entry. -/
theorem test_witness_StopProgram_results :
    let old : SpliceResult := ⟨.manual 1, 0, 0, false, .done, none, none, none, false, 1, none, 0, 0⟩
    let s : State := bank0 { Bank.reset with state := .playing } (eng (fun e => { e with
      results := List.replicate 16 old, resultsLost := 65535, bankFor := some (.program 1 1 1), prepared := [prepared0] }) running)
    let sp : Splice := { progSplice with rehearse := true, actualIn := some ⟨200, 0⟩ }
    s.eng.ok ∧ s.banks.ok ∧ ((s.banks.get .b0).state = .playing ∧ s.eng.bankFor.isSome = true ∧ s.eng.bankFor ≠ s.eng.splice.map (·.tag))
      ∧ (s.eng.splice = some progSplice ∧ progSplice.index = some 0 ∧ s.eng.active[(0 : Fin 16)] = some ⟨entry, .active⟩)
      ∧ ((pendingEntry s 1).isSome = true ∧ s.eng.prepared ≠ [] ∧ running.eng.prepared = [] ∧ punchOpen s = false)
      ∧ ((eng (fun e => { e with splice := some sp }) s).eng.splice = some sp ∧ sp.index = some 0)
      ∧ (punched.eng.splice = some punch ∧ punched.eng.prepared = []) := by
  refine ⟨⟨by decide, by decide, by decide, by decide⟩, ?_, by decide⟩
  show ¬_
  decide

theorem test_witness_ManualPunch :
    let ready : State → Prop := fun s => s.tl.mode = .play ∧ s.tl.state = .locked ∧ s.clock.lost = false
    let fly : State := { locked with manual := ⟨.fly, 480⟩ }
    let loaded : Rate → State := fun r => bank0 { Bank.reset with state := .full, rate := some r } fly
    Port.studio ≠ .transport ∧ punchOpen punched = true ∧ punchOpen base = false ∧ base.eng.state = .idle ∧ ¬ready base ∧ ready locked
      ∧ locked.eng.state = .idle ∧ locked.gate.state = .closed ∧ locked.manual.source ≠ .fly ∧ punchOpen locked = false
      ∧ (ready fly ∧ fly.manual.source = .fly ∧ fly.banks.b0.state ≠ .full ∧ fly.banks.b1.state ≠ .full)
      ∧ (((loaded .r48).banks.get .b0).state = .full ∧ ((loaded .r48).banks.get .b0).rate = some (loaded .r48).clock.rate)
      ∧ (((loaded .r44).banks.get .b0).state = .full ∧ ((loaded .r44).banks.get .b0).rate ≠ some (loaded .r44).clock.rate) := by decide

/-- The cases of PUNCH OUT: a final frame known, the holder's operation in front, and another one or none. -/
theorem test_witness_ManualPunch_out :
    let op := begunOp 200 (some { plan with tag := manualTag })
    punched.eng.splice = some punch ∧ punch.index = none ∧ (gate (fun g => { g with final := some 200 }) punched).gate.final.isSome = true
      ∧ (punched.gate.final = none ∧ punch.final = none) ∧ op.begun.map (·.plan.map (·.tag)) = some (some punch.tag) ∧ punched.coding = [] := by
  decide

theorem test_witness_EraseAndArmCue :
    let s : State := { base with cues := base.cues.set 23 { Cue.reset with present := true, armed := true } }
    Port.studio ≠ .transport ∧ 24 ≤ (24 : Byte).toNat ∧ 3 ≤ (3 : Byte).toNat ∧ (23 : Byte).toNat = (23 : Fin 24).val ∧ (2 : Byte).toNat < 3
      ∧ base.cues[(23 : Fin 24)].present = false ∧ s.cues[(23 : Fin 24)].present = true
      ∧ ((2 : Byte) = 2 ∧ true = s.cues[(23 : Fin 24)].armed) := by decide

theorem test_witness_CueAndPunchCommands :
    Port.studio ≠ .transport ∧ 24 ≤ (24 : Byte).toNat ∧ cueOf 24 0 0 0 0 0 0 = none ∧ cueOf 0xFF 0xFF 0xFF 0xFF 0 0 0 = none
      ∧ (23 : Byte).toNat = (23 : Fin 24).val ∧ (cueOf 23 59 59 29 5 1 1).isSome = true ∧ (cueOf 0xFF 0xFF 0xFF 0 0 0 0).isSome = true
      ∧ cueOf 0 60 0 0 0 0 0 = none ∧ cueOf 0 0 0 30 0 0 0 = none ∧ cueOf 0 0 0 0 6 0 0 = none ∧ 2 ≤ (2 : Byte).toNat
      ∧ (named levels 1 = some .low ∧ named detections 1 = some .level ∧ named samplePeriods 3 = some .ms20
        ∧ named punchRepeats 1 = some .continuous ∧ named punchActions 4 = some .notify)
      ∧ named levels 2 = none ∧ named punchActions 5 = none := by decide

theorem test_witness_PunchSamples :
    let x : Punch := { Punch.reset with armed := true, previous := .low }
    (Level.low ≠ Punch.reset.previous ∨ Level.low = Punch.reset.filtered) ∧ (Level.low = x.previous ∧ Level.low ≠ x.filtered)
      ∧ Punch.reset.armed = false ∧ (x.armed = true ∧ (Level.low = x.active ∨ x.detection = .level) ∧ x.action = .notify)
      ∧ (Level.high ≠ x.active ∧ x.detection = .edge) ∧ { x with action := .manualPunch }.action ≠ .notify ∧ base.eng.version < 65536 := by
  decide

theorem test_witness_NoticeCommands :
    let n := notice .dropout 1 (some 4)
    let q := (queued [n] base).notices.get .deck
    (base.notices.get .deck).queue = [] ∧ permitted .transport 0x70 = true ∧ q.queue = n :: []
      ∧ permitted .deck 0x71 = true ∧ (16 : Byte).toNat = (15 : Fin 16).val + 1 ∧ (7 : Byte).toNat < 8 ∧ (0 : Byte).toNat < 1 ∧ 16 < (17 : Byte).toNat
      ∧ 8 ≤ (8 : Byte).toNat ∧ permitted .transport 0x72 = true ∧ (1 : Byte).toNat < 2 ∧ 2 ≤ (2 : Byte).toNat ∧ permitted .studio 0x73 = true
      ∧ (1 ≤ (8 : Byte).toNat ∧ (8 : Byte).toNat ≤ 8) ∧ 8 < (9 : Byte).toNat
      ∧ (∀ e ∈ q.queue, ¬(e.kind = .dropout ∧ e.subject = 0 ∧ e.deadline.isSome = true))
      ∧ (q.queue = [] ++ n :: [] ∧ n.kind = .dropout ∧ n.subject = 1 ∧ n.deadline.isSome = true)
      ∧ q.queue.length ≤ 8 ∧ (q.queue.map fun n => (n.kind, n.subject)).Nodup
      ∧ (∀ n ∈ q.queue, 1 ≤ n.count ∧ n.count ≤ 255 ∧ n.deadline.isSome = expiring n.kind) ∧ q.overflow ≤ 255 ∧ q.expired ≤ 255 := by decide

theorem test_witness_PostedNotices :
    let full := queued (List.replicate 8 (notice .cueFired 1 none)) base
    (base.routes[kindIndex .cueFired]).get .transport = false ∧ (base.routes[kindIndex .cueFired]).get .deck = true
      ∧ ((queued [notice .cueFired 1 none] base).notices.get .deck).queue = [] ++ notice .cueFired 1 none :: []
      ∧ (∀ x ∈ (full.notices.get .deck).queue, ¬(x.kind = .cueFired ∧ x.subject = 0)) ∧ 8 ≤ (full.notices.get .deck).queue.length
      ∧ (base.notices.get .deck).queue.length < 8 := by decide

theorem test_witness_AttentionLine :
    ((base.routes[kindIndex .cueFired]).get .deck = true ∧ (base.notices.get .deck).attention = true)
      ∧ (∃ e ∈ ((queued [notice .cueFired 1 none] base).notices.get .deck).queue, e.kind = .cueFired ∧ e.subject = 1)
      ∧ (1 : Byte).toNat < 2 ∧ 2 ≤ (2 : Byte).toNat := by decide

theorem test_witness_AlertLine :
    let full := queued (List.replicate 8 (notice .cueFired 1 none)) base
    (base.notices.deck.queue.length < 8 ∧ (base.routes[kindIndex .clockLost]).deck = true)
      ∧ (8 ≤ full.notices.deck.queue.length ∧ (full.routes[kindIndex .clockLost]).deck = true
        ∧ ∀ x ∈ full.notices.deck.queue, ¬(x.kind = .clockLost ∧ x.subject = 0))
      ∧ (base.notices.deck.queue.length ≤ 8 ∧ base.notices.deck.overflow ≤ 255 ∧ base.notices.deck.expired ≤ 255) := by decide

/-- A frame in assembly with slot 0. -/
def assembling (a : Option Nat) : State :=
  slot0 (filling .preRead) { base with pre := { Capture.reset with assembly := some (emptyFrame a (some 0)) } }

def goodSector (k : Nat) : List Byte := sectorBytes k header (List.replicate 400 0)

theorem test_witness_SectorsAreStored :
    base.pre.assembly = none ∧ base.pre.closing = []
      ∧ ((assembling (some 7)).pre.assembly = some (emptyFrame (some 7) (some 0)) ∧ (assembling (some 7)).pre.closing = [])
      ∧ (readSector []).number = none ∧ (readSector []).header = none
      ∧ (entryAt noEntries 9).isGood = false ∧ (entryAt (setEntry noEntries 9 .rebuilt) 9).isGood = true := by decide

/-- A passing sector, for the clauses of one: its number and its header are read back; and one whose check fails. -/
theorem test_witness_SectorsAreStored_good :
    (readSector (goodSector 9)).number = some 9 ∧ (readSector (goodSector 9)).header = some header
      ∧ (readSector ((goodSector 9).dropLast)).number = some 9 ∧ (readSector ((goodSector 9).dropLast)).header = none := by decide +kernel

/-- An absent frame, of no address, of the sector's and of another. -/
theorem test_witness_SectorsAreStored_absent :
    let s : Option Nat → State := fun a => { base with pre := { Capture.reset with assembly := some (emptyFrame a none) } }
    (s none).pre.assembly = some (emptyFrame none none) ∧ (emptyFrame none none).slot = none ∧ (s none).pre.closing = []
      ∧ (emptyFrame (some 7) none).addr = header.addr ∧ ((emptyFrame (some 6) none).addr = some 6 ∧ header.addr = some 7 ∧ (6 : Nat) ≠ 7)
      ∧ (emptyFrame (some 7) (some 0)).addr = some 7 ∧ entryAt noEntries 0 = .missing ∧ entryAt (setEntry noEntries 0 .failed) 0 ≠ .missing
      ∧ (emptyFrame (some 6) (some 0)).addr = some 6 := by decide

theorem test_witness_ParityRecoversLostSectors :
    let bad : List Nat → Vector SectorEntry 10 := fun l => Vector.ofFn fun i => if l.contains i.val then .failed else .good header
    missingData (bad [7]) = [7] ∧ (entryAt (bad [7]) 8).isGood = true ∧ missingData (bad [0, 8]) = [0] ∧ (entryAt (bad [0, 8]) 9).isGood = true
      ∧ (entryAt (bad [0, 8]) 8).isGood = false ∧ missingData (bad [0, 7]) = [0, 7] ∧ (entryAt (bad [0, 7]) 9).isGood = true
      ∧ missingData (bad [0, 8, 9]) = [0] ∧ (entryAt (bad [0, 8, 9]) 9).isGood = false ∧ 3 ≤ (missingData (bad [0, 1, 7])).length
      ∧ (missingData (bad [])).length = 0 := by decide

/-- Every word of the all-zero frame agrees with all-zero parity: the premises on the words. -/
theorem test_witness_ParityRecoversLostSectors_words (j : Nat) :
    Memory.read [] j = parityP [] j ∧ Memory.read [] j = parityQ [] j := by
  constructor <;> simp [parityP, parityQ, xorWords, sumWords, dataSectors, dataWord, Memory.read, mulPow, List.range, List.range.loop]
  decide

def closingFrame : ClosingFrame := ⟨emptyFrame (some 7) (some 0), true, .play, .forward, 0⟩

/-- A frame waits to be closed in both channels, with the next one in assembly. -/
def closingState (o : Option SlotId) (n : Nat) : State :=
  let c : Capture := { Capture.reset with
    assembly := some (emptyFrame none none), closing := [{ closingFrame with frame := { closingFrame.frame with slot := o }, designated := n }] }
  slot0 (filling .preRead) { locked with pre := c, conf := c }

def judged : JudgeEntry := ⟨97, 2, 1, progTag, 1, false, 0, true⟩

theorem test_witness_CloseOperationCompletes :
    let s := closingState (some 0) 0
    let t : State := { closingState (some 0) 1 with judge := [judged] }
    let u : State := { closingState none 1 with judge := [judged] }
    (closingFrame.frame.slot = some 0 ∧ s.slots[(0 : SlotId)].state = .filling ∧ s.slots[(0 : SlotId)].due = false)
      ∧ (s.pre.closing = [closingFrame] ∧ s.pre.assembly.isSome = true ∧ s.coding = [])
      ∧ (s.conf.closing = [closingFrame] ∧ s.conf.assembly.isSome = true ∧ closingFrame.designated = 0)
      ∧ (t.conf.closing.map (·.designated) = [1] ∧ t.judge = judged :: [] ∧ judged.designated = true ∧ judged.slot ≠ 0)
      ∧ (u.pre.closing.map (·.frame.slot) = [none] ∧ u.conf.closing.map (·.frame.slot) = [none] ∧ u.conf.closing.map (·.designated) = [1]
        ∧ u.judge = judged :: []) ∧ (s.eng.state = .idle ∧ s.eng.splice = none) ∧ (capture base .preRead).closing = [] := by decide

/-- The cue clauses: one armed cue matches the close's timecode, and its action is NOTIFY or another. -/
theorem test_witness_CloseOperationCompletes_cues :
    let cue : CueAction → Cue := fun a => { Cue.reset with present := true, armed := true, ff := some 4, action := a }
    (∀ a ∈ [CueAction.notify, .stopNow], (cue a).present = true ∧ (cue a).armed = true
        ∧ (cue a).hh = none ∧ (cue a).mm = none ∧ (cue a).ss = none ∧ (cue a).ff = some 4)
      ∧ CueAction.stopNow ≠ .notify ∧ base.eng.version < 65536 ∧ locked.tl.mode = .play ∧ locked.tl.state = .locked := by decide

/-- The timeline clauses: each state and mode, with an address that is expected and one that is not. -/
theorem test_witness_CloseOperationCompletes_timeline :
    let at' : Mode → TlState → Timeline := fun m x => { locked.tl with mode := m, state := x, run := 2, candidate := some 100 }
    ((at' .stop .parked).mode = .stop ∧ (at' .play .laying).state = .laying ∧ (at' .play .locked).state = .locked
      ∧ (at' .jog .coasting).state = .coasting ∧ (at' .play .acquiring).state = .acquiring ∧ (at' .play .unlocked).state = .unlocked
      ∧ (at' .shuttle .locked).mode = .shuttle) ∧ { header with addr := some 101 }.addr = some ((at' .play .locked).position + 1)
      ∧ (at' .play .acquiring).candidate.getD 0 + 1 = 101 ∧ 2 ≤ (at' .play .acquiring).run ∧ header.addr = some 7 := by decide

/-- In JOG, a frame that coasts on; the window forms and is kept. -/
theorem test_witness_CloseOperationCompletes_jog :
    let s : State := tl (fun t => { t with mode := .jog, position := 7 }) (closingState (some 0) 0)
    s.tl.mode = .jog ∧ (s.tl.afterClose none).state = .coasting ∧ (1 : SlotId) ≠ 0 ∧ s.jog.window = none := by decide

/-- A third header in sequence locks the timeline at 101, with the engine HELD, or ARMED with entry 1 the first one PENDING. -/
theorem test_witness_CloseOperationCompletes_armed :
    let s : EngState → State := fun x => tl (fun t => { t with state := .acquiring, run := 2, candidate := some 100 })
      (eng (fun e => { e with splice := none, state := x }) running)
    ((s .armed).eng.state = .armed ∧ (s .held).eng.state = .held ∧ (s .armed).tl.mode = .play ∧ (s .armed).tl.state ≠ .locked)
      ∧ ((s .armed).tl.afterClose (some { header with addr := some 101 })).state = .locked
      ∧ ((s .armed).tl.afterClose (some { header with addr := some 102 })).state ≠ .locked
      ∧ ((pendingEntry (s .armed) 1).map (·.inPoint.addr) = some 300 ∧ pendingEntry (s .armed) 0 = none)
      ∧ (101 + 5 ≤ 300 + (s .armed).geo.d ∧ ¬301 + 5 ≤ 300 + (s .armed).geo.d) ∧ ∀ i, (s .armed).cues[(i : Fin 24)].armed = false := by decide

theorem test_witness_ConcealmentOfRuns :
    let f : Fade := ⟨⟨1, 1⟩, 256, 255⟩
    let r : ConcealState → ConcealRec := fun x => { ConcealRec.reset with state := x, fade := some f, recover := 31, hold := 16 }
    ConcealRec.reset.state = .clean ∧ (1 ≤ (List.replicate 8 (0 : Sample)).length ∧ (List.replicate 8 (0 : Sample)).length ≤ ConcealParams.reset.bridge)
      ∧ 1 ≤ ConcealParams.reset.fade ∧ 2 ≤ ConcealParams.reset.fade ∧ (r .holding).state = .holding
      ∧ ((r .fadingOut).state = .fadingOut ∧ (r .fadingOut).fade = some f ∧ f.step < f.length ∧ f.step + 1 ≤ f.length)
      ∧ (r .fadingIn).state = .fadingIn ∧ { f with step := 0 }.step = 0 ∧ 1 ≤ f.step ∧ 1 ≤ (r .fadingIn).gain.num
      ∧ (r .muted).state = .muted ∧ (r .recovering).state = .recovering ∧ ConcealParams.reset.recover ≤ 64
      ∧ (r .recovering).recover < ConcealParams.reset.recover ∧ 0 < ConcealParams.reset.recover := by decide

theorem test_witness_ConcealmentCompletes :
    let s : State := slot0 { concealed with state := .filling } { base with conceal := { base.conceal with list := [⟨some 0, .r48⟩] } }
    let going : State := { s with conceal := { s.conceal with op := some s.conceal.params } }
    let absent : State := { base with conceal := { base.conceal with list := [⟨none, .r44⟩], op := some base.conceal.params } }
    s.conceal.list = ⟨some 0, .r48⟩ :: [] ∧ s.conceal.op = none ∧ going.conceal.op = some s.conceal.params
      ∧ going.slots[(0 : SlotId)].due = false ∧ (absent.conceal.list = ⟨none, .r44⟩ :: [] ∧ absent.conceal.op = some absent.conceal.params) := by
  decide

theorem test_witness_IntakeTakesPairs :
    let f : IntakeFrame := ⟨some 0, 1599, [], 0, none, .r48, none⟩
    let g : IntakeFrame := { f with last := some (silence, ⟨.analog, some 0⟩) }
    let with' : Intake → State := fun k => slot0 (filling .intake) { base with intake := k }
    let k : Intake := { Intake.reset with frame := some f }
    let many : Nat → List (SamplePair × Tag) := fun n => List.replicate n (silence, ⟨.analog, some 0⟩)
    let fly : Intake := { k with source := .fly, flyStart := some 1600 }
    let bank : State := bank0 { Bank.reset with state := .playing, count := some 2 } (with' { fly with flyStart := some 1599 })
    base.intake.source ≠ .digital ∧ base.intake.source = .analog ∧ (base.intake.frame = none ∧ base.intake.fifo.length < 128)
      ∧ 128 ≤ (many 128).length ∧ (with' k).intake.frame = some f ∧ (many 255).length < 256 ∧ 256 ≤ (many 256).length
      ∧ (f.slot = some 0 ∧ f.taken < framePairs f.rate) ∧ k.source ≠ .fly ∧ { k with priming := true }.priming = true ∧ k.priming = false
      ∧ { k with fifo := many 1 }.fifo = (silence, ⟨.analog, some 0⟩) :: [] ∧ (k.fifo = [] ∧ f.last = none)
      ∧ g.last = some (silence, ⟨.analog, some 0⟩) ∧ (fly.source = .fly ∧ fly.flyStart = some 1600 ∧ f.taken < 1600)
      ∧ ((bank.banks.get .b0).state = .playing ∧ (bank.banks.get BankId.b0.other).state ≠ .playing
        ∧ (bank.banks.get .b0).count ≠ some ((bank.banks.get .b0).readPos + 1) ∧ bank.intake.flyStart = some 1599) := by decide

/-- The last pair of a bank, with the other bank FULL and not, and the three answers to a request for a bank. -/
theorem test_witness_IntakeTakesPairs_banks :
    let last : Bank := { Bank.reset with state := .playing, count := some 2, readPos := 1 }
    let full : Rate → Bank := fun r => { Bank.reset with state := .full, rate := some r }
    let s : State := { base with banks := ⟨last, full .r48⟩ }
    last.state = .playing ∧ last.count = some (last.readPos + 1) ∧ (s.banks.get BankId.b0.other).state = .full
      ∧ ((bank0 last base).banks.get BankId.b0.other).state ≠ .full
      ∧ (base.banks.b0.state ≠ .full ∧ base.banks.b1.state ≠ .full ∧ base.banks.b0.state ≠ .playing)
      ∧ ((s.banks.get .b1).state = .full ∧ s.banks.b0.state ≠ .full ∧ s.banks.b1.state ≠ .playing ∧ (s.banks.get .b1).rate = some s.clock.rate)
      ∧ (((bank0 (full .r44) base).banks.get .b0).state = .full ∧ ((bank0 (full .r44) base).banks.get .b0).rate ≠ some base.clock.rate) := by
  decide

/-- Sample periods after position S − 1: the FIFO with an entry, without one, and priming; with FLY; and a frame without a slot. -/
theorem test_witness_IntakeTakesPairs_late :
    let f : IntakeFrame := ⟨none, 1600, [], 65535, none, .r48, none⟩
    let many : Nat → List (SamplePair × Tag) := fun n => List.replicate n (silence, ⟨.analog, some 0⟩)
    let k : Nat → Bool → Intake := fun n b => { Intake.reset with frame := some f, fifo := many n, priming := b }
    framePairs f.rate ≤ f.taken ∧ f.slot = none ∧ (∀ n b, (k n b).frame = some f)
      ∧ (k 0 true).source ≠ .fly ∧ { k 0 true with source := .fly }.source = .fly
      ∧ ((k 127 true).priming = true ∧ (k 127 true).fifo.length < 128) ∧ 128 ≤ (k 128 true).fifo.length
      ∧ ((k 1 false).priming = false ∧ (k 1 false).fifo = (silence, ⟨.analog, some 0⟩) :: []) ∧ (k 0 false).fifo = [] := by
  refine ⟨by decide, by decide, fun _ _ => rfl, by decide⟩

theorem test_intake_late :
    let f : IntakeFrame := ⟨none, 1600, [], 0, none, .r48, none⟩
    let s : State := { base with intake := { Intake.reset with frame := some f, priming := false, fifo := [(silence, ⟨.analog, some 0⟩)] } }
    (after .intakeSamplePeriod s).intake.fifo = [] ∧ (after .intakeSamplePeriod s).intake.frame = some { f with slips := 1 } := by decide

theorem test_witness_CopyMarks :
    [CopyMark.free] ≠ [] ∧ ({ header with mark := frameMark .never (some .free) true true } : Header).onTape = true := by decide

theorem test_witness_RecordDecision :
    let x := base.sources
    (x.get .analog).lookup 1 = none ∧ (x.get .analog).lookup 0 = some ⟨true, .free, none⟩ ∧ (x.get .digital).lookup 0 = some ⟨false, .free, none⟩
      ∧ Rate.r44 ≠ .r48 ∧ 1 ≤ (1 : Fin 4).val ∧ CopyMark.counted 0 = .counted 0 := by decide

/-- The clauses of a verdict: a guarded frame, a refused tag behind a permitted one, all tags permitted, and a guarded frame behind. -/
theorem test_witness_RecordDecision_verdict :
    let x := base.sources
    let g : Guard := { base.guard with places := base.guard.places.set! 0 (some ⟨7, 7⟩) }
    guarded g 7 = true ∧ guarded g 6 = false ∧ (6 + 1 < 2592000 ∧ guarded g (6 + 1) = true ∧ plan.final = false)
      ∧ decideTag x .r48 ⟨.analog, some 0⟩ = .permit .free ∧ decideTag x .r48 ⟨.analog, none⟩ = .refuse .clock
      ∧ plan.first.isSome = true ∧ (splicePlan 1600 progSplice ⟨200, 0⟩ 201).first = none := by decide

theorem test_witness_CodingOperations :
    let op : CodingOp := ⟨200, failedIntake, 0, none⟩
    let tape : State := { slot0 { concealed with addr := some 200 } locked with coding := [op] }
    let s : State := { slot0 { concealed with addr := some 200 } running with coding := [op] }
    let b : BegunOp := ⟨some 1, none, some 0, .permit, .free, false, .r48⟩
    let fullStore : State := { s with slots := Vector.replicate 20 (filling .preRead) }
    (op.begun = none ∧ op.wait = 0) ∧ (tape.coding = op :: [] ∧ tape.eng.prepared = [] ∧ tape.eng.splice = none) ∧ chooseSlot s = some 1
      ∧ chooseSlot fullStore = none ∧ { op with begun := some b }.begun.isSome = true ∧ { op with wait := 1 }.wait ≠ 0
      ∧ (s.eng.splice = some progSplice ∧ progSplice.start = some ⟨200, 0⟩ ∧ 200 ≤ op.addr
        ∧ progSplice.lastPlanned.all (fun x => decide (op.addr ≤ x)) = true)
      ∧ (b.plan = none ∧ b.pre = some 0 ∧ b.slot = some 1 ∧ op.intake.slot ≠ some 1 ∧ s.slots[(0 : SlotId)].isPreRead = true
        ∧ s.slots[(0 : SlotId)].addr = some op.addr ∧ s.slots[(0 : SlotId)].layout = b.rate
        ∧ s.slots[(0 : SlotId)].header = some header) := by decide

/-- The choice of a slot: the lowest FREE one, and with none the oldest that may be reclaimed. -/
theorem test_witness_CodingOperations_slot :
    let s : State := { base with slots := (Vector.replicate 20 (filling .preRead)).set 3 { concealed with due := true }, order := [1, 3, 4] }
    (base.slots[(0 : SlotId)].state = .free) ∧ (∀ i : SlotId, s.slots[i].state ≠ .free) ∧ s.order = [1] ++ 3 :: [4]
      ∧ (s.slots[(3 : SlotId)].state = .concealed ∧ s.slots[(3 : SlotId)].role = some .preRead ∧ s.slots[(3 : SlotId)].due = true
        ∧ blocked s 3 = false) ∧ s.slots[(1 : SlotId)].state ≠ .concealed := by decide

/-- The start frame of a prepared entry: the request is refused, for each of its causes, or taken. -/
theorem test_witness_CodingOperations_start :
    let op : CodingOp := ⟨300, failedIntake, 0, none⟩
    let s : State := { eng (fun e => { e with splice := none, prepared := [prepared0] }) running with coding := [op] }
    (s.eng.splice = none ∧ s.eng.prepared = [prepared0] ∧ prepared0.start.addr = op.addr ∧ (pendingEntry s prepared0.index).isSome = true
        ∧ chooseSlot s = some 0 ∧ s.eng.mode = some .record)
      ∧ (scheduled s).gate.state ≠ .closed ∧ (s.gate.state = .closed ∧ s.tl.mode = .play ∧ s.clock.lost = false)
      ∧ { s.clock with lost := true }.lost = true ∧ (tl (fun t => { t with state := .acquiring }) s).tl.state = .acquiring
      ∧ (s.tl.state = .locked ∧ guarded s.guard op.addr = false ∧ op.intake.tags = []) := by decide

/-- The completion of a SPLICE plan, by its verdict, and the plan's own clauses. -/
theorem test_witness_CodingOperations_report :
    let op := begunOp 200 (some plan)
    let early : ClosedIntake := { failedIntake with starve := some (700, .b0) }
    (op.begun.bind (·.plan) = some plan ∧ op.begun.bind (·.slot) = some 1 ∧ op.intake.slot ≠ some 1)
      ∧ (running.eng.splice = some progSplice ∧ progSplice.tag = plan.tag ∧ progSplice.rehearse = false)
      ∧ (plan.final = false ∧ earlyEnd 1600 plan .permit false none = none ∧ earlyEnd 1600 plan .permit false (early.starve.map (·.1)) = some 700)
      ∧ earlyEnd 1600 plan .guardAhead false none = some 1600
      ∧ (progSplice.span = some 6400 ∧ punch.span = none ∧ progSplice.method = .insert ∧ progSplice.timecode = none)
      ∧ { progSplice with method := .assemble, timecode := some ⟨0, 0, 0, 0⟩ }.inFrame = some 200 := by decide

theorem test_witness_FrameMark :
    let c : SlotId → Capture := fun i => { Capture.reset with assembly := some (emptyFrame none (some i)) }
    let s : State := { locked with pre := c 0, conf := c 1 }
    let laying := tl (fun t => { t with state := .laying, generated := some 2591999 }) s
    let kept : IntakeFrame := ⟨none, 0, [], 0, none, .r44, none⟩
    (s.eng.state = .idle ∧ s.eng.splice = none ∧ s.eng.prepared = [] ∧ s.eng.layWait = none ∧ s.gate.state = .closed ∧ s.gate.write = none
        ∧ s.coding = [])
      ∧ (s.pre.assembly = some (emptyFrame none (some 0)) ∧ s.pre.closing = [] ∧ s.conf.assembly = some (emptyFrame none (some 1))
        ∧ s.conf.closing = []) ∧ s.tl.mode = .play ∧ (laying.tl.state = .laying ∧ laying.tl.generated.getD 2592000 < 2592000)
      ∧ (laying.tl.mode = .play ∧ { laying.tl with generated := none }.generated.getD 2592000 = 2592000) ∧ base.tl.mode ≠ .play
      ∧ (s.intake.frame = none ∧ kept.rate ≠ s.clock.rate) := by decide

/-- The head enters frame 200: with the gate CLOSED, SCHEDULED there and further on, OPEN and LAST. -/
theorem test_witness_FrameMark_gate :
    let s : State := slot0 (coded 200) (scheduled running)
    let opened := gate (fun g => { g with state := .opened, first := none, write := some ⟨199, 1, 10⟩ }) s
    let stop := gate (fun g => { g with pendingStop := true }) s
    let here := eng (fun e => { e with splice := some { progSplice with early := some ⟨200, 0⟩, reason := some (.guarded, some .guarded) } }) s
    let table : Guard := { base.guard with invert := true }
    base.gate.state = .closed ∧ (gate (fun g => { g with state := .last }) s).gate.state = .last
      ∧ (s.gate.state = .scheduled ∧ s.gate.first = some 200 ∧ 199 < 200 ∧ s.gate.holder = some progTag)
      ∧ (opened.gate.state = .opened ∧ opened.gate.write = some ⟨199, 1, 10⟩ ∧ 200 = 199 + 1) ∧ stop.gate.pendingStop = true
      ∧ s.gate.pendingStop = false ∧ (s.order = [0] ∧ s.slots[(0 : SlotId)].state = .coded ∧ s.slots[(0 : SlotId)].addr = some 200
        ∧ s.slots[(0 : SlotId)].tag = some progTag ∧ s.slots[(0 : SlotId)].header = some header)
      ∧ guarded s.guard 200 = false ∧ guarded table 200 = true ∧ (here.eng.splice.map (·.early)) = some (some ⟨200, 0⟩)
      ∧ (slot0 (coded 201) s).slots[(0 : SlotId)].addr ≠ some 200 := by decide

/-- Slots that a mark releases, and slots that it leaves. -/
theorem test_witness_FrameMark_releases :
    let s : State := slot0 concealed (tl (fun t => { t with head := some 8 }) locked)
    let w : State := slot0 (coded 200) locked
    (s.order.Nodup ∧ s.slots[(0 : SlotId)].isPreRead = true ∧ s.order = [] ++ 0 :: [] ∧ s.tl.head = some 8 ∧ s.slots[(0 : SlotId)].addr = some 7)
      ∧ (tl (fun t => { t with head := some 7 }) s).tl.head = some 7
      ∧ (w.slots[(0 : SlotId)].state = .coded ∧ w.judge = [] ∧ w.slots[(0 : SlotId)].addr = some 200) ∧ 200 ≤ 200 ∧ ¬200 ≤ 199 := by decide

/-- Slots behind the head that a mark brings to frame 99, by address and by age, passed by it and not; and the preparation at the mark. -/
theorem test_witness_FrameMark_slots :
    let c : SlotId → Capture := fun i => { Capture.reset with assembly := some (emptyFrame none (some i)) }
    let s : State := slot0 concealed { locked with pre := c 1, conf := c 2 }
    let at' : Nat → State := fun a => slot0 { concealed with addr := some a } s
    let three : State := { at' 99 with
      slots := (((at' 99).slots.set 3 { concealed with addr := some 100 }).set 4 { concealed with addr := some 101 }), order := [0, 3, 4] }
    let w : Nat → State := fun a => slot0 (coded a) s
    let waiting : State := eng (fun e => { e with splice := none, state := .waiting }) { running with pre := c 1, conf := c 2 }
    (s.order.Nodup ∧ s.intake.frame = none ∧ s.tl.position + 2 - s.geo.d = 99 ∧ s.slots[(0 : SlotId)].addr = some 7 ∧ 7 < 99)
      ∧ (at' 99).slots[(0 : SlotId)].addr = some 99 ∧ ¬99 < 99
      ∧ (three.order = [] ++ 0 :: [3, 4] ∧ three.geo.d - 1 ≤ ([3, 4].filter fun l => three.slots[(l : SlotId)].isPreRead).length)
      ∧ ((w 99).slots[(0 : SlotId)].state = .coded ∧ (w 99).judge = [] ∧ 99 ≤ 99 ∧ ¬100 ≤ 99)
      ∧ (blocked s 0 = false ∧ blocked (slot0 { concealed with holders := ⟨true, false, false⟩ } s) 0 = true)
      ∧ (waiting.tl.mode = .play ∧ waiting.tl.state = .locked ∧ waiting.eng.layWait = none ∧ waiting.geo.d ≤ waiting.tl.position + 3
        ∧ waiting.tl.position + 3 - waiting.geo.d < 2592000) ∧ waiting.eng.splice = none := by decide

/-- Preparing for frame x + 2: entry 1 of the run, at its in-point, late, past its out-point and still ahead; and the request for its bank. -/
theorem test_witness_FrameMark_prepares :
    let s : State := eng (fun e => { e with splice := none, state := .waiting }) running
    let fly : Entry := { entry with inPoint := ⟨300, 0⟩, outPoint := ⟨304, 0⟩, source := .fly }
    let due : State := eng (fun e => { e with prepared := [prepared0], active := e.active.set 1 (some ⟨fly, .pending⟩) }) s
    (s.eng.state = .waiting ∧ s.tl.state = .locked ∧ s.eng.splice = none ∧ s.eng.prepared = [])
      ∧ ((pendingEntry s 1).map (fun e => (e.inPoint, e.outPoint)) = some (⟨300, 0⟩, ⟨304, 0⟩) ∧ pendingEntry s 0 = none)
      ∧ (298 + 2 = 300 ∧ 300 < 299 + 2 ∧ 304 = 302 + 2 ∧ 297 + 2 < 300)
      ∧ (due.eng.prepared = [prepared0] ∧ pendingEntry due prepared0.index = some fly ∧ prepared0.asked = false ∧ fly.source = .fly
        ∧ due.banks.b0.state ≠ .full ∧ due.banks.b1.state ≠ .full ∧ due.banks.b0.state ≠ .playing)
      ∧ ((bank0 { Bank.reset with state := .full, rate := some .r48 } due).banks.get .b0).rate = some due.clock.rate
      ∧ { prepared0 with asked := true }.asked = true ∧ entry.source ≠ .fly := by decide

/-- A mark at which the write of frame 99 begins and AUTO plays its mix, and one in ACQUIRING, whose PREREAD slot is chosen by age. -/
theorem test_witness_FrameMark_choices :
    let c : SlotId → Capture := fun i => { Capture.reset with assembly := some (emptyFrame none (some i)) }
    let writing : State := { scheduled { locked with mon := { locked.mon with next := some ⟨99, [], false, .free⟩ } } with
      pre := c 1, conf := c 2, slots := locked.slots.set 0 (coded 99), order := [0] }
    let s : State := gate (fun g => { g with first := some 99 }) writing
    let acquiring : State := slot0 concealed (tl (fun t => { t with state := .acquiring }) { locked with pre := c 1, conf := c 2 })
    (s.tl.mode = .play ∧ (after .frameMark s).tl.state = .locked ∧ (after .frameMark s).mon.autoMix = true)
      ∧ ((after .frameMark acquiring).tl.state = .acquiring ∧ (after .frameMark acquiring).mon.preSlot = some 0) := by decide +kernel

/-- An intake frame that waits for its mark: of the rate in force with its slot, with slips, and one of the other rate. -/
theorem test_witness_FrameMark_intake :
    let c : SlotId → Capture := fun i => { Capture.reset with assembly := some (emptyFrame none (some i)) }
    let frame : Rate → Nat → Nat → IntakeFrame := fun r n k => ⟨some 2, n, [], k, none, r, some (⟨1, 2⟩, ⟨.analog, none⟩)⟩
    let s : Source → IntakeFrame → State := fun x f => { slot0 (filling .intake) locked with
      pre := c 0, conf := c 1, slots := locked.slots.set 2 (filling .intake), order := [2]
      intake := { locked.intake with source := x, frame := some f } }
    let t := s .analog (frame .r48 1600 0)
    (t.tl.mode = .play ∧ t.tl.state = .locked ∧ t.geo.d ≤ t.tl.position + 3 ∧ t.order.Nodup ∧ t.slots[(2 : SlotId)].state = .filling
        ∧ 3 ≤ freeSlots t ∧ blocked t 2 = false ∧ t.coding = [])
      ∧ (t.intake.source = .analog ∧ (s .digital (frame .r48 1599 3)).intake.source = .digital ∧ (s .fly (frame .r48 9 0)).intake.source = .fly)
      ∧ (1600 - 1600 = 0 ∧ min 65535 (3 + (1600 - 1599)) = 4) ∧ (frame .r44 0 0).rate ≠ t.clock.rate
      ∧ (({ t with geo := ⟨6, 4⟩ } : State).geo.d > 2 + 3) := by decide

/-- The marks of a lay: waiting, the third one, the one that ends the lay splice, on tape and at its end, and one that runs off the tape. -/
theorem test_witness_FrameMark_laying :
    let c : SlotId → Capture := fun i => { Capture.reset with assembly := some (emptyFrame none (some i)) }
    let wait : Nat → State := fun n => eng (fun e => { e with
      state := .waiting, mode := some .record, layWait := some n, active := e.active.set 0 (some ⟨{ entry with lay := true }, .pending⟩) })
      { locked with pre := c 0, conf := c 1 }
    let lay : EngState → Nat → State := fun x a => gate (fun g => { g with state := .last })
      (tl (fun t => { t with state := .laying, generated := some a, handed := some (a - 1), offered := some (a - 1) })
        (eng (fun e => { e with state := x, splice := some { progSplice with lay := true } }) { running with pre := c 0, conf := c 1 }))
    let off : State → State := tl fun t => { t with state := .laying, generated := none, handed := none }
    (∀ n ∈ [3, 1], (wait n).eng.layWait = some n ∧ (pendingEntry (wait n) 0).map (·.lay) = some true ∧ (wait n).eng.splice = none
        ∧ (wait n).eng.prepared = [] ∧ (wait n).tl.state ≠ .laying ∧ (wait n).tl.mode = .play) ∧ entry.inPoint.addr < 2592000
      ∧ (∀ x ∈ [EngState.splicing, .finishing], (lay x 205).tl.state = .laying ∧ (lay x 205).eng.layWait = none ∧ (lay x 205).eng.state = x
        ∧ (lay x 205).tl.offered = some 204 ∧ (lay x 205).gate.state = .last ∧ (lay x 205).eng.splice.map (·.lay) = some true)
      ∧ (progSplice.index = some 0 ∧ (1 : Fin 16) ≠ 0 ∧ (pendingEntry (lay .splicing 205) 1).isSome = true
        ∧ (lay .splicing 205).eng.mode = some .record ∧ 205 + base.geo.d - 2 < 2592000 ∧ 2592000 ≤ 2591999 + base.geo.d - 2)
      ∧ ((off (lay .splicing 205)).tl.generated.getD 2592000 = 2592000 ∧ (off (lay .splicing 205)).eng.splice.isSome = true)
      ∧ ((off (eng (fun e => { e with layWait := none }) (wait 1))).tl.state = .laying ∧ (wait 1).eng.state = .waiting
        ∧ (wait 1).eng.mode = some .record) := by decide

/-- The last frame of a lay splice goes by: the timeline acquires from the address D − 2 beyond the last one handed, and the engine is HELD. -/
theorem test_lay_ends :
    let s : State := tl (fun t => { t with state := .laying, generated := some 205, handed := some 205 })
      (eng (fun e => { e with splice := some { progSplice with lay := true } }) running)
    let t := gateEnter 204 (gate (fun g => { g with state := .last, holder := some progTag }) s)
    (t.tl.state, t.tl.candidate, t.eng.state) = (.acquiring, some (205 + s.geo.d - 2), .held) := by decide

/-- A cut leaves the mark's choice under INPUT, and takes AUTO off the mix. -/
theorem test_cut_under_input :
    let s : MonSel → State := fun m => { scheduled locked with mon := { locked.mon with stored := m, autoMix := true } }
    (cutGate .stop (s .input)).mon.autoMix = true ∧ (cutGate .stop (s .auto)).mon.autoMix = false := by decide

theorem test_witness_OutputLines :
    let s : State := slot0 concealed { locked with mon := { locked.mon with outPos := some 1599, preSlot := some 0, stored := .preRead } }
    let mix : Mix := ⟨7, List.replicate 1600 silence, false, .free⟩
    let jog : State := { slot0 { concealed with pinned := true } (tl (fun t => { t with mode := .jog }) locked) with jog := ⟨1, some 7, 12799⟩ }
    let conf : State := slot0 { concealed with state := .decoded, role := some .confidence } { s with
      mon := { s.mon with stored := .confidence, confSlot := some 0 } }
    (base.tl.mode = .stop ∧ base.mon.stored ≠ .input) ∧ MonSel.input = .input ∧ base.intake.source = .analog
      ∧ (s.tl.mode = .play ∧ s.mon.override = false ∧ s.mon.stored ≠ .input) ∧ base.mon.outPos = none
      ∧ (s.mon.outPos = some 1599 ∧ 1599 < framePairs s.clock.rate ∧ s.mon.stored = .preRead ∧ s.mon.preSlot = some 0
        ∧ s.slots[(0 : SlotId)].state = .concealed ∧ s.slots[(0 : SlotId)].role = some .preRead ∧ s.slots[(0 : SlotId)].layout = s.clock.rate)
      ∧ (conf.mon.stored = .confidence ∧ conf.mon.confSlot = some 0 ∧ conf.slots[(0 : SlotId)].state = .decoded
        ∧ conf.slots[(0 : SlotId)].role = some .confidence ∧ conf.slots[(0 : SlotId)].layout = conf.clock.rate)
      ∧ (1599 < mix.pairs.length ∧ { s.mon with override := true, current := some mix }.override = true)
      ∧ (jog.tl.mode = .jog ∧ jog.jog.window = some 7 ∧ jog.jog.pointer < jog.jog.length * framePairs jog.clock.rate * 8 ∧ jog.tl.ratio ≤ 8
        ∧ 1 ≤ jog.jog.length ∧ jog.slots[(0 : SlotId)].pinned = true
        ∧ jog.slots[(0 : SlotId)].addr = some (7 + jog.jog.pointer / 8 / framePairs jog.clock.rate)
        ∧ jog.slots[(1 : SlotId)].pinned = false) ∧ base.jog.window = none ∧ base.out.blockCount < 256 := by decide

/-- A rehearsal at a mark that brings the head to frame 200: before the start frame, at it, after it, past the final frame, skipped and
guarded. -/
theorem test_witness_OutputLines_rehearsal :
    let c : SlotId → Capture := fun i => { Capture.reset with assembly := some (emptyFrame none (some i)) }
    let sp : Splice := { progSplice with rehearse := true }
    let with' : Splice → State := fun x => tl (fun t => { t with position := 201 })
      (eng (fun e => { e with splice := some x, mode := some .rehearse, active := e.active.set 1 none }) { running with pre := c 1, conf := c 2 })
    let s := slot0 (coded 200) (with' sp)
    (s.tl.mode = .play ∧ s.tl.state = .locked ∧ s.geo.d ≤ s.tl.position + 2 ∧ s.tl.position + 2 - s.geo.d = 200 ∧ s.eng.layWait = none
        ∧ s.gate.state = .closed ∧ s.intake.frame = none ∧ s.eng.splice = some sp ∧ sp.rehearse = true ∧ sp.start = some ⟨200, 0⟩)
      ∧ (s.order = [0] ∧ s.slots[(0 : SlotId)].state = .coded ∧ s.slots[(0 : SlotId)].addr = some 200
        ∧ s.slots[(0 : SlotId)].tag = some sp.tag) ∧ (with' sp).order = []
      ∧ (sp.entered = none ∧ 200 < 201 ∧ 200 ≤ 200 ∧ (200 : Nat) ≠ 199) ∧ (200 : Nat) = 199 + 1
      ∧ ({ sp with entered := some 199, final := some 199 }.final = some 199 ∧ sp.final ≠ some 199 ∧ sp.reason = none)
      ∧ guarded s.guard 200 = false ∧ guarded { s.guard with invert := true } 200 = true ∧ s.coding = []
      ∧ ∀ l, pendingEntry s l = none := by decide

/-- A rehearsal ends BROKEN where the head skips its final frame 203, and DONE at the frame entered after that. -/
theorem test_rehearsal_skips :
    let s : Nat → State := fun x => eng (fun e => { e with
      splice := some { progSplice with rehearse := true, entered := some x, final := some 203 } }) running
    ((rehearseMark 204 (s 202)).eng.results.map fun r => (r.outcome, r.actualOut)) = [(.broken, some ⟨204, 0⟩)]
      ∧ ((rehearseMark 205 (s 203)).eng.results.map fun r => (r.outcome, r.actualOut)) = [(.done, some ⟨204, 0⟩)] := by decide

/-- A rehearsal with a pass left, and one at its last pass; entry 0 is the only one and its splice is in progress. -/
theorem test_witness_OutputLines_pass :
    let s : Nat → State := fun n => eng (fun e => { e with
      mode := some .rehearse, passes := some 2, pass := n, preroll := 150, active := e.active.set 1 none }) running
    (∀ n ∈ [1, 2], (∀ l, pendingEntry (s n) l = none) ∧ (s n).eng.state = .splicing ∧ (s n).eng.mode = some .rehearse
        ∧ progSplice.index.isSome = true) ∧ (s 1).eng.pass < (s 1).eng.passes.getD 1 ∧ (s 2).eng.passes.getD 1 ≤ (s 2).eng.pass
      ∧ (s 1).eng.active[(0 : Fin 16)] = some ⟨entry, .active⟩ := by decide

/-- The first pass ends: PASS_END with the locate target, every entry PENDING, ARMED; the second ends the run. -/
theorem test_pass_ends :
    let s : Nat → State := fun n => eng (fun e => { e with
      mode := some .rehearse, passes := some 2, pass := n, preroll := 150, active := e.active.set 1 none }) running
    let t := finishSplice .done none none false (s 1)
    (t.eng.state, t.eng.pass, t.eng.locate, (pendingEntry t 0).isSome) = (.armed, 2, 50, true)
      ∧ ((t.notices.transport.queue.map fun n => (n.kind, n.subject, n.addr)).contains (.passEnd, 1, some 50)) = true
      ∧ (finishSplice .done none none false (s 2)).eng.state = .done := by decide

theorem test_witness_SectorEmission :
    let w : Write := ⟨7, 0, 9⟩
    let s := slot0 { concealed with state := .coded } (gate (fun g => { g with write := some w }) base)
    base.gate.write = none ∧ s.gate.write = some w ∧ w.sectors < 10 ∧ 10 ≤ { w with sectors := 10 }.sectors
      ∧ s.slots[w.slot].header = some header ∧ header.onTape = true := by decide

theorem test_witness_LayoutsReadBack :
    header.onTape = true ∧ (List.replicate 400 (0 : Sample)).length = 400 ∧ 9 < 10
      ∧ ({ header with addr := some 2591999, tc := none, take := 255 } : Header).onTape = true := by decide

/-- The laws that the step statements assume hold at reset, where a command waits. -/
theorem test_witness_StepsKeepTheLaws :
    (base.tl.coastLimit = 8 ∧ base.tl.coast = 0 ∧ base.tl.state = .parked ∧ base.tl.mode = .stop)
      ∧ (base.gate.state = .closed ∧ base.gate.write = none) ∧ base.banks.b0.state ≠ .playing
      ∧ (base.eng.results.length ≤ 16 ∧ base.eng.resultsLost ≤ 65535 ∧ 1 ≤ base.eng.takeCounter ∧ base.eng.takeCounter ≤ 255)
      ∧ (base.notices.deck.queue.length ≤ 8 ∧ base.notices.deck.overflow ≤ 255) := by decide

/-- The answers to a request for the gate, and a splice that ends with an end reason and without one. -/
theorem test_witness_StepsKeepTheGateLaw :
    (scheduled base).gate.state ≠ .closed ∧ (base.gate.state = .closed ∧ base.tl.mode ≠ .play)
      ∧ (tl (fun t => { t with mode := .play }) base).clock.lost = true
      ∧ ((tl (fun t => { t with state := .unlocked }) locked).tl.state = .unlocked ∧ locked.clock.lost = false)
      ∧ (locked.gate.state = .closed ∧ locked.tl.mode = .play ∧ locked.tl.state = .locked) := by decide

theorem test_witness_StepsKeepTheBankAndEngineLaws :
    running.eng.splice = some progSplice ∧ progSplice.tag = .program 1 1 0 ∧ progSplice.index = some 0
      ∧ (running.eng.active[(0 : Fin 16)]).isSome = true ∧ progSplice.reason = none
      ∧ { progSplice with reason := some (.starved, none) }.reason = some (.starved, none) := by decide

/-- A lay splice ends in LAYING, with a legal address handed, one at the end of the tape and none; and the engine goes on. -/
theorem test_witness_StepsKeepTheBankAndEngineLaws_onward :
    let s : EngState → Option Nat → State := fun x h => tl (fun t => { t with state := .laying, handed := h })
      (eng (fun e => { e with state := x, splice := some { progSplice with lay := true } }) running)
    let last : State := eng (fun e => { e with active := e.active.set 1 none }) (s .splicing none)
    ((s .splicing none).tl.state = .laying ∧ (s .splicing none).eng.splice.map (fun x => (x.lay, x.index)) = some (true, some 0))
      ∧ ((s .splicing (some 205)).tl.handed = some 205 ∧ 205 + base.geo.d - 2 < 2592000 ∧ 2592000 ≤ 2591999 + base.geo.d - 2)
      ∧ (punched.eng.splice.map (·.index) = some none ∧ (s .finishing none).eng.state = .finishing)
      ∧ (pendingEntry (endSplice .done none none false (s .splicing none)) 1).isSome = true
      ∧ (∀ k, pendingEntry (endSplice .done none none false last) k = none)
      ∧ (last.eng.active[(0 : Fin 16)]).isSome = true ∧ last.eng.mode ≠ some .rehearse := by decide

/-- A step that answers a next state, for the step statements. -/
theorem test_witness_StepsKeepTheLaws_step :
    step { base with pending := [.setGuardLock .deck] } = .next (after (.setGuardLock .deck) base) := rfl

theorem test_witness_OnlyCommandsChangeSettings :
    isEvent .frameMark = true ∧ { base.guard with lock := true }.lock = true ∧ Instr.resetDevice .deck ≠ .powerOnReset := by decide

end Sys2Proof.Tests
end

section
/-! SUPPORT. Copy marks: their order, decrementing and combining them, and the header field that carries them (R111, R193). -/

namespace Sys2Proof.CopyMarks

open Sys2Proof.Machine

/-! ### The order of marks (00_scope, "Copy marks and their order") -/

theorem markRank_eq_idxOf (m : CopyMark) :
    markRank m = [CopyMark.free, .counted 3, .counted 2, .counted 1, .counted 0, .never].idxOf m := by
  cases m with
  | free => rfl
  | counted r => revert r; decide
  | never => rfl

@[simp] theorem markRank_eq_zero_iff (m : CopyMark) : markRank m = 0 ↔ m = .free := by
  cases m with
  | free => simp [markRank]
  | counted r => exact ⟨fun h => absurd h (Nat.sub_pos_of_lt r.isLt).ne', nofun⟩
  | never => simp [markRank]

/-! ### Combining (R111) -/

theorem combine_eq_or (a b : CopyMark) : combine a b = a ∨ combine a b = b := by
  unfold combine
  split
  · exact .inr rfl
  · exact .inl rfl

theorem markRank_combine (a b : CopyMark) : markRank (combine a b) = max (markRank a) (markRank b) := by
  unfold combine
  split <;> omega

theorem foldl_combine_mem (l : List CopyMark) (a : CopyMark) : l.foldl combine a ∈ a :: l := by
  induction l generalizing a with
  | nil => simp
  | cons b l ih =>
    have hstep := ih (combine a b)
    simp only [List.mem_cons, List.foldl_cons] at hstep ⊢
    rcases combine_eq_or a b with hkeeps | htakes
    · rw [hkeeps] at hstep ⊢
      tauto
    · rw [htakes] at hstep ⊢
      tauto

theorem markRank_le_foldl_combine (l : List CopyMark) (a : CopyMark) :
    ∀ m ∈ a :: l, markRank m ≤ markRank (l.foldl combine a) := by
  induction l generalizing a with
  | nil => simp
  | cons b l ih =>
    have hhead := ih (combine a b) _ List.mem_cons_self
    rw [markRank_combine] at hhead
    have htail := fun m hm => ih (combine a b) m (List.mem_cons_of_mem _ hm)
    simp only [List.mem_cons, forall_eq_or_imp, List.foldl_cons]
    exact ⟨by omega, by omega, htail⟩

/-- The combination is at least as restrictive as each mark combined. -/
theorem markRank_le_combineAll {l : List CopyMark} {m : CopyMark} (hm : m ∈ l) : markRank m ≤ markRank (combineAll l) :=
  markRank_le_foldl_combine l .free m (List.mem_cons_of_mem _ hm)

/-- The fold starts from FREE; where it ends on FREE, every mark of the set is FREE. -/
theorem combineAll_mem {l : List CopyMark} (hl : l ≠ []) : combineAll l ∈ l := by
  rcases List.mem_cons.mp (foldl_combine_mem l .free) with hfree | hmem
  · obtain ⟨m, hm⟩ := List.exists_mem_of_ne_nil l hl
    have hle := markRank_le_combineAll hm
    rw [show combineAll l = .free from hfree] at hle ⊢
    have : m = .free := (markRank_eq_zero_iff m).mp (Nat.le_zero.mp hle)
    exact this ▸ hm
  · exact hmem

/-! ### The fields of a header (R193) -/

@[simp] theorem rateOfBits_rateBits (r : Rate) : rateOfBits (rateBits r) = some r := by cases r <;> rfl

@[simp] theorem spliceOf_spliceBits (x : SpliceMark) : spliceOf (spliceBits x) = some x := by cases x <;> rfl

@[simp] theorem copyMarkOf_markCode (m : CopyMark) : copyMarkOf (markCode m).1 (markCode m).2 = some m := by
  cases m with
  | free => rfl
  | counted r => simp [markCode, copyMarkOf]
  | never => rfl

theorem rateBits_le (r : Rate) : rateBits r ≤ 1 := by cases r <;> decide

theorem spliceBits_le (x : SpliceMark) : spliceBits x ≤ 4 := by cases x <;> decide

theorem markCode_le (m : CopyMark) : (markCode m).1 ≤ 2 ∧ (markCode m).2 ≤ 3 := by
  cases m with
  | free => decide
  | counted r => exact ⟨by simp [markCode], Nat.le_of_lt_succ r.isLt⟩
  | never => decide

/-- The rate stands above the six address bits of the first byte. -/
theorem rateField_unpack (r : Rate) (x : Nat) : (rateBits r * 64 + x % 64) % 256 / 64 = rateBits r := by
  have := rateBits_le r
  omega

/-- The three fields of the last byte: the mark's class, its remaining count and the splice mark. -/
theorem markByte_unpack (m : CopyMark) (x : SpliceMark) :
    let b := ((markCode m).1 * 64 + (markCode m).2 * 16 + spliceBits x * 2) % 256
    b / 64 = (markCode m).1 ∧ b / 16 % 4 = (markCode m).2 ∧ b / 2 % 8 = spliceBits x := by
  obtain ⟨hcls, hcount⟩ := markCode_le m
  have := spliceBits_le x
  dsimp only
  omega

theorem address_unpack {a : Nat} (ha : a < Config.addrCount) :
    a / 65536 % 64 * 65536 + a / 256 % 256 * 256 + a % 256 = a := by
  unfold Config.addrCount at ha
  omega

/-- The rework bit is the lowest of its byte, below an even rest. -/
theorem reworkBit_unpack (x y : Nat) (rework : Bool) :
    ((x * 64 + y * 2 + if rework = true then 1 else 0) % 2 == 1) = rework := by
  cases rework <;> simp <;> omega

/-- The timecode of a header, present or not, reads back from its three bytes whatever the rework bit beside it is. -/
theorem headerTimecode_packed (tc : Option Timecode) (rework : Bool) (htc : tc.all Timecode.legal = true) :
    let t := tc.getD ⟨0, 0, 0, 0⟩
    headerTimecode (((if tc.isSome = true then 128 else 0) + t.hh % 32 * 4 + t.mm / 16 % 4) % 256)
      ((t.mm % 16 * 16 + t.ss / 4 % 16) % 256) ((t.ss % 4 * 64 + t.ff % 32 * 2 + if rework = true then 1 else 0) % 256)
      = some tc := by
  cases tc with
  | none => rfl
  | some t =>
    have hlegal : t.legal = true := htc
    have hrange : t.hh < 24 ∧ t.mm < 60 ∧ t.ss < 60 ∧ t.ff < 30 := by simpa [Timecode.legal] using hlegal
    have hbit : (if rework = true then 1 else 0) < 2 := by split <;> decide
    dsimp only [Option.getD_some, Option.isSome_some]
    generalize (if rework = true then 1 else 0) = w at hbit ⊢
    have hpresent : ¬ (128 + t.hh % 32 * 4 + t.mm / 16 % 4) % 256 / 128 = 0 := by omega
    have hhh : (128 + t.hh % 32 * 4 + t.mm / 16 % 4) % 256 / 4 % 32 = t.hh := by omega
    have hmm : (128 + t.hh % 32 * 4 + t.mm / 16 % 4) % 256 % 4 * 16 + (t.mm % 16 * 16 + t.ss / 4 % 16) % 256 / 16 = t.mm := by
      omega
    have hss : (t.mm % 16 * 16 + t.ss / 4 % 16) % 256 % 16 * 4 + (t.ss % 4 * 64 + t.ff % 32 * 2 + w) % 256 / 64 = t.ss := by
      omega
    have hff : (t.ss % 4 * 64 + t.ff % 32 * 2 + w) % 256 / 2 % 32 = t.ff := by omega
    simp only [headerTimecode, if_true, if_neg hpresent, hhh, hmm, hss, hff, if_pos hlegal]

theorem onTape_iff (h : Header) :
    h.onTape = true ↔ (∃ a, h.addr = some a ∧ a < Config.addrCount) ∧ h.tc.all Timecode.legal = true ∧ h.take < 256 := by
  cases ha : h.addr <;> simp [Header.onTape, legalAddr, ha, and_assoc]

/-- Every header that the part writes to tape reads back as written (R193). -/
theorem headerOf_headerBytes {h : Header} (htape : h.onTape = true) : headerOf (headerBytes h) = some h := by
  obtain ⟨addr, tc, rate, mark, take, splice, rework⟩ := h
  obtain ⟨⟨a, rfl, ha⟩, htc, htake⟩ := (onTape_iff _).mp htape
  obtain ⟨hcls, hcount, hsplice⟩ := markByte_unpack mark splice
  simp [headerOf, headerBytes, rateField_unpack, hcls, hcount, hsplice, address_unpack ha, ha, reworkBit_unpack,
    headerTimecode_packed tc rework htc, Nat.mod_eq_of_lt htake]

/-! ### The statement -/

/-- Settles O46: the decrement of each mark, the combination as the most restrictive mark of a set, the six values in their
order, and the mark of every coded frame read back from its header. -/
theorem copyMarks : Obligations.CopyMarks := by
  refine ⟨?decrements, rfl, ?combines, markRank_eq_idxOf, ?codes, ?readsBack⟩
  case decrements => decide
  case combines => exact fun l hl => ⟨combineAll_mem hl, fun m hm => markRank_le_combineAll hm⟩
  case codes => exact ⟨rfl, rfl, fun r => rfl⟩
  case readsBack =>
    intro m rate tape a b addr take tc sp w h htape
    exact headerOf_headerBytes htape

end Sys2Proof.CopyMarks
end

section
/-! SUPPORT. The commands on an entry of the cue table: erasing it and arming it (R164). -/

namespace Sys2Proof.CueCommands

open Sys2Proof.Machine

/-! ### The privilege class of the cue commands (R183) -/

/-- A port other than the Transport Port may issue every command that is not barred to the Studio Port. -/
theorem permitted_of_not_barred {p : Port} {cmd : Nat} (hp : p ≠ .transport) (hcmd : cmd ∉ studioBarred) :
    permitted p cmd = true := by
  cases p with
  | deck => exact permitted_deck cmd
  | studio => simpa [permitted] using hcmd
  | transport => exact absurd rfl hp

theorem exec_eraseCue {p : Port} (hp : p ≠ .transport) (n : Byte) (s : State) :
    exec (.eraseCue p n) s = .next (answer p (eraseCueBody n.toNat s).2 (eraseCueBody n.toNat s).1) :=
  congrArg Host.Outcome.next (command_permitted (permitted_of_not_barred (cmd := 0x61) hp (by decide)) _ s)

theorem exec_armCue {p : Port} (hp : p ≠ .transport) (n arm : Byte) (s : State) :
    exec (.armCue p n arm) s
      = .next (answer p (armCueBody n.toNat arm.toNat s).2 (armCueBody n.toNat arm.toNat s).1) :=
  congrArg Host.Outcome.next (command_permitted (permitted_of_not_barred (cmd := 0x62) hp (by decide)) _ s)

/-! ### ERASE CUE -/

theorem eraseCueBody_no_entry {n : Nat} (hn : 24 ≤ n) (s : State) : eraseCueBody n s = (s, refuse .range) :=
  dif_neg (Nat.not_lt.mpr hn)

theorem eraseCueBody_entry (i : Fin 24) (s : State) : eraseCueBody i.val s = (setCue i Cue.reset s, done) :=
  dif_pos i.isLt

/-! ### ARM CUE -/

theorem armCueBody_no_entry {n : Nat} (hn : 24 ≤ n) (arm : Nat) (s : State) : armCueBody n arm s = (s, refuse .range) :=
  dif_neg (Nat.not_lt.mpr hn)

/-- A code beyond KEEP is refused, whatever entry it names. -/
theorem armCueBody_no_action (n : Nat) {arm : Nat} (harm : 3 ≤ arm) (s : State) :
    armCueBody n arm s = (s, refuse .range) := by
  obtain ⟨k, rfl⟩ := Nat.exists_eq_add_of_le' harm
  by_cases hn : n < 24
  · simp [armCueBody, hn]
  · exact armCueBody_no_entry (Nat.not_lt.mp hn) _ s

/-- What ARM, DISARM and KEEP make of the armed flag of an entry. -/
def Arms (arm : Nat) (c : Cue) (b : Bool) : Prop :=
  (arm = 0 ∧ b = true) ∨ (arm = 1 ∧ b = false) ∨ (arm = 2 ∧ b = c.armed)

theorem exists_arms {arm : Nat} (harm : arm < 3) (c : Cue) : ∃ b, Arms arm c b := by
  have hcode : arm = 0 ∨ arm = 1 ∨ arm = 2 := by omega
  obtain rfl | rfl | rfl := hcode
  · exact ⟨true, .inl ⟨rfl, rfl⟩⟩
  · exact ⟨false, .inr (.inl ⟨rfl, rfl⟩)⟩
  · exact ⟨c.armed, .inr (.inr ⟨rfl, rfl⟩)⟩

/-- With an entry and an action named, only the presence of the entry is left to test. -/
theorem armCueBody_of_arms {i : Fin 24} {arm : Nat} {b : Bool} {s : State} (harms : Arms arm s.cues[i] b) :
    armCueBody i.val arm s = if s.cues[i].present = false then (s, refuse .state)
      else (setCue i { s.cues[i] with armed := b } s, ⟨.done, cueBytes { s.cues[i] with armed := b }⟩) := by
  obtain ⟨rfl, rfl⟩ | ⟨rfl, rfl⟩ | ⟨rfl, rfl⟩ := harms
  · exact dif_pos i.isLt
  · exact dif_pos i.isLt
  · exact dif_pos i.isLt

theorem armCueBody_absent {i : Fin 24} {arm : Nat} {s : State} (harm : arm < 3) (habsent : s.cues[i].present = false) :
    armCueBody i.val arm s = (s, refuse .state) := by
  obtain ⟨b, harms⟩ := exists_arms harm s.cues[i]
  rw [armCueBody_of_arms harms, if_pos habsent]

theorem armCueBody_present {i : Fin 24} {arm : Nat} {b : Bool} {s : State} (hpresent : s.cues[i].present = true)
    (harms : Arms arm s.cues[i] b) :
    armCueBody i.val arm s
      = (setCue i { s.cues[i] with armed := b } s, ⟨.done, cueBytes { s.cues[i] with armed := b }⟩) := by
  rw [armCueBody_of_arms harms, if_neg (by simpa using hpresent)]

/-! ### The statement -/

/-- Settles O33: the RANGE refusals of ERASE CUE and ARM CUE, the entry as ERASE CUE leaves it, the STATE refusal of an entry
that is not present, and the armed flag that ARM, DISARM and KEEP give a present one. -/
theorem eraseAndArmCue : Obligations.EraseAndArmCue := by
  intro p n arm s hp
  rw [exec_eraseCue hp, exec_armCue hp]
  refine ⟨fun hn => ?noEntry, fun harm => ?noAction, fun i hi => ?entry⟩
  case noEntry =>
    rw [eraseCueBody_no_entry hn, armCueBody_no_entry hn]
    exact ⟨rfl, rfl⟩
  case noAction => rw [armCueBody_no_action n.toNat harm]
  case entry =>
    rw [hi, eraseCueBody_entry]
    refine ⟨rfl, fun harm habsent => ?absent, fun hpresent b hchoice => ?present⟩
    case absent => rw [armCueBody_absent harm habsent]
    case present =>
      have harms : Arms arm.toNat s.cues[i] b := by
        obtain ⟨rfl, hb⟩ | ⟨rfl, hb⟩ | ⟨rfl, hb⟩ := hchoice
        · exact .inl ⟨rfl, hb⟩
        · exact .inr (.inl ⟨rfl, hb⟩)
        · exact .inr (.inr ⟨rfl, hb⟩)
      rw [armCueBody_present hpresent harms]
      rfl

end Sys2Proof.CueCommands
end

section
/-! SUPPORT. The attention lines and the ALERT line: what posting, expiring and the resets do to the queues behind them (R199, R200,
R203, R204). -/

namespace Sys2Proof.NoticeLines

open Sys2Proof.Machine

section Rules

/-! ### A queue takes a notice (R199) -/

variable {q : NoticePort} {k : NoticeKind} {n : Nat}

theorem any_sameEntry_iff : q.queue.any (sameEntry k n) = true ↔ ∃ e ∈ q.queue, e.kind = k ∧ e.subject = n := by
  simp only [List.any_eq_true, sameEntry_iff]

theorem take_coalesced (hin : ∃ e ∈ q.queue, e.kind = k ∧ e.subject = n) (a : Option Nat) (c : Option Result) :
    q.take k n a c = { q with
      queue := q.queue.map fun e => if sameEntry k n e then { e with count := saturate 255 (e.count + 1) } else e } :=
  if_pos (any_sameEntry_iff.mpr hin)

theorem take_full (hnew : ¬∃ e ∈ q.queue, e.kind = k ∧ e.subject = n) (hfull : 8 ≤ q.queue.length) (a : Option Nat)
    (c : Option Result) : q.take k n a c = { q with overflow := saturate 255 (q.overflow + 1) } :=
  (if_neg (mt any_sameEntry_iff.mp hnew)).trans (if_pos hfull)

theorem take_joins (hnew : ¬∃ e ∈ q.queue, e.kind = k ∧ e.subject = n) (hroom : q.queue.length < 8) (a : Option Nat)
    (c : Option Result) :
    q.take k n a c = { q with queue := q.queue ++ [⟨k, n, 1, a, c, if expiring k then some q.expiryTime else none⟩] } :=
  (if_neg (mt any_sameEntry_iff.mp hnew)).trans (if_neg (Nat.not_le.mpr hroom))

theorem take_coalesced_queue_eq_nil_iff (hin : ∃ e ∈ q.queue, e.kind = k ∧ e.subject = n) (a : Option Nat)
    (c : Option Result) : (q.take k n a c).queue = [] ↔ q.queue = [] := by
  rw [take_coalesced hin]
  exact List.map_eq_nil_iff

/-- A queue that a notice is posted to holds an entry: the one it joins, itself, or the eight that leave it no room. -/
theorem take_queue_ne_nil (q : NoticePort) (k : NoticeKind) (n : Nat) (a : Option Nat) (c : Option Result) :
    (q.take k n a c).queue ≠ [] := by
  by_cases hin : ∃ e ∈ q.queue, e.kind = k ∧ e.subject = n
  case pos =>
    have ⟨_, he, _⟩ := hin
    exact mt (take_coalesced_queue_eq_nil_iff hin a c).mp (List.ne_nil_of_mem he)
  case neg =>
    by_cases hfull : 8 ≤ q.queue.length
    case pos =>
      rw [take_full hin hfull]
      exact List.ne_nil_of_length_pos (Nat.lt_of_lt_of_le (by decide) hfull)
    case neg =>
      rw [take_joins hin (Nat.lt_of_not_le hfull)]
      exact List.append_ne_nil_of_right_ne_nil _ (List.cons_ne_nil _ _)

/-- With room in the queue a posted notice leaves an entry of its kind. -/
theorem exists_kind_mem_take (hroom : q.queue.length < 8) (k : NoticeKind) (n : Nat) (a : Option Nat) (c : Option Result) :
    ∃ e ∈ (q.take k n a c).queue, e.kind = k := by
  by_cases hin : ∃ e ∈ q.queue, e.kind = k ∧ e.subject = n
  case pos =>
    obtain ⟨e, he, hkind, hsubject⟩ := hin
    rw [take_coalesced ⟨e, he, hkind, hsubject⟩]
    refine ⟨_, List.mem_map_of_mem he, ?_⟩
    rw [if_pos ((sameEntry_iff k n e).mpr ⟨hkind, hsubject⟩)]
    exact hkind
  case neg =>
    rw [take_joins hin hroom]
    exact ⟨_, List.mem_append_right _ List.mem_cons_self, rfl⟩

/-! ### A notice expires (R200) -/

theorem urgent_iff (k : NoticeKind) : urgent k = true ↔ k = .writeFault ∨ k = .clockLost ∨ k = .recordRefused := by
  cases k <;> decide

theorem not_expiring_of_urgent (hurgent : urgent k = true) : expiring k = false := by
  obtain rfl | rfl | rfl := (urgent_iff k).mp hurgent <;> rfl

/-- Under the law of a queue an urgent entry has no deadline, so no expiry removes it. -/
theorem mem_expire_iff_of_urgent (hok : q.ok) {e : Notice} (hurgent : urgent e.kind = true) (k : NoticeKind) (n : Nat) :
    e ∈ (q.expire k n).queue ↔ e ∈ q.queue := by
  unfold NoticePort.expire
  split
  case isFalse => exact Iff.rfl
  case isTrue =>
    obtain ⟨-, -, hentries, -, -⟩ := hok
    refine ⟨fun he => (List.mem_filter.mp he).1, fun he => List.mem_filter.mpr ⟨he, ?_⟩⟩
    obtain ⟨-, -, hdeadline⟩ := hentries e he
    simp [expirable, hdeadline, not_expiring_of_urgent hurgent]

/-! ### The attention lines (R203) -/

theorem attention_iff (s : State) (p : Port) :
    attention s p = true ↔ (s.notices.get p).queue ≠ [] ∧ (s.notices.get p).attention = true := by
  simp [attention, and_comm]

theorem attention_of_queue_eq_nil {s : State} {p : Port} (h : (s.notices.get p).queue = []) : attention s p = false := by
  simp [attention, h]

/-- A line follows its port's record: a queue empty as before and an enable as before leave it as it was. -/
theorem attention_congr {s t : State} {p : Port} (hqueue : (t.notices.get p).queue = [] ↔ (s.notices.get p).queue = [])
    (henable : (t.notices.get p).attention = (s.notices.get p).attention) : attention t p = attention s p := by
  rw [Bool.eq_iff_iff, attention_iff, attention_iff, henable, Ne, hqueue, Ne]

theorem attention_post {s : State} {p : Port} (hroute : (s.routes[kindIndex k]).get p = true)
    (henable : (s.notices.get p).attention = true) (n : Nat) (a : Option Nat) (c : Option Result) :
    attention (post k n a c s) p = true := by
  rw [attention_iff, post_get, if_pos hroute, (NoticePort.take_settings ..).1]
  exact ⟨take_queue_ne_nil _ k n a c, henable⟩

theorem attention_post_coalesced {s : State} {p : Port} (hin : ∃ e ∈ (s.notices.get p).queue, e.kind = k ∧ e.subject = n)
    (a : Option Nat) (c : Option Result) : attention (post k n a c s) p = attention s p := by
  apply attention_congr <;> rw [post_get] <;> split
  · exact take_coalesced_queue_eq_nil_iff hin a c
  · exact Iff.rfl
  · exact (NoticePort.take_settings ..).1
  · rfl

/-! ### SET ATTENTION (R203) -/

/-- Every privilege class holds SET ATTENTION (R183). -/
theorem permitted_setAttention (p : Port) : permitted p 0x72 = true := by
  cases p <;> decide

theorem exec_setAttention_flag (p : Port) {flag : Byte} (hflag : flag.toNat < 2) (s : State) :
    exec (.setAttention p flag) s
      = .next (answer p done (setNotices p { s.notices.get p with attention := flag == 1 } s)) :=
  congrArg Host.Outcome.next (command_fits (permitted_setAttention p) (decide_eq_true hflag) _ s)

theorem exec_setAttention_range (p : Port) {flag : Byte} (hflag : 2 ≤ flag.toNat) (s : State) :
    exec (.setAttention p flag) s = .next (answer p (refuse .range) s) := by
  have hfits : isFlag flag = false := decide_eq_false (Nat.not_lt.mpr hflag)
  show Host.Outcome.next (command p 0x72 (isFlag flag) _ s) = _
  rw [hfits, command_range (permitted_setAttention p)]

/-! ### The resets (R189, R190, R205) -/

@[simp] theorem reset_notices_get (p : Port) : State.reset.notices.get p = NoticePort.reset := by
  cases p <;> rfl

/-- A state with the reset records of the ports has every enable on and every line down. -/
theorem attention_of_reset_notices {t : State} (h : t.notices = State.reset.notices) (p : Port) :
    (t.notices.get p).attention = true ∧ attention t p = false := by
  have hport : t.notices.get p = NoticePort.reset := by rw [h, reset_notices_get]
  exact ⟨by rw [hport]; rfl, attention_of_queue_eq_nil (by rw [hport]; rfl)⟩

@[simp] theorem settleDue_notices (i : SlotId) (s : State) : (settleDue i s).notices = s.notices :=
  (congrArg State.notices (settleDue_frame i s) :)

@[simp] theorem endHold_notices (p : Port) (i : SlotId) (s : State) : (endHold p i s).notices = s.notices :=
  settleDue_notices ..

@[simp] theorem endHolds_notices (p : Port) (s : State) : (endHolds p s).notices = s.notices := by
  refine List.foldlRecOn (motive := fun t : State => t.notices = s.notices) slotIds _ rfl fun t ht i _ => ?_
  split
  · exact (endHold_notices ..).trans ht
  · exact ht

@[simp] theorem dropFetch_notices (p : Port) (s : State) : (dropFetch p s).notices = s.notices := by
  unfold dropFetch
  dsimp only
  split
  · exact settleDue_notices ..
  · rfl

theorem resetPort_notices_get (p : Port) (s : State) : (resetPort p s).notices.get p = (s.notices.get p).emptied := by
  simp [resetPort]

theorem exec_resetPort (p : Port) (s : State) : exec (.resetPort p) s = .next (answer p done (resetPort p s)) :=
  congrArg Host.Outcome.next (command_permitted (by cases p <;> decide) _ s)

theorem exec_resetDevice_deck (s : State) :
    exec (.resetDevice .deck) s = .next (answer .deck done (deviceValues (cutGate .reset s))) :=
  congrArg Host.Outcome.next (command_permitted (permitted_deck 0x7F) _ s)

/-! ### The ALERT line (R204) -/

theorem alert_iff_urgent (s : State) : alert s = true ↔ ∃ e ∈ s.notices.deck.queue, urgent e.kind = true :=
  List.any_eq_true

theorem alert_iff (s : State) :
    alert s = true ↔ ∃ e ∈ s.notices.deck.queue, e.kind = .writeFault ∨ e.kind = .clockLost ∨ e.kind = .recordRefused := by
  simp only [alert_iff_urgent, urgent_iff]

/-- ALERT is a function of the Deck queue alone. -/
theorem alert_congr {s t : State} (hqueue : t.notices.deck.queue = s.notices.deck.queue) : alert t = alert s := by
  simp only [alert, hqueue]

theorem post_deck {s : State} (hroute : (s.routes[kindIndex k]).deck = true) (n : Nat) (a : Option Nat) (c : Option Result) :
    (post k n a c s).notices.deck = s.notices.deck.take k n a c :=
  (post_get k n a c s .deck).trans (if_pos hroute)

theorem alert_post_urgent {s : State} (hroom : s.notices.deck.queue.length < 8) (hroute : (s.routes[kindIndex k]).deck = true)
    (hurgent : urgent k = true) (n : Nat) (a : Option Nat) (c : Option Result) : alert (post k n a c s) = true := by
  obtain ⟨e, he, hkind⟩ := exists_kind_mem_take hroom k n a c
  rw [alert_iff_urgent, post_deck hroute]
  exact ⟨e, he, hkind ▸ hurgent⟩

theorem alert_setNotices_expire {s : State} (hok : noticesOk s) (p : Port) (k : NoticeKind) (n : Nat) :
    alert (setNotices p ((s.notices.get p).expire k n) s) = alert s := by
  obtain ⟨hdeck, -, -⟩ := hok
  cases p with
  | deck =>
    rw [Bool.eq_iff_iff, alert_iff_urgent, alert_iff_urgent]
    exact exists_congr fun e => and_congr_left fun hurgent => mem_expire_iff_of_urgent hdeck hurgent k n
  | transport => exact alert_congr rfl
  | studio => exact alert_congr rfl

end Rules

/-! ### The statements -/

/-- Settles O38: the line as the conjunction of its queue's occupancy and its enable, raised by a routed notice and left by a
coalesced one, with SET ATTENTION and the resets on the enable. -/
theorem attentionLine : Obligations.AttentionLine := by
  refine ⟨attention_iff, ?posted, ?coalesced, ?set, ?powerOn, ?device, ?port⟩
  case posted => exact fun k n a c s p hroute henable => attention_post hroute henable n a c
  case coalesced => exact fun k n a c s p hin => attention_post_coalesced hin a c
  case set => exact fun p flag s => ⟨fun h => exec_setAttention_flag p h s, fun h => exec_setAttention_range p h s⟩
  case powerOn => exact fun s p => ⟨_, rfl, attention_of_reset_notices rfl p⟩
  case device => exact fun s p => ⟨_, exec_resetDevice_deck s, attention_of_reset_notices rfl p⟩
  case port =>
    intro s p
    have hport : (answer p done (resetPort p s)).notices.get p = (s.notices.get p).emptied := resetPort_notices_get p s
    exact ⟨_, exec_resetPort p s, by rw [hport]; rfl, attention_of_queue_eq_nil (by rw [hport]; rfl)⟩

/-- Settles O39: the line as the presence of an urgent entry in the Deck queue, raised by an urgent notice that finds room, and
kept by a discarded notice and by every expiry. -/
theorem alertLine : Obligations.AlertLine := by
  refine ⟨alert_iff, fun s b => alert_congr rfl, fun s q r => alert_congr rfl, ?raised, ?discarded, ?expired⟩
  case raised =>
    exact fun k n a c s hroom hroute hkind => alert_post_urgent hroom hroute ((urgent_iff k).mpr hkind) n a c
  case discarded =>
    intro k n a c s hfull hnew hroute
    have hdeck := (post_deck hroute n a c).trans (take_full (fun ⟨e, he, hsame⟩ => hnew e he hsame) hfull a c)
    exact ⟨alert_congr (by rw [hdeck]), by rw [hdeck]; rfl⟩
  case expired => exact fun p k n s hok => ⟨_, rfl, alert_setNotices_expire hok p k n⟩

end Sys2Proof.NoticeLines
end
section
/-! SUPPORT. What every step keeps: each command's body keeps the laws, the queue, the framers and, under the Guard Lock, the guard
table; each event is a move; so every step keeps the laws (R182, and the laws of Safety.lean). -/

namespace Sys2Proof.StepLaws

open Sys2Proof.Machine

/-! ### The laws that a step keeps -/

/-- Every law of Safety.lean that holds in `s` holds in `t`. -/
structure Keeps (s t : State) : Prop where
  notices : noticesOk s → noticesOk t
  tl : s.tl.ok → t.tl.ok
  gate : gateOk s → gateOk t
  banks : s.banks.ok → t.banks.ok
  eng : s.eng.ok → t.eng.ok
  buffers : buffersWf s → buffersWf t
  ranges : settingsInRange s → settingsInRange t

/-- The ranges of the settings are a property of the settings alone. -/
def Settings.inRange (x : Settings) : Prop :=
  (1 ≤ x.timeline.coastLimit ∧ x.timeline.coastLimit ≤ 30) ∧ (1 ≤ x.timeline.ratio ∧ x.timeline.ratio ≤ 8)
    ∧ (2 ≤ x.timeline.speed ∧ x.timeline.speed ≤ 32) ∧ (2 ≤ x.geo.d ∧ x.geo.d ≤ 6 ∧ 1 ≤ x.geo.c ∧ x.geo.c ≤ 4)
    ∧ x.jogLength ∈ [1, 2, 4, 8]
    ∧ (1 ≤ x.conceal.bridge ∧ x.conceal.bridge ≤ 16 ∧ x.conceal.hold ≤ 64 ∧ 16 ≤ x.conceal.fade ∧ x.conceal.fade ≤ 1024
        ∧ 1 ≤ x.conceal.recover ∧ x.conceal.recover ≤ 64)
    ∧ x.faultLimit ≤ 8 ∧ x.manual.fade ≤ 3200 ∧ x.version < 65536 ∧ (30 ≤ x.preroll ∧ x.preroll ≤ 300)
    ∧ (∀ (i : Fin 8) (sp : Span), x.guard.places[i] = some sp → sp.first ≤ sp.last ∧ sp.last < 2592000)
    ∧ ∀ p : Port, 1 ≤ (x.attention.get p).2 ∧ (x.attention.get p).2 ≤ 8

theorem settingsInRange_iff (s : State) : settingsInRange s ↔ Settings.inRange (settingsOf s) := by
  have hport : ∀ p : Port, ((settingsOf s).attention.get p).2 = (s.notices.get p).expiryTime := by
    intro p
    cases p <;> rfl
  unfold settingsInRange Settings.inRange
  simp only [hport]
  rfl

theorem Keeps.refl (s : State) : Keeps s s := ⟨id, id, id, id, id, id, id⟩

theorem Keeps.trans {s t u : State} (h : Keeps s t) (k : Keeps t u) : Keeps s u :=
  ⟨k.notices ∘ h.notices, k.tl ∘ h.tl, k.gate ∘ h.gate, k.banks ∘ h.banks, k.eng ∘ h.eng, k.buffers ∘ h.buffers,
   k.ranges ∘ h.ranges⟩

theorem Keeps.ofMove {s t : State} (h : Move s t) : Keeps s t where
  notices := h.notices
  tl := h.tl
  gate := h.gate
  banks := h.banks
  eng := h.eng
  buffers := h.buffers
  ranges := fun hs => by rwa [settingsInRange_iff, h.settings, ← settingsInRange_iff]

/-! ### What a command's body does -/

/-- The inner work of a command: the laws, the model's queue and the framers stay, and under the Guard Lock the guard table. -/
structure Inner (s t : State) : Prop where
  keeps : Keeps s t
  pending : t.pending = s.pending
  framers : t.framers = s.framers
  locked : s.guard.lock = true → t.guard.places = s.guard.places ∧ t.guard.invert = s.guard.invert

theorem Inner.trans {s t u : State} (h : Inner s t) (k : Inner t u) (hlock : t.guard = s.guard) : Inner s u where
  keeps := h.keeps.trans k.keeps
  pending := k.pending.trans h.pending
  framers := k.framers.trans h.framers
  locked := by rw [← hlock]; exact k.locked

theorem Inner.ofMove {s t : State} (h : Move s t) : Inner s t where
  keeps := .ofMove h
  pending := congrArg Settings.pending h.settings
  framers := congrArg Settings.framers h.settings
  locked := fun _ => by rw [show t.guard = s.guard from congrArg Settings.guard h.settings]; exact ⟨rfl, rfl⟩

/-- An update of settings and of fields that no law reads: only the ranges are to be shown. -/
theorem Inner.ofRanges {s t : State} (ranges : settingsInRange s → settingsInRange t) (notices : t.notices = s.notices := by rfl)
    (tl : t.tl = s.tl := by rfl) (gate : t.gate.state = s.gate.state ∧ t.gate.write = s.gate.write := by exact ⟨rfl, rfl⟩)
    (banks : t.banks = s.banks := by rfl) (eng : t.eng.results = s.eng.results ∧ t.eng.resultsLost = s.eng.resultsLost
      ∧ t.eng.takeCounter = s.eng.takeCounter := by exact ⟨rfl, rfl, rfl⟩)
    (slots : t.slots = s.slots := by rfl) (pre : t.pre = s.pre := by rfl) (conf : t.conf = s.conf := by rfl)
    (guard : t.guard = s.guard := by rfl) (pending : t.pending = s.pending := by rfl)
    (framers : t.framers = s.framers := by rfl) : Inner s t where
  keeps := {
    notices := by unfold noticesOk; rw [notices]; exact id
    tl := by rw [tl]; exact id
    gate := by unfold gateOk Gate.ok; rw [gate.1, gate.2, guard]; exact id
    banks := by rw [banks]; exact id
    eng := by unfold Engine.ok; rw [eng.1, eng.2.1, eng.2.2]; exact id
    buffers := by unfold buffersWf; rw [slots, banks, pre, conf]; exact id
    ranges := ranges }
  pending := pending
  framers := framers
  locked := fun _ => by rw [guard]; exact ⟨rfl, rfl⟩

/-- A body answers DONE or ACCEPTED, or it refuses with no data and changes nothing (R182). -/
def Answered (s : State) (x : State × Reply) : Prop :=
  x.2.code = .done ∨ x.2.code = .accepted ∨ (x.2.data = [] ∧ x.1 = s)

/-- What the body of every command does. -/
structure Lawful (s : State) (x : State × Reply) : Prop where
  inner : Inner s x.1
  answered : Answered s x

theorem Lawful.refused (s : State) (r : Result) : Lawful s (s, refuse r) := ⟨.ofMove (.refl s), .inr (.inr ⟨rfl, rfl⟩)⟩

theorem Lawful.ofDone {s t : State} (h : Inner s t) (l : List Byte) : Lawful s (t, ⟨.done, l⟩) := ⟨h, .inl rfl⟩

theorem Lawful.query (s : State) (l : List Byte) : Lawful s (s, ⟨.done, l⟩) := .ofDone (.ofMove (.refl s)) l

theorem Lawful.ofSetting {s : State} {ok : Bool} {f : State → State} (h : ok = true → Inner s (f s)) :
    Lawful s (setting ok f s) := by
  cases hok : ok with
  | false => rw [setting_refused rfl]; exact .refused s _
  | true => rw [setting_taken rfl]; exact .ofDone (h hok) []

theorem Lawful.ite {s : State} {c : Prop} [Decidable c] {x y : State × Reply} (h : c → Lawful s x) (k : ¬c → Lawful s y) :
    Lawful s (if c then x else y) := by
  split
  · exact h ‹_›
  · exact k ‹_›

/-- An engine command with a bare answer: a move that stays put when it refuses. -/
theorem Lawful.ofBare {s : State} {x : State × Result} (h : Move s x.1) (k : x.2 = .done ∨ x.2 = .accepted ∨ x.1 = s) :
    Lawful s (bare x) :=
  ⟨.ofMove h, k.imp id (Or.imp id fun e => ⟨rfl, e⟩)⟩

/-! ### The timeline and the clock -/

/-- A ratio and a speed that a posting records lie in their ranges. -/
def InRange (q : Posting) : Prop := (∀ r, q.ratio = some r → 1 ≤ r ∧ r ≤ 8) ∧ ∀ v, q.speed = some v → 2 ≤ v ∧ v ≤ 32

theorem inRange_plain (m : Mode) (d : Option Dir) : InRange ⟨m, d, none, none⟩ := ⟨nofun, nofun⟩

theorem inRange_jog (d : Option Dir) {n : Nat} (hn : 1 ≤ n ∧ n ≤ 8) : InRange ⟨.jog, d, some n, none⟩ :=
  ⟨fun _ h => Option.some.inj h ▸ hn, nofun⟩

theorem inRange_shuttle (d : Option Dir) {n : Nat} (hn : 2 ≤ n ∧ n ≤ 32) : InRange ⟨.shuttle, d, none, some n⟩ :=
  ⟨nofun, fun _ h => Option.some.inj h ▸ hn⟩

/-- A posting that is taken records a ratio and a speed in their ranges (R10). -/
theorem postingOf_ranges {mode dir arg : Byte} {q : Posting} (hq : postingOf mode dir arg = some q) : InRange q := by
  unfold postingOf at hq
  generalize arg.toNat = n at hq
  split at hq
  · exact Option.some.inj hq ▸ inRange_plain ..
  · exact Option.some.inj hq ▸ inRange_plain ..
  · exact Option.some.inj hq ▸ inRange_plain ..
  · obtain ⟨hn, hq⟩ := Option.ite_none_right_eq_some.mp hq
    exact Option.some.inj hq ▸ inRange_jog _ hn
  · obtain ⟨hn, hq⟩ := Option.ite_none_right_eq_some.mp hq
    exact Option.some.inj hq ▸ inRange_shuttle _ hn
  · exact nomatch hq

/-- A record of the timeline that follows its laws, with ratio, speed and Coast Limit in range. -/
theorem Inner.setTl {s : State} {u : Timeline} (hok : s.tl.ok → u.ok)
    (hlimit : 1 ≤ s.tl.coastLimit ∧ s.tl.coastLimit ≤ 30 → 1 ≤ u.coastLimit ∧ u.coastLimit ≤ 30)
    (hratio : 1 ≤ s.tl.ratio ∧ s.tl.ratio ≤ 8 → 1 ≤ u.ratio ∧ u.ratio ≤ 8)
    (hspeed : 2 ≤ s.tl.speed ∧ s.tl.speed ≤ 32 → 2 ≤ u.speed ∧ u.speed ≤ 32) : Inner s { s with tl := u } where
  keeps := ⟨id, hok, id, id, id, id, fun ⟨limit, ratio, speed, rest⟩ => ⟨hlimit limit, hratio ratio, hspeed speed, rest⟩⟩
  pending := rfl
  framers := rfl
  locked := fun _ => ⟨rfl, rfl⟩

theorem posted_inner {mode dir arg : Byte} {q : Posting} (hq : postingOf mode dir arg = some q) (s : State) :
    Inner s { s with tl := s.tl.posted q s.geo.d } := by
  obtain ⟨hratio, hspeed⟩ := postingOf_ranges hq
  have hset := s.tl.posted_settings q s.geo.d
  refine Inner.setTl (Timeline.posted_ok q s.geo.d) ?_ ?_ ?_
  · rw [show (s.tl.posted q s.geo.d).coastLimit = s.tl.coastLimit from congrArg TimelineSettings.coastLimit hset]
    exact id
  · rw [show (s.tl.posted q s.geo.d).ratio = q.ratio.getD s.tl.ratio from congrArg TimelineSettings.ratio hset]
    cases hr : q.ratio with
    | none => exact id
    | some r => exact fun _ => hratio r hr
  · rw [show (s.tl.posted q s.geo.d).speed = q.speed.getD s.tl.speed from congrArg TimelineSettings.speed hset]
    cases hv : q.speed with
    | none => exact id
    | some v => exact fun _ => hspeed v hv

theorem postBody_lawful (mode dir arg : Byte) (s : State) : Lawful s (postBody mode dir arg s) := by
  unfold postBody
  split
  · exact .refused s _
  · rename_i q hq
    exact .ofDone ((posted_inner hq s).trans (.ofMove (takePosting_after q s)) rfl) []

/-- A new Coast Limit that the coast count respects (R14). -/
theorem limited_inner {limit : Nat} (hlimit : 1 ≤ limit ∧ limit ≤ 30) {s : State}
    (hwithin : ¬(s.tl.state = .coasting ∧ limit < s.tl.coast)) :
    Inner s { s with tl := { s.tl with coastLimit := limit } } := by
  refine .setTl ?_ (fun _ => hlimit) id id
  intro ⟨⟨_, _, hzero⟩, hparked, hlaying⟩
  have hcoast : s.tl.coast ≤ limit := by
    by_cases hstate : s.tl.state = .coasting
    · exact Nat.not_lt.mp fun h => hwithin ⟨hstate, h⟩
    · exact hzero hstate ▸ Nat.zero_le limit
  exact ⟨⟨hlimit.1, hcoast, hzero⟩, hparked, hlaying⟩

/-- A timeline that coasts beyond the new Coast Limit is UNLOCKED (R14). -/
theorem limited_unlock_inner {limit : Nat} (hlimit : 1 ≤ limit ∧ limit ≤ 30) {s : State} (hcoasting : s.tl.state = .coasting) :
    Inner s { s with tl := Timeline.unlock { s.tl with coastLimit := limit } } := by
  refine .setTl ?_ (fun _ => hlimit) id id
  intro ⟨_, hparked, _⟩
  have hmode : s.tl.mode ≠ .stop ∧ s.tl.mode ≠ .spool := not_or.mp fun h => nomatch hcoasting.symm.trans (hparked.mpr h)
  exact Timeline.ok_of_moving hlimit.1 rfl hmode.1 hmode.2 nofun nofun

theorem coastLimitBody_lawful (limit : Nat) (s : State) : Lawful s (coastLimitBody limit s) := by
  unfold coastLimitBody
  refine .ite (fun _ => .refused s _) fun hrange => ?_
  have hlimit : 1 ≤ limit ∧ limit ≤ 30 := by omega
  dsimp only
  split
  · rename_i hbeyond
    exact .ofDone ((limited_unlock_inner hlimit hbeyond.1).trans (.ofMove (timelineSet_after _ s).toMove) rfl) []
  · rename_i hwithin
    exact .ofDone ((limited_inner hlimit hwithin).trans (.ofMove (timelineSet_after _ s).toMove) rfl) []

theorem geometryBody_lawful (d c : Nat) (s : State) : Lawful s (geometryBody d c s) := by
  unfold geometryBody
  refine .ite (fun _ => .refused s _) fun hrange => .ite (fun _ => .refused s _) fun _ => .ofDone (.ofRanges ?_) []
  have hheads : 2 ≤ d ∧ d ≤ 6 ∧ 1 ≤ c ∧ c ≤ 4 := by omega
  exact fun ⟨limit, ratio, speed, _, rest⟩ => ⟨limit, ratio, speed, hheads, rest⟩

/-- A new clock record leaves every law, and what follows a change of rate is a move (R20). -/
theorem setClock_inner (c : Clock) (s : State) : Inner s (setClock c s) := by
  have hrecord : Inner s { s with clock := c } := .ofRanges id
  unfold setClock
  dsimp only
  split
  · exact hrecord
  · exact hrecord.trans (.ofMove (resetPointer_step (resizeBanks_step (abandonOps_step (Move.refl _) _)))) rfl

theorem clockBody_lawful {α : Type} (o : Option α) (f : Clock → α → Clock) (s : State) : Lawful s (clockBody o f s) := by
  unfold clockBody
  split
  · exact .refused s _
  · exact .ite (fun _ => .refused s _) fun _ => .ofDone (setClock_inner _ s) []

theorem clearClockBody_lawful (s : State) : Lawful s (clearClockBody s) :=
  .ite (fun _ => .query s []) fun _ => .ite (fun _ => .refused s _) fun _ => .ofDone (setClock_inner _ s) []

/-! ### The Frame Store -/

theorem addHolder_move (p : Port) (i : SlotId) (s : State) : Move s (addHolder p i s) :=
  (modifySlot_keep (f := fun x => { x with holders := x.holders.set p true }) i s fun _ => rfl).toMove

theorem holdBody_lawful (p : Port) (a : Nat) (s : State) : Lawful s (holdBody p a s) := by
  have hadd : ∀ i l, Lawful s (addHolder p i s, ⟨.done, l⟩) := fun i l => .ofDone (.ofMove (addHolder_move p i s)) l
  unfold holdBody
  split
  · exact .refused s _
  · exact .ite (fun _ => .query s _) fun _ => .ite (fun _ => hadd ..) fun _ => .ite (fun _ => .refused s _) fun _ => hadd ..

theorem releaseBody_lawful (p : Port) (a : Nat) (s : State) : Lawful s (releaseBody p a s) := by
  unfold releaseBody
  split
  · exact .refused s _
  · exact .ofDone (.ofMove (endHold_step (Move.refl s) ..)) []

theorem readAudioBody_lawful (p : Port) (a : Nat) (channel : Byte) (start count : Nat) (s : State) :
    Lawful s (readAudioBody p a channel start count s) := by
  unfold readAudioBody
  refine .ite (fun _ => .refused s _) fun _ => .ite (fun _ => .refused s _) fun _ => ?_
  split
  · exact .ofDone (.ofRanges (by exact id)) _
  · exact .refused s _

theorem jogLength_lawful (n : Nat) (s : State) :
    Lawful s (setting (jogLengths.contains n) (fun t => resetPointer (jogSync { t with jog := { t.jog with length := n } })) s) := by
  refine .ofSetting fun hn => ?_
  have hlength : Inner s { s with jog := { s.jog with length := n } } := by
    have hmem : n ∈ [1, 2, 4, 8] := by simpa [jogLengths] using hn
    exact .ofRanges fun ⟨limit, ratio, speed, heads, _, rest⟩ => ⟨limit, ratio, speed, heads, hmem, rest⟩
  exact hlength.trans (.ofMove (resetPointer_step (jogSync_step (Move.refl _)))) rfl

/-! ### The fly banks -/

theorem writeBank_lawful (n : BankId) (start : Nat) (pairs : List SamplePair) (s : State) :
    Lawful s (writeBank n start pairs s) := by
  unfold writeBank
  refine .ite (fun _ => .refused s _) fun _ => .ite (fun _ => .refused s _) fun hstate => .ofDone (.ofMove (Calm.toMove ?_)) _
  refine setBank_stopped n ?_ fun hb => storePairs_wf pairs _ (getBank_wf hb n) start
  show (if _ then _ else _) ≠ BankState.playing
  split
  · nofun
  · exact fun h => hstate (.inl h)

theorem writeFlyBody_lawful (bank : Byte) (start : Nat) (pairs : List SamplePair) (s : State) :
    Lawful s (writeFlyBody bank start pairs s) := by
  unfold writeFlyBody
  split
  · exact .refused s _
  · exact writeBank_lawful ..

theorem writeFlyNextBody_lawful (bank : Byte) (pairs : List SamplePair) (s : State) :
    Lawful s (writeFlyNextBody bank pairs s) := by
  unfold writeFlyNextBody
  split
  · exact .refused s _
  · exact writeBank_lawful ..

theorem closeBankBody_lawful (bank : Byte) (count : Nat) (cls remaining rate : Byte) (s : State) :
    Lawful s (closeBankBody bank count cls remaining rate s) := by
  unfold closeBankBody
  split
  · rename_i n m r _ _ _
    refine .ite (fun _ => .refused s _) fun _ => .ite (fun _ => .ofDone (.ofMove (setStatus_step ?_ ..)) []) fun _ => .refused s _
    exact Calm.toMove (setBank_stopped (s := s) n nofun fun hb => getBank_wf (s := s) hb n)
  · exact .refused s _

theorem releaseBankBody_lawful (bank : Byte) (s : State) : Lawful s (releaseBankBody bank s) := by
  unfold releaseBankBody
  split
  · exact .refused s _
  · rename_i n _
    split
    · exact .query s []
    · exact .refused s _
    · exact .ofDone (.ofMove (invalidate_step (setBank_stopped n (by decide) fun _ => rfl).toMove _)) []

/-! ### Settings, statistics and source records -/

theorem clearStatistics_inner (s : State) : Inner s (clearStatistics s) :=
  .ofMove ⟨rfl, id, id, id, id, id, id⟩

theorem setConceal_lawful (bridge hold fade recover : Nat) (s : State) :
    Lawful s (setting (decide (1 ≤ bridge ∧ bridge ≤ 16 ∧ hold ≤ 64 ∧ 16 ≤ fade ∧ fade ≤ 1024 ∧ 1 ≤ recover ∧ recover ≤ 64))
      (fun t => { t with conceal := { t.conceal with params := ⟨bridge, hold, fade, recover⟩ } }) s) := by
  refine .ofSetting fun hrange => .ofRanges ?_
  exact fun ⟨limit, ratio, speed, heads, length, _, rest⟩ =>
    ⟨limit, ratio, speed, heads, length, of_decide_eq_true hrange, rest⟩

theorem monitorBody_lawful (selection : Byte) (s : State) : Lawful s (monitorBody selection s) := by
  unfold monitorBody
  split
  · exact .refused s _
  · exact .ofDone (.ofRanges (by exact id)) _

theorem faultLimitBody_lawful (limit : Nat) (s : State) : Lawful s (faultLimitBody limit s) := by
  unfold faultLimitBody
  refine .ite (fun _ => .refused s _) fun hrange => .ofDone (.ofRanges ?_) _
  exact fun ⟨limit, ratio, speed, heads, length, conceal, _, rest⟩ =>
    ⟨limit, ratio, speed, heads, length, conceal, Nat.not_lt.mp hrange, rest⟩

theorem manualBody_lawful (source : Byte) (fade : Nat) (s : State) : Lawful s (manualBody source fade s) := by
  unfold manualBody
  split
  · exact .refused s _
  · refine .ite (fun _ => .refused s _) fun hrange => .ofDone (.ofRanges ?_) _
    exact fun ⟨limit, ratio, speed, heads, length, conceal, fault, _, rest⟩ =>
      ⟨limit, ratio, speed, heads, length, conceal, fault, Nat.not_lt.mp hrange, rest⟩

theorem policyBody_lawful (cls remaining : Byte) (s : State) : Lawful s (policyBody cls remaining s) := by
  unfold policyBody
  split
  · exact .refused s _
  · rename_i m _
    have hpolicy : Inner s { s with sources := { s.sources with policy := m } } := .ofRanges id
    exact .ofDone (hpolicy.trans (.ofMove (setStatus_step (Move.refl _) ..)) rfl) []

theorem prerollSetting_lawful (n : Nat) (s : State) :
    Lawful s (setting (decide (30 ≤ n ∧ n ≤ 300)) (fun t => { t with eng := { t.eng with preroll := n } }) s) := by
  refine .ofSetting fun hrange => .ofRanges ?_
  exact fun ⟨limit, ratio, speed, heads, length, conceal, fault, manual, version, _, rest⟩ =>
    ⟨limit, ratio, speed, heads, length, conceal, fault, manual, version, of_decide_eq_true hrange, rest⟩

/-! ### The guard table -/

/-- A cut closes a gate that is not CLOSED, whatever the guard table says of the frame being written (R104, R105). -/
theorem cutGate_gateOk {s : State} (hopen : s.gate.state ≠ .closed) (c : CutCause) : gateOk (cutGate c s) := by
  have hclosed : gateOk (closeGate (markPartial s)) :=
    ⟨⟨nofun, fun h => h.elim nofun nofun⟩, nofun⟩
  have hcut : gateOk (closeByCut s) := by
    have hcalm : Calm (closeGate (markPartial s)) (closeByCut s) := by
      unfold closeByCut
      refine Calm.fields ?_ rfl id rfl rfl rfl rfl rfl rfl id rfl rfl rfl rfl id id id
      exact releaseUnwritten_calm (abandonOps_calm (Calm.refl _) _)
    exact hcalm.gate hclosed
  have hafter : Calm (closeByCut s) (cutGate c s) := by
    unfold cutGate
    rw [if_neg hopen]
    dsimp only
    cases c with
    | clock | store | fault => exact finishSplice_calm (Calm.refl _) ..
    | guarded a => exact finishSplice_calm (post_calm (Calm.refl _) ..) ..
    | transport | lock | stop | reset => exact Calm.refl _
  exact hafter.gate hcut

/-- A frame being written that a change of the table guards is cut at once, so no guarded frame is being written (R105). -/
theorem guardChanged_gateOk {s : State} (g : Guard) (h : gateOk s) : gateOk (guardChanged { s with guard := g }) := by
  obtain ⟨hwrite, -⟩ := h
  have hkept : (∀ w, s.gate.write = some w → guarded g w.addr = false) →
      gateOk (guardChanged { s with guard := g }) := fun hg => (guardChanged_move { s with guard := g }).gate ⟨hwrite, hg⟩
  cases hw : s.gate.write with
  | none => exact hkept fun w h => nomatch hw.symm.trans h
  | some w =>
    have hopen : s.gate.state ≠ .closed := fun hc => by
      have := hwrite.mp (by rw [hw]; rfl)
      rw [hc] at this
      exact this.elim nofun nofun
    by_cases hg : guarded g w.addr = true
    · have hcut : guardChanged { s with guard := g } = cutGate (.guarded w.addr) { s with guard := g } := by
        simp only [guardChanged, if_neg hopen, hw, if_pos hg]
      rw [hcut]
      exact cutGate_gateOk (s := { s with guard := g }) hopen _
    · refine hkept fun v hv => ?_
      obtain rfl : w = v := Option.some.inj (hw.symm.trans hv)
      simpa using hg

theorem guardBody_lawful {ok : Bool} {f : Guard → Guard} {s : State}
    (hspans : ok = true → ∀ g : Guard, (∀ (i : Fin 8) (x : Span), g.places[i] = some x → x.first ≤ x.last ∧ x.last < 2592000) →
      ∀ (i : Fin 8) (x : Span), (f g).places[i] = some x → x.first ≤ x.last ∧ x.last < 2592000) :
    Lawful s (guardBody ok f s) := by
  unfold guardBody
  by_cases hlock : s.guard.lock = true
  · rw [if_pos hlock]
    exact .refused s _
  · rw [if_neg hlock]
    refine .ite (fun _ => .refused s _) fun hok => ?_
    have hmove := (guardChanged_move { s with guard := f s.guard }).toMove
    have hcalm := Inner.ofMove hmove
    refine .ofDone (s := s) ⟨⟨hmove.notices, hmove.tl, guardChanged_gateOk _, hmove.banks, hmove.eng, hmove.buffers, ?_⟩, hcalm.pending,
      hcalm.framers, fun h => absurd (show s.guard.lock = true from h) hlock⟩ _
    refine fun ⟨limit, ratio, speed, heads, length, conceal, fault, manual, version, preroll, spans, expiry⟩ => hcalm.keeps.ranges ?_
    exact ⟨limit, ratio, speed, heads, length, conceal, fault, manual, version, preroll, hspans (by simpa using hok) _ spans, expiry⟩

/-- A span that fits replaces one place, and every other place stays. -/
theorem setSpan_spans (place : Nat) {o : Option Span} (ho : ∀ x, o = some x → x.first ≤ x.last ∧ x.last < 2592000) (g : Guard)
    (hg : ∀ (i : Fin 8) (x : Span), g.places[i] = some x → x.first ≤ x.last ∧ x.last < 2592000) :
    ∀ (i : Fin 8) (x : Span), (setSpan place o g).places[i] = some x → x.first ≤ x.last ∧ x.last < 2592000 := by
  intro i x
  unfold setSpan
  split
  · rename_i hplace
    show (g.places.set place o)[i.val] = some x → _
    rw [Vector.getElem_set]
    split
    · exact ho x
    · exact hg i x
  · exact hg i x

theorem clearLockBody_lawful (s : State) : Lawful s (clearLockBody s) := by
  unfold clearLockBody
  refine .ite (fun _ => .ofDone ?_ []) fun _ => .refused s _
  exact ⟨⟨id, id, id, id, id, id, id⟩, rfl, rfl, fun _ => ⟨rfl, rfl⟩⟩

/-! ### The Edit Engine -/

theorem setDraft_lawful (i : Fin 16) (o : Option Entry) (s : State) : Lawful s (setDraft i o s) := by
  refine .ofDone (.ofRanges ?_) _
  exact fun ⟨limit, ratio, speed, heads, length, conceal, fault, manual, _, rest⟩ =>
    ⟨limit, ratio, speed, heads, length, conceal, fault, manual, Nat.mod_lt _ (by decide), rest⟩

theorem writeEntryBody_lawful (place : Nat) (raw : RawEntry) (s : State) : Lawful s (writeEntryBody place raw s) := by
  unfold writeEntryBody
  split
  · exact .refused s _
  · split
    · exact .ite (fun _ => setDraft_lawful ..) fun _ => .refused s _
    · exact .refused s _

theorem eraseEntryBody_lawful (place : Nat) (s : State) : Lawful s (eraseEntryBody place s) := by
  unfold eraseEntryBody
  split
  · exact setDraft_lawful ..
  · exact .refused s _

theorem readEntryBody_lawful (selector place : Nat) (s : State) : Lawful s (readEntryBody selector place s) := by
  unfold readEntryBody
  split
  · dsimp only
    split
    · exact .query s _
    · exact .query s _
    · exact .refused s _
  · exact .refused s _

theorem startProgram_answer (m : RunMode) (passes : Nat) (version : Option Nat) (s : State) :
    (startProgram m passes version s).2 = .accepted ∨ (startProgram m passes version s).1 = s := by
  unfold startProgram
  split_ifs <;> first | exact .inl rfl | exact .inr rfl

theorem startBody_lawful (mode : Byte) (passes version : Nat) (s : State) : Lawful s (startBody mode passes version s) := by
  unfold startBody
  split
  · exact .refused s _
  · rename_i m _
    refine ⟨.ofMove (startProgram_step (Move.refl s) ..), ?_⟩
    rcases startProgram_answer m passes (some version) s with haccepted | hsame
    · exact .inr (.inl (by dsimp only; rw [if_pos haccepted]))
    · by_cases haccepted : (startProgram m passes (some version) s).2 = .accepted
      · exact .inr (.inl (by dsimp only; rw [if_pos haccepted]))
      · exact .inr (.inr ⟨by dsimp only; rw [if_neg haccepted]; rfl, hsame⟩)

theorem stopNow_answer (s : State) : (stopNow s).2 = .done ∨ (stopNow s).1 = s := by
  unfold stopNow
  split
  · exact .inl rfl
  · split <;> first | exact .inl rfl | exact .inr rfl

theorem stopAtEnd_answer (s : State) : (stopAtEnd s).2 = .done ∨ (stopAtEnd s).2 = .accepted ∨ (stopAtEnd s).1 = s := by
  unfold stopAtEnd
  split
  · exact .inr (.inl rfl)
  · split <;> first | exact .inl rfl | exact .inr (.inl rfl) | exact .inr (.inr rfl)

theorem punchIn_answer (s : State) : (punchIn s).2 = .accepted ∨ (punchIn s).1 = s := by
  unfold punchIn
  split_ifs <;> first | exact .inl rfl | exact .inr rfl

theorem punchOut_answer (s : State) : (punchOut s).2 = .accepted ∨ (punchOut s).1 = s := by
  unfold punchOut
  split_ifs <;> first | exact .inl rfl | exact .inr rfl

theorem readResultBody_lawful (n : Nat) (s : State) : Lawful s (readResultBody n s) := by
  unfold readResultBody
  split
  · exact .refused s _
  · exact .query s _

theorem clearResults_move (s : State) : Move s { s with eng := { s.eng with results := [], resultsLost := 0 } } :=
  ⟨rfl, id, id, id, id, fun ⟨_, _, hlow, hhigh⟩ => ⟨Nat.zero_le _, Nat.zero_le _, hlow, hhigh⟩, id⟩

/-! ### The Cue Unit -/

theorem setCue_inner (i : Fin 24) (c : Cue) (s : State) : Inner s (setCue i c s) := .ofMove (setCue_step (Move.refl s) ..)

theorem writeCueBody_lawful (n : Nat) (c : Option Cue) (s : State) : Lawful s (writeCueBody n c s) := by
  unfold writeCueBody
  split
  · exact .refused s _
  · split
    · exact .ofDone (setCue_inner ..) _
    · exact .refused s _

theorem eraseCueBody_lawful (n : Nat) (s : State) : Lawful s (eraseCueBody n s) := by
  unfold eraseCueBody
  split
  · exact .ofDone (setCue_inner ..) _
  · exact .refused s _

theorem armCueBody_lawful (n arm : Nat) (s : State) : Lawful s (armCueBody n arm s) := by
  unfold armCueBody
  split
  · dsimp only
    split
    · exact .refused s _
    · exact .ite (fun _ => .refused s _) fun _ => .ofDone (setCue_inner ..) _
  · exact .refused s _

theorem punchBody_lawful (input : Byte) (f : Punch → Option Punch) (s : State) : Lawful s (punchBody input f s) := by
  unfold punchBody
  split
  · exact .refused s _
  · split
    · exact .refused s _
    · exact .ofDone (.ofMove (setPunch_step (Move.refl s) ..)) _

/-! ### Notices and resets -/

/-- A port's record that keeps the law of its queue, its settings aside. -/
theorem setNotices_inner {p : Port} {q : NoticePort} {s : State} (hok : (s.notices.get p).ok → q.ok)
    (hexpiry : 1 ≤ (s.notices.get p).expiryTime ∧ (s.notices.get p).expiryTime ≤ 8 → 1 ≤ q.expiryTime ∧ q.expiryTime ≤ 8) :
    Inner s (setNotices p q s) := by
  refine ⟨⟨fun ⟨deck, transport, studio⟩ => ?_, id, id, id, id, id, ?_⟩, rfl, rfl, fun _ => ⟨rfl, rfl⟩⟩
  · cases p with
    | deck => exact ⟨hok deck, transport, studio⟩
    | transport => exact ⟨deck, hok transport, studio⟩
    | studio => exact ⟨deck, transport, hok studio⟩
  · refine fun ⟨limit, ratio, speed, heads, length, conceal, fault, manual, version, preroll, spans, expiry⟩ =>
      ⟨limit, ratio, speed, heads, length, conceal, fault, manual, version, preroll, spans, fun r => ?_⟩
    by_cases hr : r = p
    · subst hr
      rw [show (setNotices r q s).notices.get r = q by cases r <;> rfl]
      exact hexpiry (expiry r)
    · rw [show (setNotices p q s).notices.get r = s.notices.get r by cases p <;> cases r <;> first | rfl | exact absurd rfl hr]
      exact expiry r

theorem collectBody_lawful (p : Port) (s : State) : Lawful s (collectBody p s) := by
  unfold collectBody
  dsimp only
  split
  · exact .query s []
  · rename_i n rest hqueue
    refine .ofDone (setNotices_inner (s := s) (p := p) (q := { s.notices.get p with queue := rest }) (fun hok => ?_) id) _
    obtain ⟨hlength, hnodup, hentries, hcounts⟩ := hok
    rw [hqueue] at hlength hnodup hentries
    exact ⟨Nat.le_of_succ_le hlength, hnodup.of_cons, fun e he => hentries e (List.mem_cons_of_mem _ he), hcounts⟩

theorem routeBody_lawful (kind route : Byte) (s : State) : Lawful s (routeBody kind route s) := by
  unfold routeBody
  split
  · exact .ite (fun _ => .ofDone (.ofRanges (by exact id)) []) fun _ => .refused s _
  · exact .refused s _

theorem resetPort_inner (p : Port) (s : State) : Inner s (resetPort p s) := by
  have hempty : Inner s (setNotices p (s.notices.get p).emptied s) :=
    setNotices_inner (fun _ => ⟨Nat.zero_le _, List.nodup_nil, nofun, Nat.zero_le _, Nat.zero_le _⟩) id
  exact hempty.trans (.ofMove (dropFetch_step (endHolds_step (Move.refl _) p) p)) rfl

theorem queryClock_inner (s : State) : Inner s (bumpFresh s) := .ofRanges (by exact id)

theorem setGuardLock_inner (s : State) : Inner s { s with guard := { s.guard with lock := true } } :=
  ⟨⟨id, id, id, id, id, id, id⟩, rfl, rfl, fun _ => ⟨rfl, rfl⟩⟩

theorem attention_inner (p : Port) (b : Bool) (s : State) :
    Inner s (setNotices p { s.notices.get p with attention := b } s) := setNotices_inner id id

theorem expirySetting_lawful (p : Port) (n : Nat) (s : State) :
    Lawful s (setting (decide (1 ≤ n ∧ n ≤ 8)) (fun t => setNotices p { t.notices.get p with expiryTime := n } t) s) :=
  .ofSetting fun hrange => setNotices_inner id fun _ => of_decide_eq_true hrange

/-! ### RESET DEVICE and POWER-ON RESET -/

theorem noticesOk_reset : noticesOk State.reset := by
  have hport : NoticePort.reset.ok := ⟨Nat.zero_le _, List.nodup_nil, nofun, Nat.zero_le _, Nat.zero_le _⟩
  exact ⟨hport, hport, hport⟩

theorem tl_ok_reset : State.reset.tl.ok := by
  unfold Timeline.ok
  decide

theorem gateOk_reset : gateOk State.reset := ⟨by decide, nofun⟩

theorem banks_ok_reset : State.reset.banks.ok := fun h => nomatch h.1

theorem eng_ok_reset : State.reset.eng.ok := by
  unfold Engine.ok
  decide

theorem buffersWf_reset : buffersWf State.reset := by
  refine ⟨fun i => ?_, ⟨rfl, rfl⟩, ⟨nofun, nofun⟩, ⟨nofun, nofun⟩⟩
  rw [show State.reset.slots[i] = Slot.reset from Vector.getElem_replicate _]
  rfl

theorem settingsInRange_reset : settingsInRange State.reset := by
  have hplaces : ∀ i : Fin 8, State.reset.guard.places[i] = none := fun i => Vector.getElem_replicate _
  refine ⟨by decide, by decide, by decide, by decide, by decide, by decide, by decide, by decide, by decide, by decide,
    fun i x hx => absurd hx (by rw [hplaces]; nofun), fun p => ?_⟩
  cases p <;> decide

/-- A device reset gives every block values that keep the laws, and leaves the guard table and the Take Counter (R190). -/
theorem deviceValues_inner (s : State) : Inner s (deviceValues s) := by
  refine ⟨⟨fun _ => noticesOk_reset, fun _ => tl_ok_reset, fun _ => ⟨?_, nofun⟩, fun _ => banks_ok_reset, ?_, fun _ => buffersWf_reset, ?_⟩,
    rfl, rfl, fun _ => ⟨rfl, rfl⟩⟩
  · exact gateOk_reset.1
  · exact fun ⟨_, _, hlow, hhigh⟩ => ⟨Nat.zero_le _, Nat.zero_le _, hlow, hhigh⟩
  · obtain ⟨limit, ratio, speed, heads, length, conceal, fault, manual, version, preroll, _, expiry⟩ := settingsInRange_reset
    exact fun ⟨_, _, _, _, _, _, _, _, _, _, spans, _⟩ =>
      ⟨limit, ratio, speed, heads, length, conceal, fault, manual, version, preroll, spans, expiry⟩

theorem powerOn_keeps (s : State) : Keeps s (powerOn s) where
  notices := fun _ => noticesOk_reset
  tl := fun _ => tl_ok_reset
  gate := fun _ => gateOk_reset
  banks := fun _ => banks_ok_reset
  eng := fun _ => eng_ok_reset
  buffers := fun _ => buffersWf_reset
  ranges := fun _ => settingsInRange_reset

/-! ### The commands of the catalogue -/

/-- A row runs as a command: the privilege and encoding tests, then a body that keeps the laws. -/
def RunsAs (i : Instr) (p : Port) (cmd : Nat) : Prop :=
  ∃ fits body, (∀ s, exec i s = .next (command p cmd fits body (seen i s))) ∧ ∀ t, Lawful t (body t)

theorem RunsAs.of {i : Instr} {p q : Port} {c cmd : Nat} {fits : Bool} {body : State → State × Reply}
    (hrow : some (q, c) = some (p, cmd)) (hrun : ∀ s, exec i s = .next (command q c fits body (seen i s)))
    (hbody : ∀ t, Lawful t (body t)) : RunsAs i p cmd := by
  obtain ⟨rfl, rfl⟩ := Prod.mk.inj (Option.some.inj hrow)
  exact ⟨fits, body, hrun, hbody⟩

theorem frameBody_lawful {a : Nat} {f : Nat → State → State × Reply} (hf : ∀ t, Lawful t (f a t)) (t : State) :
    Lawful t (if legalAddr a then f a t else (t, refuse .range)) := .ite (fun _ => hf t) fun _ => .refused t _

/-- Every command of the catalogue runs as one (R182, R185 to R188). -/
theorem exec_catalogue {i : Instr} {p : Port} {cmd : Nat} (h : catalogue i = some (p, cmd)) : RunsAs i p cmd := by
  cases i with
  | postTransport _ mode dir arg => exact .of h (fun _ => rfl) fun t => postBody_lawful ..
  | setCoastLimit _ limit => exact .of h (fun _ => rfl) (coastLimitBody_lawful _)
  | setReference _ selection => exact .of h (fun _ => rfl) fun t => clockBody_lawful ..
  | setRate _ rate => exact .of h (fun _ => rfl) fun t => clockBody_lawful ..
  | clearClockLost => exact .of h (fun _ => rfl) clearClockBody_lawful
  | queryClock => exact .of h (fun _ => rfl) fun t => .ofDone (queryClock_inner t) _
  | holdFrame _ addr => exact .of h (fun _ => rfl) (frameBody_lawful fun t => holdBody_lawful ..)
  | releaseFrame _ addr => exact .of h (fun _ => rfl) (frameBody_lawful fun t => releaseBody_lawful ..)
  | readAudio _ addr channel start count => exact .of h (fun _ => rfl) fun t => readAudioBody_lawful ..
  | setJogWindow _ length => exact .of h (fun _ => rfl) (jogLength_lawful _)
  | writeFly _ bank start pairs => exact .of h (fun _ => rfl) fun t => writeFlyBody_lawful ..
  | writeFlyNext _ bank pairs => exact .of h (fun _ => rfl) fun t => writeFlyNextBody_lawful ..
  | closeBank _ bank count cls remaining rate => exact .of h (fun _ => rfl) fun t => closeBankBody_lawful ..
  | releaseBank _ bank => exact .of h (fun _ => rfl) (releaseBankBody_lawful _)
  | clearStatistics => exact .of h (fun _ => rfl) fun t => .ofDone (clearStatistics_inner t) []
  | setConceal _ bridge hold fade recover => exact .of h (fun _ => rfl) fun t => setConceal_lawful ..
  | setMonitor _ selection => exact .of h (fun _ => rfl) (monitorBody_lawful _)
  | setHeadGeometry _ d c => exact .of h (fun _ => rfl) fun t => geometryBody_lawful ..
  | setFaultLimit _ limit => exact .of h (fun _ => rfl) (faultLimitBody_lawful _)
  | setManualPunch _ source fade => exact .of h (fun _ => rfl) fun t => manualBody_lawful ..
  | setAnalogPolicy _ cls remaining => exact .of h (fun _ => rfl) fun t => policyBody_lawful ..
  | writeGuardSpan _ place first last =>
    refine .of h (fun _ => rfl) fun t => guardBody_lawful fun hok => setSpan_spans _ ?_
    simp only [Bool.and_eq_true, decide_eq_true_eq, legalAddr] at hok
    obtain ⟨⟨_, hlast⟩, hle⟩ := hok
    exact fun x hx => Option.some.inj hx ▸ ⟨hle, hlast⟩
  | eraseGuardSpan _ place => exact .of h (fun _ => rfl) fun t => guardBody_lawful fun _ => setSpan_spans _ nofun
  | setGuardInvert _ flag => exact .of h (fun _ => rfl) fun t => guardBody_lawful fun _ _ => id
  | setGuardLock => exact .of h (fun _ => rfl) fun t => .ofDone (setGuardLock_inner t) []
  | clearGuardLock => exact .of h (fun _ => rfl) clearLockBody_lawful
  | writeEntry _ place entry => exact .of h (fun _ => rfl) fun t => writeEntryBody_lawful ..
  | eraseEntry _ place => exact .of h (fun _ => rfl) (eraseEntryBody_lawful _)
  | readEntry _ selector place => exact .of h (fun _ => rfl) fun t => readEntryBody_lawful ..
  | startProgram _ mode passes version => exact .of h (fun _ => rfl) fun t => startBody_lawful ..
  | stopProgramNow =>
    exact .of h (fun _ => rfl) fun t => .ofBare (stopNow_step (Move.refl t)) ((stopNow_answer t).imp id .inr)
  | stopProgramAtEnd => exact .of h (fun _ => rfl) fun t => .ofBare (stopAtEnd_step (Move.refl t)) (stopAtEnd_answer t)
  | punchIn => exact .of h (fun _ => rfl) fun t => .ofBare (punchIn_step (Move.refl t)) (.inr (punchIn_answer t))
  | punchOut => exact .of h (fun _ => rfl) fun t => .ofBare (punchOut_step (Move.refl t)) (.inr (punchOut_answer t))
  | readResult _ position => exact .of h (fun _ => rfl) (readResultBody_lawful _)
  | clearResults => exact .of h (fun _ => rfl) fun t => .ofDone (.ofMove (clearResults_move t)) []
  | setPreroll _ preroll => exact .of h (fun _ => rfl) (prerollSetting_lawful _)
  | writeCue _ entry hh mm ss ff action rep armed => exact .of h (fun _ => rfl) fun t => writeCueBody_lawful ..
  | eraseCue _ entry => exact .of h (fun _ => rfl) (eraseCueBody_lawful _)
  | armCue _ entry arm => exact .of h (fun _ => rfl) fun t => armCueBody_lawful ..
  | configurePunch _ input active detection period rep action => exact .of h (fun _ => rfl) fun t => punchBody_lawful ..
  | armPunch _ input arm => exact .of h (fun _ => rfl) fun t => punchBody_lawful ..
  | clearPunch _ input => exact .of h (fun _ => rfl) fun t => punchBody_lawful ..
  | collectNotice => exact .of h (fun _ => rfl) (collectBody_lawful _)
  | setRoute _ kind route => exact .of h (fun _ => rfl) fun t => routeBody_lawful ..
  | setAttention _ flag => exact .of h (fun _ => rfl) fun t => .ofDone (attention_inner ..) []
  | setExpiry _ seconds => exact .of h (fun _ => rfl) fun t => expirySetting_lawful ..
  | resetPort => exact .of h (fun _ => rfl) fun t => .ofDone (resetPort_inner ..) []
  | resetDevice =>
    refine .of h (fun _ => rfl) fun t => .ofDone ?_ []
    have hcut := cutGate_move .reset t
    exact (Inner.ofMove hcut.toMove).trans (deviceValues_inner _) (congrArg Settings.guard hcut.toMove.settings)
  | queryTimeline | queryBanks | queryStatistics | querySources | queryProgram | queryPunch =>
    exact .of h (fun _ => rfl) fun t => .query t _
  | _ => exact nomatch h

/-! ### The events -/

/-- Every event and timer is a move: it keeps the laws and leaves the settings (R14, R17). -/
theorem exec_event {i : Instr} (h : isEvent i = true) (s : State) : ∃ t, exec i s = .next t ∧ Move s t := by
  have stay := Move.refl s
  cases i with
  | frameMark => exact ⟨_, rfl, takeMark_step stay⟩
  | sectorArrival ch bytes => exact ⟨_, rfl, settleCloses_step (arrive_step stay ..) _⟩
  | samplePairArrival line pair => exact ⟨_, rfl, acceptPair_step (notePair_step stay ..) ..⟩
  | digitalStatusRecord record => exact ⟨_, rfl, digitalStatus_step stay _⟩
  | referenceLost => exact ⟨_, rfl, referenceLost_step stay⟩
  | referenceAdopted => exact ⟨_, rfl, referenceAdopted_step stay⟩
  | markTimeout => exact ⟨_, rfl, markTimeout_move s⟩
  | shuttleTimerExpiry => exact ⟨_, rfl, shuttleExpiry_move s⟩
  | statusTimeout => exact ⟨_, rfl, statusTimeout_step stay⟩
  | noticeExpiry p kind subject => exact ⟨_, rfl, expireNotice_step stay ..⟩
  | punchSample line level => exact ⟨_, rfl, punchSample_step stay ..⟩
  | outputSamplePeriod => exact ⟨_, rfl, outputPeriod_step stay⟩
  | intakeSamplePeriod => exact ⟨_, rfl, intakePeriod_step stay⟩
  | digitalOutputBlockEnd => exact ⟨_, rfl, blockEnd_step stay⟩
  | inputPairTimeout line => exact ⟨_, rfl, notePair_step stay ..⟩
  | sectorEmission => exact ⟨_, rfl, emitSector_step stay⟩
  | closeOperationComplete ch => exact ⟨_, rfl, closeComplete_step stay _⟩
  | concealmentComplete => exact ⟨_, rfl, concealComplete_step stay⟩
  | codingOperationBegin => exact ⟨_, rfl, beginCoding_step stay⟩
  | codingOperationComplete => exact ⟨_, rfl, completeCoding_step stay⟩
  | fetchComplete p => exact ⟨_, rfl, completeFetch_step stay _⟩
  | referencePresent ref rate => exact ⟨_, rfl, setTrack_step stay ..⟩
  | referenceAbsent ref => exact ⟨_, rfl, setTrack_step stay ..⟩
  | _ => exact nomatch h

/-! ### Commands, bytes and select edges -/

/-- What every row but power-on keeps: the laws, the queue and, under the Guard Lock, the guard table. -/
structure Served (s t : State) : Prop where
  keeps : Keeps s t
  pending : t.pending = s.pending
  locked : s.guard.lock = true → t.guard.places = s.guard.places ∧ t.guard.invert = s.guard.invert

theorem Served.of {s t : State} (h : Inner s t) : Served s t := ⟨h.keeps, h.pending, h.locked⟩

theorem Served.setFramer {s t : State} (h : Inner s t) (p : Port) (f : Framer) : Served s (setFramer p f t) :=
  ⟨h.keeps.trans ⟨id, id, id, id, id, id, id⟩, h.pending, h.locked⟩

theorem Served.answer {s t : State} (h : Inner s t) (p : Port) (r : Reply) : Served s (answer p r t) := .setFramer h p _

/-- A row that steps on and keeps what every row keeps. -/
def Serves (s : State) (r : Res) : Prop := ∃ t, r = .next t ∧ Served s t

theorem Serves.stay (s : State) : Serves s (.next s) := ⟨s, rfl, .of (.ofMove (.refl s))⟩

theorem Serves.setFramer (p : Port) (f : Framer) (s : State) : Serves s (.next (setFramer p f s)) :=
  ⟨_, rfl, .setFramer (.ofMove (.refl s)) p f⟩

theorem seen_inner (i : Instr) (s : State) : Inner s (seen i s) := by
  cases i with
  | clearGuardLock | querySources => exact .ofRanges (by exact id)
  | _ => exact .ofMove (.refl s)

theorem seen_framers (i : Instr) (s : State) : (seen i s).framers = s.framers := (seen_inner i s).framers

theorem seen_guard (i : Instr) (s : State) : (seen i s).guard = s.guard := by cases i <;> rfl

/-- All that a command of the catalogue can do: a refusal with no data that leaves what it has seen, or a body that keeps the laws and
is answered DONE, ACCEPTED or with such a refusal (R182). -/
theorem exec_command {i : Instr} {p : Port} {cmd : Nat} (h : catalogue i = some (p, cmd)) (s : State) :
    ∃ r t, exec i s = .next (answer p r t) ∧ Inner s t
      ∧ (r.code = .done ∨ r.code = .accepted ∨ (r.data = [] ∧ t = seen i s)) := by
  obtain ⟨fits, body, hrun, hbody⟩ := exec_catalogue h
  rcases command_cases p cmd fits body (seen i s) with ⟨code, hrefused⟩ | htaken
  · exact ⟨refuse code, seen i s, (hrun s).trans (congrArg _ hrefused), seen_inner i s, .inr (.inr ⟨rfl, rfl⟩)⟩
  · exact ⟨_, _, (hrun s).trans (congrArg _ htaken), (seen_inner i s).trans (hbody _).inner (seen_guard i s), (hbody _).answered⟩

/-- A command outside its port's privilege is answered PRIVILEGE (R183). -/
theorem exec_privilege {i : Instr} {p : Port} {cmd : Nat} (h : catalogue i = some (p, cmd)) (hp : permitted p cmd = false)
    (s : State) : exec i s = .next (answer p (refuse .privilege) (seen i s)) := by
  obtain ⟨fits, body, hrun, -⟩ := exec_catalogue h
  rw [hrun, command_privilege hp]

theorem exec_command_serves {i : Instr} {p : Port} {cmd : Nat} (h : catalogue i = some (p, cmd)) (s : State) :
    Serves s (exec i s) := by
  obtain ⟨r, t, hrun, hinner, -⟩ := exec_command h s
  exact ⟨_, hrun, .answer hinner p r⟩

/-- A command's bytes are taken as a row of the catalogue, or refused. -/
def Taken (p : Port) (s : State) (r : Res) : Prop :=
  (∃ i cmd, catalogue i = some (p, cmd) ∧ r = exec i s) ∨ ∃ code, r = .next (answer p (refuse code) s)

theorem Taken.row {p : Port} (i : Instr) {cmd : Nat} (h : catalogue i = some (p, cmd)) (s : State) : Taken p s (exec i s) :=
  .inl ⟨i, cmd, h, rfl⟩

theorem Taken.unknown (p : Port) (s : State) : Taken p s (.next (answerUnknown p s)) := .inr ⟨.unknown, rfl⟩

theorem Taken.serves {p : Port} {s : State} {r : Res} (h : Taken p s r) : Serves s r := by
  rcases h with ⟨i, cmd, hrow, rfl⟩ | ⟨code, rfl⟩
  · exact exec_command_serves hrow s
  · exact .setFramer p _ s

theorem takeTimelineStore_taken (p : Port) (cmd : Nat) (l : List Byte) (s : State) : Taken p s (takeTimelineStore p cmd l s) := by
  unfold takeTimelineStore
  split
  · exact .row (.postTransport p _ _ _) rfl s
  · exact .row (.queryTimeline p) rfl s
  · exact .row (.setCoastLimit p _) rfl s
  · exact .row (.setReference p _) rfl s
  · exact .row (.setRate p _) rfl s
  · exact .row (.clearClockLost p) rfl s
  · exact .row (.queryClock p) rfl s
  · exact .row (.holdFrame p _) rfl s
  · exact .row (.releaseFrame p _) rfl s
  · exact .row (.readAudio p _ _ _ _) rfl s
  · exact .row (.setJogWindow p _) rfl s
  · exact .row (.writeFly p _ _ _) rfl s
  · exact .row (.writeFlyNext p _ _) rfl s
  · exact .row (.closeBank p _ _ _ _ _) rfl s
  · exact .row (.releaseBank p _) rfl s
  · exact .row (.queryBanks p) rfl s
  · exact .unknown p s

theorem takeCaptureStatus_taken (p : Port) (cmd : Nat) (l : List Byte) (s : State) : Taken p s (takeCaptureStatus p cmd l s) := by
  unfold takeCaptureStatus
  split
  · exact .row (.queryStatistics p) rfl s
  · exact .row (.clearStatistics p) rfl s
  · exact .row (.setConceal p _ _ _ _) rfl s
  · exact .row (.setMonitor p _) rfl s
  · exact .row (.setHeadGeometry p _ _) rfl s
  · exact .row (.setFaultLimit p _) rfl s
  · exact .row (.setManualPunch p _ _) rfl s
  · exact .row (.setAnalogPolicy p _ _) rfl s
  · exact .row (.writeGuardSpan p _ _ _) rfl s
  · exact .row (.eraseGuardSpan p _) rfl s
  · exact .row (.setGuardInvert p _) rfl s
  · exact .row (.setGuardLock p) rfl s
  · exact .row (.clearGuardLock p _) rfl s
  · exact .row (.querySources p _) rfl s
  · exact .unknown p s

theorem takeStop_taken (p : Port) (b : Byte) (s : State) : Taken p s (takeStop p b s) := by
  unfold takeStop
  split
  · exact .row (.stopProgramNow p) rfl s
  · exact .row (.stopProgramAtEnd p) rfl s
  · refine .inr ?_
    rcases command_cases p 0x54 false (fun t => (t, done)) s with ⟨code, hrefused⟩ | htaken
    · exact ⟨code, congrArg _ hrefused⟩
    · by_cases hp : permitted p 0x54 = true
      · exact ⟨.range, congrArg _ (command_range hp ..)⟩
      · exact ⟨.privilege, congrArg _ (command_privilege (by simpa using hp) ..)⟩

theorem takeEngineCue_taken (p : Port) (cmd : Nat) (l : List Byte) (s : State) : Taken p s (takeEngineCue p cmd l s) := by
  unfold takeEngineCue
  split
  · exact .row (.writeEntry p _ _) rfl s
  · exact .row (.eraseEntry p _) rfl s
  · exact .row (.readEntry p _ _) rfl s
  · exact .row (.startProgram p _ _ _) rfl s
  · exact takeStop_taken ..
  · exact .row (.punchIn p) rfl s
  · exact .row (.punchOut p) rfl s
  · exact .row (.queryProgram p) rfl s
  · exact .row (.readResult p _) rfl s
  · exact .row (.clearResults p) rfl s
  · exact .row (.setPreroll p _) rfl s
  · exact .row (.writeCue p _ _ _ _ _ _ _ _) rfl s
  · exact .row (.eraseCue p _) rfl s
  · exact .row (.armCue p _ _) rfl s
  · exact .row (.configurePunch p _ _ _ _ _ _) rfl s
  · exact .row (.armPunch p _ _) rfl s
  · exact .row (.clearPunch p _) rfl s
  · exact .row (.queryPunch p) rfl s
  · exact .unknown p s

theorem takeNotice_taken (p : Port) (cmd : Nat) (l : List Byte) (s : State) : Taken p s (takeNotice p cmd l s) := by
  unfold takeNotice
  split
  · exact .row (.collectNotice p) rfl s
  · exact .row (.setRoute p _ _) rfl s
  · exact .row (.setAttention p _) rfl s
  · exact .row (.setExpiry p _) rfl s
  · exact .row (.resetPort p) rfl s
  · exact .row (.resetDevice p) rfl s
  · exact .unknown p s

theorem takeCommand_taken (p : Port) (cmd : Nat) (l : List Byte) (s : State) : Taken p s (takeCommand p cmd l s) := by
  unfold takeCommand
  split
  · exact takeTimelineStore_taken ..
  · split
    · exact takeCaptureStatus_taken ..
    · split
      · exact takeEngineCue_taken ..
      · exact takeNotice_taken ..

theorem byteCompletion_serves (p : Port) (b : Byte) (s : State) : Serves s (exec (.byteCompletion p b) s) := by
  show Serves s (execByteCompletion p b s)
  unfold execByteCompletion
  split
  · exact .stay s
  · exact .stay s
  · unfold commandByte
    split
    · exact .setFramer p _ s
    · split
      · exact (takeCommand_taken ..).serves
      · exact .setFramer p _ s
  · unfold parameterByte
    split
    · exact (takeCommand_taken ..).serves
    · exact .setFramer p _ s
  · exact .stay s
  · exact .setFramer p _ s

/-- Every row but power-on steps on and keeps the laws, the queue and, under the Guard Lock, the guard table (R129, R182). -/
theorem exec_serves {i : Instr} (hi : i ≠ .powerOnReset) (s : State) : Serves s (exec i s) := by
  cases hrow : catalogue i with
  | some x => exact exec_command_serves hrow s
  | none =>
    by_cases hevent : isEvent i = true
    · obtain ⟨t, hrun, hmove⟩ := exec_event hevent s
      exact ⟨t, hrun, .of (.ofMove hmove)⟩
    · cases i with
      | powerOnReset => exact absurd rfl hi
      | selectFall p =>
        show Serves s (.next (if _ then _ else _))
        split
        · exact .setFramer p _ s
        · exact .stay s
      | selectRise p => exact .setFramer p _ s
      | unknownCommand p b =>
        show Serves s (.next (if _ then _ else _))
        split
        · exact .stay s
        · exact .setFramer p _ s
      | byteCompletion p b => exact byteCompletion_serves p b s
      | _ => first | exact absurd rfl hevent | exact nomatch hrow

/-- Every row steps on, keeps the laws and leaves the queue. -/
theorem exec_keeps (i : Instr) (s : State) : ∃ t, exec i s = .next t ∧ Keeps s t ∧ t.pending = s.pending := by
  by_cases hi : i = .powerOnReset
  · subst hi
    exact ⟨_, rfl, powerOn_keeps s, rfl⟩
  · obtain ⟨t, hrun, hserved⟩ := exec_serves hi s
    exact ⟨t, hrun, hserved.keeps, hserved.pending⟩

/-- Every step keeps every law. -/
theorem step_keeps {s t : State} (h : step s = .next t) : Keeps s t := by
  cases hpending : s.pending with
  | nil =>
    have hidle : step s = .next s := by simp only [step, hpending]
    rw [Host.Outcome.next.inj (h.symm.trans hidle)]
    exact .refl s
  | cons i rest =>
    obtain ⟨u, hrun, hkeeps, -⟩ := exec_keeps i { s with pending := rest }
    have htaken : step s = .next u := by simp only [step, hpending, hrun]
    rw [Host.Outcome.next.inj (h.symm.trans htaken)]
    exact ⟨hkeeps.notices, hkeeps.tl, hkeeps.gate, hkeeps.banks, hkeeps.eng, hkeeps.buffers, hkeeps.ranges⟩

/-! ### The obligations -/

/-- Settles O1. -/
theorem stepRunsTheFrontOfTheQueue : Obligations.StepRunsTheFrontOfTheQueue := fun _ _ _ => rfl

/-- Settles O2: `exec_keeps`, and the empty queue. -/
theorem everyStepAnswersANextState : Obligations.EveryStepAnswersANextState := by
  refine ⟨fun i s => ?_, fun s hidle => ?_⟩
  · obtain ⟨t, hrun, -, hpending⟩ := exec_keeps i s
    exact ⟨t, hrun, hpending⟩
  · simp only [step, hidle]

/-- Settles O9: every command is `command` with a body that answers DONE or ACCEPTED or refuses and stays (`exec_command`). -/
theorem privilegeAndRefusals : Obligations.PrivilegeAndRefusals := by
  refine ⟨⟨fun i p cmd s hrow hp => exec_privilege hrow hp s, permitted_deck, fun cmd => ?_, fun cmd => ?_⟩, fun i p cmd s hrow => ?_⟩
  · simp only [permitted, studioBarred, Bool.not_eq_false', List.contains_iff_mem, List.mem_cons, List.not_mem_nil, or_false]
    tauto
  · simp only [permitted, transportAllowed, List.contains_iff_mem]
  · obtain ⟨r, t, hrun, hinner, hanswered⟩ := exec_command hrow s
    exact ⟨r, t, hrun, hinner.framers, hanswered⟩

/-- Settles O53. -/
theorem stepsKeepTheNoticeLaws : Obligations.StepsKeepTheNoticeLaws := fun _ _ hlaw hstep => (step_keeps hstep).notices hlaw

/-- Settles O54. -/
theorem stepsKeepTheTimelineLaws : Obligations.StepsKeepTheTimelineLaws := fun _ _ hlaw hstep => (step_keeps hstep).tl hlaw

/-- Settles O57. -/
theorem stepsKeepTheBuffersCanonical : Obligations.StepsKeepTheBuffersCanonical :=
  fun _ _ hlaw hstep => (step_keeps hstep).buffers hlaw

/-- Settles O58. -/
theorem stepsKeepTheSettingsInRange : Obligations.StepsKeepTheSettingsInRange :=
  fun _ _ hlaw hstep => (step_keeps hstep).ranges hlaw

/-- Settles O59. -/
theorem lawsHoldAtReset : Obligations.LawsHoldAtReset :=
  ⟨noticesOk_reset, tl_ok_reset, gateOk_reset, banks_ok_reset, eng_ok_reset, buffersWf_reset, settingsInRange_reset⟩

/-- Settles O60: events are moves, and every other row but power-on keeps a locked guard table. -/
theorem onlyCommandsChangeSettings : Obligations.OnlyCommandsChangeSettings := by
  refine ⟨fun i s hevent => ?_, fun i s hlock hi => ?_⟩
  · obtain ⟨t, hrun, hmove⟩ := exec_event hevent s
    exact ⟨t, hrun, hmove.settings⟩
  · obtain ⟨t, hrun, hserved⟩ := exec_serves hi s
    exact ⟨t, hrun, hserved.locked hlock⟩

end Sys2Proof.StepLaws
end

section
/-! SUPPORT. The gate's law read off, the schedule request, and what the end of a splice and of a pass does (R100, R101, R146, R154, R159). -/

namespace Sys2Proof.SpliceEnds

open Sys2Proof.Machine Sys2Proof.StepLaws

/-! ### Notices and the engine's state -/

/-- What is posted depends on the routes and the queues alone. -/
theorem post_notices_congr {s t : State} (hroutes : t.routes = s.routes) (hnotices : t.notices = s.notices) (k : NoticeKind) (n : Nat)
    (a : Option Nat) (c : Option Result) : (post k n a c t).notices = (post k n a c s).notices := by
  unfold post
  rw [hroutes, hnotices]

/-- A change of the engine's state posts PROGRAM_STATE and changes nothing else. -/
theorem setEng_changed {s : State} {st : EngState} (h : s.eng.state ≠ st) :
    setEng st s = { s with eng := { s.eng with state := st }, notices := (post .programState (engSubject st) none none s).notices } := by
  unfold setEng
  rw [if_neg h]
  rfl

theorem setEng_frame (st : EngState) (s : State) :
    setEng st s = { s with eng := { s.eng with state := st }, notices := (setEng st s).notices } := by
  unfold setEng
  split
  · rename_i h
    subst h
    rfl
  · rfl

theorem isSome_pendingEntry_iff (s : State) : hasPending s = true ↔ ∃ k, (pendingEntry s k).isSome = true := by
  unfold hasPending firstPending
  simp [List.findSome?_isSome_iff, placeIds]

/-! ### Results (R159) -/

/-- The engine's record with a result added. -/
def withResult (r : SpliceResult) (e : Engine) : Engine := { e with
  results := (if e.results.length < 16 then e.results else e.results.drop 1) ++ [r]
  resultsLost := if e.results.length < 16 then e.resultsLost else min 65535 (e.resultsLost + 1) }

/-- SPLICE_ENDED for a result that is to be notified. -/
def ended (r : SpliceResult) (notify : Bool) (a : Option Nat) (s : State) : PerPort NoticePort :=
  if notify then (post .spliceEnded r.tag.index (if r.actualOut.isSome then r.actualOut.map (·.addr) else a) none s).notices
  else s.notices

theorem addResult_eq (r : SpliceResult) (notify : Bool) (a : Option Nat) (s : State) :
    addResult r notify a s = { s with eng := withResult r s.eng, notices := ended r notify a s } := by
  unfold addResult withResult ended
  by_cases hroom : s.eng.results.length < 16
  · have hfull : ¬16 ≤ s.eng.results.length := Nat.not_le.mpr hroom
    cases notify <;> cases hout : r.actualOut <;> simp [hroom, hfull] <;> rfl
  · have hfull : 16 ≤ s.eng.results.length := Nat.not_lt.mp hroom
    cases notify <;> cases hout : r.actualOut <;> simp [hroom, hfull, saturate] <;> rfl

theorem getLast?_withResult (r : SpliceResult) (e : Engine) : (withResult r e).results.getLast? = some r := by
  simp [withResult]

/-! ### The end of a splice (R146) -/

theorem spendPlaying_frame (s : State) : ∃ b, spendPlaying s = { s with banks := b } := by
  unfold spendPlaying
  split <;> exact ⟨_, rfl⟩

theorem spendFor_frame (tag : SpliceTag) (s : State) :
    ∃ b f, spendFor tag s = { s with banks := b, eng := { s.eng with bankFor := f } } := by
  unfold spendFor
  split
  · obtain ⟨b, hb⟩ := spendPlaying_frame { s with eng := { s.eng with bankFor := none } }
    exact ⟨b, none, hb⟩
  · exact ⟨_, _, rfl⟩

theorem nameSource_frame (src : Source) (s : State) : ∃ k, nameSource src s = { s with intake := k } := by
  unfold nameSource
  dsimp only
  split_ifs <;> exact ⟨_, rfl⟩

theorem nameAfter_frame (s : State) : ∃ k, nameAfter s = { s with intake := k } := by
  unfold nameAfter
  split
  · exact nameSource_frame ..
  · exact ⟨_, rfl⟩

theorem endOverride_frame (sp : Splice) (s : State) : ∃ b, endOverride sp s = { s with mon := { s.mon with override := b } } := by
  unfold endOverride
  split <;> exact ⟨_, rfl⟩

/-- The timeline after a splice has ended: a lay that is still LAYING is left (R17, R158). -/
def laidOff (sp : Splice) (t : Timeline) (d : Nat) : Timeline :=
  if sp.lay = true ∧ t.state = .laying then leaveLaying t d else t

theorem endLayOf_eq (sp : Splice) (s : State) : endLayOf sp s = { s with tl := laidOff sp s.tl s.geo.d } := by
  unfold endLayOf endLay laidOff
  cases sp.lay
  · rfl
  · by_cases h : s.tl.state = .laying <;> simp [h]

theorem closeEntry_frame (sp : Splice) (o : Outcome) (s : State) :
    ∃ f, closeEntry sp o s = { s with fresh := f, eng := { s.eng with active := (closeEntry sp o s).eng.active } } := by
  unfold closeEntry
  split <;> exact ⟨_, rfl⟩

theorem setEntryState_get_same {s : State} {i : Fin 16} {b : ActiveEntry} (hb : s.eng.active[i] = some b) (st : EntryState) :
    (setEntryState i st s).eng.active[i] = some { b with state := st } := by
  have hset : (setEntryState i st s).eng.active[i] = (s.eng.active[i]).map fun a => { a with state := st } :=
    Vector.getElem_set_self i.isLt
  rw [hset, hb]
  rfl

/-- The state in which the result of an ended splice is added. -/
def released (sp : Splice) (o : Outcome) (s : State) : State :=
  endLayOf sp (endOverride sp (nameAfter (spendFor sp.tag (closeEntry sp o { s with eng := { s.eng with splice := none } }))))

theorem endSplice_eq {s : State} {sp : Splice} (h : s.eng.splice = some sp) (o : Outcome) (r : Option Reason) (out : Option Point)
    (atIn : Bool) : endSplice o r out atIn s = addResult (spliceResult sp o r out atIn s) sp.notify
      (endAddress sp (spliceResult sp o r out atIn s).actualIn) (released sp o s) := by
  unfold endSplice released
  rw [h]

/-- What the end of a splice touches before its result is added. -/
theorem released_frame (sp : Splice) (o : Outcome) (s : State) : ∃ f b k v x, released sp o s = { s with
    fresh := f, banks := b, intake := k, mon := { s.mon with override := v }, tl := laidOff sp s.tl s.geo.d
    eng := { s.eng with splice := none, bankFor := x, active := (closeEntry sp o s).eng.active } } := by
  have hactive : (closeEntry sp o { s with eng := { s.eng with splice := none } }).eng.active = (closeEntry sp o s).eng.active := by
    unfold closeEntry
    split <;> rfl
  unfold released
  obtain ⟨f, hclosed⟩ := closeEntry_frame sp o { s with eng := { s.eng with splice := none } }
  rw [hclosed, hactive]
  obtain ⟨b, x, hspent⟩ := spendFor_frame sp.tag { s with
    fresh := f, eng := { s.eng with splice := none, active := (closeEntry sp o s).eng.active } }
  rw [hspent]
  obtain ⟨k, hnamed⟩ := nameAfter_frame { s with
    fresh := f, banks := b, eng := { s.eng with splice := none, active := (closeEntry sp o s).eng.active, bankFor := x } }
  rw [hnamed]
  obtain ⟨v, hover⟩ := endOverride_frame sp { s with
    fresh := f, banks := b, intake := k
    eng := { s.eng with splice := none, active := (closeEntry sp o s).eng.active, bankFor := x } }
  rw [hover, endLayOf_eq]
  exact ⟨f, b, k, v, x, rfl⟩

theorem ended_congr {s t : State} (hroutes : t.routes = s.routes) (hnotices : t.notices = s.notices) (r : SpliceResult)
    (notify : Bool) (a : Option Nat) : ended r notify a t = ended r notify a s := by
  unfold ended
  rw [post_notices_congr hroutes hnotices, hnotices]

/-- All that the end of a splice does (R141, R146, R153, R158). -/
theorem endSplice_frame {s : State} {sp : Splice} (h : s.eng.splice = some sp) (o : Outcome) (r : Option Reason) (out : Option Point)
    (atIn : Bool) : let x := spliceResult sp o r out atIn s
    ∃ f b k v bank, endSplice o r out atIn s = { s with
      fresh := f, banks := b, intake := k, mon := { s.mon with override := v }, tl := laidOff sp s.tl s.geo.d
      notices := ended x sp.notify (endAddress sp x.actualIn) s
      eng := withResult x { s.eng with splice := none, bankFor := bank, active := (closeEntry sp o s).eng.active } } := by
  intro x
  obtain ⟨f, b, k, v, bank, hreleased⟩ := released_frame sp o s
  refine ⟨f, b, k, v, bank, ?_⟩
  rw [endSplice_eq h, addResult_eq, ended_congr (s := s) (by rw [hreleased]) (by rw [hreleased]), hreleased]

theorem endSplice_state {s : State} {sp : Splice} (h : s.eng.splice = some sp) (o : Outcome) (r : Option Reason) (out : Option Point)
    (atIn : Bool) : (endSplice o r out atIn s).eng.state = s.eng.state := by
  obtain ⟨f, b, k, v, bank, hend⟩ := endSplice_frame h o r out atIn
  rw [hend]
  rfl

theorem endSplice_getLast {s : State} {sp : Splice} (h : s.eng.splice = some sp) (o : Outcome) (r : Option Reason)
    (out : Option Point) (atIn : Bool) :
    (endSplice o r out atIn s).eng.results.getLast? = some (spliceResult sp o r out atIn s) := by
  obtain ⟨f, b, k, v, bank, hend⟩ := endSplice_frame h o r out atIn
  rw [hend]
  exact getLast?_withResult ..

/-! ### How the engine goes on (R146, R154) -/

theorem finishSplice_eq {s : State} {sp : Splice} (h : s.eng.splice = some sp) (o : Outcome) (r : Option Reason) (out : Option Point)
    (atIn : Bool) : finishSplice o r out atIn s = afterSplice sp.index.isNone sp.lay (endSplice o r out atIn s) := by
  unfold finishSplice
  rw [h]

theorem afterSplice_punch (lay : Bool) (s : State) : afterSplice true lay s = s := rfl

theorem afterSplice_finishing {s : State} (h : s.eng.state = .finishing) (lay : Bool) :
    afterSplice false lay s = setEng .done s := by simp [afterSplice, h]

theorem afterSplice_pending {s : State} (h : s.eng.state ≠ .finishing) (hpending : hasPending s = true) (lay : Bool) :
    afterSplice false lay s = setEng (if lay then .held else .waiting) s := by simp [afterSplice, h, hpending]

theorem afterSplice_last {s : State} (h : s.eng.state ≠ .finishing) (hpending : hasPending s = false) (lay : Bool) :
    afterSplice false lay s = endPass s := by simp [afterSplice, h, hpending]

theorem completeSplice_eq {s : State} {sp : Splice} (h : s.eng.splice = some sp) : completeSplice s =
    finishSplice (sp.reason.elim .done Prod.fst) (sp.reason.bind Prod.snd) (if sp.early.isSome then sp.early else sp.outPoint) false s := by
  unfold completeSplice
  rw [h]
  cases hearly : sp.early <;> cases hreason : sp.reason <;> simp only [hearly, hreason] <;> rfl

theorem setEng_results (st : EngState) (s : State) : (setEng st s).eng.results = s.eng.results := by rw [setEng_frame]

theorem endPass_results (s : State) : (endPass s).eng.results = s.eng.results := by
  unfold endPass
  split <;> exact setEng_results ..

theorem afterSplice_results (punch lay : Bool) (s : State) : (afterSplice punch lay s).eng.results = s.eng.results := by
  unfold afterSplice
  split
  · rfl
  · split
    · exact setEng_results ..
    · split
      · exact setEng_results ..
      · exact endPass_results s

theorem finishSplice_getLast {s : State} {sp : Splice} (h : s.eng.splice = some sp) (o : Outcome) (r : Option Reason)
    (out : Option Point) (atIn : Bool) :
    (finishSplice o r out atIn s).eng.results.getLast? = some (spliceResult sp o r out atIn s) := by
  rw [finishSplice_eq h, afterSplice_results]
  exact endSplice_getLast h ..

/-- A pass that is not the last of a rehearsal's: every entry is PENDING again, and the engine is ARMED for the next (R154). -/
theorem endPass_again {s : State} (h : s.eng.mode = some .rehearse ∧ s.eng.pass < s.eng.passes.getD 1)
    (hstate : s.eng.state ≠ .armed) : endPass s = { s with
      notices := (post .programState 1 none none (post .passEnd s.eng.pass (some (locateTarget s)) none s)).notices
      eng := { s.eng with
        state := .armed, active := mapPlaces (fun o => o.map fun a => { a with state := .pending }) s.eng.active
        pass := s.eng.pass + 1, locate := locateTarget s, prepared := [] } } := by
  have hrehearsing : rehearsing s = true := by simp [rehearsing, h.1]
  unfold endPass
  rw [if_pos ⟨hrehearsing, h.2⟩]
  exact setEng_changed hstate

/-- Every other pass ends the run. -/
theorem endPass_last {s : State} (h : ¬(s.eng.mode = some .rehearse ∧ s.eng.pass < s.eng.passes.getD 1)) :
    endPass s = setEng .done s := by
  unfold endPass
  rw [if_neg]
  simpa [rehearsing] using h

theorem locateTarget_eq {s : State} {e : ActiveEntry} (h : s.eng.active[(0 : Fin 16)] = some e) :
    locateTarget s = e.entry.inPoint.addr - s.eng.preroll := by
  unfold locateTarget
  rw [h]

/-! ### The obligations -/

/-- A schedule's refusals, in the order of the rule's list (R101). -/
theorem schedule_cases (s : State) (tag : SpliceTag) (first : Option Nat) :
    let placed := s.tl.state = .locked ∨ s.tl.state = .coasting ∨ s.tl.state = .laying
    (s.gate.state ≠ .closed → schedule tag first s = (some .busy, s))
    ∧ (s.gate.state = .closed → s.tl.mode ≠ .play → schedule tag first s = (some .transport, s))
    ∧ (s.gate.state = .closed → s.tl.mode = .play → s.clock.lost = true → schedule tag first s = (some .clock, s))
    ∧ (s.gate.state = .closed → s.tl.mode = .play → s.clock.lost = false → ¬placed → schedule tag first s = (some .lock, s))
    ∧ (s.gate.state = .closed → s.tl.mode = .play → s.clock.lost = false → placed → schedule tag first s = (none, { s with gate :=
        { s.gate with state := .scheduled, holder := some tag, first := first, opening := (s.gate.opening + 1) % 65536, run := 0 } })) := by
  have hplaced : s.tl.state.hasLock = true ↔ s.tl.state = .locked ∨ s.tl.state = .coasting ∨ s.tl.state = .laying := by
    cases s.tl.state <;> decide
  refine ⟨fun hgate => ?_, fun hgate hmode => ?_, fun hgate hmode hlost => ?_, fun hgate hmode hlost hlock => ?_,
    fun hgate hmode hlost hlock => ?_⟩
  · simp [schedule, scheduleRefusal, hgate]
  · simp [schedule, scheduleRefusal, hgate, hmode]
  · simp [schedule, scheduleRefusal, hgate, hmode, hlost]
  · rw [← hplaced, Bool.not_eq_true] at hlock
    simp [schedule, scheduleRefusal, hgate, hmode, hlost, hlock]
  · rw [← hplaced] at hlock
    simp [schedule, scheduleRefusal, hgate, hmode, hlost, hlock]

/-- Settles O55: the law by `step_keeps`, the refusals by `schedule_cases`. -/
theorem stepsKeepTheGateLaw : Obligations.StepsKeepTheGateLaw := by
  refine ⟨fun s t hlaw hstep => (step_keeps hstep).gate hlaw, fun s ⟨hwrite, hguard⟩ => ?_, schedule_cases⟩
  have henable : writeEnable s = true ↔ s.gate.state = .opened ∨ s.gate.state = .last := by simp [writeEnable]
  rw [henable, ← hwrite, Option.isSome_iff_exists]
  exact exists_congr fun w => ⟨fun hw => ⟨hw, hguard w hw⟩, fun hw => hw.1⟩

theorem setEng_goes {s : State} {st : EngState} (h : s.eng.state ≠ st) :
    (setEng st s).eng = { s.eng with state := st }
      ∧ (setEng st s).notices = (post .programState (engSubject st) none none s).notices := by
  rw [setEng_changed h]
  exact ⟨rfl, rfl⟩

/-- What the end of a splice reports and leaves (R146, R159). -/
theorem endSplice_report {s : State} {sp : Splice} (h : s.eng.splice = some sp) (o : Outcome) (r : Option Reason) (out : Option Point)
    (atIn : Bool) : let t := endSplice o r out atIn s
    let from' := if atIn then none else sp.actualIn
    let upto := if atIn then none else out
    t.notices = (if sp.notify then (post .spliceEnded sp.tag.index (match upto, from', sp.inFrame with
        | some q, _, _ => some q.addr
        | none, some q, _ => some q.addr
        | none, none, some a => some a
        | none, none, none => sp.start.map (·.addr)) none s).notices else s.notices)
    ∧ t.gate = s.gate ∧ t.slots = s.slots ∧ t.tl = laidOff sp s.tl s.geo.d ∧ t.eng.splice = none
    ∧ ∀ i b, sp.index = some i → s.eng.active[i] = some b → t.eng.active[i] = some { b with state := .ended o } := by
  intro t from' upto
  obtain ⟨f, b, k, v, bank, hend⟩ := endSplice_frame h o r out atIn
  have ht : t = endSplice o r out atIn s := rfl
  rw [ht, hend]
  refine ⟨?_, rfl, rfl, rfl, rfl, fun i b hi hb => ?_⟩
  · show ended _ _ _ s = _
    have haddr : (if upto.isSome then upto.map (·.addr) else endAddress sp from') = (match upto, from', sp.inFrame with
        | some q, _, _ => some q.addr
        | none, some q, _ => some q.addr
        | none, none, some a => some a
        | none, none, none => sp.start.map (·.addr)) := by
      unfold endAddress
      cases upto <;> cases from' <;> cases sp.inFrame <;> rfl
    exact congrArg (fun a => if sp.notify then (post .spliceEnded sp.tag.index a none s).notices else s.notices) haddr
  · show (closeEntry sp o s).eng.active[i] = _
    unfold closeEntry
    rw [hi]
    exact setEntryState_get_same hb _

/-- Settles O56: the laws by `step_keeps`, the rest by what `addResult`, `endSplice`, `afterSplice` and `endPass` do. -/
theorem stepsKeepTheBankAndEngineLaws : Obligations.StepsKeepTheBankAndEngineLaws := by
  refine ⟨fun s t hlaw hstep => (step_keeps hstep).banks hlaw, fun s t hlaw hstep => (step_keeps hstep).eng hlaw,
    fun r notify a s => ?result, fun o r out atIn s sp hsplice => ?ended, fun o r out atIn s sp hsplice => ?finished,
    fun s e hentry hstate => ?pass, fun s sp hsplice => ?completed⟩
  case result =>
    intro t n
    have ht : t = addResult r notify a s := rfl
    have hn : n = r.tag.index := by cases h : r.tag <;> simp only [n, h] <;> rfl
    rw [ht, hn, addResult_eq]
    exact ⟨rfl, rfl, rfl⟩
  case ended =>
    obtain ⟨hnotices, hgate, hslots, htl, hnone, hactive⟩ := endSplice_report hsplice o r out atIn
    refine ⟨hnone, ⟨_, endSplice_getLast hsplice .., rfl, rfl, rfl, rfl, rfl, rfl, rfl, rfl, rfl, rfl, rfl, rfl, fun k pass i htag => ?_⟩,
      hactive, hnotices, hgate, hslots, htl.trans ?_⟩
    · show sp.tag.run s.fresh = k
      rw [htag]
      rfl
    · unfold laidOff leaveLaying
      congr 1
      cases s.tl.handed with
      | none => rfl
      | some h => by_cases hlegal : h + s.geo.d - 2 < 2592000 <;> simp [legalAddr, Config.addrCount, hlegal]
  case finished =>
    intro u t goes
    have hstate : u.eng.state = s.eng.state := endSplice_state hsplice ..
    have hgoes : ∀ st, t = setEng st u → u.eng.state ≠ st → goes st (engSubject st) := fun st ht hne => by
      have hset := setEng_goes hne
      rw [← ht] at hset
      exact hset
    have hentry : sp.index.isSome = true → t = afterSplice false sp.lay u := fun hindex => by
      have ht : t = afterSplice sp.index.isNone sp.lay u := finishSplice_eq hsplice ..
      rwa [Option.isNone_eq_false_iff.mpr hindex] at ht
    refine ⟨fun hindex => ?_, fun hindex hfinishing => ?_, fun hindex hsplicing hpending => ?_, fun hindex hsplicing hpending => ?_⟩
    · have ht : t = afterSplice sp.index.isNone sp.lay u := finishSplice_eq hsplice ..
      rwa [hindex] at ht
    · exact hgoes .done ((hentry hindex).trans (afterSplice_finishing (hstate.trans hfinishing) _)) (by rw [hstate, hfinishing]; nofun)
    · have ht := (hentry hindex).trans
        (afterSplice_pending (by rw [hstate, hsplicing]; nofun) ((isSome_pendingEntry_iff u).mpr hpending) _)
      split
      · rename_i hlay
        rw [if_pos hlay] at ht
        exact hgoes .held ht (by rw [hstate, hsplicing]; nofun)
      · rename_i hlay
        rw [if_neg hlay] at ht
        exact hgoes .waiting ht (by rw [hstate, hsplicing]; nofun)
    · have hnone : hasPending u = false := by
        rw [← Bool.not_eq_true, isSome_pendingEntry_iff]
        rintro ⟨k, hk⟩
        rw [hpending k] at hk
        exact nomatch hk
      exact (hentry hindex).trans (afterSplice_last (by rw [hstate, hsplicing]; nofun) hnone _)
  case pass =>
    intro t target again
    have hrunning : ∀ st, st ≠ .waiting → st ≠ .splicing → s.eng.state ≠ st := fun st hw hs h =>
      hstate.elim (fun hst => hw (h.symm.trans hst)) (fun hst => hs (h.symm.trans hst))
    refine ⟨fun hagain => ?_, fun hlast => ?_⟩
    · have ht : t = endPass s := rfl
      have htarget : locateTarget s = target := locateTarget_eq hentry
      rw [ht, endPass_again hagain (hrunning _ nofun nofun), htarget]
      exact ⟨rfl, fun k => mapPlaces_get .., rfl⟩
    · have ht : t = setEng .done s := endPass_last hlast
      rw [ht]
      exact setEng_goes (hrunning _ nofun nofun)
  case completed =>
    rw [completeSplice_eq hsplice]
    cases hreason : sp.reason with
    | none =>
      exact ⟨_, finishSplice_getLast hsplice .., rfl, rfl, fun _ => ⟨rfl, rfl⟩, nofun⟩
    | some x =>
      obtain ⟨o, r⟩ := x
      refine ⟨_, finishSplice_getLast hsplice .., rfl, rfl, nofun, fun o' r' h => ?_⟩
      obtain ⟨rfl, rfl⟩ := Prod.mk.inj (Option.some.inj h)
      exact ⟨rfl, rfl⟩

end Sys2Proof.SpliceEnds
end

section
/-! SUPPORT. The ports: the reset values, the framers, the bytes of a transaction and the rows they spell (R178 to R182). -/

namespace Sys2Proof.PortBytes

open Sys2Proof.Machine Sys2Proof.StepLaws

/-! ### The reset values -/

theorem reset_slot (i : SlotId) : State.reset.slots[i] = Slot.reset := Vector.getElem_replicate _

theorem reset_place (i : Fin 8) : State.reset.guard.places[i] = none := Vector.getElem_replicate _

theorem reset_draft (i : Fin 16) : State.reset.eng.draft[i] = none := Vector.getElem_replicate _

theorem reset_active (i : Fin 16) : State.reset.eng.active[i] = none := Vector.getElem_replicate _

theorem reset_cue (i : Fin 24) : State.reset.cues[i] = Cue.reset := Vector.getElem_replicate _

/-- The routes at reset, kind by kind (R197). -/
def routeTable : List (NoticeKind × PerPort Bool) := [(.cueFired, ⟨true, false, true⟩), (.punchDetected, ⟨true, false, false⟩),
  (.spliceEnded, ⟨true, false, true⟩), (.programState, ⟨true, true, true⟩), (.locateRequest, ⟨false, true, false⟩),
  (.passEnd, ⟨false, true, false⟩), (.flySwitch, ⟨false, false, true⟩), (.flyStarved, ⟨true, false, true⟩),
  (.writeFault, ⟨true, false, false⟩), (.dropout, ⟨true, false, false⟩), (.lockChange, ⟨true, true, false⟩),
  (.clockLost, ⟨true, false, false⟩), (.sourceStatus, ⟨true, false, false⟩), (.recordRefused, ⟨true, false, true⟩),
  (.storeOverrun, ⟨true, false, false⟩), (.intakeSlip, ⟨true, false, false⟩)]

theorem routes_reset : ∀ x ∈ routeTable, State.reset.routes[kindIndex x.1] = x.2 := by decide

/-- Settles O3: each block's reset values, read off. -/
theorem resetLeavesTheGivenValues : Obligations.ResetLeavesTheGivenValues := by
  refine ⟨⟨rfl, rfl⟩, rfl, ⟨reset_slot, rfl, rfl, rfl⟩, fun n => ?banks, fun ch => ?channels, ⟨fun c hc => ?conceal, rfl, rfl, rfl⟩,
    ⟨rfl, rfl⟩, ⟨rfl, rfl, rfl, rfl, rfl, rfl⟩, ⟨rfl, rfl, rfl, fun i hi => ?sources⟩, ⟨reset_place, rfl, rfl⟩,
    ⟨fun i => ⟨reset_draft i, reset_active i⟩, rfl⟩, reset_cue, fun l => ?punches, fun p => ?ports, rfl, rfl, fun k r hk => ?routes⟩
  case banks => cases n <;> exact ⟨rfl, fun _ => rfl⟩
  case channels => cases ch <;> exact ⟨rfl, rfl⟩
  case conceal => rcases hc with rfl | rfl <;> rfl
  case sources =>
    cases i with
    | analog => exact absurd rfl hi
    | digital | fly0 | fly1 => rfl
  case punches => cases l <;> rfl
  case ports => cases p <;> exact ⟨rfl, rfl, rfl⟩
  case routes => exact routes_reset (k, r) hk

/-! ### The bytes of a transaction (R181) -/

/-- The commands with a fixed number of parameter bytes, and that number. -/
def fixedCounts : List (Nat × Nat) := [(0x10, 3), (0x11, 0), (0x12, 1), (0x14, 1), (0x15, 1), (0x16, 0), (0x17, 0), (0x20, 3), (0x21, 3),
  (0x22, 7), (0x23, 1), (0x26, 6), (0x27, 1), (0x28, 0), (0x30, 0), (0x31, 0), (0x32, 5), (0x33, 1), (0x34, 2), (0x35, 1), (0x36, 3),
  (0x40, 2), (0x41, 7), (0x42, 1), (0x43, 1), (0x44, 0), (0x45, 0), (0x46, 0), (0x50, 26), (0x51, 1), (0x52, 2), (0x53, 4), (0x54, 1),
  (0x55, 0), (0x56, 0), (0x57, 0), (0x58, 1), (0x59, 0), (0x5A, 2), (0x60, 8), (0x61, 1), (0x62, 2), (0x63, 6), (0x64, 2), (0x65, 1),
  (0x66, 0), (0x70, 0), (0x71, 2), (0x72, 1), (0x73, 1), (0x7E, 0), (0x7F, 0)]

theorem fixedParams_of_mem : ∀ x ∈ fixedCounts, fixedParams x.1 = some x.2 := by decide

theorem mem_of_fixedParams {c n : Nat} (h : fixedParams c = some n) : (c, n) ∈ fixedCounts := by
  unfold fixedParams at h
  split at h
  case h_53 => exact nomatch h
  all_goals
    obtain rfl := Option.some.inj h
    decide

theorem isSome_fixedParams_iff (c : Nat) : (fixedParams c).isSome = true ↔ ∃ n, (c, n) ∈ fixedCounts := by
  rw [Option.isSome_iff_exists]
  exact exists_congr fun n => ⟨mem_of_fixedParams, fixedParams_of_mem (c, n)⟩

theorem isSome_variableFixed_iff (c : Nat) : (variableFixed c).isSome = true ↔ c = 0x24 ∨ c = 0x25 := by
  unfold variableFixed
  split
  · simp
  · simp
  · rename_i h24 h25
    exact iff_of_false nofun (not_or.mpr ⟨h24, h25⟩)

theorem known_iff (b : Byte) : known b = true ↔ b.toNat = 0x24 ∨ b.toNat = 0x25 ∨ ∃ n, (b.toNat, n) ∈ fixedCounts := by
  rw [known, Bool.or_eq_true, isSome_fixedParams_iff, isSome_variableFixed_iff]
  tauto

theorem complete_fixed {c n : Nat} (h : (c, n) ∈ fixedCounts) (l : List Byte) : complete c l = true ↔ l.length = n := by
  have hfixed : fixedParams c = some n := fixedParams_of_mem (c, n) h
  simp [complete, hfixed]

theorem complete_variable {c n : Nat} (hfixed : fixedParams c = none) (hvariable : variableFixed c = some n) (l : List Byte) :
    complete c l = true ↔ ∃ k : Byte, l[n]? = some k ∧ l.length = n + 1 + 5 * k.toNat := by
  simp only [complete, hfixed, hvariable]
  cases l[n]? with
  | none => simp
  | some k => simp

/-- A write of no pair or of more than 64 is refused with RANGE (R40). -/
theorem writeBank_refused {pairs : List SamplePair} (h : pairs.length < 1 ∨ 64 < pairs.length) (n : BankId) (start : Nat) (s : State) :
    writeBank n start pairs s = (s, refuse .range) := if_pos (h.imp id .inl)

/-- Settles O7: an unknown byte's answer, and the byte counts by `known_iff` and `complete_fixed`. -/
theorem unknownCommandIsAnswered : Obligations.UnknownCommandIsAnswered := by
  refine ⟨fun p b s hunknown => ⟨?unknown, fun hframer => ?byte⟩, fun p b s => ⟨fun h => ?code, fun h => ?length, fun h => ?draining⟩,
    by decide, by decide, ⟨known_iff, fun c n hc l => complete_fixed hc l⟩,
    fun l => ⟨complete_variable rfl rfl l, complete_variable rfl rfl l⟩, fun p bank start pairs s hp hpairs => ?writes⟩
  case unknown =>
    show Host.Outcome.next (if known b then s else answerUnknown p s) = _
    rw [hunknown]
    rfl
  case byte =>
    show execByteCompletion p b s = execUnknownCommand p b s
    simp [execByteCompletion, hframer, commandByte, execUnknownCommand, hunknown]
  case code | length | draining =>
    show execByteCompletion p b s = _
    simp only [execByteCompletion, h, replyByte, setFramer]
  case writes =>
    have hwrite : permitted p 0x24 = true := CueCommands.permitted_of_not_barred hp (by decide)
    have hnext : permitted p 0x25 = true := CueCommands.permitted_of_not_barred hp (by decide)
    have hbody : ∀ t, writeFlyBody bank start.toNat pairs t = (t, refuse .range) := fun t => by
      unfold writeFlyBody
      split
      · rfl
      · exact writeBank_refused hpairs ..
    have hbodyNext : ∀ t, writeFlyNextBody bank pairs t = (t, refuse .range) := fun t => by
      unfold writeFlyNextBody
      split
      · rfl
      · exact writeBank_refused hpairs ..
    constructor
    · refine congrArg Host.Outcome.next ((command_permitted hwrite _ s).trans ?_)
      rw [hbody]
    · refine congrArg Host.Outcome.next ((command_permitted hnext _ s).trans ?_)
      rw [hbodyNext]

/-! ### The framers (R179) -/

/-- Settles O6. -/
theorem framersMove : Obligations.FramersMove := by
  refine ⟨fun p s => ⟨fun h => congrArg Host.Outcome.next (if_pos h), fun h => congrArg Host.Outcome.next (if_neg h), rfl⟩,
    fun p b s => ?bytes, fun p s => ?out⟩
  case bytes =>
    have hrun : exec (.byteCompletion p b) s = execByteCompletion p b s := rfl
    rw [hrun]
    unfold execByteCompletion
    refine ⟨fun h => ?_, fun h hknown => ?_, fun cmd l h => ?_, fun x y l h => ?_, fun x h => ?_⟩
    · rcases h with h | h <;> rw [h]
    · rw [h]
      show commandByte p b s = _
      unfold commandByte
      rw [if_neg (by rw [hknown]; nofun)]
      rfl
    · rw [h]
      rfl
    · rw [h]
      rfl
    · rw [h]
      rfl
  case out =>
    refine ⟨fun x l h => ?_, fun h => ?_, fun r q => ?_⟩
    · unfold dataOut
      rw [h]
    · unfold dataOut
      split
      · rename_i hreply
        exact absurd hreply (h _)
      · rfl
    · by_cases hq : p = q
      · subst hq
        rw [if_pos rfl]
        unfold dataOut
        rw [answer_framers, PerPort.get_set_same]
        simp [Reply.bytes, be]
      · rw [if_neg hq]
        unfold dataOut
        rw [answer_framers, PerPort.get_set_other _ _ hq]

/-! ### The rows that bytes spell (R182) -/

/-- The three bytes of a value, most significant first, are the value. -/
theorem bytes24_append (x : BitVec 24) : x.extractLsb' 16 8 ++ x.extractLsb' 8 8 ++ x.extractLsb' 0 8 = x := by
  rw [BitVec.extractLsb'_append_extractLsb'_eq_extractLsb' (start₁ := 8) (start₂ := 16) rfl,
    BitVec.extractLsb'_append_extractLsb'_eq_extractLsb' (start₁ := 0) (start₂ := 8) rfl]
  exact BitVec.extractLsb'_eq_self

theorem bytes16_append (x : BitVec 16) : x.extractLsb' 8 8 ++ x.extractLsb' 0 8 = x := by
  rw [BitVec.extractLsb'_append_extractLsb'_eq_extractLsb' (start₁ := 0) (start₂ := 8) rfl]
  exact BitVec.extractLsb'_eq_self

/-- The parameters of WRITE ENTRY read back as they were sent (R187). -/
theorem entryPars_rawEntryBytes (a : Byte) (x : RawEntry) : entryPars (a :: rawEntryBytes x) = x := by
  have hfields : entryPars (a :: rawEntryBytes x) = { x with
      inAddr := x.inAddr.extractLsb' 16 8 ++ x.inAddr.extractLsb' 8 8 ++ x.inAddr.extractLsb' 0 8
      inOffset := x.inOffset.extractLsb' 8 8 ++ x.inOffset.extractLsb' 0 8
      outAddr := x.outAddr.extractLsb' 16 8 ++ x.outAddr.extractLsb' 8 8 ++ x.outAddr.extractLsb' 0 8
      outOffset := x.outOffset.extractLsb' 8 8 ++ x.outOffset.extractLsb' 0 8
      fadeIn := x.fadeIn.extractLsb' 8 8 ++ x.fadeIn.extractLsb' 0 8
      fadeOut := x.fadeOut.extractLsb' 8 8 ++ x.fadeOut.extractLsb' 0 8 } := rfl
  rw [hfields]
  simp only [bytes24_append, bytes16_append]

/-- STOP PROGRAM with a code other than NOW and AT END is refused with RANGE (R187). -/
theorem takeStop_range {p : Port} (hp : permitted p 0x54 = true) {a : Byte} (ha : 2 ≤ a.toNat) (s : State) :
    takeStop p a s = .next (answer p (refuse .range) s) := by
  unfold takeStop
  split
  · omega
  · omega
  · exact congrArg _ (command_range hp ..)

/-- Settles O8: `takeCommand` runs the very meaning of each row. -/
theorem transactionsAreTheRows : Obligations.TransactionsAreTheRows := by
  refine ⟨fun p s a b c d e f g items => ?_, fun p s a b c d e f g => ?_, fun p s a b c d e f g h x => ?_⟩
  · exact ⟨rfl, rfl, rfl, rfl, rfl, rfl, rfl, rfl, rfl, rfl, rfl, rfl, rfl, rfl, rfl, rfl⟩
  · exact ⟨rfl, rfl, rfl, rfl, rfl, rfl, rfl, rfl, rfl, rfl, rfl, rfl, rfl, rfl, rfl, rfl, rfl, rfl, rfl, rfl⟩
  · refine ⟨?_, rfl, rfl, rfl, rfl, rfl, fun ha => ?_, rfl, rfl, rfl, rfl, rfl, rfl, rfl, rfl, rfl, rfl, rfl, rfl, rfl⟩
    · show execWriteEntry p a (entryPars (a :: rawEntryBytes x)) s = _
      rw [entryPars_rawEntryBytes]
      rfl
    · show takeStop p a s = _
      refine takeStop_range ?_ ha s
      cases p <;> rfl

end Sys2Proof.PortBytes
end

section
/-! SUPPORT. The Frame Store's commands: holds, releases, fetches, the jog window and a port's reset (R31 to R38, R189). -/

namespace Sys2Proof.StoreCommands

open Sys2Proof.Machine Sys2Proof.StepLaws

/-! ### Taking a command -/

/-- A permitted command whose bytes fit answers as its body does. -/
theorem command_runs {p : Port} {cmd : Nat} (hp : permitted p cmd = true) {body : State → State × Reply} {s t : State} {r : Reply}
    (hbody : body s = (t, r)) : (.next (command p cmd true body s) : Res) = .next (answer p r t) := by
  rw [command_permitted hp, hbody]

/-! ### What blocks a release (R29 to R31) -/

theorem isHeld_iff (x : Slot) : x.isHeld = true ↔ ∃ q, x.holders.get q = true := by
  constructor
  · intro h
    simp only [Slot.isHeld, Bool.or_eq_true] at h
    rcases h with (h | h) | h
    exacts [⟨.deck, h⟩, ⟨.transport, h⟩, ⟨.studio, h⟩]
  · rintro ⟨q, hq⟩
    cases q <;> simp only [Slot.isHeld, Bool.or_eq_true] <;> simp_all [PerPort.get]

theorem isHeld_eq_false_iff (x : Slot) : x.isHeld = false ↔ ∀ q, x.holders.get q = false := by
  rw [← Bool.not_eq_true, isHeld_iff]
  simp

theorem beingFetched_eq_false_iff (s : State) (i : SlotId) :
    beingFetched s i = false ↔ ∀ q f, s.fetch.get q = .inFlight f → f.slot ≠ i := by
  rw [← Bool.not_eq_true, beingFetched_iff]
  simp

theorem blocked_eq_false_iff (s : State) (i : SlotId) : blocked s i = false ↔
    s.slots[i].isHeld = false ∧ s.slots[i].pinned = false ∧ beingFetched s i = false := by
  simp [blocked, and_assoc]

/-- A slot without a port's hold. -/
def lost (p : Port) (x : Slot) : Slot := { x with holders := x.holders.set p false }

theorem lost_isHeld_eq_false_iff (p : Port) (x : Slot) :
    (lost p x).isHeld = false ↔ ∀ q, q ≠ p → x.holders.get q = false := by
  rw [isHeld_eq_false_iff]
  refine forall_congr' fun q => ?_
  by_cases hq : q = p
  · subst hq
    simp [lost]
  · simp [lost, hq]

theorem lost_of_not_held {p : Port} {x : Slot} (h : x.holders.get p = false) : lost p x = x := by
  have hsame : x.holders.set p false = x.holders := by
    cases hx : x.holders
    cases p <;> simp_all [PerPort.set, PerPort.get]
  unfold lost
  rw [hsame]

/-- A fetch that turns stale stays in flight of its slot (R38). -/
theorem fetching_staled (i j : SlotId) (f : Fetch) : fetching (f.staled i) j = fetching f j := by
  cases f with
  | empty | complete => rfl
  | inFlight f =>
    by_cases hslot : f.slot = i <;> simp [Fetch.staled, fetching, hslot]

theorem beingFetched_congr {s t : State} {i : SlotId} (h : ∀ q, fetching (t.fetch.get q) i = fetching (s.fetch.get q) i) :
    beingFetched t i = beingFetched s i := by
  have hdeck := h .deck
  have htransport := h .transport
  have hstudio := h .studio
  unfold beingFetched
  simp only [PerPort.get] at hdeck htransport hstudio
  rw [hdeck, htransport, hstudio]

/-- The state in which the end of a hold is settled. -/
def unheld (p : Port) (i : SlotId) (s : State) : State :=
  { s with slots := s.slots.set i (lost p s.slots[i]), fetch := s.fetch.set p ((s.fetch.get p).staled i) }

theorem endHold_eq (p : Port) (i : SlotId) (s : State) : endHold p i s = settleDue i (unheld p i s) := rfl

theorem unheld_get_same (p : Port) (i : SlotId) (s : State) : (unheld p i s).slots[i] = lost p s.slots[i] :=
  setSlot_get_same i _ s

theorem unheld_get_other {i j : SlotId} (h : i ≠ j) (p : Port) (s : State) : (unheld p i s).slots[j] = s.slots[j] :=
  setSlot_get_other h _ s

theorem unheld_beingFetched (p : Port) (i j : SlotId) (s : State) : beingFetched (unheld p i s) j = beingFetched s j := by
  refine beingFetched_congr fun q => ?_
  by_cases hq : q = p
  · subst hq
    simp [unheld, fetching_staled]
  · simp [unheld, hq]

theorem unheld_blocked_iff (p : Port) (i : SlotId) (s : State) : blocked (unheld p i s) i = false ↔
    (∀ q, q ≠ p → s.slots[i].holders.get q = false) ∧ s.slots[i].pinned = false ∧ beingFetched s i = false := by
  rw [blocked_eq_false_iff, unheld_get_same, lost_isHeld_eq_false_iff, unheld_beingFetched]
  rfl

/-- Ending a hold releases a due slot that nothing else blocks, and otherwise only takes the hold away (R31, R33). -/
theorem endHold_released {p : Port} {i : SlotId} {s : State} (hdue : s.slots[i].due = true)
    (hfree : blocked (unheld p i s) i = false) : endHold p i s = { s with
      slots := s.slots.set i Slot.reset, order := s.order.erase i, fetch := s.fetch.set p ((s.fetch.get p).staled i) } := by
  have hd : (unheld p i s).slots[i].due = true := by
    rw [unheld_get_same]
    exact hdue
  rw [endHold_eq]
  unfold settleDue
  rw [hd, hfree]
  simp [unheld, releaseSlot, setSlot]

theorem endHold_kept {p : Port} {i : SlotId} {s : State} (h : ¬(s.slots[i].due = true ∧ blocked (unheld p i s) i = false)) :
    endHold p i s = unheld p i s := by
  rw [endHold_eq]
  unfold settleDue
  rw [unheld_get_same, if_neg]
  simpa [lost] using h

/-! ### Holds and fetches -/

theorem nameable_eq (a : Nat) : (fun x : Slot => x.nameable && x.addr == some a)
    = fun x => (x.state == .decoded || x.state == .concealed || x.state == .coded) && x.addr == some a := rfl

/-- The body of HOLD FRAME and RELEASE FRAME on an address off the tape. -/
theorem offTape_body {a : Nat} (h : 2592000 ≤ a) (f : State → State × Reply) (s : State) :
    (if legalAddr a then f s else (s, refuse .range)) = (s, refuse .range) :=
  if_neg fun hlegal => Nat.not_lt.mpr h (of_decide_eq_true hlegal)

theorem onTape_body {a : Nat} (h : a < 2592000) (f : State → State × Reply) (s : State) :
    (if legalAddr a then f s else (s, refuse .range)) = f s :=
  if_pos (decide_eq_true h)

/-- Settles O18. -/
theorem holdFrame : Obligations.HoldFrame := by
  intro p addr s hp named
  have hnamed : named = newest s fun x => x.nameable && x.addr == some addr.toNat := rfl
  have hnone : named = none → holdBody p addr.toNat s = (s, refuse .range) := fun h => by
    unfold holdBody
    rw [← hnamed, h]
  refine ⟨fun h => command_runs hp ?_, fun i haddr hi => ?_⟩
  · by_cases haddr : 2592000 ≤ addr.toNat
    · exact offTape_body haddr ..
    · exact (onTape_body (Nat.not_le.mp haddr) ..).trans (hnone (h.resolve_left haddr))
  · have hbody : ∀ x, holdBody p addr.toNat s = x →
        (exec (.holdFrame p addr) s : Res) = .next (answer p x.2 x.1) := fun x hx =>
      command_runs hp ((onTape_body haddr ..).trans hx)
    have hopen : holdBody p addr.toNat s = (if s.slots[i].holders.get p then (s, ⟨.done, slotBytes s.slots[i]⟩)
        else if s.slots[i].isHeld then (addHolder p i s, ⟨.done, slotBytes s.slots[i]⟩)
        else if 6 ≤ heldCount s ∨ freeCount s < 2 then (s, refuse .full)
        else (addHolder p i s, ⟨.done, slotBytes s.slots[i]⟩)) := by
      unfold holdBody
      rw [← hnamed, hi]
    have hnotOwn : s.slots[i].isHeld = false → s.slots[i].holders.get p = false :=
      fun h => (isHeld_eq_false_iff _).mp h p
    refine ⟨fun hown => ?_, fun hheld hfull => ?_, fun hown hroom => ?_⟩
    · exact hbody _ (hopen.trans (if_pos hown))
    · have hown : ¬s.slots[i].holders.get p = true := by rw [hnotOwn hheld]; nofun
      have hother : ¬s.slots[i].isHeld = true := by rw [hheld]; nofun
      exact hbody _ (hopen.trans ((if_neg hown).trans ((if_neg hother).trans (if_pos hfull))))
    · refine hbody (addHolder p i s, _) (hopen.trans ((if_neg (by rw [hown]; nofun)).trans ?_))
      by_cases hheld : s.slots[i].isHeld = true
      · exact if_pos hheld
      · obtain ⟨hfew, hfree⟩ := hroom.resolve_left hheld
        exact (if_neg hheld).trans (if_neg (by omega))

/-- The slot that a port's address names is one that the port holds. -/
theorem heldSlot_holds {s : State} {p : Port} {a : Nat} {i : SlotId} (h : heldSlot s p a = some i) :
    s.slots[i].holders.get p = true ∧ s.slots[i].addr = some a := by
  have hfound := ((getLast?_filter_eq_some_iff ..).mp h).1
  simpa using hfound

/-- Settles O19. -/
theorem releaseFrame : Obligations.ReleaseFrame := by
  intro p addr s hp
  refine ⟨fun h => command_runs hp ?_, fun i hi => heldSlot_holds hi, fun i haddr hi => ?_⟩
  · by_cases haddr : 2592000 ≤ addr.toNat
    · exact offTape_body haddr ..
    · refine (onTape_body (Nat.not_le.mp haddr) ..).trans ?_
      unfold releaseBody
      rw [h.resolve_left haddr]
  · have hbody : (exec (.releaseFrame p addr) s : Res) = .next (answer p done (endHold p i s)) := by
      refine command_runs hp ((onTape_body haddr ..).trans ?_)
      unfold releaseBody
      rw [hi]
    intro fetch free
    have hfree : free ↔ s.slots[i].due = true ∧ blocked (unheld p i s) i = false := by
      rw [unheld_blocked_iff, beingFetched_eq_false_iff]
      simp only [free]
      tauto
    refine ⟨fun h => ?_, fun h => ?_⟩
    · obtain ⟨hdue, hblocked⟩ := hfree.mp h
      rw [hbody, endHold_released hdue hblocked]
    · rw [hbody, endHold_kept (mt hfree.mpr h)]
      rfl

theorem fetchBusy_iff {f : Fetch} : fetchBusy f = true ↔ ∃ q, f = .inFlight q := by
  cases f <;> simp [fetchBusy]

theorem chanOf_of_le {b : Byte} (h : 2 ≤ b.toNat) : chanOf b = none := by
  unfold chanOf
  split <;> first | omega | rfl

theorem chanOf_of_lt {b : Byte} (h : b.toNat < 2) : chanOf b = some (if b = 0 then .left else .right) := by
  have hb : b = 0 ∨ b = 1 := by
    rcases Nat.lt_succ_iff_lt_or_eq.mp h with h0 | h1
    · exact .inl (BitVec.eq_of_toNat_eq (Nat.lt_one_iff.mp h0))
    · exact .inr (BitVec.eq_of_toNat_eq h1)
  rcases hb with rfl | rfl <;> rfl

/-- The state with a port's fetch complete, before its slot is settled (R38). -/
def filled (p : Port) (f : FetchParams) (s : State) : State := { s with fetch := s.fetch.set p (.complete f
  ((List.range' f.start f.count).filter fun i => (s.slots[f.slot].bad.get f.chan).contains i).length
  ((List.range' f.start f.count).map (sampleOrFree s s.slots[f.slot].audio s.slots[f.slot].layout f.chan))) }

theorem filled_beingFetched_iff (p : Port) (f : FetchParams) (s : State) (i : SlotId) : beingFetched (filled p f s) i = false
    ↔ ∀ q g, q ≠ p → s.fetch.get q = .inFlight g → g.slot ≠ i := by
  rw [beingFetched_eq_false_iff]
  refine forall_congr' fun q => ?_
  by_cases hq : q = p
  · subst hq
    simp [filled]
  · simp [filled, hq]

/-- Settles O20. -/
theorem readAudio : Obligations.ReadAudio := by
  refine ⟨fun p addr channel start count s hp => ?command, fun p s => ⟨fun f hf => ?complete, fun hidle => ?idle⟩⟩
  case command =>
    intro fits
    have hrange : ¬(count.toNat < 1 ∨ 64 < count.toNat ∨ framePairs s.clock.rate ≤ start.toNat
        ∨ framePairs s.clock.rate < start.toNat + count.toNat) ↔ fits := by
      simp only [fits]
      omega
    refine ⟨fun f hf => command_runs hp (if_pos (fetchBusy_iff.mpr ⟨f, hf⟩)), fun hidle => ?_⟩
    have hbusy : ¬fetchBusy (s.fetch.get p) = true := fun h => (fetchBusy_iff.mp h).elim hidle
    refine ⟨fun h => command_runs hp ((if_neg hbusy).trans ?_), fun i hfits hchannel hi => command_runs hp ((if_neg hbusy).trans ?_)⟩
    · by_cases hfits : fits
      · rw [if_neg (hrange.mpr hfits)]
        rcases h.resolve_left (not_not_intro hfits) with hchannel | hnone
        · rw [chanOf_of_le hchannel]
        · rw [hnone]
          cases chanOf channel <;> rfl
      · exact if_pos (not_not.mp (mt hrange.mp hfits))
    · rw [if_neg (hrange.mpr hfits), chanOf_of_lt hchannel, hi]
  case complete =>
    intro free
    have hrun : exec (.fetchComplete p) s = .next (bumpFresh (settleDue f.slot (filled p f s))) := by
      show Host.Outcome.next (completeFetch p s) = _
      unfold completeFetch
      rw [hf]
      rfl
    have hframe := settleDue_frame f.slot (filled p f s)
    have hfree : free ↔ (filled p f s).slots[f.slot].due = true ∧ blocked (filled p f s) f.slot = false := by
      rw [blocked_eq_false_iff, isHeld_eq_false_iff, filled_beingFetched_iff]
      simp only [free]
      tauto
    refine ⟨_, hrun, (congrArg State.fetch hframe :), fun h => ?_, fun h => ?_, ?_⟩
    · obtain ⟨hdue, hblocked⟩ := hfree.mp h
      unfold settleDue
      rw [hdue, hblocked]
      exact ⟨rfl, rfl⟩
    · have hkept : settleDue f.slot (filled p f s) = filled p f s := by
        unfold settleDue
        rw [if_neg]
        simpa using mt hfree.mpr h
      rw [hkept]
      exact ⟨rfl, rfl⟩
    · exact congrArg (fun t : State => { t with fetch := s.fetch, fresh := s.fresh }) hframe
  case idle =>
    show Host.Outcome.next (completeFetch p s) = _
    unfold completeFetch
    split
    · rename_i f hf
      exact absurd hf (hidle f)
    · rfl

/-! ### The jog window (R34 to R36) -/

/-- From `s` to `t` only the slots and the allocation order change. -/
structure SlotWork (s t : State) : Prop where
  frame : { t with slots := s.slots, order := s.order } = s

theorem SlotWork.refl (s : State) : SlotWork s s := ⟨rfl⟩

theorem SlotWork.trans {s t u : State} (h : SlotWork s t) (k : SlotWork t u) : SlotWork s u :=
  ⟨(congrArg (fun x : State => { x with slots := s.slots, order := s.order }) k.frame).trans h.frame⟩

theorem pinned_work (s : State) : SlotWork s (pinned s) := ⟨by simp only [pinned]⟩

theorem syncPins_work (s : State) : SlotWork s (syncPins s) := by
  rw [syncPins_eq]
  exact (pinned_work s).trans ⟨settleAll_frame slotIds (pinned s)⟩

theorem jogSync_frame (s : State) : { jogSync s with jog := s.jog, slots := s.slots, order := s.order } = s := by
  rw [jogSync_eq]
  have hsynced := (syncPins_work (windowed s)).frame
  generalize syncPins (windowed s) = t at hsynced ⊢
  exact congrArg (fun t : State => { t with jog := s.jog, slots := s.slots, order := s.order }) hsynced

theorem jogSync_window (s : State) : (jogSync s).jog.window = jogWindowAt s := by
  rw [jogSync_eq, syncPins_jog]
  rfl

theorem jogSync_length (s : State) : (jogSync s).jog.length = s.jog.length := by
  rw [jogSync_eq, syncPins_jog]
  rfl

/-- The synchronised pins are those of the window over the slots as they were (R34). -/
theorem jogSync_pinned (s : State) (i : SlotId) : (jogSync s).slots[i].pinned = true ↔ windowCovers (jogSync s) s i := by
  rw [jogSync_eq, syncPins_pinned]
  unfold windowCovers
  rw [syncPins_jog]
  rfl

theorem jogSync_settled (s : State) (i : SlotId) : pinSettled s (jogSync s) i := by
  rw [jogSync_eq]
  exact syncPins_settled (windowed s) i

/-- The pointer that RESET leaves: the start of the position's frame when a window is present (R35, R36). -/
def placedPointer (s : State) : Nat := match s.jog.window with
  | none => s.jog.pointer
  | some w => formedPointer s w

theorem placedPointer_none {s : State} (h : s.jog.window = none) : placedPointer s = s.jog.pointer := by
  unfold placedPointer
  rw [h]

theorem placedPointer_some {s : State} {w : Nat} (h : s.jog.window = some w) : placedPointer s = formedPointer s w := by
  unfold placedPointer
  rw [h]

theorem resetPointer_eq (s : State) : resetPointer s = { s with jog := { s.jog with pointer := placedPointer s } } := by
  unfold resetPointer
  split
  · rename_i h
    rw [placedPointer_none h]
  · rename_i w h
    rw [placedPointer_some h]

theorem jogWindowAt_eq (s : State) : jogWindowAt s = if s.tl.mode = .jog ∧ (s.tl.state = .locked ∨ s.tl.state = .coasting)
    then some (s.tl.position - s.tl.position % s.jog.length) else none := by
  unfold jogWindowAt
  cases s.tl.state <;> simp [TlState.placed]

theorem jogSync_pointer_none {s : State} (h : jogWindowAt s = none) : (jogSync s).jog.pointer = s.jog.pointer := by
  rw [jogSync_eq, syncPins_jog]
  unfold windowed
  rw [h]
  cases s.jog.window <;> rfl

/-- Settles O21: the window and its pins by `jogSync`, the pointer by `resetPointer`. -/
theorem setJogWindow : Obligations.SetJogWindow := by
  intro p length s hp
  have hcontains : jogLengths.contains length.toNat = true ↔ length.toNat ∈ [1, 2, 4, 8] := List.contains_iff_mem
  refine ⟨fun h => command_runs hp (setting_refused (Bool.eq_false_iff.mpr (mt hcontains.mp h)) _ s), fun h => ?_⟩
  have hframe := jogSync_frame { s with jog := { s.jog with length := length.toNat } }
  have hwindow := jogSync_window { s with jog := { s.jog with length := length.toNat } }
  have hlength := jogSync_length { s with jog := { s.jog with length := length.toNat } }
  have hpins := jogSync_windowPins { s with jog := { s.jog with length := length.toNat } }
  have hnone := @jogSync_pointer_none { s with jog := { s.jog with length := length.toNat } }
  have hpinned := jogSync_pinned { s with jog := { s.jog with length := length.toNat } }
  have hsettled := jogSync_settled { s with jog := { s.jog with length := length.toNat } }
  refine ⟨_, command_runs hp (setting_taken (hcontains.mpr h) _ s), ?_⟩
  dsimp only
  generalize jogSync { s with jog := { s.jog with length := length.toNat } } = u at *
  rw [resetPointer_eq]
  have htl : u.tl = s.tl := (congrArg State.tl hframe :)
  have hclock : u.clock = s.clock := (congrArg State.clock hframe :)
  refine ⟨hlength, hwindow.trans (jogWindowAt_eq _), fun w hw => ?_, fun hw => ?_, hpinned, hpins, hsettled, ?_⟩
  · show placedPointer u = _
    rw [placedPointer_some (s := u) hw, formedPointer, htl, hclock]
  · exact (placedPointer_none (s := u) hw).trans (hnone (hwindow.symm.trans hw))
  · exact congrArg (fun t : State => { t with jog := s.jog }) hframe

/-! ### A port's reset (R189) -/

/-- A slot that a port gives up and that nothing else keeps (R31). -/
def freed (p : Port) (s : State) (i : SlotId) : Prop := s.slots[i].due = true ∧ blocked (unheld p i s) i = false

/-- From `s` to `t` the port's holds on the slots of `gone` have ended, each as RELEASE FRAME ends it. -/
structure Ended (p : Port) (gone : SlotId → Prop) (s t : State) : Prop where
  kept : ∀ j, ¬(gone j ∧ s.slots[j].holders.get p = true) → t.slots[j] = s.slots[j]
  lost : ∀ j, gone j → s.slots[j].holders.get p = true → ¬freed p s j → t.slots[j] = lost p s.slots[j]
  reset : ∀ j, gone j → s.slots[j].holders.get p = true → freed p s j → t.slots[j] = Slot.reset ∧ (s.order.Nodup → j ∉ t.order)
  order : ∀ j, ¬(gone j ∧ s.slots[j].holders.get p = true ∧ freed p s j) → (j ∈ t.order ↔ j ∈ s.order)
  sublist : t.order.Sublist s.order
  fetch : ∀ q, q ≠ p → t.fetch.get q = s.fetch.get q
  own : ∀ j, fetching (t.fetch.get p) j = fetching (s.fetch.get p) j
  frame : { t with slots := s.slots, order := s.order, fetch := s.fetch } = s

theorem Ended.refl (p : Port) (s : State) : Ended p (fun _ => False) s s where
  kept := fun _ _ => rfl
  lost := nofun
  reset := nofun
  order := fun _ _ => Iff.rfl
  sublist := .refl _
  fetch := fun _ _ => rfl
  own := fun _ => rfl
  frame := rfl

/-- A slot that has not been settled yet is freed after as before. -/
theorem Ended.freed_iff {p : Port} {gone : SlotId → Prop} {s t : State} (h : Ended p gone s t) {i : SlotId} (hi : ¬gone i) :
    freed p t i ↔ freed p s i := by
  have hslot : t.slots[i] = s.slots[i] := h.kept i fun hgone => hi hgone.1
  have hfetch : beingFetched t i = beingFetched s i := beingFetched_congr fun q => by
    by_cases hq : q = p
    · subst hq
      exact h.own i
    · rw [h.fetch q hq]
  unfold freed
  rw [unheld_blocked_iff, unheld_blocked_iff, hslot, hfetch]

theorem endHold_get_other {i j : SlotId} (h : i ≠ j) (p : Port) (s : State) : (endHold p i s).slots[j] = s.slots[j] := by
  rw [endHold_eq, settleDue_get, if_neg fun hj => h hj.1.symm, unheld_get_other h]

theorem endHold_fetch (p : Port) (i : SlotId) (s : State) :
    (endHold p i s).fetch = s.fetch.set p ((s.fetch.get p).staled i) :=
  (congrArg State.fetch (settleDue_frame i (unheld p i s)) :)

theorem endHold_frame (p : Port) (i : SlotId) (s : State) :
    { endHold p i s with slots := s.slots, order := s.order, fetch := s.fetch } = s :=
  congrArg (fun t : State => { t with slots := s.slots, order := s.order, fetch := s.fetch }) (settleDue_frame i (unheld p i s))

/-- The next slot's hold ends. -/
theorem Ended.next {p : Port} {gone : SlotId → Prop} {s t : State} (h : Ended p gone s t) {i : SlotId} (hi : ¬gone i) :
    Ended p (fun j => j = i ∨ gone j) s (if t.slots[i].holders.get p then endHold p i t else t) := by
  have hslot : t.slots[i] = s.slots[i] := h.kept i fun hgone => hi hgone.1
  rw [hslot]
  by_cases hheld : s.slots[i].holders.get p = true
  · rw [if_pos hheld]
    have hfreed : freed p t i ↔ freed p s i := h.freed_iff hi
    have hreset : freed p s i → endHold p i t = { t with
        slots := t.slots.set i Slot.reset, order := t.order.erase i, fetch := t.fetch.set p ((t.fetch.get p).staled i) } :=
      fun hf => endHold_released (hfreed.mpr hf).1 (hfreed.mpr hf).2
    have hkept : ¬freed p s i → endHold p i t = unheld p i t := fun hf => endHold_kept (mt hfreed.mp hf)
    refine ⟨fun j hj => ?_, fun j hj hh hf => ?_, fun j hj hh hf => ?_, fun j hj => ?_, ?_, fun q hq => ?_, fun j => ?_, ?_⟩
    · have hij : i ≠ j := fun he => hj ⟨.inl he.symm, he ▸ hheld⟩
      rw [endHold_get_other hij]
      exact h.kept j fun hgone => hj ⟨.inr hgone.1, hgone.2⟩
    · by_cases hij : i = j
      · subst hij
        rw [hkept hf, unheld_get_same, hslot]
      · rw [endHold_get_other hij]
        exact h.lost j (hj.resolve_left fun he => hij he.symm) hh hf
    · by_cases hij : i = j
      · subst hij
        rw [hreset hf]
        refine ⟨setSlot_get_same i _ t, fun hnodup => ?_⟩
        exact (h.sublist.nodup hnodup).not_mem_erase
      · rw [endHold_get_other hij]
        obtain ⟨hjreset, hjorder⟩ := h.reset j (hj.resolve_left fun he => hij he.symm) hh hf
        refine ⟨hjreset, fun hnodup hmem => hjorder hnodup ?_⟩
        by_cases hf' : freed p s i
        · rw [hreset hf'] at hmem
          exact List.mem_of_mem_erase hmem
        · rw [hkept hf'] at hmem
          exact hmem
    · have hmem : j ∈ (endHold p i t).order ↔ j ∈ t.order := by
        by_cases hf : freed p s i
        · have hji : j ≠ i := fun he => hj ⟨.inl he, he ▸ hheld, he ▸ hf⟩
          rw [hreset hf]
          exact List.mem_erase_of_ne hji
        · rw [hkept hf]
          exact Iff.rfl
      exact hmem.trans (h.order j fun hgone => hj ⟨.inr hgone.1, hgone.2⟩)
    · refine List.Sublist.trans ?_ h.sublist
      by_cases hf : freed p s i
      · rw [hreset hf]
        exact List.erase_sublist
      · rw [hkept hf]
        exact .refl _
    · rw [endHold_fetch, PerPort.get_set_other _ _ hq]
      exact h.fetch q hq
    · rw [endHold_fetch, PerPort.get_set_same, fetching_staled]
      exact h.own j
    · exact (congrArg (fun u : State => { u with slots := s.slots, order := s.order, fetch := s.fetch }) (endHold_frame p i t)).trans h.frame
  · rw [if_neg hheld]
    have hgone : ∀ j, s.slots[j].holders.get p = true → (j = i ∨ gone j) → gone j :=
      fun j hh hj => hj.resolve_left fun he => hheld (he ▸ hh)
    exact ⟨fun j hj => h.kept j fun hg => hj ⟨.inr hg.1, hg.2⟩, fun j hj hh => h.lost j (hgone j hh hj) hh,
      fun j hj hh => h.reset j (hgone j hh hj) hh, fun j hj => h.order j fun hg => hj ⟨.inr hg.1, hg.2⟩, h.sublist, h.fetch, h.own, h.frame⟩

/-- All of a port's holds end (R33, R189). -/
theorem endHolds_ended (p : Port) (s : State) : Ended p (fun _ => True) s (endHolds p s) := by
  have hfold : ∀ (l : List SlotId) (gone : SlotId → Prop) (t : State), l.Nodup → (∀ i ∈ l, ¬gone i) → Ended p gone s t →
      Ended p (fun j => j ∈ l ∨ gone j) s (l.foldl (fun t i => if t.slots[i].holders.get p then endHold p i t else t) t) := by
    intro l
    induction l with
    | nil =>
      intro gone t _ _ h
      simpa using h
    | cons i l ih =>
      intro gone t hnodup hout h
      obtain ⟨hil, hl⟩ := List.nodup_cons.mp hnodup
      have hnext := ih _ _ hl (fun j hj => ?_) (h.next (hout i List.mem_cons_self))
      · have hsame : (fun j => j ∈ l ∨ j = i ∨ gone j) = fun j => j ∈ i :: l ∨ gone j := by
          funext j
          rw [List.mem_cons, ← or_assoc, or_comm (a := j = i)]
        rwa [hsame] at hnext
      · rintro (rfl | hgone)
        · exact hil hj
        · exact hout j (List.mem_cons_of_mem _ hj) hgone
  have hall : Ended p (fun j => j ∈ slotIds ∨ False) s (endHolds p s) :=
    hfold slotIds _ s (List.nodup_finRange _) (fun _ _ => id) (.refl p s)
  have hevery : (fun j => j ∈ slotIds ∨ False) = fun _ => True := funext fun j => by simp [mem_slotIds]
  rwa [hevery] at hall

/-- The state with a port's fetch record empty, before the slot of its fetch is settled (R38). -/
def unfetched (p : Port) (s : State) : State := { s with fetch := s.fetch.set p .empty }

theorem unfetched_blocked_iff (p : Port) (s : State) (i : SlotId) : blocked (unfetched p s) i = false ↔
    s.slots[i].isHeld = false ∧ s.slots[i].pinned = false ∧ ∀ q f, q ≠ p → s.fetch.get q = .inFlight f → f.slot ≠ i := by
  rw [blocked_eq_false_iff, beingFetched_eq_false_iff]
  refine and_congr_right fun _ => and_congr_right fun _ => forall_congr' fun q => ?_
  by_cases hq : q = p
  · subst hq
    simp [unfetched]
  · simp [unfetched, hq]

theorem dropFetch_released {p : Port} {s : State} {i : SlotId} (hfetch : fetching (s.fetch.get p) i = true)
    (hdue : s.slots[i].due = true) (hfree : blocked (unfetched p s) i = false) :
    dropFetch p s = releaseSlot i (unfetched p s) := by
  obtain ⟨f, hf, rfl⟩ := (fetching_iff ..).mp hfetch
  have hrun : dropFetch p s = settleDue f.slot (unfetched p s) := by
    unfold dropFetch
    rw [hf]
    rfl
  rw [hrun]
  unfold settleDue
  rw [hfree, show (unfetched p s).slots[f.slot].due = true from hdue]
  rfl

theorem dropFetch_kept {p : Port} {s : State}
    (h : ∀ i, fetching (s.fetch.get p) i = true → ¬(s.slots[i].due = true ∧ blocked (unfetched p s) i = false)) :
    dropFetch p s = unfetched p s := by
  unfold dropFetch
  dsimp only
  split
  · rename_i f hf
    have hkept := h f.slot ((fetching_iff ..).mpr ⟨f, hf, rfl⟩)
    unfold settleDue
    rw [if_neg]
    · rfl
    · simpa [unfetched] using hkept
  · rfl

/-- What dropping the fetch does to a slot: nothing but the release that the fetch deferred. -/
theorem dropFetch_other {p : Port} {s : State} {i : SlotId}
    (h : ¬(fetching (s.fetch.get p) i = true ∧ s.slots[i].due = true ∧ blocked (unfetched p s) i = false)) :
    (dropFetch p s).slots[i] = s.slots[i] ∧ (i ∈ (dropFetch p s).order ↔ i ∈ s.order) := by
  by_cases hdrop : ∃ k, fetching (s.fetch.get p) k = true ∧ s.slots[k].due = true ∧ blocked (unfetched p s) k = false
  · obtain ⟨k, hfetch, hdue, hfree⟩ := hdrop
    have hki : k ≠ i := fun he => h (he ▸ ⟨hfetch, hdue, hfree⟩)
    rw [dropFetch_released hfetch hdue hfree]
    exact ⟨releaseSlot_get_other hki _, List.mem_erase_of_ne hki.symm⟩
  · rw [dropFetch_kept fun k hfetch hboth => hdrop ⟨k, hfetch, hboth⟩]
    exact ⟨rfl, Iff.rfl⟩

theorem dropFetch_sublist (p : Port) (s : State) : (dropFetch p s).order.Sublist s.order := by
  unfold dropFetch
  dsimp only
  split
  · unfold settleDue
    split
    · exact List.erase_sublist
    · exact .refl _
  · exact .refl _

theorem dropFetch_frame (p : Port) (s : State) :
    { dropFetch p s with slots := s.slots, order := s.order, fetch := s.fetch } = s
      ∧ (dropFetch p s).fetch = s.fetch.set p .empty := by
  unfold dropFetch
  dsimp only
  split
  · rename_i f _
    have hframe := settleDue_frame f.slot (unfetched p s)
    exact ⟨congrArg (fun t : State => { t with fetch := s.fetch }) hframe, (congrArg State.fetch hframe :)⟩
  · exact ⟨rfl, rfl⟩

/-- What a port's reset frees: a due slot that no pin and no other port keeps. -/
def freeFor (p : Port) (s : State) (i : SlotId) : Prop :=
  s.slots[i].pinned = false ∧ ∀ q, q ≠ p → s.slots[i].holders.get q = false ∧ ∀ f, s.fetch.get q = .inFlight f → f.slot ≠ i

/-- A hold's end frees a slot that the port is not fetching itself. -/
theorem freed_iff_freeFor (p : Port) (s : State) (i : SlotId) :
    freed p s i ↔ s.slots[i].due = true ∧ freeFor p s i ∧ fetching (s.fetch.get p) i = false := by
  have hown : fetching (s.fetch.get p) i = false ↔ ∀ f, s.fetch.get p = .inFlight f → f.slot ≠ i := by
    rw [← Bool.not_eq_true, fetching_iff]
    simp
  unfold freed freeFor
  rw [unheld_blocked_iff, beingFetched_eq_false_iff, hown]
  constructor
  · rintro ⟨hdue, hheld, hpinned, hfetch⟩
    exact ⟨hdue, ⟨hpinned, fun q hq => ⟨hheld q hq, hfetch q⟩⟩, hfetch p⟩
  · rintro ⟨hdue, ⟨hpinned, hothers⟩, hfetch⟩
    refine ⟨hdue, fun q hq => (hothers q hq).1, hpinned, fun q => ?_⟩
    by_cases hq : q = p
    · exact hq ▸ hfetch
    · exact (hothers q hq).2

/-- A slot that is not freed by the end of the holds has only lost the port's hold. -/
theorem Ended.get_lost {p : Port} {s t : State} (h : Ended p (fun _ => True) s t) {i : SlotId}
    (hi : ¬(s.slots[i].holders.get p = true ∧ freed p s i)) :
    t.slots[i] = StoreCommands.lost p s.slots[i] ∧ (i ∈ t.order ↔ i ∈ s.order) := by
  refine ⟨?_, h.order i fun hgone => hi hgone.2⟩
  by_cases hheld : s.slots[i].holders.get p = true
  · exact h.lost i trivial hheld fun hf => hi ⟨hheld, hf⟩
  · rw [h.kept i fun hgone => hheld hgone.2, lost_of_not_held (by simpa using hheld)]

/-- The slot of the port's own fetch, once the holds have ended and the fetch is dropped, is blocked by the others alone. -/
theorem Ended.unfetched_iff {p : Port} {s t : State} (h : Ended p (fun _ => True) s t) {i : SlotId}
    (hget : t.slots[i] = StoreCommands.lost p s.slots[i]) : blocked (unfetched p t) i = false ↔ freeFor p s i := by
  rw [unfetched_blocked_iff, hget, lost_isHeld_eq_false_iff]
  unfold freeFor
  constructor
  · rintro ⟨hheld, hpinned, hfetch⟩
    exact ⟨hpinned, fun q hq => ⟨hheld q hq, fun f hf => hfetch q f hq ((h.fetch q hq).trans hf)⟩⟩
  · rintro ⟨hpinned, hothers⟩
    exact ⟨fun q hq => (hothers q hq).1, hpinned, fun q f hq hf => (hothers q hq).2 f ((h.fetch q hq).symm.trans hf)⟩

/-- A slot that the reset gives up and that is due and free is emptied (R31, R38, R189). -/
theorem Ended.dropFetch_freed {p : Port} {s t : State} (h : Ended p (fun _ => True) s t) {i : SlotId}
    (hgiven : s.slots[i].holders.get p = true ∨ fetching (s.fetch.get p) i = true) (hdue : s.slots[i].due = true)
    (hfree : freeFor p s i) : (dropFetch p t).slots[i] = Slot.reset ∧ (s.order.Nodup → i ∉ (dropFetch p t).order) := by
  by_cases hown : fetching (s.fetch.get p) i = true
  · have hget := (h.get_lost (i := i) fun hf => by
      rw [((freed_iff_freeFor p s i).mp hf.2).2.2] at hown
      exact nomatch hown).1
    rw [dropFetch_released ((h.own i).trans hown) (by rw [hget]; exact hdue) ((h.unfetched_iff hget).mpr hfree)]
    exact ⟨releaseSlot_get_same .., fun hnodup => (h.sublist.nodup hnodup).not_mem_erase⟩
  · have hnot : fetching (s.fetch.get p) i = false := by simpa using hown
    obtain ⟨hreset, hout⟩ := h.reset i trivial (hgiven.resolve_right hown) ((freed_iff_freeFor p s i).mpr ⟨hdue, hfree, hnot⟩)
    obtain ⟨hget, hmem⟩ := dropFetch_other (p := p) (s := t) (i := i) fun hf => by
      rw [h.own i, hnot] at hf
      exact nomatch hf.1
    exact ⟨hget.trans hreset, fun hnodup hi => hout hnodup (hmem.mp hi)⟩

/-- Every other slot only loses the port's hold. -/
theorem Ended.dropFetch_lost {p : Port} {s t : State} (h : Ended p (fun _ => True) s t) {i : SlotId}
    (hi : ¬((s.slots[i].holders.get p = true ∨ fetching (s.fetch.get p) i = true) ∧ s.slots[i].due = true ∧ freeFor p s i)) :
    (dropFetch p t).slots[i] = StoreCommands.lost p s.slots[i] ∧ (i ∈ (dropFetch p t).order ↔ i ∈ s.order) := by
  obtain ⟨hget, hmem⟩ := h.get_lost (i := i) fun hf => by
    obtain ⟨hdue, hfree, -⟩ := (freed_iff_freeFor p s i).mp hf.2
    exact hi ⟨.inl hf.1, hdue, hfree⟩
  obtain ⟨hget', hmem'⟩ := dropFetch_other (p := p) (s := t) (i := i) fun hf => by
    obtain ⟨hown, hdue, hblocked⟩ := hf
    rw [hget] at hdue
    exact hi ⟨.inr ((h.own i).symm.trans hown), hdue, (h.unfetched_iff hget).mp hblocked⟩
  exact ⟨hget'.trans hget, hmem'.trans hmem⟩

/-- Settles O5: the holds end one by one (`Ended`), and the fetch is dropped after them. -/
theorem portResetActsOnItsOwnPort : Obligations.PortResetActsOnItsOwnPort := by
  intro p s given free
  have hgiven : ∀ i, given i ↔ s.slots[i].holders.get p = true ∨ fetching (s.fetch.get p) i = true := fun i =>
    or_congr_right (fetching_iff ..).symm
  have hended := endHolds_ended p (setNotices p (s.notices.get p).emptied s)
  have hdropped := dropFetch_frame p (endHolds p (setNotices p (s.notices.get p).emptied s))
  have hsublist := dropFetch_sublist p (endHolds p (setNotices p (s.notices.get p).emptied s))
  refine ⟨_, NoticeLines.exec_resetPort p s, ?_⟩
  unfold resetPort
  generalize endHolds p (setNotices p (s.notices.get p).emptied s) = t at *
  refine ⟨?_, ?_, fun q hq => ?_, fun i hi hdue hfree => ?_, fun i hi => ?_, ?_, ?_⟩
  · exact (congrArg State.notices hdropped.1 :).trans (congrArg State.notices hended.frame :)
  · rw [hdropped.2, PerPort.get_set_same]
  · rw [hdropped.2, PerPort.get_set_other _ _ hq]
    exact hended.fetch q hq
  · exact hended.dropFetch_freed ((hgiven i).mp hi) hdue hfree
  · exact hended.dropFetch_lost fun h => hi ⟨(hgiven i).mpr h.1, h.2⟩
  · exact hsublist.trans hended.sublist
  · exact (congrArg (fun u : State => { u with notices := s.notices, slots := s.slots, order := s.order, fetch := s.fetch }) hdropped.1).trans
      (congrArg (fun u : State => { u with notices := s.notices }) hended.frame)

end Sys2Proof.StoreCommands
end

section
/-! SUPPORT. What the engine's own work and a cut of the gate leave alone, and what the timeline's record does to the rest (R18, R104, R149). -/

namespace Sys2Proof.BlockWork

open Sys2Proof.Machine Sys2Proof.StepLaws Sys2Proof.SpliceEnds Sys2Proof.StoreCommands

/-! ### The Edit Engine's own work -/

/-- From `s` to `t` only the engine's record, and what it names and gives up elsewhere, changes: the notices, a lay, the banks, the record
source and the rehearse override. -/
structure EngWork (s t : State) : Prop where
  frame : { t with
    fresh := s.fresh, notices := s.notices, tl := s.tl, banks := s.banks, eng := s.eng
    intake := { t.intake with source := s.intake.source, fifo := s.intake.fifo, priming := s.intake.priming }
    mon := { t.mon with override := s.mon.override } } = s

theorem EngWork.refl (s : State) : EngWork s s := ⟨rfl⟩

theorem EngWork.trans {s t u : State} (h : EngWork s t) (k : EngWork t u) : EngWork s u :=
  ⟨(congrArg (fun x : State => { x with
    fresh := s.fresh, notices := s.notices, tl := s.tl, banks := s.banks, eng := s.eng
    intake := { x.intake with source := s.intake.source, fifo := s.intake.fifo, priming := s.intake.priming }
    mon := { x.mon with override := s.mon.override } }) k.frame).trans h.frame⟩

theorem EngWork.after {s t u : State} (k : EngWork t u) (h : EngWork s t) : EngWork s u := h.trans k

theorem EngWork.ite {s t u : State} {c : Prop} [Decidable c] (h : c → EngWork s t) (k : ¬c → EngWork s u) :
    EngWork s (if c then t else u) := by
  split
  · exact h ‹_›
  · exact k ‹_›

theorem post_engWork (k : NoticeKind) (n : Nat) (a : Option Nat) (c : Option Result) (s : State) : EngWork s (post k n a c s) := ⟨rfl⟩

theorem setEng_engWork (st : EngState) (s : State) : EngWork s (setEng st s) := by
  rw [setEng_frame]
  exact ⟨rfl⟩

theorem nameSource_engWork (src : Source) (s : State) : EngWork s (nameSource src s) := by
  unfold nameSource
  exact .ite (fun _ => .refl s) fun _ => .ite (fun _ => ⟨rfl⟩) fun _ => .ite (fun _ => ⟨rfl⟩) fun _ => ⟨rfl⟩

theorem spendPlaying_engWork (s : State) : EngWork s (spendPlaying s) := by
  obtain ⟨b, hb⟩ := spendPlaying_frame s
  rw [hb]
  exact ⟨rfl⟩

theorem spendFor_engWork (tag : SpliceTag) (s : State) : EngWork s (spendFor tag s) := by
  unfold spendFor
  exact .ite (fun _ => (spendPlaying_engWork _).after ⟨rfl⟩) fun _ => .refl s

theorem spendAny_engWork (s : State) : EngWork s (spendAny s) := by
  unfold spendAny
  exact .ite (fun _ => (spendPlaying_engWork _).after ⟨rfl⟩) fun _ => .refl s

theorem nameAfter_engWork (s : State) : EngWork s (nameAfter s) := .ite (fun _ => nameSource_engWork ..) fun _ => .refl s

theorem endOverride_engWork (sp : Splice) (s : State) : EngWork s (endOverride sp s) := .ite (fun _ => ⟨rfl⟩) fun _ => .refl s

theorem endLayOf_engWork (sp : Splice) (s : State) : EngWork s (endLayOf sp s) := by
  rw [endLayOf_eq]
  exact ⟨rfl⟩

theorem closeEntry_engWork (sp : Splice) (o : Outcome) (s : State) : EngWork s (closeEntry sp o s) := by
  obtain ⟨f, hf⟩ := closeEntry_frame sp o s
  rw [hf]
  exact ⟨rfl⟩

theorem addResult_engWork (r : SpliceResult) (notify : Bool) (a : Option Nat) (s : State) : EngWork s (addResult r notify a s) := by
  rw [addResult_eq]
  exact ⟨rfl⟩

theorem endSplice_engWork (o : Outcome) (r : Option Reason) (out : Option Point) (atIn : Bool) (s : State) :
    EngWork s (endSplice o r out atIn s) := by
  unfold endSplice
  split
  · exact .refl s
  · rename_i sp _
    have hcleared : EngWork s { s with eng := { s.eng with splice := none } } := ⟨rfl⟩
    exact hcleared.trans <| (closeEntry_engWork sp o _).trans <| (spendFor_engWork ..).trans <| (nameAfter_engWork _).trans <|
      (endOverride_engWork ..).trans <| (endLayOf_engWork ..).trans <| addResult_engWork ..

theorem endPass_engWork (s : State) : EngWork s (endPass s) := by
  unfold endPass
  refine .ite (fun _ => ?_) fun _ => setEng_engWork ..
  exact (setEng_engWork ..).after ⟨rfl⟩

theorem afterSplice_engWork (punch lay : Bool) (s : State) : EngWork s (afterSplice punch lay s) := by
  unfold afterSplice
  exact .ite (fun _ => .refl s) fun _ => .ite (fun _ => setEng_engWork ..) fun _ =>
    .ite (fun _ => setEng_engWork ..) fun _ => endPass_engWork s

theorem finishSplice_engWork (o : Outcome) (r : Option Reason) (out : Option Point) (atIn : Bool) (s : State) :
    EngWork s (finishSplice o r out atIn s) := by
  unfold finishSplice
  split
  · exact .refl s
  · exact (endSplice_engWork ..).trans (afterSplice_engWork ..)

theorem endPending_engWork (i : Fin 16) (e : Entry) (o : Outcome) (r : Option Reason) (late : Bool) (s : State) :
    EngWork s (endPending i e o r late s) := (addResult_engWork ..).after ⟨rfl⟩

theorem breakLay_engWork (s : State) : EngWork s (breakLay s) := by
  unfold breakLay
  split
  · exact .ite (fun _ => endPending_engWork ..) fun _ => .refl s
  · exact .refl s

/-- A break is the engine's own work (R149). -/
theorem engineBreak_engWork (s : State) : EngWork s (engineBreak s) := by
  unfold engineBreak
  dsimp only
  refine .ite (fun _ => endSplice_engWork ..) fun _ => .ite (fun _ => ?_) fun _ => .refl s
  have hdropped : ∀ t : State, EngWork t { t with eng := { t.eng with prepared := [], layWait := none } } := fun _ => ⟨rfl⟩
  have hnamed := (endSplice_engWork (if s.tl.mode = .play then .lostLock else .broken) none (cutPoint s) false s).trans <|
    (breakLay_engWork _).trans <| (hdropped _).trans <| (spendAny_engWork _).trans (nameSource_engWork .analog _)
  exact .ite (fun _ => hnamed.trans (setEng_engWork ..)) fun _ =>
    .ite (fun _ => hnamed.trans (setEng_engWork ..)) fun _ => hnamed.trans (endPass_engWork _)

theorem engineGain_engWork (s : State) : EngWork s (engineGain s) := by
  unfold engineGain
  refine .ite (fun _ => .refl s) fun _ => ?_
  split
  · exact setEng_engWork ..
  · split
    · exact .ite (fun _ => setEng_engWork ..) fun _ => .refl s
    · exact .refl s
  · exact .refl s

/-! ### A cut of the gate -/

/-- From `s` to `t` only the gate, the judge list, the coding list, the slots and AUTO's choice change. -/
structure CutWork (s t : State) : Prop where
  frame : { t with slots := s.slots, order := s.order, coding := s.coding, gate := s.gate, judge := s.judge
                   mon := { t.mon with autoMix := s.mon.autoMix } } = s

theorem CutWork.refl (s : State) : CutWork s s := ⟨rfl⟩

theorem CutWork.trans {s t u : State} (h : CutWork s t) (k : CutWork t u) : CutWork s u :=
  ⟨(congrArg (fun x : State => { x with
    slots := s.slots, order := s.order, coding := s.coding, gate := s.gate, judge := s.judge
    mon := { x.mon with autoMix := s.mon.autoMix } }) k.frame).trans h.frame⟩

theorem CutWork.after {s t u : State} (k : CutWork t u) (h : CutWork s t) : CutWork s u := h.trans k

theorem CutWork.ofSlots {s t : State} (h : SlotWork s t) : CutWork s t :=
  ⟨congrArg (fun x : State => { x with coding := s.coding, gate := s.gate, judge := s.judge
                                       mon := { x.mon with autoMix := s.mon.autoMix } }) h.frame⟩

theorem releaseOrDue_work (i : SlotId) (s : State) : SlotWork s (releaseOrDue i s) := by
  unfold releaseOrDue
  split <;> exact ⟨rfl⟩

theorem abandonSlot_work (o : Option SlotId) (s : State) : SlotWork s (abandonSlot o s) := by cases o <;> exact ⟨rfl⟩

theorem releaseOpt_work (o : Option SlotId) (s : State) : SlotWork s (releaseOpt o s) := by
  cases o with
  | none => exact .refl s
  | some i => exact releaseOrDue_work i s

/-- A fold of slot work is slot work. -/
theorem foldl_work {α : Type} {f : State → α → State} (h : ∀ s a, SlotWork s (f s a)) (l : List α) (s : State) :
    SlotWork s (l.foldl f s) := by
  induction l generalizing s with
  | nil => exact .refl s
  | cons a l ih => exact (h s a).trans (ih _)

theorem releaseAll_work (l : List SlotId) (s : State) : SlotWork s (releaseAll l s) := foldl_work (fun t i => releaseOrDue_work i t) l s

theorem dropOp_work (op : CodingOp) (s : State) : SlotWork s (dropOp op s) := (abandonSlot_work ..).trans (releaseOpt_work ..)

theorem abandonOps_eq (f : CodingOp → Bool) (s : State) : abandonOps f s =
    (s.coding.filter f).foldl (fun t op => dropOp op t) { s with coding := s.coding.filter fun op => !f op } := rfl

theorem abandonOps_work (f : CodingOp → Bool) (s : State) :
    SlotWork { s with coding := s.coding.filter fun op => !f op } (abandonOps f s) := foldl_work (fun t op => dropOp_work op t) ..

theorem releaseFilling_work (s : State) : SlotWork { s with coding := s.coding.map CodingOp.slotless } (releaseFilling s) :=
  foldl_work (fun t (op : CodingOp) => abandonSlot_work op.codedSlot t) ..

theorem abandonOps_cutWork (f : CodingOp → Bool) (s : State) : CutWork s (abandonOps f s) :=
  (CutWork.ofSlots (abandonOps_work f s)).after ⟨rfl⟩

theorem releaseUnwritten_cutWork (s : State) : CutWork s (releaseUnwritten s) :=
  (CutWork.ofSlots (releaseAll_work ..)).trans ((CutWork.ofSlots (releaseFilling_work _)).after ⟨rfl⟩)

theorem markPartial_cutWork (s : State) : CutWork s (markPartial s) := by
  unfold markPartial
  split
  · exact .refl s
  · exact ⟨rfl⟩

/-- What the gate itself does in a cut (R104). -/
theorem closeByCut_cutWork (s : State) : CutWork s (closeByCut s) := by
  have hclosed : CutWork s (closeGate (markPartial s)) := (markPartial_cutWork s).trans ⟨rfl⟩
  have hreleased := hclosed.trans ((abandonOps_cutWork (fun op => op.tag.isSome && op.tag == s.gate.holder) _).trans
    (releaseUnwritten_cutWork _))
  have hmix : ∀ (t : State) (b : Bool), CutWork t { t with mon := { t.mon with autoMix := b } } := fun _ _ => ⟨rfl⟩
  exact hreleased.trans (hmix _ _)

/-- The causes whose splice ends in a rule of its own: the cut is the gate's own work (R149, R151, R161). -/
def CutCause.plain : CutCause → Bool
  | .transport | .lock | .stop | .reset => true
  | _ => false

theorem cutGate_cutWork {c : CutCause} (hc : CutCause.plain c = true) (s : State) : CutWork s (cutGate c s) := by
  unfold cutGate
  split
  · cases c with
    | transport | lock => exact releaseUnwritten_cutWork s
    | stop | reset => exact .refl s
    | clock | fault | guarded | store => exact nomatch hc
  · cases c with
    | transport | lock | stop | reset => exact closeByCut_cutWork s
    | clock | fault | guarded | store => exact nomatch hc

/-! ### Both -/

/-- From `s` to `t` the engine and the gate work; every other block's record stays. -/
structure GateWork (s t : State) : Prop where
  frame : { t with
    fresh := s.fresh, notices := s.notices, tl := s.tl, banks := s.banks, eng := s.eng, slots := s.slots, order := s.order
    coding := s.coding, gate := s.gate, judge := s.judge
    intake := { t.intake with source := s.intake.source, fifo := s.intake.fifo, priming := s.intake.priming }
    mon := { t.mon with override := s.mon.override, autoMix := s.mon.autoMix } } = s

theorem GateWork.trans {s t u : State} (h : GateWork s t) (k : GateWork t u) : GateWork s u :=
  ⟨(congrArg (fun x : State => { x with
    fresh := s.fresh, notices := s.notices, tl := s.tl, banks := s.banks, eng := s.eng, slots := s.slots, order := s.order
    coding := s.coding, gate := s.gate, judge := s.judge
    intake := { x.intake with source := s.intake.source, fifo := s.intake.fifo, priming := s.intake.priming }
    mon := { x.mon with override := s.mon.override, autoMix := s.mon.autoMix } }) k.frame).trans h.frame⟩

theorem GateWork.ite {s t u : State} {c : Prop} [Decidable c] (h : c → GateWork s t) (k : ¬c → GateWork s u) :
    GateWork s (if c then t else u) := by
  split
  · exact h ‹_›
  · exact k ‹_›

theorem EngWork.gateWork {s t : State} (h : EngWork s t) : GateWork s t :=
  ⟨congrArg (fun x : State => { x with slots := s.slots, order := s.order, coding := s.coding, gate := s.gate, judge := s.judge
                                       mon := { x.mon with autoMix := s.mon.autoMix } }) h.frame⟩

theorem CutWork.gateWork {s t : State} (h : CutWork s t) : GateWork s t :=
  ⟨congrArg (fun x : State => { x with
    fresh := s.fresh, notices := s.notices, tl := s.tl, banks := s.banks, eng := s.eng
    intake := { x.intake with source := s.intake.source, fifo := s.intake.fifo, priming := s.intake.priming }
    mon := { x.mon with override := s.mon.override } }) h.frame⟩

theorem cutGate_gateWork (c : CutCause) (s : State) : GateWork s (cutGate c s) := by
  have hcut := (closeByCut_cutWork s).gateWork
  unfold cutGate
  split
  · cases c with
    | transport | lock => exact (releaseUnwritten_cutWork s).gateWork
    | clock | stop | reset | fault | guarded | store => exact (EngWork.refl s).gateWork
  · cases c with
    | transport | lock | stop | reset => exact hcut
    | clock | fault | store => exact hcut.trans (finishSplice_engWork ..).gateWork
    | guarded a => exact hcut.trans ((post_engWork ..).trans (finishSplice_engWork ..)).gateWork

/-! ### The timeline's record (R18) -/

/-- The state in which the jog window follows a new record of the timeline: its notice posted, a lock loss's break and cut made, and a
lock gain told the engine (R18, R138, R149). -/
def relocked (t : Timeline) (s : State) : State :=
  let old := s.tl.state
  let entered := t.state == .locked && old != .locked
  let exited := old == .locked && t.state != .locked
  let s1 := { s with tl := t }
  let s2 := if entered then post .lockChange 1 (some t.position) none s1
            else if exited then post .lockChange 0 (some t.position) none s1 else s1
  let s3 := if old.hasLock && !t.state.hasLock then cutGate .lock (engineBreak s2) else s2
  if entered then engineGain s3 else s3

theorem timelineSet_eq (t : Timeline) (s : State) : timelineSet t s = jogSync (relocked t s) := rfl

theorem relocked_gateWork (t : Timeline) (s : State) : GateWork s (relocked t s) := by
  unfold relocked
  extract_lets old entered exited s1 s2 s3
  have h1 : GateWork s s1 := ⟨rfl⟩
  have h2 : GateWork s s2 := GateWork.ite (fun _ => h1.trans (post_engWork ..).gateWork) fun _ =>
    GateWork.ite (fun _ => h1.trans (post_engWork ..).gateWork) fun _ => h1
  have h3 : GateWork s s3 :=
    GateWork.ite (fun _ => (h2.trans (engineBreak_engWork s2).gateWork).trans (cutGate_gateWork ..)) fun _ => h2
  exact GateWork.ite (fun _ => h3.trans (engineGain_engWork s3).gateWork) fun _ => h3

theorem relocked_jog (t : Timeline) (s : State) : (relocked t s).jog = s.jog := (congrArg State.jog (relocked_gateWork t s).frame :)

/-- The window follows a new record of the timeline, and the scrub pointer with it (R34, R35). -/
theorem timelineSet_window (t : Timeline) (s : State) : windowPins (timelineSet t s) ∧ scrubFollows s (timelineSet t s) := by
  rw [timelineSet_eq]
  refine ⟨jogSync_windowPins (relocked t s), ?_⟩
  have hfollows := jogSync_scrubFollows (relocked t s)
  unfold scrubFollows at hfollows ⊢
  rw [relocked_jog] at hfollows
  exact hfollows

/-- A record in the same state moves the window and nothing else. -/
theorem relocked_same {t : Timeline} {s : State} (h : t.state = s.tl.state) : relocked t s = { s with tl := t } := by
  have hlock : ∀ x : TlState, (x == .locked && x != .locked) = false ∧ (x.hasLock && !x.hasLock) = false := fun x => by cases x <;> decide
  unfold relocked
  simp only [h, (hlock s.tl.state).1, (hlock s.tl.state).2]
  rfl

theorem timelineSet_same {t : Timeline} {s : State} (h : t.state = s.tl.state) : timelineSet t s = jogSync { s with tl := t } := by
  rw [timelineSet_eq, relocked_same h]

/-! ### The obligations -/

/-- Settles O12. -/
theorem setCoastLimit : Obligations.SetCoastLimit := by
  intro p limit s hp
  refine ⟨fun h => command_runs hp (if_pos h), fun hlow hhigh => ?_⟩
  have hrange : ¬(limit.toNat < 1 ∨ 30 < limit.toNat) := by omega
  refine ⟨_, command_runs hp (if_neg hrange), ?_⟩
  dsimp only
  by_cases hbeyond : s.tl.state = .coasting ∧ limit.toNat < s.tl.coast
  · rw [if_pos hbeyond, if_pos hbeyond]
    obtain ⟨hpins, hscrub⟩ := timelineSet_window (Timeline.unlock { s.tl with coastLimit := limit.toNat }) s
    have hstate : (Timeline.unlock { s.tl with coastLimit := limit.toNat }).state ≠ .laying := nofun
    refine ⟨timelineSet_tl hstate s, hpins, hscrub, fun h => ?_⟩
    exact absurd (h hbeyond.1) (Nat.not_le.mpr hbeyond.2)
  · rw [if_neg hbeyond, if_neg hbeyond, timelineSet_same (t := { s.tl with coastLimit := limit.toNat }) rfl]
    have hframe := jogSync_frame { s with tl := { s.tl with coastLimit := limit.toNat } }
    have hsettled := jogSync_settled { s with tl := { s.tl with coastLimit := limit.toNat } }
    have hpins := jogSync_windowPins { s with tl := { s.tl with coastLimit := limit.toNat } }
    have hscrub := jogSync_scrubFollows { s with tl := { s.tl with coastLimit := limit.toNat } }
    generalize jogSync { s with tl := { s.tl with coastLimit := limit.toNat } } = t at *
    have htl : t.tl = { s.tl with coastLimit := limit.toNat } := (congrArg State.tl hframe :)
    exact ⟨htl, hpins, hscrub, fun _ => ⟨hsettled, congrArg (fun t : State => { t with tl := s.tl }) hframe⟩⟩

/-- Settles O4: a cut with cause RESET changes nothing that a device reset keeps. -/
theorem powerOnAndDeviceReset : Obligations.PowerOnAndDeviceReset := by
  refine ⟨fun s => ?_, fun p s hp => ?_⟩
  · have hpowered : Framer.powered = fun f => if f = .idle then .idle else .draining := by
      funext f
      cases f <;> rfl
    show Host.Outcome.next (powerOn s) = _
    unfold powerOn
    rw [hpowered]
  · have hcut := (cutGate_cutWork (c := .reset) rfl s).frame
    refine command_runs hp ?_
    unfold deviceValues
    generalize cutGate .reset s = t at hcut ⊢
    have hpending : t.pending = s.pending := (congrArg State.pending hcut :)
    have hfresh : t.fresh = s.fresh := (congrArg State.fresh hcut :)
    have hframers : t.framers = s.framers := (congrArg State.framers hcut :)
    have hguard : t.guard = s.guard := (congrArg State.guard hcut :)
    have hrelease : t.guardRelease = s.guardRelease := (congrArg State.guardRelease hcut :)
    have hclock : t.clock = s.clock := (congrArg State.clock hcut :)
    have heng : t.eng = s.eng := (congrArg State.eng hcut :)
    rw [hpending, hfresh, hframers, hguard, hrelease, hclock, heng]

end Sys2Proof.BlockWork
end

section
/-! SUPPORT. The commands that set or answer a record: geometry, queries, settings, the guard lock, notices (R9, R83, R108, R126 to R129,
R195 to R203). -/

namespace Sys2Proof.SettingRows

open Sys2Proof.Machine Sys2Proof.StepLaws Sys2Proof.StoreCommands Sys2Proof.BlockWork Sys2Proof.CueCommands

/-! ### Head geometry (R8, R9) -/

theorem resting_iff (e : EngState) : e.resting = true ↔ e = .idle ∨ e = .done ∨ e = .aborted := by
  cases e <;> simp [EngState.resting]

/-- A device reset gives the reset values of every block but those it keeps; here the geometry, the guard and the lock. -/
theorem resetDevice_runs {p : Port} (hp : permitted p 0x7F = true) (s : State) :
    exec (.resetDevice p) s = .next (answer p done (deviceValues (cutGate .reset s))) := command_runs hp rfl

theorem resetDevice_guard (s : State) : (deviceValues (cutGate .reset s)).guard = s.guard :=
  (congrArg State.guard (cutGate_cutWork (c := .reset) rfl s).frame :)

/-- A port's reset leaves what is neither a notice, a slot nor a fetch. -/
theorem resetPort_frame (p : Port) (s : State) :
    { resetPort p s with notices := s.notices, fetch := s.fetch, slots := s.slots, order := s.order } = s := by
  have hended := (endHolds_ended p (setNotices p (s.notices.get p).emptied s)).frame
  have hdropped := (dropFetch_frame p (endHolds p (setNotices p (s.notices.get p).emptied s))).1
  unfold resetPort
  generalize endHolds p (setNotices p (s.notices.get p).emptied s) = t at hended hdropped ⊢
  exact (congrArg (fun u : State => { u with notices := s.notices, slots := s.slots, order := s.order, fetch := s.fetch }) hdropped).trans
    (congrArg (fun u : State => { u with notices := s.notices }) hended)

theorem resetPort_geo (p : Port) (s : State) : (resetPort p s).geo = s.geo := (congrArg State.geo (resetPort_frame p s) :)

theorem resetPort_guard (p : Port) (s : State) : (resetPort p s).guard = s.guard := (congrArg State.guard (resetPort_frame p s) :)

/-- The heads of a mark reckoned LOCKED or COASTING (R8). -/
theorem reckon_placed {s : State} (hmode : s.tl.mode = .play) (hstate : s.tl.state = .locked ∨ s.tl.state = .coasting) :
    reckon s = { s with tl := { s.tl with
      head := reckonedWrite s.tl.position s.geo.d
      confHead := reckonedConf s.tl.position s.geo.d s.geo.c
      offered := reckonedOffer s.tl.position s.geo.d } } := by
  unfold reckon
  rw [if_neg (not_not_intro hmode)]
  rcases hstate with h | h <;> rw [h]

theorem confLeft_eq (q k : Nat) :
    (if k ≤ q then some (q - k) else none : Option Nat).bind (framesBefore 1) = if k < q then some (q - k - 1) else none := by
  by_cases hle : k ≤ q
  · rw [if_pos hle]
    show framesBefore 1 (q - k) = _
    unfold framesBefore
    exact if_congr (by omega) rfl rfl
  · rw [if_neg hle, if_neg (by omega)]
    rfl

/-- Settles O14. -/
theorem headGeometry : Obligations.HeadGeometry := by
  refine ⟨fun p d c s hp => ?command, fun s hmode hstate => ?heads, fun s => ⟨_, rfl, rfl⟩,
    fun p s hp => ⟨_, resetDevice_runs hp s, rfl⟩, fun p s => ⟨_, NoticeLines.exec_resetPort p s, resetPort_geo p s⟩⟩
  case command =>
    intro fits free
    have hfits : (d.toNat < 2 ∨ 6 < d.toNat ∨ c.toNat < 1 ∨ 4 < c.toNat) ↔ ¬fits := by
      simp only [fits]
      omega
    have hfree : (s.eng.state.resting = false ∨ s.gate.state ≠ .closed) ↔ ¬free := by
      rw [← Bool.not_eq_true, resting_iff]
      simp only [free]
      tauto
    refine ⟨fun h => command_runs hp (if_pos (hfits.mpr h)), fun h hbusy => ?_, fun h hidle => ?_⟩
    · exact command_runs hp ((if_neg (mt hfits.mp (not_not_intro h))).trans (if_pos (hfree.mpr hbusy)))
    · exact command_runs hp ((if_neg (mt hfits.mp (not_not_intro h))).trans (if_neg (mt hfree.mp (not_not_intro hidle))))
  case heads =>
    intro q
    rw [reckon_placed hmode hstate]
    exact ⟨rfl, rfl, confLeft_eq q (s.geo.d + s.geo.c)⟩

/-! ### Queries and settings -/

/-- Settles O17. -/
theorem queriesAnswerTheRecords : Obligations.QueriesAnswerTheRecords := by
  intro p s
  have hall : ∀ cmd, cmd ∉ studioBarred → cmd ∈ transportAllowed → permitted p cmd = true := by
    intro cmd hstudio htransport
    cases p with
    | deck => rfl
    | studio => exact permitted_of_not_barred nofun hstudio
    | transport => exact List.contains_iff_mem.mpr htransport
  exact ⟨command_runs (hall _ (by decide) (by decide)) rfl, command_runs (hall _ (by decide) (by decide)) rfl,
    command_runs (hall _ (by decide) (by decide)) rfl, command_runs (hall _ (by decide) (by decide)) rfl,
    fun release => command_runs (hall _ (by decide) (by decide)) rfl, command_runs (hall _ (by decide) (by decide)) rfl,
    command_runs (hall _ (by decide) (by decide)) rfl⟩

theorem be_one (x : Nat) : be 1 x = [BitVec.ofNat 8 x] := by simp [be]

theorem stoppable_iff (x : GateState) : x.stoppable = true ↔ x = .scheduled ∨ x = .opened := by
  cases x <;> simp [GateState.stoppable]

/-- Settles O24. -/
theorem settingCommands : Obligations.SettingCommands := by
  intro p a b w c s hp
  have permit : ∀ {cmd}, cmd ∉ studioBarred → permitted p cmd = true := permitted_of_not_barred hp
  refine ⟨?conceal, fun m hm => ?monitor, fun hm => ?noMonitor, fun hlimit => ?noLimit, fun hlimit => ?limit, fun src hsrc hfade => ?manual,
    fun hbad => ?noManual, fun hlow hhigh => ?preroll, fun hbad => ?noPreroll, command_runs (permit (by decide)) rfl,
    command_runs (permit (by decide)) rfl⟩
  case conceal =>
    split
    · rename_i hrange
      exact command_runs (permit (by decide)) (setting_taken (decide_eq_true hrange) _ s)
    · rename_i hrange
      exact command_runs (permit (by decide)) (setting_refused (decide_eq_false hrange) _ s)
  case monitor =>
    refine command_runs (permit (by decide)) ?_
    unfold monitorBody
    rw [hm]
    dsimp only
    rw [be_one]
    rfl
  case noMonitor =>
    refine command_runs (permit (by decide)) ?_
    unfold monitorBody
    rw [hm]
  case noLimit => exact command_runs (permit (by decide)) (if_pos hlimit)
  case limit =>
    have hstop : (decide (0 < a.toNat ∧ a.toNat ≤ s.gate.run) && s.gate.state.stoppable)
        = decide ((0 < a.toNat ∧ a.toNat ≤ s.gate.run) ∧ (s.gate.state = .scheduled ∨ s.gate.state = .opened)) := by
      rw [Bool.eq_iff_iff, Bool.and_eq_true, stoppable_iff, decide_eq_true_eq, decide_eq_true_eq]
    refine command_runs (permit (by decide)) ((if_neg (Nat.not_lt.mpr hlimit)).trans ?_)
    rw [← hstop]
  case manual =>
    refine command_runs (permit (by decide)) ?_
    unfold manualBody
    rw [hsrc]
    exact if_neg (Nat.not_lt.mpr hfade)
  case noManual =>
    refine command_runs (permit (by decide)) ?_
    unfold manualBody
    split
    · rfl
    · rename_i src hsrc
      exact if_pos (hbad.resolve_left fun h => nomatch hsrc.symm.trans h)
  case preroll => exact command_runs (permit (by decide)) (setting_taken (decide_eq_true ⟨hlow, hhigh⟩) _ s)
  case noPreroll => exact command_runs (permit (by decide)) (setting_refused (decide_eq_false (by omega)) _ s)

/-! ### The guard table and its lock (R126, R127, R129) -/

theorem guardBody_held {s : State} (h : s.guard.lock = true) (ok : Bool) (f : Guard → Guard) :
    guardBody ok f s = (s, refuse .held) := if_pos h

theorem isFlag_of_lt {b : Byte} (h : b.toNat < 2) : isFlag b = true := decide_eq_true h

/-- Settles O26. -/
theorem guardLock : Obligations.GuardLock := by
  refine ⟨fun s => rfl, fun s => rfl, fun s => rfl, fun s place flag first last hlock => ⟨?_, ?_, fun hflag => ?_⟩, fun g a b => rfl,
    fun s => ⟨_, rfl, rfl⟩, fun s => ⟨_, resetDevice_runs rfl s, congrArg Guard.lock (resetDevice_guard s)⟩,
    fun p s => ⟨_, NoticeLines.exec_resetPort p s, congrArg Guard.lock (resetPort_guard p s)⟩⟩
  · exact command_runs rfl (guardBody_held hlock ..)
  · exact command_runs rfl (guardBody_held hlock ..)
  · refine congrArg Host.Outcome.next ((command_fits (p := .deck) rfl (isFlag_of_lt hflag) _ s).trans ?_)
    rw [guardBody_held hlock]

theorem any_inSpan_iff (g : Guard) (a : Nat) : g.places.toList.any (inSpan a) = true
    ↔ ∃ (i : Fin 8) (x : Span), g.places[i] = some x ∧ x.first ≤ a ∧ a ≤ x.last := by
  rw [List.any_eq_true]
  constructor
  · rintro ⟨o, ho, hin⟩
    obtain ⟨k, hk, rfl⟩ := List.mem_iff_getElem.mp ho
    rw [Vector.getElem_toList] at hin
    have hk8 : k < 8 := by simpa using hk
    cases hplace : g.places[k] with
    | none =>
      rw [hplace] at hin
      exact nomatch hin
    | some x =>
      rw [hplace] at hin
      exact ⟨⟨k, hk8⟩, x, hplace, of_decide_eq_true hin⟩
  · rintro ⟨i, x, hplace, hin⟩
    refine ⟨some x, ?_, decide_eq_true hin⟩
    rw [← hplace]
    exact Vector.mem_toList_iff.mpr (Vector.getElem_mem i.isLt)

/-- Settles O27. -/
theorem guardedAddresses : Obligations.GuardedAddresses := by
  refine ⟨fun g a hinvert => ?_, fun g a hinvert => ?_, fun s => ⟨_, rfl, rfl, PortBytes.reset_place⟩, fun s => ?_, fun p s => ?_⟩
  · rw [guarded_eq, ← any_inSpan_iff, hinvert]
    simp
  · rw [guarded_eq, ← any_inSpan_iff, hinvert]
    simp
  · have hguard := resetDevice_guard s
    exact ⟨_, resetDevice_runs rfl s, congrArg Guard.places hguard, congrArg Guard.invert hguard⟩
  · have hguard := resetPort_guard p s
    exact ⟨_, NoticeLines.exec_resetPort p s, congrArg Guard.places hguard, congrArg Guard.invert hguard⟩

/-! ### Notices (R195 to R202) -/

theorem expirable_iff (k : NoticeKind) (n : Nat) (e : Notice) :
    expirable k n e = true ↔ e.kind = k ∧ e.subject = n ∧ e.deadline.isSome = true := by
  rw [expirable, Bool.and_eq_true, sameEntry_iff, and_assoc]

theorem PerPort.set_get_self {α : Type} (x : PerPort α) (p : Port) : x.set p (x.get p) = x := by cases p <;> rfl

/-- The only entry of a kind and subject is the only one that expires (R199). -/
theorem expire_split {q : NoticePort} (hok : q.ok) {before after : List Notice} {e : Notice} (hq : q.queue = before ++ e :: after)
    (hdeadline : e.deadline.isSome = true) :
    q.expire e.kind e.subject = { q with queue := before ++ after, expired := min 255 (q.expired + 1) } := by
  have hself : expirable e.kind e.subject e = true := (expirable_iff ..).mpr ⟨rfl, rfl, hdeadline⟩
  have hnodup := hok.2.1
  rw [hq, List.map_append, List.map_cons, List.nodup_middle] at hnodup
  have hothers : ∀ x ∈ before ++ after, (!expirable e.kind e.subject x) = true := by
    intro x hx
    rw [Bool.not_eq_true', Bool.eq_false_iff]
    intro hexp
    obtain ⟨hkind, hsubject, -⟩ := (expirable_iff ..).mp hexp
    refine (List.nodup_cons.mp hnodup).1 ?_
    rw [← List.map_append]
    exact List.mem_map.mpr ⟨x, hx, by rw [hkind, hsubject]⟩
  have hfilter : (before ++ e :: after).filter (fun x => !expirable e.kind e.subject x) = before ++ after := by
    rw [List.filter_append, List.filter_cons_of_neg (by rw [hself]; nofun), ← List.filter_append]
    exact List.filter_eq_self.mpr hothers
  have hany : q.queue.any (expirable e.kind e.subject) = true :=
    List.any_eq_true.mpr ⟨e, hq ▸ List.mem_append_right _ List.mem_cons_self, hself⟩
  unfold NoticePort.expire
  rw [if_pos hany, hq, hfilter]
  rfl

/-- Settles O36. -/
theorem noticeCommands : Obligations.NoticeCommands := by
  intro p s q
  refine ⟨fun hempty hp => command_runs hp ?_, fun n rest hq hp => command_runs hp ?_, fun kind route i hp hkind hroute => ?_,
    fun kind route hp hbad => command_runs hp ?_, fun flag hp => ⟨fun hflag => ?_, fun hflag => ?_⟩,
    fun sec hp => ⟨fun hlow hhigh => ?_, fun hbad => ?_⟩, fun k n hnone => ?_, fun k n e before after hok hq hkind hsubject hdeadline => ?_⟩
  · unfold collectBody
    dsimp only
    rw [hempty]
  · unfold collectBody
    dsimp only
    rw [hq]
    rfl
  · refine command_runs hp ((dif_pos (by omega)).trans ((if_pos hroute).trans ?_))
    have hi : (⟨kind.toNat - 1, by omega⟩ : Fin 16) = i := Fin.ext (by show kind.toNat - 1 = i.val; omega)
    rw [hi]
    rfl
  · unfold routeBody
    split
    · exact if_neg (by omega)
    · rfl
  · exact congrArg Host.Outcome.next (command_fits hp (isFlag_of_lt hflag) _ s)
  · have hfits : isFlag flag = false := decide_eq_false (Nat.not_lt.mpr hflag)
    show Host.Outcome.next (command p 0x72 (isFlag flag) _ s) = _
    rw [hfits, command_range hp]
  · exact command_runs hp (setting_taken (decide_eq_true ⟨hlow, hhigh⟩) _ s)
  · exact command_runs hp (setting_refused (decide_eq_false (by omega)) _ s)
  · have hstay : q.expire k n = q := if_neg fun hany => by
      obtain ⟨e, he, hexp⟩ := List.any_eq_true.mp hany
      exact hnone e he ((expirable_iff ..).mp hexp)
    show Host.Outcome.next (setNotices p (q.expire k n) s) = _
    rw [hstay]
    unfold setNotices
    rw [PerPort.set_get_self]
  · subst hkind hsubject
    show Host.Outcome.next (setNotices p (q.expire e.kind e.subject) s) = _
    rw [expire_split hok hq hdeadline]
    rfl

/-- Settles O37: the three cases of taking a notice. -/
theorem postedNotices : Obligations.PostedNotices := by
  intro k n a c s p q u
  have hu : u = if (s.routes[kindIndex k]).get p = true then q.take k n a c else q := post_get k n a c s p
  refine ⟨rfl, fun hroute => by rw [hu, hroute]; rfl, fun hroute => ?_⟩
  rw [hu, if_pos hroute]
  refine ⟨fun before e after hq hkind hsubject hothers => ?_, fun hnew => ⟨fun hfull => ?_, fun hroom => ?_⟩⟩
  · subst hkind hsubject
    rw [NoticeLines.take_coalesced ⟨e, by rw [hq]; exact List.mem_append_right _ List.mem_cons_self, rfl, rfl⟩, hq]
    have hsame : ∀ x ∈ before ++ after, sameEntry e.kind e.subject x = false := fun x hx => by
      rw [Bool.eq_false_iff]
      exact fun h => hothers x hx ((sameEntry_iff ..).mp h)
    have hself : sameEntry e.kind e.subject e = true := (sameEntry_iff ..).mpr ⟨rfl, rfl⟩
    have hleft : ∀ l : List Notice, (∀ x ∈ l, sameEntry e.kind e.subject x = false) →
        l.map (fun x => if sameEntry e.kind e.subject x then { x with count := saturate 255 (x.count + 1) } else x) = l := fun l hl =>
      (List.map_congr_left fun x hx => if_neg (by rw [hl x hx]; nofun)).trans (List.map_id l)
    rw [List.map_append, List.map_cons, if_pos hself, hleft before fun x hx => hsame x (List.mem_append_left _ hx),
      hleft after fun x hx => hsame x (List.mem_append_right _ hx)]
    rfl
  · have hnone : ¬∃ e ∈ q.queue, e.kind = k ∧ e.subject = n := fun ⟨e, he, h⟩ => hnew e he h
    exact NoticeLines.take_full hnone hfull a c
  · have hnone : ¬∃ e ∈ q.queue, e.kind = k ∧ e.subject = n := fun ⟨e, he, h⟩ => hnew e he h
    exact NoticeLines.take_joins hnone hroom a c

end Sys2Proof.SettingRows
end

section
/-! SUPPORT. Writes to the fly banks and to the draft list, cues and punch inputs (R40, R132 to R134, R162 to R176). -/

namespace Sys2Proof.TableRows

open Sys2Proof.Machine Sys2Proof.StepLaws Sys2Proof.StoreCommands Sys2Proof.CueCommands

/-! ### Fly banks (R40) -/

/-- A place that is none of a pair's two. -/
theorem read_writePair_other {m : Memory} {i a : Nat} (h : a ≠ 2 * i ∧ a ≠ 2 * i + 1) (q : SamplePair) :
    ((m.write (2 * i) q.left).write (2 * i + 1) q.right).read a = m.read a :=
  (Memory.read_write_other _ _ _ _ h.2).trans (Memory.read_write_other _ _ _ _ h.1)

theorem read_writePair_left (m : Memory) (i : Nat) (q : SamplePair) :
    ((m.write (2 * i) q.left).write (2 * i + 1) q.right).read (2 * i) = q.left :=
  (Memory.read_write_other _ _ _ _ (by omega)).trans (Memory.read_write_same ..)

/-- The next place after a step around the bank. -/
theorem wrap_succ (L i k : Nat) : ((i + 1) % L + k) % L = (i + (k + 1)) % L := by
  rw [Nat.mod_add_mod]
  congr 1
  omega

/-- Places that no pair of the list takes keep what they held (R40). -/
theorem storePairs_read_other (L : Nat) : ∀ (l : List SamplePair) (m : Memory) (i a : Nat), i < L →
    (∀ k, k < l.length → a ≠ 2 * ((i + k) % L) ∧ a ≠ 2 * ((i + k) % L) + 1) → (storePairs L m i l).read a = m.read a
  | [], _, _, _, _, _ => rfl
  | q :: l, m, i, a, hi, h => by
    have hfirst := h 0 (Nat.succ_pos _)
    rw [Nat.add_zero, Nat.mod_eq_of_lt hi] at hfirst
    refine (storePairs_read_other L l _ ((i + 1) % L) a (Nat.mod_lt _ (by omega)) fun k hk => ?_).trans (read_writePair_other hfirst q)
    rw [wrap_succ]
    exact h (k + 1) (Nat.succ_lt_succ hk)

/-- Two places of one round around the bank differ. -/
theorem wrap_ne {L i k : Nat} (hi : i < L) (hk : k + 1 < L) : (i + (k + 1)) % L ≠ i := by
  by_cases hwrap : i + (k + 1) < L
  · rw [Nat.mod_eq_of_lt hwrap]
    omega
  · rw [Nat.mod_eq_sub_mod (by omega), Nat.mod_eq_of_lt (by omega)]
    omega

/-- Every pair of the list reads back from its place (R40). -/
theorem storePairs_read (L : Nat) : ∀ (l : List SamplePair) (m : Memory) (i : Nat), l.length ≤ L → i < L →
    ∀ (k : Nat) (h : k < l.length), (storePairs L m i l).read (2 * ((i + k) % L)) = l[k].left
      ∧ (storePairs L m i l).read (2 * ((i + k) % L) + 1) = l[k].right
  | [], _, _, _, _, _, h => absurd h (Nat.not_lt_zero _)
  | q :: l, m, i, hl, hi, 0, _ => by
    have hlater : ∀ k, k < l.length → ((i + 1) % L + k) % L ≠ i := fun k hk => by
      rw [wrap_succ]
      exact wrap_ne hi (by simp at hl; omega)
    have hnext : (i + 1) % L < L := Nat.mod_lt _ (by omega)
    rw [Nat.add_zero, Nat.mod_eq_of_lt hi]
    constructor
    · refine (storePairs_read_other L l _ _ _ hnext fun k hk => ?_).trans (read_writePair_left m i q)
      have := hlater k hk
      omega
    · refine (storePairs_read_other L l _ _ _ hnext fun k hk => ?_).trans (Memory.read_write_same ..)
      have := hlater k hk
      omega
  | q :: l, m, i, hl, hi, k + 1, h => by
    have hread := storePairs_read L l ((m.write (2 * i) q.left).write (2 * i + 1) q.right) ((i + 1) % L) (by simp at hl; omega)
      (Nat.mod_lt _ (by omega)) k (Nat.lt_of_succ_lt_succ h)
    rw [wrap_succ] at hread
    exact hread

/-- Settles O22: the answers by the tests of `writeBank`, the contents by `storePairs_read`. -/
theorem flyWritesStoreTheirPairs : Obligations.FlyWritesStoreTheirPairs := by
  refine ⟨fun p bank start pairs s hwrite hnext n hn => ?taken, fun p bank start pairs s hwrite hnext hn => ?noBank,
    fun L i m l hl hi => ⟨storePairs_read L l m i hl hi, fun a ha => storePairs_read_other L l m i a hi ha⟩⟩
  case taken =>
    intro b L taken
    have hfly : writeFlyBody bank start.toNat pairs s = writeBank n start.toNat pairs s := by
      unfold writeFlyBody
      rw [hn]
    have hflyNext : writeFlyNextBody bank pairs s = writeBank n b.writePos pairs s := by
      unfold writeFlyNextBody
      rw [hn]
    have hfits : ∀ {a : Nat}, 1 ≤ pairs.length → pairs.length ≤ 64 → a < L → ¬(pairs.length < 1 ∨ 64 < pairs.length ∨ L ≤ a) := by omega
    have hstate : ∀ {a : Nat}, 1 ≤ pairs.length → pairs.length ≤ 64 → a < L → b.state = .playing ∨ b.state = .spent →
        writeBank n a pairs s = (s, refuse .state) := fun h1 h2 h3 h => (if_neg (hfits h1 h2 h3)).trans (if_pos h)
    have hstored : ∀ {a : Nat}, 1 ≤ pairs.length → pairs.length ≤ 64 → a < L → b.state ≠ .playing → b.state ≠ .spent →
        writeBank n a pairs s = (setBank n { b with pairs := storePairs L b.pairs a pairs, writePos := (a + pairs.length) % L
                                                    state := if b.state = .empty then .loading else b.state } s,
          ⟨.done, be 2 ((a + pairs.length) % L)⟩) := fun h1 h2 h3 h4 h5 =>
      (if_neg (hfits h1 h2 h3)).trans (if_neg fun h => h.elim h4 h5)
    refine ⟨fun h => command_runs hwrite (hfly.trans (if_pos h)), fun h => command_runs hnext (hflyNext.trans (PortBytes.writeBank_refused h ..)),
      fun h1 h2 h3 => ⟨fun h => command_runs hwrite (hfly.trans (hstate h1 h2 h3 h)),
        fun h4 h5 => command_runs hwrite (hfly.trans (hstored h1 h2 h3 h4 h5))⟩,
      fun h1 h2 h3 => ⟨fun h => command_runs hnext (hflyNext.trans (hstate h1 h2 h3 h)),
        fun h4 h5 => command_runs hnext (hflyNext.trans (hstored h1 h2 h3 h4 h5))⟩⟩
  case noBank =>
    refine ⟨command_runs hwrite ?_, command_runs hnext ?_⟩
    · unfold writeFlyBody
      rw [hn]
    · unfold writeFlyNextBody
      rw [hn]

/-! ### The draft list (R132 to R134, R160) -/

/-- A place within a table is set as by its index. -/
theorem set!_eq {α : Type} {n : Nat} (v : Vector α n) {i : Nat} (h : i < n) (x : α) : v.set! i x = v.set i x h := by
  ext j hj
  simp [Vector.set!_eq_setIfInBounds, Vector.getElem_setIfInBounds, Vector.getElem_set]

/-- The tests of R133, spelt out. -/
theorem valid_iff (e : Entry) (S : Nat) : e.valid S = true ↔
    (e.inPoint.addr < 2592000 ∧ e.outPoint.addr < 2592000 ∧ e.inPoint.offset < S ∧ e.outPoint.offset < S
      ∧ (e.inPoint.addr < e.outPoint.addr ∨ e.inPoint.addr = e.outPoint.addr ∧ e.inPoint.offset < e.outPoint.offset)
      ∧ (e.timecode.isSome = true → e.method = .assemble) ∧ (∀ t, e.timecode = some t → t.hh < 24 ∧ t.mm < 60 ∧ t.ss < 60 ∧ t.ff < 30)
      ∧ (e.lay = true → e.method = .assemble ∧ e.source ≠ .fly ∧ (e.take = none ∨ e.take = some 0))
      ∧ e.fadeIn ≤ 3200 ∧ e.fadeOut ≤ 3200 ∧ e.fadeIn ≤ 2 * S ∧ e.fadeOut ≤ 2 * S
      ∧ e.fadeIn + e.fadeOut ≤ e.outPoint.addr * S + e.outPoint.offset - (e.inPoint.addr * S + e.inPoint.offset)) := by
  have htc : (e.timecode.isNone || e.method == .assemble) = true ↔ (e.timecode.isSome = true → e.method = .assemble) := by
    cases e.timecode <;> simp
  have hlegal : e.timecode.all Timecode.legal = true ↔ ∀ t, e.timecode = some t → t.hh < 24 ∧ t.mm < 60 ∧ t.ss < 60 ∧ t.ff < 30 := by
    cases e.timecode <;> simp [Timecode.legal]
  have hlay : (!e.lay || (e.method == .assemble && e.source != .fly)) = true ∧ (!e.lay || e.take == none || e.take == some 0) = true
      ↔ (e.lay = true → e.method = .assemble ∧ e.source ≠ .fly ∧ (e.take = none ∨ e.take = some 0)) := by
    cases e.lay <;> simp [and_assoc]
  unfold Entry.valid
  simp only [Bool.and_eq_true, legalAddr, Config.addrCount, Point.before, spanOf, decide_eq_true_eq, htc, hlegal]
  constructor
  · rintro ⟨⟨⟨⟨⟨⟨⟨⟨⟨⟨⟨⟨⟨hin, hout⟩, hinS⟩, houtS⟩, hbefore⟩, hmethod⟩, htimecode⟩, hlay1⟩, hlay2⟩, hfi⟩, hfo⟩, hfiS⟩, hfoS⟩, hspan⟩
    exact ⟨of_decide_eq_true hin, of_decide_eq_true hout, hinS, houtS, hbefore, hmethod, htimecode, hlay.mp ⟨by simpa using hlay1, by simpa using hlay2⟩, hfi, hfo, hfiS, hfoS,
      of_decide_eq_true hspan⟩
  · rintro ⟨hin, hout, hinS, houtS, hbefore, hmethod, htimecode, hlays, hfi, hfo, hfiS, hfoS, hspan⟩
    obtain ⟨hlay1, hlay2⟩ := hlay.mpr hlays
    exact ⟨⟨⟨⟨⟨⟨⟨⟨⟨⟨⟨⟨⟨decide_eq_true hin, decide_eq_true hout⟩, hinS⟩, houtS⟩, hbefore⟩, hmethod⟩, htimecode⟩, by simpa using hlay1⟩, by simpa using hlay2⟩,
      hfi⟩, hfo⟩, hfiS⟩, hfoS⟩, decide_eq_true hspan⟩

theorem setDraft_eq {place : Nat} (h : place < 16) (o : Option Entry) (s : State) : setDraft ⟨place, h⟩ o s =
    ({ s with eng := { s.eng with draft := s.eng.draft.set! place o, version := (s.eng.version + 1) % 65536 } },
      ⟨.done, be 2 ((s.eng.version + 1) % 65536)⟩) := by
  unfold setDraft
  rw [set!_eq _ h]

/-- Settles O29. -/
theorem draftListAndItsReplies : Obligations.DraftListAndItsReplies := by
  intro p place selector raw s hp v S
  have permit : ∀ {cmd}, cmd ∉ studioBarred → permitted p cmd = true := permitted_of_not_barred hp
  refine ⟨fun e he hplace => ⟨fun hvalid => command_runs (permit (by decide)) ?_, valid_iff e S⟩,
    fun h => command_runs (permit (by decide)) ?_, fun hplace => command_runs (permit (by decide)) ?_,
    fun hplace => command_runs (permit (by decide)) (dif_neg (Nat.not_lt.mpr hplace)),
    fun i hi => ⟨command_runs (permit (by decide)) ?_, command_runs (permit (by decide)) ?_⟩,
    fun h => command_runs (permit (by decide)) ?_, fun r hr => command_runs (permit (by decide)) ?_,
    fun hr => command_runs (permit (by decide)) ?_⟩
  · unfold writeEntryBody
    rw [he]
    exact (dif_pos hplace).trans ((if_pos hvalid).trans (setDraft_eq ..))
  · unfold writeEntryBody
    split
    · rfl
    · rename_i e he
      by_cases hplace : place.toNat < 16
      · refine (dif_pos hplace).trans (if_neg fun hvalid => ?_)
        rcases h with hnone | hbig | ⟨e', he', hbad⟩
        · exact nomatch he.symm.trans hnone
        · omega
        · obtain rfl := Option.some.inj (he.symm.trans he')
          exact nomatch hvalid.symm.trans hbad
      · exact dif_neg hplace
  · exact (dif_pos hplace).trans (setDraft_eq ..)
  · obtain ⟨i, hi16⟩ := i
    subst hi
    exact dif_pos hi16
  · obtain ⟨i, hi16⟩ := i
    subst hi
    exact dif_pos hi16
  · unfold readEntryBody
    split
    · dsimp only
      split
      · omega
      · omega
      · rfl
    · rfl
  · unfold readResultBody
    rw [hr]
  · unfold readResultBody
    rw [hr]

/-! ### Cues (R162, R163) -/

theorem named_isSome_iff {α : Type} (l : List α) (b : Byte) : (named l b).isSome = true ↔ b.toNat < l.length := by
  simp [named]

/-- The value of a timecode part as a byte carries it. -/
def partValue (b : Byte) : Option Nat := if b = 0xFF then none else some b.toNat

theorem cuePart_eq_some_iff (n : Nat) (b : Byte) (o : Option Nat) :
    cuePart n b = some o ↔ (b.toNat < n ∨ b = 0xFF) ∧ o = partValue b := by
  unfold cuePart partValue
  by_cases hany : b = 0xFF
  · simp [hany, eq_comm]
  · rw [if_neg hany, if_neg hany]
    by_cases hlt : b.toNat < n
    · simp [hlt, eq_comm]
    · exact iff_of_false (by rw [if_neg hlt]; nofun) fun h => h.1.elim hlt hany

/-- The cue that WRITE CUE carries, part by part (R163). -/
theorem cueOf_eq_some_iff (hh mm ss ff action rep armed : Byte) (c : Cue) : cueOf hh mm ss ff action rep armed = some c ↔
    ∃ a r, named cueActions action = some a ∧ named cueRepeats rep = some r
      ∧ ((hh.toNat < 24 ∨ hh = 0xFF) ∧ (mm.toNat < 60 ∨ mm = 0xFF) ∧ (ss.toNat < 60 ∨ ss = 0xFF) ∧ (ff.toNat < 30 ∨ ff = 0xFF))
      ∧ (isFlag armed && ((partValue hh).isSome || (partValue mm).isSome || (partValue ss).isSome || (partValue ff).isSome)) = true
      ∧ c = { present := true, armed := armed == 1, hh := partValue hh, mm := partValue mm, ss := partValue ss, ff := partValue ff
              action := a, rep := r, lastFiring := none } := by
  unfold cueOf
  simp only [Option.bind_eq_bind, Option.bind_eq_some_iff, cuePart_eq_some_iff, Option.ite_none_right_eq_some, Option.some.injEq]
  constructor
  · rintro ⟨h, ⟨hh, rfl⟩, m, ⟨hm, rfl⟩, x, ⟨hx, rfl⟩, f, ⟨hf, rfl⟩, a, ha, r, hr, hset, rfl⟩
    exact ⟨a, r, ha, hr, ⟨hh, hm, hx, hf⟩, hset, rfl⟩
  · rintro ⟨a, r, ha, hr, ⟨hh, hm, hx, hf⟩, hset, rfl⟩
    exact ⟨_, ⟨hh, rfl⟩, _, ⟨hm, rfl⟩, _, ⟨hx, rfl⟩, _, ⟨hf, rfl⟩, a, ha, r, hr, hset, rfl⟩

theorem partValue_isSome_iff (b : Byte) : (partValue b).isSome = true ↔ b ≠ 0xFF := by
  unfold partValue
  by_cases h : b = 0xFF <;> simp [h]

theorem cueOf_isSome_iff (hh mm ss ff action rep armed : Byte) : (cueOf hh mm ss ff action rep armed).isSome = true ↔
    (hh.toNat < 24 ∨ hh = 0xFF) ∧ (mm.toNat < 60 ∨ mm = 0xFF) ∧ (ss.toNat < 60 ∨ ss = 0xFF) ∧ (ff.toNat < 30 ∨ ff = 0xFF)
      ∧ ¬(hh = 0xFF ∧ mm = 0xFF ∧ ss = 0xFF ∧ ff = 0xFF) ∧ action.toNat < 6 ∧ rep.toNat < 2 ∧ armed.toNat < 2 := by
  have haction := named_isSome_iff cueActions action
  have hrep := named_isSome_iff cueRepeats rep
  rw [Option.isSome_iff_exists] at haction hrep ⊢
  simp only [cueOf_eq_some_iff, isFlag, Bool.and_eq_true, Bool.or_eq_true, partValue_isSome_iff, decide_eq_true_eq]
  constructor
  · rintro ⟨c, a, r, ha, hr, ⟨hh, hm, hx, hf⟩, ⟨hflag, hset⟩, -⟩
    exact ⟨hh, hm, hx, hf, by tauto, haction.mp ⟨a, ha⟩, hrep.mp ⟨r, hr⟩, hflag⟩
  · rintro ⟨hh, hm, hx, hf, hset, ha, hr, hflag⟩
    obtain ⟨a, ha⟩ := haction.mpr ha
    obtain ⟨r, hr⟩ := hrep.mpr hr
    exact ⟨_, a, r, ha, hr, ⟨hh, hm, hx, hf⟩, ⟨hflag, by tauto⟩, rfl⟩

/-! ### Punch inputs (R169 to R175) -/

theorem punchOf_of_le {b : Byte} (h : 2 ≤ b.toNat) : punchOf b = none := by
  unfold punchOf
  split <;> first | omega | rfl

theorem punchBody_noInput {input : Byte} (h : 2 ≤ input.toNat) (f : Punch → Option Punch) (s : State) :
    punchBody input f s = (s, refuse .range) := by
  unfold punchBody
  rw [punchOf_of_le h]

theorem punchBody_refused {input : Byte} {l : PunchLine} {f : Punch → Option Punch} {s : State} (hl : punchOf input = some l)
    (hf : f (punchLine s l) = none) : punchBody input f s = (s, refuse .range) := by
  unfold punchBody
  rw [hl]
  dsimp only
  rw [hf]

theorem punchBody_taken {input : Byte} {l : PunchLine} {f : Punch → Option Punch} {s : State} {x : Punch} (hl : punchOf input = some l)
    (hf : f (punchLine s l) = some x) : punchBody input f s = (setPunch l x s, ⟨.done, punchBytes x⟩) := by
  unfold punchBody
  rw [hl]
  dsimp only
  rw [hf]

/-- Settles O34. -/
theorem cueAndPunchCommands : Obligations.CueAndPunchCommands := by
  refine ⟨fun hh mm ss ff action rep armed => ⟨cueOf_isSome_iff .., fun c hc => ?parts⟩, fun p s hp => ?commands⟩
  case parts =>
    obtain ⟨a, r, ha, hr, -, -, rfl⟩ := (cueOf_eq_some_iff ..).mp hc
    exact ⟨rfl, rfl, rfl, rfl, ha, hr, beq_iff_eq, rfl, rfl⟩
  case commands =>
    have permit : ∀ {cmd}, cmd ∉ studioBarred → permitted p cmd = true := permitted_of_not_barred hp
    refine ⟨fun n hh mm ss ff action rep armed => ⟨fun h => command_runs (permit (by decide)) ?_, fun i c hi hc =>
      command_runs (permit (by decide)) ?_⟩, fun input a d q r k arm h => ⟨?_, ?_, ?_⟩, fun input l hl => ?lines⟩
    · unfold writeCueBody
      split
      · rfl
      · rename_i c hc
        exact dif_neg (Nat.not_lt.mpr (h.resolve_right fun hnone => nomatch hc.symm.trans hnone))
    · obtain ⟨i, hi24⟩ := i
      subst hi
      unfold writeCueBody
      rw [hc]
      exact dif_pos hi24
    · exact command_runs (permit (by decide)) (punchBody_noInput h ..)
    · exact command_runs (permit (by decide)) (punchBody_noInput h ..)
    · exact command_runs (permit (by decide)) (punchBody_noInput h ..)
    case lines =>
      intro x taken
      have hline : punchOf input = some l := by
        rcases hl with ⟨rfl, rfl⟩ | ⟨rfl, rfl⟩ <;> rfl
      refine ⟨fun a d q r k va vd vq vr vk ha hd hq hr hk => command_runs (permit (by decide)) (punchBody_taken hline ?_),
        fun a d q r k h => command_runs (permit (by decide)) (punchBody_refused hline ?_),
        command_runs (permit (by decide)) (punchBody_taken hline rfl), command_runs (permit (by decide)) (punchBody_taken hline rfl),
        fun arm harm => command_runs (permit (by decide)) (punchBody_refused hline ?_),
        command_runs (permit (by decide)) (punchBody_taken hline rfl)⟩
      · simp only [configured, ha, hd, hq, hr, hk]
        rfl
      · rcases h with h | h | h | h | h <;> simp [configured, h]
      · unfold armSetting
        split <;> first | omega | rfl

/-! ### Samples of a punch input (R170 to R172) -/

theorem punchLine_setPunch (l : PunchLine) (x : Punch) (s : State) : punchLine (setPunch l x s) l = x := by cases l <;> rfl

theorem setPunch_setPunch (l : PunchLine) (x y : Punch) (s : State) : setPunch l y (setPunch l x s) = setPunch l y s := by
  cases l <;> rfl

theorem setPunch_frame (l : PunchLine) (x : Punch) (s : State) : { setPunch l x s with punchA := s.punchA, punchB := s.punchB } = s := by
  cases l <;> rfl

theorem setPunch_eng (l : PunchLine) (x : Punch) (s : State) : (setPunch l x s).eng = s.eng := by cases l <;> rfl

theorem setPunch_notices (l : PunchLine) (x : Punch) (s : State) : (setPunch l x s).notices = s.notices := by cases l <;> rfl

theorem setPunch_routes (l : PunchLine) (x : Punch) (s : State) : (setPunch l x s).routes = s.routes := by cases l <;> rfl

theorem setPunch_framers (l : PunchLine) (x : Punch) (s : State) : (setPunch l x s).framers = s.framers := by cases l <;> rfl

theorem post_setPunch (k : NoticeKind) (n : Nat) (a : Option Nat) (c : Option Result) (l : PunchLine) (x : Punch) (s : State) :
    post k n a c (setPunch l x s) = setPunch l x (post k n a c s) := by cases l <;> rfl

/-- A detection's action, its answer recorded and its notice posted (R171). -/
theorem detect_eq (l : PunchLine) (active : Bool) (s : State) :
    let r := punchAction (punchLine s l) active (setPunch l { punchLine s l with detected := true } s)
    detect l active s = setPunch l { punchLine r.1 l with
        last := some (active, r.2), armed := (punchLine r.1 l).armed && (punchLine r.1 l).rep == .continuous }
      (post .punchDetected (lineNum l) none (refusalCode r.2) r.1) := by
  intro r
  have hdetect : detect l active s = setPunch l
      { punchLine (post .punchDetected (lineNum l) none (refusalCode r.2) (setPunch l { punchLine r.1 l with last := some (active, r.2) } r.1)) l with
        armed := (punchLine (post .punchDetected (lineNum l) none (refusalCode r.2)
          (setPunch l { punchLine r.1 l with last := some (active, r.2) } r.1)) l).armed && (punchLine (post .punchDetected (lineNum l) none
          (refusalCode r.2) (setPunch l { punchLine r.1 l with last := some (active, r.2) } r.1)) l).rep == .continuous }
      (post .punchDetected (lineNum l) none (refusalCode r.2) (setPunch l { punchLine r.1 l with last := some (active, r.2) } r.1)) := rfl
  rw [hdetect, post_setPunch, punchLine_setPunch, setPunch_setPunch]

theorem refusalCode_eq (r : Result) : refusalCode r = if r = .done ∨ r = .accepted then none else some r := by cases r <;> rfl

/-- An action taken in a state is the Deck Port's command of that action in that state (R172). -/
def ActsAs (i : Instr) (s : State) (r : State × Result) : Prop :=
  ∃ d : Reply, d.code = r.2 ∧ exec i s = .next (answer .deck d r.1) ∧ r.1.framers = s.framers

theorem ActsAs.bare {i : Instr} {cmd : Nat} {f : State → State × Result} {s : State}
    (hrun : exec i s = .next (command .deck cmd true (fun t => Machine.bare (f t)) s)) (hmove : Move s (f s).1) : ActsAs i s (f s) :=
  ⟨refuse (f s).2, rfl, hrun.trans (congrArg _ (command_permitted (permitted_deck cmd) ..)),
    congrArg Settings.framers hmove.settings⟩

theorem punchIn_acts (s : State) : ActsAs (.punchIn .deck) s (punchIn s) := .bare rfl (punchIn_step (Move.refl s))

theorem punchOut_acts (s : State) : ActsAs (.punchOut .deck) s (punchOut s) := .bare rfl (punchOut_step (Move.refl s))

theorem stopNow_acts (s : State) : ActsAs (.stopProgramNow .deck) s (stopNow s) := .bare rfl (stopNow_step (Move.refl s))

theorem stopAtEnd_acts (s : State) : ActsAs (.stopProgramAtEnd .deck) s (stopAtEnd s) := .bare rfl (stopAtEnd_step (Move.refl s))

theorem startRecord_acts {s : State} (h : s.eng.version < 65536) :
    ActsAs (.startProgram .deck 0 1 (BitVec.ofNat 16 s.eng.version)) s (startProgram .record 1 none s) := by
  have hversion : (BitVec.ofNat 16 s.eng.version).toNat = s.eng.version := by
    rw [BitVec.toNat_ofNat, Nat.mod_eq_of_lt h]
  have hcurrent : startProgram .record 1 (some s.eng.version) s = startProgram .record 1 none s := by simp [startProgram]
  refine ⟨(startBody 0 1 s.eng.version s).2, ?_, ?_, ?_⟩
  · show (if (startProgram .record 1 (some s.eng.version) s).2 = .accepted then (_ : Reply) else _).code = _
    rw [hcurrent]
    split
    · rename_i haccepted
      exact haccepted.symm
    · rfl
  · show Host.Outcome.next (command .deck 0x53 true (startBody 0 (1 : Byte).toNat (BitVec.ofNat 16 s.eng.version).toNat) s) = _
    rw [command_permitted (permitted_deck _), hversion, ← hcurrent]
    rfl
  · exact congrArg Settings.framers (startProgram_step (Move.refl s) ..).settings

/-- Settles O35. -/
theorem punchSamples : Obligations.PunchSamples := by
  intro l v s x n active detects found
  have hn : lineNum l = n := by cases l <;> rfl
  have hdetects : (x.armed && (active || x.detection == .level)) = true ↔ detects := by
    simp only [active, detects, Bool.and_eq_true, Bool.or_eq_true, beq_iff_eq]
  have haccepted : v = x.previous → v ≠ x.filtered → exec (.punchSample l v) s = .next
      (if x.armed && (active || x.detection == .level) then detect l active (setPunch l { x with filtered := v, previous := v } s)
        else setPunch l { x with filtered := v, previous := v } s) := fun h1 h2 => congrArg Host.Outcome.next (if_pos ⟨h1, h2⟩)
  have hfound : ∀ (r : State × Result), punchAction { x with filtered := v, previous := v } active found = r →
      detect l active (setPunch l { x with filtered := v, previous := v } s)
        = setPunch l { punchLine r.1 l with last := some (active, r.2)
                                            armed := (punchLine r.1 l).armed && (punchLine r.1 l).rep == .continuous }
          (post .punchDetected n none (refusalCode r.2) r.1) := fun r hr => by
    rw [detect_eq, punchLine_setPunch, setPunch_setPunch, hn]
    rw [show punchAction { x with filtered := v, previous := v } active
      (setPunch l { x with filtered := v, previous := v, detected := true } s) = r from hr]
  refine ⟨fun h => congrArg Host.Outcome.next (if_neg fun hboth => h.elim (fun hp => hp hboth.1) hboth.2), fun h1 h2 =>
    ⟨fun hnot => ?_, fun hdet hnotify => ?_, fun hdet hact hversion => ?_⟩⟩
  · rw [haccepted h1 h2, if_neg (mt hdetects.mp hnot)]
  · have hrun := (haccepted h1 h2).trans (congrArg _ (if_pos (hdetects.mpr hdet)))
    have haction : punchAction { x with filtered := v, previous := v } active found = (found, .done) := by
      unfold punchAction
      rw [show ({ x with filtered := v, previous := v } : Punch).action = .notify from hnotify]
    rw [hfound _ haction] at hrun
    refine ⟨_, hrun, ?_, ?_, ?_⟩
    · rw [punchLine_setPunch, punchLine_setPunch]
      show ({ x with previous := v, filtered := v, detected := true, last := _, armed := x.armed && x.rep == .continuous } : Punch) = _
      rw [hdet.1, Bool.true_and]
      rfl
    · rw [setPunch_notices]
      exact SpliceEnds.post_notices_congr (setPunch_routes ..) (setPunch_notices ..) ..
    · cases l <;> rfl
  · have hrun := (haccepted h1 h2).trans (congrArg _ (if_pos (hdetects.mpr hdet)))
    have hacts : ∀ i : Instr, ∀ r : State × Result, punchAction { x with filtered := v, previous := v } active found = r →
        ActsAs i found r → ∃ d u, exec i found = .next (answer .deck d u) ∧ u.framers = s.framers ∧ exec (.punchSample l v) s =
          .next (setPunch l { punchLine u l with last := some (active, d.code)
                                                 armed := (punchLine u l).armed && (punchLine u l).rep == .continuous }
            (post .punchDetected n none (if d.code = .done ∨ d.code = .accepted then none else some d.code) u)) := by
      rintro i r hr ⟨d, hd, hexec, hframers⟩
      refine ⟨d, r.1, hexec, hframers.trans (setPunch_framers ..), ?_⟩
      rw [hrun, hfound r hr, hd, refusalCode_eq]
    intro sent
    have heng : found.eng = s.eng := setPunch_eng ..
    cases haction : x.action with
    | notify => exact absurd haction hact
    | manualPunch =>
      cases hdetection : x.detection with
      | edge =>
        have hsent : sent = if punchOpen s then .punchOut .deck else .punchIn .deck := by simp only [sent, haction, hdetection]
        have htoggle : punchAction { x with filtered := v, previous := v } active found = punchToggle found := by
          simp only [punchAction, haction, hdetection]
        have hopen : punchOpen found = punchOpen s := by unfold punchOpen; rw [heng]
        rw [hsent]
        by_cases hpunch : punchOpen s = true
        · rw [if_pos hpunch]
          exact hacts _ _ (htoggle.trans (if_pos (hopen.trans hpunch))) (punchOut_acts found)
        · rw [if_neg hpunch]
          exact hacts _ _ (htoggle.trans (if_neg (by rwa [hopen]))) (punchIn_acts found)
      | level =>
        have hsent : sent = if active then .punchIn .deck else .punchOut .deck := by simp only [sent, haction, hdetection]
        have hlevel : punchAction { x with filtered := v, previous := v } active found
            = if active then punchIn found else punchOut found := by simp only [punchAction, haction, hdetection]
        rw [hsent]
        by_cases hactive : active = true
        · rw [if_pos hactive] at hlevel ⊢
          exact hacts _ _ hlevel (punchIn_acts found)
        · rw [if_neg hactive] at hlevel ⊢
          exact hacts _ _ hlevel (punchOut_acts found)
    | startRecord =>
      have hsent : sent = .startProgram .deck 0 1 (BitVec.ofNat 16 found.eng.version) := by simp only [sent, haction, heng]
      have hstart : punchAction { x with filtered := v, previous := v } active found = startProgram .record 1 none found := by
        simp only [punchAction, haction]
      rw [hsent]
      exact hacts _ _ hstart (startRecord_acts (by rw [heng]; exact hversion))
    | stopAtEnd =>
      have hsent : sent = .stopProgramAtEnd .deck := by simp only [sent, haction]
      have hstop : punchAction { x with filtered := v, previous := v } active found = stopAtEnd found := by
        simp only [punchAction, haction]
      rw [hsent]
      exact hacts _ _ hstop (stopAtEnd_acts found)
    | stopNow =>
      have hsent : sent = .stopProgramNow .deck := by simp only [sent, haction]
      have hstop : punchAction { x with filtered := v, previous := v } active found = stopNow found := by
        simp only [punchAction, haction]
      rw [hsent]
      exact hacts _ _ hstop (stopNow_acts found)

end Sys2Proof.TableRows
end

section
/-! SUPPORT. The source status records: what feeds them (R113 to R118), the close and the release of a fly bank (R41, R42), and the timeline's
answer to a posting (R11). -/

namespace Sys2Proof.SourceRecords
open Sys2Proof.Machine Sys2Proof.StepLaws Sys2Proof.StoreCommands

/-! ### The record a status is fed to (R113) -/

@[simp] theorem get_set_same (x : Sources) (i : SrcId) (r : SourceRec) : (x.set i r).get i = r := by cases i <;> rfl

theorem get_set_other {i j : SrcId} (h : j ≠ i) (x : Sources) (r : SourceRec) : (x.set i r).get j = x.get j := by
  cases i <;> cases j <;> first | rfl | exact absurd rfl h

@[simp] theorem set_timedOut (x : Sources) (i : SrcId) (r : SourceRec) : (x.set i r).timedOut = x.timedOut := by cases i <;> rfl

theorem changed_eq (r : SourceRec) (st : SourceStatus) : r.changed st = ⟨st, (r.epoch + 1) % 65536,
    (if r.history.length < 32 then r.history else r.history.drop 1) ++ [((r.epoch + 1) % 65536, st)]⟩ := by
  unfold SourceRec.changed
  by_cases h : r.history.length < 32
  · rw [if_pos h, if_neg (Nat.not_le.mpr h)]
  · rw [if_neg h, if_pos (Nat.not_lt.mp h)]

/-- Source `i`'s record has taken the status `st`, and the rest of the state stands. -/
structure Fed (s : State) (i : SrcId) (st : SourceStatus) (t : State) : Prop where
  same : (s.sources.get i).status = st → t.sources.get i = s.sources.get i ∧ t.notices = s.notices
  changed : (s.sources.get i).status ≠ st → t.notices = (post .sourceStatus i.num none none s).notices
    ∧ t.sources.get i = (s.sources.get i).changed st
  others : ∀ j, j ≠ i → t.sources.get j = s.sources.get j
  policy : t.sources.policy = s.sources.policy
  timedOut : t.sources.timedOut = s.sources.timedOut
  frame : { t with sources := s.sources, notices := s.notices } = s

theorem setStatus_same {i : SrcId} {st : SourceStatus} {s : State} (h : (s.sources.get i).status = st) : setStatus i st s = s := if_pos h

theorem setStatus_changed {i : SrcId} {st : SourceStatus} {s : State} (h : (s.sources.get i).status ≠ st) :
    setStatus i st s = post .sourceStatus i.num none none { s with sources := s.sources.set i ((s.sources.get i).changed st) } := if_neg h

theorem setStatus_fed (i : SrcId) (st : SourceStatus) (s : State) : Fed s i st (setStatus i st s) := by
  by_cases h : (s.sources.get i).status = st
  · rw [setStatus_same h]
    exact ⟨fun _ => ⟨rfl, rfl⟩, fun hne => absurd h hne, fun _ _ => rfl, rfl, rfl, rfl⟩
  · rw [setStatus_changed h]
    exact ⟨fun heq => absurd heq h, fun _ => ⟨rfl, get_set_same ..⟩, fun j hj => get_set_other hj .., Sources.set_policy ..,
      set_timedOut .., rfl⟩

theorem invalidate_fed (i : SrcId) (s : State) : Fed s i { (s.sources.get i).status with valid := false } (invalidate i s) :=
  setStatus_fed ..

/-- A record's status is fed alike after a change of the policy and the timeout flag. -/
theorem fed_of_settings {s u t : State} {x : Sources} {i : SrcId} {st : SourceStatus} (hu : u = { s with sources := x })
    (hx : ∀ j, x.get j = s.sources.get j) (h : Fed u i st t) :
    ((s.sources.get i).status = st → t.sources.get i = s.sources.get i ∧ t.notices = s.notices)
    ∧ ((s.sources.get i).status ≠ st → t.notices = (post .sourceStatus i.num none none s).notices
      ∧ t.sources.get i = ⟨st, ((s.sources.get i).epoch + 1) % 65536,
          (if (s.sources.get i).history.length < 32 then (s.sources.get i).history else (s.sources.get i).history.drop 1)
            ++ [(((s.sources.get i).epoch + 1) % 65536, st)]⟩)
    ∧ (∀ j, j ≠ i → t.sources.get j = s.sources.get j)
    ∧ { t with sources := s.sources, notices := s.notices } = s := by
  subst hu
  obtain ⟨hsame, hchanged, hothers, -, -, hframe⟩ := h
  simp only [hx] at hsame hchanged hothers
  rw [← changed_eq]
  exact ⟨hsame, hchanged, hothers, congrArg (fun v : State => { v with sources := s.sources }) hframe⟩

/-- Settles O28: each feed is `setStatus` after a change of the policy or of the timeout flag. -/
theorem sourceRecordsAreFed : Obligations.SourceRecordsAreFed := by
  refine ⟨fun p cls remaining s hp => ⟨fun hm => ?bad, fun m hm => ?policy⟩, fun b s => ⟨_, rfl, ?record⟩, fun s => ⟨_, rfl, ?timeout⟩⟩
  case bad => exact command_runs hp (by rw [policyBody, hm])
  case policy =>
    have h := setStatus_fed .analog ⟨true, m, none⟩ { s with sources := { s.sources with policy := m } }
    refine ⟨_, command_runs hp (by rw [policyBody, hm]), h.policy, fed_of_settings rfl (fun j => ?_) h⟩
    cases j <;> rfl
  case record =>
    have hget : ∀ j, ({ s.sources with timedOut := false } : Sources).get j = s.sources.get j := fun j => by cases j <;> rfl
    unfold digitalStatus
    cases statusOf b with
    | some x =>
      have h := setStatus_fed .digital ⟨true, x.1, some x.2⟩ { s with sources := { s.sources with timedOut := false } }
      exact ⟨h.timedOut, fed_of_settings rfl hget h⟩
    | none =>
      have h := invalidate_fed .digital { s with sources := { s.sources with timedOut := false } }
      exact ⟨h.timedOut, fed_of_settings rfl hget h⟩
  case timeout =>
    have h := invalidate_fed .digital { s with sources := { s.sources with timedOut := true } }
    refine ⟨h.timedOut, fed_of_settings rfl (fun j => ?_) h⟩
    cases j <;> rfl

/-! ### The fly banks' records (R117) -/

/-- A fly record is fed alike after a change of its bank. -/
theorem fed_of_bank {s t : State} {n : BankId} {b : Bank} {st : SourceStatus} {subject : Nat} (hsubject : n.src.num = subject)
    (h : Fed (setBank n b s) n.src st t) :
    t.banks = s.banks.set n b
    ∧ ((s.sources.get n.src).status = st → t.sources.get n.src = s.sources.get n.src ∧ t.notices = s.notices)
    ∧ ((s.sources.get n.src).status ≠ st → t.notices = (post .sourceStatus subject none none s).notices
      ∧ t.sources.get n.src = ⟨st, ((s.sources.get n.src).epoch + 1) % 65536,
          (if (s.sources.get n.src).history.length < 32 then (s.sources.get n.src).history else (s.sources.get n.src).history.drop 1)
            ++ [(((s.sources.get n.src).epoch + 1) % 65536, st)]⟩)
    ∧ (∀ j, j ≠ n.src → t.sources.get j = s.sources.get j)
    ∧ t.sources.policy = s.sources.policy ∧ t.sources.timedOut = s.sources.timedOut
    ∧ { t with banks := s.banks, sources := s.sources, notices := s.notices } = s := by
  rw [← changed_eq, ← hsubject]
  exact ⟨congrArg State.banks h.frame, h.same, h.changed, h.others, h.policy, h.timedOut,
    congrArg (fun v : State => { v with banks := s.banks }) h.frame⟩

/-- Settles O23. -/
theorem closeAndReleaseBank : Obligations.CloseAndReleaseBank := by
  refine ⟨fun p bank count cls remaining rate s n m r hp hn hm hr => ⟨fun hcount => ?range, fun hlow hhigh =>
      ⟨fun hloading hfull => ?state, fun hstate => ?closed⟩⟩,
    fun p bank count cls remaining rate s hp hcodes => ?codes, fun p bank s hp => ⟨fun hn => ?bank, fun n hn =>
      ⟨fun hempty => ?empty, fun hplaying => ?playing, fun hempty hplaying => ?released⟩⟩⟩
  case range => exact command_runs hp (by simp only [closeBankBody, hn, hm, hr]; exact if_pos hcount)
  case state =>
    have hcount : ¬(count.toNat < 1 ∨ bankLength s < count.toNat) := by unfold bankLength; omega
    exact command_runs hp (by
      simp only [closeBankBody, hn, hm, hr]
      rw [if_neg hcount, if_neg (not_or.mpr ⟨hloading, hfull⟩)])
  case closed =>
    have hcount : ¬(count.toNat < 1 ∨ bankLength s < count.toNat) := by unfold bankLength; omega
    refine ⟨_, command_runs hp (by
      simp only [closeBankBody, hn, hm, hr]
      rw [if_neg hcount, if_pos hstate]), fed_of_bank (by cases n <;> rfl) (setStatus_fed ..)⟩
  case codes =>
    refine command_runs hp ?_
    unfold closeBankBody
    split
    · next hn hm hr =>
      rw [hn, hm, hr] at hcodes
      simp at hcodes
    · rfl
  case bank => exact command_runs hp (by rw [releaseBankBody, hn])
  case empty => exact command_runs hp (by simp only [releaseBankBody, hn, hempty])
  case playing => exact command_runs hp (by simp only [releaseBankBody, hn, hplaying])
  case released =>
    refine ⟨_, command_runs hp (t := invalidate n.src (setBank n Bank.reset s)) ?_, fed_of_bank (by cases n <;> rfl) (invalidate_fed n.src (setBank n Bank.reset s))⟩
    cases h : (s.banks.get n).state with
    | empty => exact absurd h hempty
    | playing => exact absurd h hplaying
    | loading | full | spent => simp only [releaseBankBody, hn, h]

end Sys2Proof.SourceRecords
end

section
/-! SUPPORT. The timeline's answer to a posting (R11). -/

namespace Sys2Proof.PostedTimeline
open Sys2Proof.Machine

variable {t : Timeline} {q : Posting} {d h : Nat}

theorem park_position_still (hstate : t.state ≠ .laying) : (t.park d).position = t.position := by
  unfold Timeline.park
  split
  · next hlaying _ => exact absurd hlaying hstate
  · rfl

theorem park_position_unhanded (hhanded : t.handed = none) : (t.park d).position = t.position := by
  simp [Timeline.park, hhanded]

theorem park_position_handed (hstate : t.state = .laying) (hhanded : t.handed = some h) :
    (t.park d).position = if h + d - 2 < 2592000 then h + d - 2 else t.position := by
  simp only [Timeline.park, hstate, hhanded]
  by_cases hon : h + d - 2 < 2592000
  · rw [if_pos hon]
    exact if_pos (decide_eq_true hon)
  · rw [if_neg hon]
    exact if_neg fun hlegal => hon (of_decide_eq_true hlegal)

theorem leaveLaying_handed (hhanded : t.handed = some h) (hon : h + d - 2 < 2592000) : leaveLaying t d =
    { t with coast := 0, run := 0, generated := none, handed := none, state := .acquiring, candidate := some (h + d - 2) } := by
  have hlegal : legalAddr (h + d - 2) = true := decide_eq_true hon
  simp only [leaveLaying, hhanded, hlegal, if_true]

theorem leaveLaying_off (hoff : t.handed = none ∨ ∃ h, t.handed = some h ∧ 2592000 ≤ h + d - 2) : leaveLaying t d =
    { t with coast := 0, run := 0, candidate := none, generated := none, handed := none, state := .unlocked } := by
  rcases hoff with hnone | ⟨h, hsome, hoff⟩
  · simp only [leaveLaying, hnone]
  · have hlegal : ¬legalAddr (h + d - 2) = true := fun hl => absurd (of_decide_eq_true hl : h + d - 2 < 2592000) (Nat.not_lt.mpr hoff)
    rw [leaveLaying, hsome]
    exact if_neg hlegal

/-- What a lay leaves wherever the head ends: no run, no generated address, and the position as it was. -/
theorem leaveLaying_cleared (t : Timeline) (d : Nat) : (leaveLaying t d).run = 0 ∧ (leaveLaying t d).coast = 0
    ∧ (leaveLaying t d).generated = none ∧ (leaveLaying t d).handed = none ∧ (leaveLaying t d).position = t.position := by
  unfold leaveLaying
  dsimp only
  split
  · split <;> exact ⟨rfl, rfl, rfl, rfl, rfl⟩
  · exact ⟨rfl, rfl, rfl, rfl, rfl⟩

theorem posted_parks (hmode : q.mode = .stop ∨ q.mode = .spool) : t.posted q d = (t.record q).park d := if_pos hmode

theorem posted_repeats (hmode : ¬(q.mode = .stop ∨ q.mode = .spool)) (hsame : t.mode = q.mode ∧ t.dir = q.dir.getD t.dir) :
    t.posted q d = t.record q := (if_neg hmode).trans (if_pos hsame)

theorem posted_changes (hmode : ¬(q.mode = .stop ∨ q.mode = .spool)) (hother : ¬(t.mode = q.mode ∧ t.dir = q.dir.getD t.dir)) :
    t.posted q d = match t.state with
      | .parked => { t.record q with state := .acquiring, candidate := some t.position, run := 0 }
      | .acquiring => { t.record q with run := 0 }
      | .laying => leaveLaying (t.record q) d
      | .unlocked | .locked | .coasting => t.record q := by
  refine ((if_neg hmode).trans (if_neg hother)).trans ?_
  cases t.state <;> rfl

/-- Settles O11: by the three branches of `Timeline.posted`, the last with the states of the timeline. -/
theorem timelineAnswersAPosting : Obligations.TimelineAnswersAPosting := by
  refine fun t q d => ⟨fun hmode => ?parks, fun hstop hspool hsame => ?repeats, fun hstop hspool hother => ?changes⟩
  case parks =>
    rw [posted_parks hmode]
    exact ⟨rfl, rfl, rfl, rfl, rfl, rfl, fun h => park_position_still (t := t.record q) h, fun hlaying =>
      ⟨fun h => park_position_unhanded (t := t.record q) h, fun h hh => park_position_handed (t := t.record q) hlaying hh⟩⟩
  case repeats =>
    rw [posted_repeats (not_or.mpr ⟨hstop, hspool⟩) hsame]
    exact ⟨rfl, rfl, rfl, rfl, rfl⟩
  case changes =>
    have hposted := posted_changes (d := d) (not_or.mpr ⟨hstop, hspool⟩) hother
    refine ⟨fun h => ?parked, fun h => ?acquiring, fun h => ?moving, fun h => ?laying⟩
    case parked =>
      simp only [hposted, h]
      exact ⟨trivial, trivial, trivial⟩
    case acquiring =>
      simp only [hposted, h]
      exact ⟨h, rfl, trivial⟩
    case moving => rcases h with h | h | h <;> simp only [hposted, h] <;> exact ⟨h, rfl, rfl⟩
    case laying =>
      simp only [hposted, h]
      obtain ⟨hrun, hcoast, hgenerated, hhanded, hposition⟩ := leaveLaying_cleared (t.record q) d
      refine ⟨hrun, hcoast, hgenerated, hhanded, hposition, fun n hn hon => ?_, fun hoff => ?_⟩
      · rw [leaveLaying_handed (t := t.record q) hn hon]
        exact ⟨rfl, rfl⟩
      · rw [leaveLaying_off (t := t.record q) hoff]
        exact ⟨rfl, rfl⟩

end Sys2Proof.PostedTimeline
end

section
/-! SUPPORT. The layouts of the tape: the words, the sectors and the status record read back as they were written (R192 to R194), and the
sector that the write stream emits (R103). -/

namespace Sys2Proof.TapeLayouts
open Sys2Proof.Machine

/-! ### Five bytes (R184, R192) -/

/-- The five bytes of a value, most significant first, are the value. -/
theorem bytes40_append (w : BitVec 40) : w.extractLsb' 32 8 ++ w.extractLsb' 24 8 ++ w.extractLsb' 16 8 ++ w.extractLsb' 8 8
    ++ w.extractLsb' 0 8 = w := by
  rw [BitVec.extractLsb'_append_extractLsb'_eq_extractLsb' (start₁ := 24) (start₂ := 32) rfl,
    BitVec.extractLsb'_append_extractLsb'_eq_extractLsb' (start₁ := 16) (start₂ := 24) rfl,
    BitVec.extractLsb'_append_extractLsb'_eq_extractLsb' (start₁ := 8) (start₂ := 16) rfl,
    BitVec.extractLsb'_append_extractLsb'_eq_extractLsb' (start₁ := 0) (start₂ := 8) rfl]
  exact BitVec.extractLsb'_eq_self

/-- The upper and the lower half of two samples side by side. -/
theorem halves_append (x y : Sample) : (x ++ y).extractLsb' 20 20 = x ∧ (x ++ y).extractLsb' 0 20 = y :=
  ⟨BitVec.extractLsb'_append_eq_left, BitVec.extractLsb'_append_eq_right⟩

theorem toNat_append_samples (x y : Sample) : (x ++ y).toNat = x.toNat * 1048576 + y.toNat := by
  rw [BitVec.toNat_append, ← Nat.shiftLeft_add_eq_or_of_lt y.isLt, Nat.shiftLeft_eq]

/-- The bytes that `be` writes of a value are its bytes as a word. -/
theorem be_five (w : BitVec 40) : be 5 w.toNat = [w.extractLsb' 32 8, w.extractLsb' 24 8, w.extractLsb' 16 8, w.extractLsb' 8 8,
    w.extractLsb' 0 8] := by
  have hbyte : ∀ k, BitVec.ofNat 8 (w.toNat / 2 ^ k) = w.extractLsb' k 8 := fun k =>
    congrArg (BitVec.ofNat 8) (Nat.shiftRight_eq_div_pow ..).symm
  rw [← hbyte 32, ← hbyte 24, ← hbyte 16, ← hbyte 8, ← hbyte 0]
  rfl

theorem be_five_samples (x y : Sample) : be 5 (x.toNat * 1048576 + y.toNat) = pairBytes ⟨x, y⟩ := by
  rw [← toNat_append_samples, be_five]
  rfl

/-- Two samples read back from their five bytes, and the words after them. -/
theorem wordsOf_pairBytes (x y : Sample) (rest : List Byte) : wordsOf (pairBytes ⟨x, y⟩ ++ rest) = x :: y :: wordsOf rest := by
  simp only [pairBytes, List.cons_append, List.nil_append, wordsOf, bytes40_append, halves_append]

theorem pairsOf_pairBytes (p : SamplePair) (rest : List Byte) : pairsOf (pairBytes p ++ rest) = p :: pairsOf rest := by
  simp only [pairBytes, List.cons_append, List.nil_append, pairsOf, bytes40_append, halves_append]

theorem pairsOf_flatMap (l : List SamplePair) : pairsOf (l.flatMap pairBytes) = l := by
  induction l with
  | nil => rfl
  | cons p l ih => rw [List.flatMap_cons, pairsOf_pairBytes, ih]

/-- An even number of words reads back from their bytes, five to each two words. -/
theorem wordBytes_readBack {n : Nat} : ∀ {l : List Sample}, l.length = 2 * n →
    (wordBytes l).length = 5 * n ∧ wordsOf (wordBytes l) = l := by
  induction n with
  | zero =>
    intro l hl
    rw [List.length_eq_zero_iff.mp hl]
    exact ⟨rfl, rfl⟩
  | succ n ih =>
    intro l hl
    obtain ⟨x, y, l, rfl⟩ : ∃ x y l', l = x :: y :: l' := by
      match l, hl with
      | x :: y :: l, _ => exact ⟨x, y, l, rfl⟩
    obtain ⟨hlength, hread⟩ := ih (l := l) (by simp only [List.length_cons] at hl; omega)
    rw [wordBytes, be_five_samples]
    refine ⟨?_, by rw [wordsOf_pairBytes, hread]⟩
    rw [List.length_append, hlength]
    simp only [pairBytes, List.length_cons, List.length_nil]
    omega

/-! ### A sector (R192) -/

theorem headerBytes_length (h : Header) : (headerBytes h).length = 8 := rfl

/-- A sector of its identity byte, eight header bytes, 1000 bytes of words and the check of these 1008. -/
theorem readSector_parts {id : Byte} {head body : List Byte} (hhead : head.length = 8) (hbody : body.length = 1000) :
    readSector (id :: ((head ++ body) ++ be 4 (crc (head ++ body)).toNat))
      = ⟨identity id.toNat, headerOf head, wordsOf body⟩ := by
  have hcovered : (head ++ body).length = 1008 := by rw [List.length_append, hhead, hbody]
  have hlength : (id :: ((head ++ body) ++ be 4 (crc (head ++ body)).toNat)).length = 1013 := by
    rw [List.length_cons, List.length_append, hcovered, be_length]
  unfold readSector
  rw [hlength]
  simp only [Nat.sub_self, List.replicate_zero, List.append_nil, List.headD_cons, List.drop_succ_cons, List.drop_zero,
    List.take_left' hcovered, List.drop_left' hcovered, List.take_left' hhead, List.drop_left' hhead,
    List.take_of_length_le (Nat.le_of_eq (be_length 4 _)), decide_true, Bool.and_self, if_true, le_refl]

theorem identity_written {k : Nat} (hk : k < 10) : identity (BitVec.ofNat 8 (k * 16 + (15 - k))).toNat = some k := by
  have hvalue : (BitVec.ofNat 8 (k * 16 + (15 - k))).toNat = k * 16 + (15 - k) := by
    rw [BitVec.toNat_ofNat, Nat.mod_eq_of_lt (by omega)]
  have hnumber : (k * 16 + (15 - k)) / 16 = k := by omega
  have hcomplement : (k * 16 + (15 - k)) % 16 = 15 - k := by omega
  rw [hvalue, identity, hnumber, hcomplement, if_pos ⟨hk, rfl⟩]

theorem sector_readsBack {k : Nat} {h : Header} {words : List Sample} (hk : k < 10) (htape : h.onTape = true)
    (hwords : words.length = 400) : (sectorBytes k h words).length = 1013
      ∧ readSector (sectorBytes k h words) = ⟨some k, some h, words⟩ := by
  obtain ⟨hlength, hread⟩ := wordBytes_readBack (n := 200) hwords
  constructor
  · simp only [sectorBytes, List.length_cons, List.length_append, be_length, headerBytes_length, hlength]
  · rw [sectorBytes, readSector_parts (headerBytes_length h) hlength, identity_written hk, CopyMarks.headerOf_headerBytes htape, hread]

theorem sectorWords_length (m : Memory) (k : Nat) : (sectorWords m k).length = 400 := by
  unfold sectorWords
  split
  · simp [Memory.words]
  · split <;> simp

/-! ### The status record (R194) -/

theorem statusOf_statusByte (m : CopyMark) (r : Rate) : statusOf (statusByte m r) = some (m, r) := by
  obtain ⟨hcls, hcount⟩ := CopyMarks.markCode_le m
  have hrate := CopyMarks.rateBits_le r
  have hvalue : (statusByte m r).toNat = (markCode m).1 * 64 + (markCode m).2 * 16 + rateBits r * 4 + 2 := by
    rw [statusByte, BitVec.toNat_ofNat, Nat.mod_eq_of_lt (by omega)]
  have hlocked : ((markCode m).1 * 64 + (markCode m).2 * 16 + rateBits r * 4 + 2) / 2 % 2 = 1 := by omega
  have hclass : ((markCode m).1 * 64 + (markCode m).2 * 16 + rateBits r * 4 + 2) / 64 = (markCode m).1 := by omega
  have hleft : ((markCode m).1 * 64 + (markCode m).2 * 16 + rateBits r * 4 + 2) / 16 % 4 = (markCode m).2 := by omega
  have hbits : ((markCode m).1 * 64 + (markCode m).2 * 16 + rateBits r * 4 + 2) / 4 % 4 = rateBits r := by omega
  simp only [statusOf, hvalue, hlocked, hclass, hleft, hbits, if_true, CopyMarks.copyMarkOf_markCode, CopyMarks.rateOfBits_rateBits,
    Option.bind_eq_bind, Option.bind_some]

/-- Settles O52. -/
theorem layoutsReadBack : Obligations.LayoutsReadBack :=
  ⟨fun h htape => ⟨headerBytes_length h, CopyMarks.headerOf_headerBytes htape⟩, fun _ _ _ hk htape hwords =>
    sector_readsBack hk htape hwords, statusOf_statusByte, pairsOf_flatMap, fun _ => rfl⟩

/-- Settles O51: the sector that is emitted is one that reads back. -/
theorem sectorEmission : Obligations.SectorEmission := by
  refine ⟨fun s hw => ?_, fun s w hw hsent => ?_, fun s w h hw hleft hheader htape => ?_⟩
  · show Host.Outcome.next (emitSector s) = _
    rw [emitSector, hw]
  · show Host.Outcome.next (emitSector s) = _
    simp only [emitSector, hw, if_pos hsent]
  · obtain ⟨hlength, hread⟩ := sector_readsBack hleft htape (sectorWords_length s.slots[w.slot].audio w.sectors)
    refine ⟨_, ?_, hlength, hread⟩
    show Host.Outcome.next (emitSector s) = _
    simp only [emitSector, hw, if_neg (Nat.not_le.mpr hleft), hheader]

end Sys2Proof.TapeLayouts
end

section
/-! SUPPORT. The record decision for a tag, the verdict of a SPLICE plan and the mark of its new audio (R119 to R121). -/

namespace Sys2Proof.RecordDecisions
open Sys2Proof.Machine

/-! ### The decision for a tag (R119) -/

theorem decideTag_known {x : Sources} {i : SrcId} {e : Nat} {st : SourceStatus} (h : (x.get i).lookup e = some st) (rate : Rate) :
    decideTag x rate ⟨i, some e⟩ = decideStatus st rate := by
  rw [decideTag]
  simp only [h]

theorem decideStatus_invalid {st : SourceStatus} (h : st.valid = false) (rate : Rate) : decideStatus st rate = .refuse .unknown := by
  simp [decideStatus, h]

theorem decideStatus_otherRate {st : SourceStatus} (h : st.valid = true) {r rate : Rate} (hr : st.rate = some r) (hother : r ≠ rate) :
    decideStatus st rate = .refuse .rate := by
  simp [decideStatus, h, hr, hother]

theorem decideStatus_mark {st : SourceStatus} {rate : Rate} (h : st.valid = true) (hr : st.rate = none ∨ st.rate = some rate) :
    decideStatus st rate = match decrement st.mark with
      | none => .refuse .cls
      | some m => .permit m := by
  rcases hr with hr | hr <;> simp [decideStatus, h, hr] <;> rfl

/-! ### The first refusal (R120) -/

theorem firstRefusal_first {x : Sources} {rate : Rate} {before after : List (Tag × Nat)} {k : Tag × Nat} {r : Reason}
    (hbefore : ∀ j ∈ before, ∃ m, decideTag x rate j.1 = .permit m) (hk : decideTag x rate k.1 = .refuse r) :
    firstRefusal x rate (before ++ k :: after) = some r := by
  have hnone : firstRefusal x rate before = none := List.findSome?_eq_none_iff.mpr fun j hj => by
    obtain ⟨m, hm⟩ := hbefore j hj
    rw [hm]
  unfold firstRefusal at hnone ⊢
  rw [List.findSome?_append, hnone, Option.none_or, List.findSome?_cons, hk]

theorem firstRefusal_none {x : Sources} {rate : Rate} {tags : List (Tag × Nat)}
    (h : ∀ k ∈ tags, ∃ m, decideTag x rate k.1 = .permit m) : firstRefusal x rate tags = none :=
  List.findSome?_eq_none_iff.mpr fun j hj => by
    obtain ⟨m, hm⟩ := h j hj
    rw [hm]

/-! ### The mark of the new audio (R121) -/

/-- The marks with which the tags of a frame are permitted. -/
def permittedMarks (x : Sources) (rate : Rate) (tags : List (Tag × Nat)) : List CopyMark :=
  tags.filterMap fun t => match decideTag x rate t.1 with
    | .permit m => some m
    | .refuse _ => none

theorem mem_permittedMarks {x : Sources} {rate : Rate} {tags : List (Tag × Nat)} {m : CopyMark} :
    m ∈ permittedMarks x rate tags ↔ ∃ k ∈ tags, decideTag x rate k.1 = .permit m := by
  refine List.mem_filterMap.trans (exists_congr fun k => and_congr_right fun _ => ?_)
  cases decideTag x rate k.1 <;> simp

theorem newAudioMark_eq (x : Sources) (rate : Rate) (tags : List (Tag × Nat)) :
    newAudioMark x rate tags = combineAll (permittedMarks x rate tags) := rfl

/-- Settles O47. -/
theorem recordDecision : Obligations.RecordDecision := by
  refine ⟨fun x rate i e => ⟨rfl, fun hunknown => ?unknown, fun st hst => ?known⟩, fun g x rate a p tags => ⟨fun hguarded => ?guarded,
    fun hopen => ⟨fun before k after r htags hbefore hk => ?refused, fun hpermits => ?permitted⟩⟩, fun x rate tags => ⟨fun k hk q hq => ?rank,
    ?mark⟩⟩
  case unknown =>
    rw [decideTag]
    simp only [hunknown]
  case known =>
    rw [decideTag_known hst]
    refine ⟨fun h => decideStatus_invalid h rate, fun h => ⟨fun r hr hother => decideStatus_otherRate h hr hother, fun hr => ?_⟩⟩
    rw [decideStatus_mark h hr]
    refine ⟨fun hmark => ?_, fun hmark => ?_, fun r hpositive hmark => ?_⟩
    · rcases hmark with hmark | hmark <;> rw [hmark] <;> rfl
    · rw [hmark]
      rfl
    · refine ⟨⟨r.val - 1, by omega⟩, Nat.sub_add_cancel hpositive, ?_⟩
      rw [hmark, decrement, if_neg (Nat.ne_of_gt hpositive)]
  case guarded => exact if_pos hguarded
  case refused =>
    simp only [verdictFor, hopen, htags, firstRefusal_first hbefore hk, Bool.false_eq_true, if_false]
  case permitted =>
    have hlegal : legalAddr (a + 1) = true ↔ a + 1 < 2592000 := decide_eq_true_iff
    simp only [verdictFor, hopen, firstRefusal_none hpermits, hlegal, Bool.false_eq_true, if_false]
  case rank => exact CopyMarks.markRank_le_combineAll (mem_permittedMarks.mpr ⟨k, hk, hq⟩)
  case mark =>
    by_cases hnone : permittedMarks x rate tags = []
    · exact .inl (by rw [newAudioMark_eq, hnone]; rfl)
    · exact .inr (mem_permittedMarks.mp (CopyMarks.combineAll_mem hnone))

end Sys2Proof.RecordDecisions
end

section
/-! SUPPORT. What a cut of the gate leaves of each record (R30, R104), with a rehearsal that ends where a cut would end it (R153). -/

namespace Sys2Proof.BlockWork
open Sys2Proof.Machine Sys2Proof.StoreCommands

variable {s t : State}

theorem EngWork.gate (h : EngWork s t) : t.gate = s.gate := (congrArg State.gate h.frame :)

theorem EngWork.judge (h : EngWork s t) : t.judge = s.judge := (congrArg State.judge h.frame :)

theorem EngWork.coding (h : EngWork s t) : t.coding = s.coding := (congrArg State.coding h.frame :)

theorem EngWork.slots (h : EngWork s t) : t.slots = s.slots := (congrArg State.slots h.frame :)

theorem EngWork.order (h : EngWork s t) : t.order = s.order := (congrArg State.order h.frame :)

end Sys2Proof.BlockWork

namespace Sys2Proof.StoreCommands
open Sys2Proof.Machine

variable {s t : State}

theorem SlotWork.gate (h : SlotWork s t) : t.gate = s.gate := (congrArg State.gate h.frame :)

theorem SlotWork.judge (h : SlotWork s t) : t.judge = s.judge := (congrArg State.judge h.frame :)

theorem SlotWork.coding (h : SlotWork s t) : t.coding = s.coding := (congrArg State.coding h.frame :)

theorem SlotWork.eng (h : SlotWork s t) : t.eng = s.eng := (congrArg State.eng h.frame :)

theorem SlotWork.notices (h : SlotWork s t) : t.notices = s.notices := (congrArg State.notices h.frame :)

end Sys2Proof.StoreCommands

namespace Sys2Proof.GateCuts
open Sys2Proof.Machine Sys2Proof.StepLaws Sys2Proof.SpliceEnds Sys2Proof.StoreCommands Sys2Proof.BlockWork

/-- The judge list when a cut ends the write in progress. -/
def partlyJudged (s : State) : List JudgeEntry :=
  match s.gate.write with
  | none => s.judge
  | some w => s.judge.map fun e => if e.slot = w.slot then { e with partly := true } else e

theorem markPartial_eq (s : State) : markPartial s = { s with judge := partlyJudged s } := by
  unfold markPartial partlyJudged
  cases s.gate.write <;> rfl

theorem releaseUnwritten_after {t u : State} (h : SlotWork t u) :
    SlotWork { t with coding := t.coding.map CodingOp.slotless } (releaseUnwritten u) := by
  have hall := (h.trans (releaseAll_work (unwritten u) u)).frame
  exact .trans ⟨congrArg (fun v : State => { v with coding := v.coding.map CodingOp.slotless }) hall⟩ (releaseFilling_work _)

theorem releaseUnwritten_work (s : State) :
    SlotWork { s with coding := s.coding.map CodingOp.slotless } (releaseUnwritten s) := releaseUnwritten_after (.refl s)

/-- The coding operations that a cut leaves: those of another plan, without their CODED slots. -/
def spared (s : State) : List CodingOp :=
  (s.coding.filter fun op => !(op.tag.isSome && op.tag == s.gate.holder)).map CodingOp.slotless

/-- A cut of the gate's record, the judge list, the coding list and the mix; beside them it changes slots only. -/
theorem closeByCut_frame (s : State) : { closeByCut s with slots := s.slots, order := s.order } =
    { s with
      gate := { s.gate with state := .closed, holder := none, first := none, final := none, write := none, pendingStop := false }
      judge := partlyJudged s, coding := spared s, mon := { s.mon with autoMix := s.mon.autoMix && !autoPlays s } } := by
  have hdrop := abandonOps_work (fun op => op.tag.isSome && op.tag == s.gate.holder) (closeGate { s with judge := partlyJudged s })
  rw [← markPartial_eq] at hdrop
  have hfree := (releaseUnwritten_after hdrop).frame
  have hmix := congrArg (fun v : State => { v with mon := { v.mon with autoMix := v.mon.autoMix && !autoPlays s } }) hfree
  rw [markPartial_eq] at hmix
  unfold closeByCut
  rw [markPartial_eq]
  exact hmix

theorem closeByCut_gate {s : State} (hopen : s.gate.state ≠ .closed) : (closeByCut s).gate = s.gate.cut :=
  (congrArg State.gate (closeByCut_frame s)).trans (if_neg hopen).symm

theorem cut_closed {s : State} (hclosed : s.gate.state = .closed) : s.gate.cut = s.gate := if_pos hclosed

/-! ### The cut itself (R104) -/

/-- With the gate CLOSED, a cut for the transport or the lock gives back what is unwritten. -/
theorem cutGate_releases {s : State} (hclosed : s.gate.state = .closed) {c : CutCause} (hc : c = .transport ∨ c = .lock) :
    cutGate c s = releaseUnwritten s := by
  rcases hc with rfl | rfl <;> exact if_pos hclosed

theorem cutGate_open {s : State} (hopen : s.gate.state ≠ .closed) {c : CutCause} (hc : CutCause.plain c = true) :
    cutGate c s = closeByCut s := by
  unfold cutGate
  rw [if_neg hopen]
  cases c <;> first | rfl | exact nomatch hc

theorem finishSplice_none {s : State} (h : s.eng.splice = none) (o : Outcome) (r : Option Reason) (out : Option Point) (atIn : Bool) :
    finishSplice o r out atIn s = s := by
  unfold finishSplice
  rw [h]

theorem cutGate_clock {s : State} (hopen : s.gate.state ≠ .closed) :
    cutGate .clock s = finishSplice .broken none (cutPoint s) false (closeByCut s) := if_neg hopen

theorem finishSplice_gate (o : Outcome) (r : Option Reason) (out : Option Point) (atIn : Bool) (s : State) :
    (finishSplice o r out atIn s).gate = s.gate := (finishSplice_engWork o r out atIn s).gate

/-- Whatever its cause, a cut leaves the gate cut. -/
theorem cutGate_gate (c : CutCause) (s : State) : (cutGate c s).gate = s.gate.cut := by
  by_cases hclosed : s.gate.state = .closed
  · rw [cut_closed hclosed]
    unfold cutGate
    rw [if_pos hclosed]
    split
    · exact (releaseUnwritten_work s).gate
    · exact (releaseUnwritten_work s).gate
    · rfl
  · rw [← closeByCut_gate hclosed]
    unfold cutGate
    rw [if_neg hclosed]
    split
    · exact finishSplice_gate ..
    · exact finishSplice_gate ..
    · exact finishSplice_gate ..
    · exact finishSplice_gate ..
    all_goals rfl

/-! ### A rehearsal ends where a cut would end it (R153) -/

theorem rehearseCut_none {s : State} (h : s.eng.splice = none) (o : Outcome) (r : Option Reason) (out : Option Point) :
    rehearseCut o r out s = s := by
  unfold rehearseCut
  rw [h]

/-- It ends a splice and abandons operations: the gate stands. -/
theorem rehearseCut_work (o : Outcome) (r : Option Reason) (out : Option Point) (s : State) :
    GateWork s (rehearseCut o r out s) ∧ (rehearseCut o r out s).gate = s.gate := by
  unfold rehearseCut
  split
  · exact ⟨(EngWork.refl s).gateWork, rfl⟩
  · next sp _ =>
    split
    · exact ⟨(EngWork.refl s).gateWork, rfl⟩
    · have hdrop := abandonOps_work (fun op => op.tag == some sp.tag) s
      have hend := finishSplice_engWork o r out false (abandonOps (fun op => op.tag == some sp.tag) s)
      exact ⟨(abandonOps_cutWork ..).gateWork.trans hend.gateWork, hend.gate.trans hdrop.gate⟩

end Sys2Proof.GateCuts
end

section
/-! SUPPORT. The Clock Monitor: what follows from a change of the rate in force, the commands on the reference and the events on the
references (R20 to R23, R35, R39, R44, R99). -/

namespace Sys2Proof.ClockMonitor
open Sys2Proof.Machine Sys2Proof.StepLaws Sys2Proof.StoreCommands Sys2Proof.BlockWork Sys2Proof.GateCuts Sys2Proof.SpliceEnds

/-! ### The fly banks at a new bank length (R39) -/

/-- A bank when the bank length becomes that of the rate `r`, in the obligation's words. -/
def resizedAt (r : Rate) (b : Bank) : Bank :=
  let len := 4 * framePairs r
  let count := b.count.map (min len)
  { b with writePos := if len ≤ b.writePos then 0 else b.writePos, count := count, readPos := (count.map (min b.readPos)).getD b.readPos }

theorem resizedAt_eq (r : Rate) (b : Bank) : b.resized (4 * framePairs r) = resizedAt r b := by
  unfold Bank.resized resizedAt
  cases hcount : b.count with
  | none => rfl
  | some c => simp only [Option.map_some, Option.getD_some, Nat.min_comm]

/-- The bank plays and has run out. -/
def RunsOut (b : Bank) : Prop := b.state = .playing ∧ b.count = some b.readPos

/-- The banks resized, before one that has run out ends. -/
def resizedBanks (r : Rate) (b : Banks) : Banks := ⟨resizedAt r b.b0, resizedAt r b.b1⟩

theorem resizedBanks_get (r : Rate) (b : Banks) (n : BankId) : (resizedBanks r b).get n = resizedAt r (b.get n) := by cases n <;> rfl

theorem resizedBanks_ok (r : Rate) {b : Banks} (h : b.ok) : (resizedBanks r b).ok := h

theorem playing_none {s : State} (h : ∀ n, (s.banks.get n).state ≠ .playing) : playing s = none :=
  (if_neg (h .b0)).trans (if_neg (h .b1))

/-- With at most one bank PLAYING, it is the one that plays. -/
theorem playing_some {s : State} (hok : s.banks.ok) {n : BankId} (h : (s.banks.get n).state = .playing) : playing s = some n := by
  cases n with
  | b0 => exact if_pos h
  | b1 => exact (if_neg fun h0 => hok ⟨h0, h⟩).trans (if_pos h)

theorem playing_state {s : State} {n : BankId} (h : playing s = some n) : (s.banks.get n).state = .playing := by
  unfold playing at h
  split at h
  · next h0 =>
    obtain rfl := Option.some.inj h
    exact h0
  · split at h
    · next h1 =>
      obtain rfl := Option.some.inj h
      exact h1
    · exact nomatch h

/-- What `resizeBanks` does before a bank runs out. -/
def withBanks (b : Banks) (s : State) : State := { s with banks := b }

theorem resizeBanks_eq (s : State) : resizeBanks s = match playing (withBanks (resizedBanks s.clock.rate s.banks) s) with
    | none => withBanks (resizedBanks s.clock.rate s.banks) s
    | some n => if (resizedAt s.clock.rate (s.banks.get n)).count = some (resizedAt s.clock.rate (s.banks.get n)).readPos
        then bankRanOut n (max 1 ((s.intake.frame.map (·.taken)).getD 0)) (withBanks (resizedBanks s.clock.rate s.banks) s)
        else withBanks (resizedBanks s.clock.rate s.banks) s := by
  have hbanks : (⟨s.banks.b0.resized (bankLength s), s.banks.b1.resized (bankLength s)⟩ : Banks) = resizedBanks s.clock.rate s.banks :=
    congrArg₂ Banks.mk (resizedAt_eq ..) (resizedAt_eq ..)
  unfold resizeBanks
  dsimp only
  rw [hbanks]
  simp only [← resizedBanks_get]
  rfl

theorem resizeBanks_still {s : State} (h : ∀ n, ¬RunsOut (resizedAt s.clock.rate (s.banks.get n))) :
    resizeBanks s = withBanks (resizedBanks s.clock.rate s.banks) s := by
  rw [resizeBanks_eq]
  cases hp : playing (withBanks (resizedBanks s.clock.rate s.banks) s) with
  | none => rfl
  | some n =>
    have hstate := playing_state hp
    rw [show (withBanks (resizedBanks s.clock.rate s.banks) s).banks.get n = _ from resizedBanks_get ..] at hstate
    exact if_neg fun hcount => h n ⟨hstate, hcount⟩

theorem resizeBanks_ends {s : State} (hok : s.banks.ok) {n : BankId} (h : RunsOut (resizedAt s.clock.rate (s.banks.get n))) :
    resizeBanks s = bankRanOut n (max 1 ((s.intake.frame.map (·.taken)).getD 0)) (withBanks (resizedBanks s.clock.rate s.banks) s) := by
  have hplaying : playing (withBanks (resizedBanks s.clock.rate s.banks) s) = some n := by
    refine playing_some (s := withBanks (resizedBanks s.clock.rate s.banks) s) (resizedBanks_ok s.clock.rate hok) ?_
    rw [show (withBanks (resizedBanks s.clock.rate s.banks) s).banks.get n = _ from resizedBanks_get ..]
    exact h.1
  rw [resizeBanks_eq, hplaying]
  exact if_pos h.2

/-! ### A bank that has run out (R44) -/

@[simp] theorem banks_get_set_same (b : Banks) (n : BankId) (x : Bank) : (b.set n x).get n = x := by cases n <;> rfl

@[simp] theorem banks_get_set_other (b : Banks) (n : BankId) (x : Bank) : (b.set n x).get n.other = b.get n.other := by cases n <;> rfl

@[simp] theorem banks_get_set_back (b : Banks) (n : BankId) (x : Bank) : (b.set n.other x).get n = b.get n := by cases n <;> rfl

/-- Where the intake frame starves when bank `n` has run out. -/
def starvedAt (k : Nat) (n : BankId) (x : Intake) : Intake :=
  { x with frame := x.frame.map fun f => { f with starve := some (k, n) } }

theorem bankRanOut_full {s : State} {n : BankId} (k : Nat) (h : (s.banks.get n.other).state = .full) : bankRanOut n k s =
    post .flySwitch n.other.num none none { s with banks :=
      (s.banks.set n { s.banks.get n with state := .spent }).set n.other { s.banks.get n.other with state := .playing, readPos := 0 } } := by
  unfold bankRanOut
  simp only [setBank_banks, banks_get_set_other, h, if_true]
  rfl

theorem bankRanOut_starves {s : State} {n : BankId} (k : Nat) (h : (s.banks.get n.other).state ≠ .full) : bankRanOut n k s =
    { s with banks := s.banks.set n { s.banks.get n with state := .spent }, intake := starvedAt k n s.intake } := by
  unfold bankRanOut
  simp only [setBank_banks, banks_get_set_other, h, if_false]
  rfl

/-- The starvation point counts the positions of the frame itself. -/
theorem starvedAt_taken (n : BankId) (x : Intake) : starvedAt (max 1 ((x.frame.map (·.taken)).getD 0)) n x =
    { x with frame := x.frame.map fun f => { f with starve := some (max 1 f.taken, n) } } := by
  unfold starvedAt
  cases x.frame <;> rfl

/-- What a change of the bank length does to the banks, the intake frame and the notices. -/
def Resized (r : Rate) (s t : State) : Prop :=
  ((∀ n, ¬RunsOut (resizedAt r (s.banks.get n))) →
      (∀ n, t.banks.get n = resizedAt r (s.banks.get n)) ∧ t.intake = s.intake ∧ t.notices = s.notices)
  ∧ ∀ n, RunsOut (resizedAt r (s.banks.get n)) → t.banks.get n = { resizedAt r (s.banks.get n) with state := .spent }
    ∧ ((resizedAt r (s.banks.get n.other)).state = .full →
        t.banks.get n.other = { resizedAt r (s.banks.get n.other) with state := .playing, readPos := 0 }
        ∧ t.intake = s.intake ∧ t.notices = (post .flySwitch n.other.num none none s).notices)
    ∧ ((resizedAt r (s.banks.get n.other)).state ≠ .full → t.banks.get n.other = resizedAt r (s.banks.get n.other) ∧ t.notices = s.notices
      ∧ t.intake = { s.intake with frame := s.intake.frame.map fun f => { f with starve := some (max 1 f.taken, n) } })

theorem resizeBanks_resized {s : State} (hok : s.banks.ok) : Resized s.clock.rate s (resizeBanks s) := by
  refine ⟨fun h => ?_, fun n h => ?_⟩
  · rw [resizeBanks_still h]
    exact ⟨fun n => resizedBanks_get .., rfl, rfl⟩
  · rw [resizeBanks_ends hok h, ← starvedAt_taken, ← resizedBanks_get, ← resizedBanks_get]
    by_cases hfull : ((resizedBanks s.clock.rate s.banks).get n.other).state = .full
    · rw [bankRanOut_full (s := withBanks (resizedBanks s.clock.rate s.banks) s) _ hfull]
      refine ⟨?_, fun _ => ⟨?_, rfl, rfl⟩, fun hne => absurd hfull hne⟩
      · exact (banks_get_set_back ..).trans (banks_get_set_same ..)
      · exact banks_get_set_same ..
    · rw [bankRanOut_starves (s := withBanks (resizedBanks s.clock.rate s.banks) s) _ hfull]
      exact ⟨banks_get_set_same .., fun hf => absurd hf hfull, fun _ => ⟨banks_get_set_other .., rfl, rfl⟩⟩

/-- A change of the bank length keeps every other record. -/
theorem resizeBanks_frame (s : State) :
    { resizeBanks s with banks := s.banks, intake := s.intake, notices := s.notices } = s := by
  rw [resizeBanks_eq]
  split
  · rfl
  · next n _ =>
    split
    · by_cases hfull : ((withBanks (resizedBanks s.clock.rate s.banks) s).banks.get n.other).state = .full
      · rw [bankRanOut_full _ hfull]
        rfl
      · rw [bankRanOut_starves _ hfull]
        rfl
    · rfl

/-! ### A change of the rate in force (R20, R35, R99) -/

theorem abandonAll_eq (s : State) : ∃ x l, abandonOps (fun _ => true) s = { s with coding := [], slots := x, order := l } := by
  have hwork := (abandonOps_work (fun _ => true) s).frame
  have hnone : s.coding.filter (fun _ => !true) = [] := by simp
  rw [hnone] at hwork
  generalize abandonOps (fun _ => true) s = t at hwork ⊢
  exact ⟨t.slots, t.order, (congrArg (fun v : State => { v with slots := t.slots, order := t.order }) hwork :)⟩

/-- What follows from a new clock record. -/
def Follows (s t : State) : Prop :=
  (t.clock.rate = s.clock.rate → t.jog = s.jog ∧ t.coding = s.coding ∧ t.banks = s.banks ∧ t.intake = s.intake ∧ t.notices = s.notices)
  ∧ (t.clock.rate ≠ s.clock.rate → s.banks.ok → Resized t.clock.rate s t)
  ∧ (t.clock.rate ≠ s.clock.rate → t.coding = [] ∧ (s.jog.window = none → t.jog = s.jog)
    ∧ ∀ w, s.jog.window = some w → t.jog = { s.jog with pointer := (s.tl.position - w) * framePairs t.clock.rate * 8 })

theorem setClock_same {c : Clock} {s : State} (h : c.rate = s.clock.rate) : setClock c s = { s with clock := c } := if_pos h

theorem setClock_changed {c : Clock} {s : State} (h : c.rate ≠ s.clock.rate) :
    setClock c s = resetPointer (resizeBanks (abandonOps (fun _ => true) { s with clock := c })) := if_neg h

/-- A new clock record, and what beside it a new rate reaches. -/
theorem setClock_frame (c : Clock) (s : State) : { setClock c s with
    jog := s.jog, coding := s.coding, slots := s.slots, order := s.order, banks := s.banks, intake := s.intake
    notices := s.notices } = { s with clock := c } := by
  by_cases h : c.rate = s.clock.rate
  · rw [setClock_same h]
  · rw [setClock_changed h, resetPointer_eq]
    obtain ⟨x, l, habandon⟩ := abandonAll_eq { s with clock := c }
    rw [habandon]
    have hbanks := resizeBanks_frame { s with clock := c, coding := [], slots := x, order := l }
    generalize resizeBanks { s with clock := c, coding := [], slots := x, order := l } = t at hbanks ⊢
    exact (congrArg (fun v : State => { v with jog := s.jog, coding := s.coding, slots := s.slots, order := s.order }) hbanks :)

theorem setClock_clock (c : Clock) (s : State) : (setClock c s).clock = c := (congrArg State.clock (setClock_frame c s) :)

theorem setClock_tl (c : Clock) (s : State) : (setClock c s).tl = s.tl := (congrArg State.tl (setClock_frame c s) :)

theorem setClock_gate (c : Clock) (s : State) : (setClock c s).gate = s.gate := (congrArg State.gate (setClock_frame c s) :)

theorem setClock_follows (c : Clock) (s : State) : Follows s (setClock c s) := by
  have hclock := setClock_clock c s
  unfold Follows
  rw [hclock]
  refine ⟨fun h => ?_, fun h hok => ?_, fun h => ?_⟩
  · rw [setClock_same h]
    exact ⟨rfl, rfl, rfl, rfl, rfl⟩
  all_goals
    obtain ⟨x, l, habandon⟩ := abandonAll_eq { s with clock := c }
    rw [setClock_changed h, resetPointer_eq, habandon]
  · exact resizeBanks_resized (s := { s with clock := c, coding := [], slots := x, order := l }) hok
  · have hbanks := resizeBanks_frame { s with clock := c, coding := [], slots := x, order := l }
    generalize resizeBanks { s with clock := c, coding := [], slots := x, order := l } = t at hbanks ⊢
    have hjog : t.jog = s.jog := (congrArg State.jog hbanks :)
    have htl : t.tl = s.tl := (congrArg State.tl hbanks :)
    have hrate : t.clock = c := (congrArg State.clock hbanks :)
    refine ⟨(congrArg State.coding hbanks :), fun hwindow => ?_, fun w hwindow => ?_⟩
    · rw [placedPointer_none (by rw [hjog]; exact hwindow), hjog]
    · rw [placedPointer_some (by rw [hjog]; exact hwindow), hjog, formedPointer, htl, hrate]

/-! ### The commands (R21, R23) -/

theorem select_lost {c : Clock} (h : c.lost = true) (r : RefSel) : c.select r = { c with selection := r } := if_pos h

theorem select_reference {c : Clock} (h : c.lost = false) {r : RefSel} (hr : r ≠ .internal) : c.select r =
    if c.track r = ⟨true, some c.rate⟩ then { c with selection := r, running := r } else { c with selection := r } := by
  refine (if_neg (by rw [h]; decide)).trans ?_
  cases r with
  | internal => exact absurd rfl hr
  | word | digital => rfl

theorem select_internal {c : Clock} (h : c.lost = false) :
    c.select .internal = { c with selection := .internal, running := .internal, rate := c.configured } := if_neg (by rw [h]; decide)

theorem clockBody_none {α : Type} (f : Clock → α → Clock) (s : State) : clockBody none f s = (s, refuse .range) := rfl

theorem clockBody_open {α : Type} {s : State} (h : s.gate.state ≠ .closed) (a : α) (f : Clock → α → Clock) :
    clockBody (some a) f s = (s, refuse .state) := if_pos h

theorem clockBody_closed {α : Type} {s : State} (h : s.gate.state = .closed) (a : α) (f : Clock → α → Clock) :
    clockBody (some a) f s = (setClock (f s.clock a) s, done) := if_neg (not_not.mpr h)

/-- Settles O15: each command is `setClock`, whose effects are `setClock_follows`. -/
theorem clockCommands : Obligations.ClockCommands := by
  refine ⟨⟨fun p b s hp => ⟨fun hb => ?noReference, fun r hb => ⟨fun hopen => ?referenceOpen, fun hclosed hstays => ?kept,
      fun hclosed hlost hr htrack => ?adopted, fun hclosed hlost hr => ?crystal⟩⟩,
    fun p b s hp => ⟨fun hb => ?noRate, fun r hb => ⟨fun hopen => ?rateOpen, fun hclosed hlost hsel => ?configured,
      fun hclosed hfree => ?rate⟩⟩⟩,
    fun p s hp => ⟨fun hlost => ?notLost, fun hlost habsent => ?absent, fun hlost r hx => ?cleared⟩⟩
  case noReference | noRate => exact command_runs hp (by rw [hb, clockBody_none])
  case referenceOpen | rateOpen => exact command_runs hp (by rw [hb, clockBody_open hopen])
  case kept =>
    have hselect : s.clock.select r = { s.clock with selection := r } := by
      by_cases hlost : s.clock.lost = true
      · exact select_lost hlost r
      · obtain ⟨hr, htrack⟩ := hstays.resolve_left hlost
        rw [select_reference (Bool.not_eq_true _ ▸ hlost) hr, if_neg htrack]
    refine command_runs hp ?_
    rw [hb, clockBody_closed hclosed, hselect]
    exact congrArg (·, done) (setClock_same rfl)
  case adopted =>
    refine command_runs hp ?_
    rw [hb, clockBody_closed hclosed, select_reference hlost hr, if_pos htrack]
    exact congrArg (·, done) (setClock_same rfl)
  case crystal =>
    subst hr
    refine ⟨_, command_runs hp (by rw [hb, clockBody_closed hclosed, select_internal hlost]), setClock_follows .., setClock_clock ..⟩
  case configured =>
    have hconfigure : s.clock.configure r = { s.clock with configured := r } := if_neg (by simp [hlost, hsel])
    refine command_runs hp ?_
    rw [hb, clockBody_closed hclosed, hconfigure]
    exact congrArg (·, done) (setClock_same rfl)
  case rate =>
    have hconfigure : s.clock.configure r = { s.clock with configured := r, running := .internal, rate := r } := if_pos hfree
    exact ⟨_, command_runs hp (by rw [hb, clockBody_closed hclosed, hconfigure]), setClock_follows .., setClock_clock ..⟩
  case notLost => exact command_runs hp (if_pos hlost)
  case absent => exact command_runs hp ((if_neg (by rw [hlost]; decide)).trans (if_pos habsent))
  case cleared =>
    have hbody : clearClockBody s =
        (setClock { s.clock with lost := false, running := s.clock.selection, rate := r } s, done) := by
      simp only [clearClockBody, hlost, hx, Bool.true_eq_false, if_false, Option.getD_some]
    exact ⟨_, command_runs hp hbody, setClock_follows .., setClock_clock .., setClock_tl .., setClock_gate ..⟩

/-! ### The events (R20 to R22) -/

theorem adopt_word {c : Clock} (h : c.selection = .word) : c.adopt = { c with running := .word, word := ⟨true, some c.rate⟩ } := by
  rw [Clock.adopt, h]

theorem adopt_digital {c : Clock} (h : c.selection = .digital) :
    c.adopt = { c with running := .digital, digital := ⟨true, some c.rate⟩ } := by
  rw [Clock.adopt, h]

/-- The loss of the selected reference, before the gate is cut. -/
def lostClock (s : State) : State :=
  setClock { s.clock with lost := true, running := .internal, rate := s.clock.configured }
    (post .clockLost (lostSubject s.clock.selection) none none { s with clock := { s.clock with lost := true } })

theorem referenceLost_detected {s : State} (hlost : s.clock.lost = false) (hsel : s.clock.selection ≠ .internal) :
    referenceLost s = clockCut (lostClock s) := if_neg (by simp [hlost, hsel])

theorem clockCut_work (s : State) : GateWork s (clockCut s) ∧ (clockCut s).gate = s.gate.cut := by
  obtain ⟨hwork, hgate⟩ := rehearseCut_work .broken none (cutPoint s) s
  refine ⟨hwork.trans (cutGate_gateWork ..), ?_⟩
  rw [clockCut, cutGate_gate, hgate]

/-- With no splice in progress the cut ends none, and posts nothing. -/
theorem clockCut_notices {s : State} (h : s.eng.splice = none) : (clockCut s).notices = s.notices := by
  rw [clockCut, rehearseCut_none h]
  by_cases hclosed : s.gate.state = .closed
  · exact congrArg State.notices (if_pos hclosed)
  · have hframe := closeByCut_frame s
    rw [cutGate_clock hclosed, finishSplice_none]
    · exact (congrArg State.notices hframe :)
    · exact (congrArg (fun v : State => v.eng.splice) hframe :).trans h

/-- Settles O16. -/
theorem referenceEvents : Obligations.ReferenceEvents := by
  refine fun s => ⟨fun _ => rfl, fun _ => rfl, rfl, rfl, fun h => congrArg Host.Outcome.next (if_pos h), fun hlost hrunning hsel => ?_,
    fun hlost hrunning hsel => ?_, fun h => congrArg Host.Outcome.next (if_pos h), fun hlost hsel => ?_⟩
  · refine congrArg Host.Outcome.next ((if_neg ?_).trans ?_)
    · simp [hlost, hsel, hrunning]
    · rw [adopt_word hsel]
      exact setClock_same rfl
  · refine congrArg Host.Outcome.next ((if_neg ?_).trans ?_)
    · simp [hlost, hsel, hrunning]
    · rw [adopt_digital hsel]
      exact setClock_same rfl
  · have hsettings := referenceLost_step (Move.refl s)
    refine ⟨_, rfl, ?_⟩
    rw [referenceLost_detected hlost hsel] at hsettings ⊢
    obtain ⟨hwork, hgate⟩ := clockCut_work (lostClock s)
    have hclock : (lostClock s).clock = _ := setClock_clock ..
    refine ⟨?_, hgate.trans (congrArg Gate.cut (setClock_gate ..)), hsettings.settings, fun hrate hsplice => ?_⟩
    · have hstands := hwork.frame
      generalize clockCut (lostClock s) = t at hstands ⊢
      exact (congrArg State.clock hstands :).trans hclock
    · have hpost : lostClock s = { post .clockLost (lostSubject s.clock.selection) none none s with clock :=
          { s.clock with lost := true, running := .internal, rate := s.clock.configured } } := setClock_same hrate
      have hsubject : lostSubject s.clock.selection = if s.clock.selection = .word then 1 else 2 := by
        cases h : s.clock.selection with
        | internal => exact absurd h hsel
        | word | digital => rfl
      rw [hpost, clockCut_notices (by exact hsplice), hsubject]

end Sys2Proof.ClockMonitor
end

section
/-! SUPPORT. The guard commands while a frame is being written, or would be in a rehearsal (R105, R127, R153). -/

namespace Sys2Proof.GuardChanges
open Sys2Proof.Machine Sys2Proof.StepLaws Sys2Proof.SpliceEnds Sys2Proof.StoreCommands Sys2Proof.BlockWork Sys2Proof.GateCuts

/-! ### A change of the table (R105) -/

theorem rehearseCut_recorded {s : State} (h : ∀ sp, s.eng.splice = some sp → sp.rehearse = false) (o : Outcome) (r : Option Reason)
    (out : Option Point) : rehearseCut o r out s = s := by
  cases hsplice : s.eng.splice with
  | none => exact rehearseCut_none hsplice ..
  | some sp =>
    unfold rehearseCut
    rw [hsplice]
    exact if_pos (.inl (h sp hsplice))

/-- An operation that has not begun is refused nothing. -/
theorem withdrawn_unbegun {s : State} (h : ∀ op ∈ s.coding, op.begun = none) (tag : SpliceTag) : withdrawn s tag = false :=
  List.any_eq_false.mpr fun op hop => by simp [h op hop]

theorem rehearseCut_ends {s : State} {sp : Splice} (hsplice : s.eng.splice = some sp) (hrehearse : sp.rehearse = true)
    (hops : ∀ op ∈ s.coding, op.begun = none) (o : Outcome) (r : Option Reason) (out : Option Point) : rehearseCut o r out s =
    finishSplice o r out false (abandonOps (fun op => op.tag == some sp.tag) s) := by
  unfold rehearseCut
  rw [hsplice]
  exact if_neg (by simp [hrehearse, withdrawn_unbegun hops])

theorem guardChanged_still {s : State} (h : (s.gate.state = .closed ∧ ∀ sp, s.eng.splice = some sp → sp.rehearse = false)
    ∨ (s.gate.state ≠ .closed ∧ s.gate.write = none)) : guardChanged s = s := by
  rcases h with ⟨hclosed, hrecord⟩ | ⟨hopen, hwrite⟩
  · refine (if_pos hclosed).trans ?_
    unfold rehearseGuard
    split
    · split
      · exact rehearseCut_recorded hrecord ..
      · rfl
    · rfl
  · refine (if_neg hopen).trans ?_
    rw [hwrite]

theorem guardChanged_write {s : State} {w : Write} (hopen : s.gate.state ≠ .closed) (hw : s.gate.write = some w) :
    guardChanged s = if guarded s.guard w.addr then cutGate (.guarded w.addr) s else s := by
  refine (if_neg hopen).trans ?_
  rw [hw]

theorem guardChanged_rehearsal {s : State} {sp : Splice} {start : Point} {a : Nat} (hclosed : s.gate.state = .closed)
    (hsplice : s.eng.splice = some sp) (hrehearse : sp.rehearse = true) (hin : sp.actualIn = some start) (hhead : s.tl.head = some a)
    (hentered : start.addr ≤ a) : guardChanged s =
      if guarded s.guard a then rehearseCut .guarded (some .guarded) (some ⟨a, 0⟩) s else s := by
  have hpoint : cutPoint s = some ⟨a, 0⟩ := by simp only [cutPoint, hsplice, hin, hrehearse, hhead, if_true, if_pos hentered]
  refine (if_pos hclosed).trans ?_
  rw [rehearseGuard, hpoint]

theorem guardChanged_guard (s : State) : (guardChanged s).guard = s.guard := by
  have hcut : ∀ {t}, GateWork s t → t.guard = s.guard := fun h => (congrArg State.guard h.frame :)
  unfold guardChanged rehearseGuard
  split
  · split
    · split
      · exact hcut (rehearseCut_work ..).1
      · rfl
    · rfl
  · split
    · split
      · exact hcut (cutGate_gateWork ..)
      · rfl
    · rfl

theorem setEng_splice (st : EngState) (s : State) : (setEng st s).eng.splice = s.eng.splice := by rw [setEng_frame]

theorem endPass_splice (s : State) : (endPass s).eng.splice = s.eng.splice := by
  unfold endPass
  split <;> exact setEng_splice ..

theorem afterSplice_splice (punch lay : Bool) (s : State) : (afterSplice punch lay s).eng.splice = s.eng.splice := by
  unfold afterSplice
  split
  · rfl
  · split
    · exact setEng_splice ..
    · split
      · exact setEng_splice ..
      · exact endPass_splice s

/-- A splice that ends leaves none in progress. -/
theorem finishSplice_splice {s : State} {sp : Splice} (h : s.eng.splice = some sp) (o : Outcome) (r : Option Reason)
    (out : Option Point) (atIn : Bool) : (finishSplice o r out atIn s).eng.splice = none := by
  rw [finishSplice_eq h, afterSplice_splice]
  obtain ⟨-, -, -, -, hnone, -⟩ := endSplice_report h o r out atIn
  exact hnone

/-! ### The commands (R127) -/

/-- What a guard command answers when it is taken: the change of the table, with what the change guards. -/
theorem guardCommand_takes {c : Instr} {s : State} {g : Guard}
    (hrun : exec c s = .next (answer .deck ⟨.done, guardBytes g⟩ (guardChanged { s with guard := g }))) :
    let answers : State → Prop := fun t => exec c s = .next (answer .deck ⟨.done, guardBytes g⟩ t)
    ((s.gate.state = .closed ∧ ∀ sp, s.eng.splice = some sp → sp.rehearse = false) ∨ (s.gate.state ≠ .closed ∧ s.gate.write = none) →
      answers { s with guard := g })
    ∧ (∀ w, s.gate.state ≠ .closed → s.gate.write = some w → ∃ t, answers t ∧ t.guard = g
      ∧ (guarded g w.addr = true → t.gate = s.gate.cut) ∧ (guarded g w.addr = false → t = { s with guard := g }))
    ∧ (∀ sp start a, s.gate.state = .closed → s.eng.splice = some sp → sp.rehearse = true → sp.actualIn = some start →
      s.tl.head = some a → start.addr ≤ a → (∀ op ∈ s.coding, op.begun = none) → ∃ t, answers t ∧ t.guard = g
      ∧ (guarded g a = true → t.eng.splice = none
        ∧ ∃ r ∈ t.eng.results, r.tag = sp.tag ∧ r.outcome = .guarded ∧ r.reason = some .guarded ∧ r.actualOut = some ⟨a, 0⟩)
      ∧ (guarded g a = false → t = { s with guard := g })) := by
  refine ⟨fun hfree => ?_, fun w hopen hw => ⟨_, hrun, guardChanged_guard _, fun hguarded => ?_, fun hguarded => ?_⟩,
    fun sp start a hclosed hsplice hrehearse hin hhead hentered hops => ⟨_, hrun, guardChanged_guard _, fun hguarded => ?_,
      fun hguarded => ?_⟩⟩
  · rwa [guardChanged_still (s := { s with guard := g }) hfree] at hrun
  · rw [guardChanged_write (s := { s with guard := g }) hopen hw, if_pos hguarded]
    exact cutGate_gate ..
  · rw [guardChanged_write (s := { s with guard := g }) hopen hw]
    exact if_neg (by rw [hguarded]; decide)
  · rw [guardChanged_rehearsal (s := { s with guard := g }) hclosed hsplice hrehearse hin hhead hentered, if_pos hguarded,
      rehearseCut_ends (s := { s with guard := g }) hsplice hrehearse hops]
    have hsame := (abandonOps_work (fun op => op.tag == some sp.tag) { s with guard := g }).eng
    generalize abandonOps (fun op => op.tag == some sp.tag) { s with guard := g } = u at hsame ⊢
    have hu : u.eng.splice = some sp := by rw [hsame]; exact hsplice
    exact ⟨finishSplice_splice hu .., _, List.mem_of_getLast? (finishSplice_getLast hu ..), rfl, rfl, rfl, rfl⟩
  · rw [guardChanged_rehearsal (s := { s with guard := g }) hclosed hsplice hrehearse hin hhead hentered]
    exact if_neg (by rw [hguarded]; decide)

theorem guardBody_refused {s : State} (hlock : s.guard.lock = false) {ok : Bool} (hok : ¬ok = true) (f : Guard → Guard) :
    guardBody ok f s = (s, refuse .range) := (if_neg (by rw [hlock]; decide)).trans (if_pos (Bool.not_eq_true _ ▸ hok))

theorem guardBody_taken {s : State} (hlock : s.guard.lock = false) {ok : Bool} (hok : ok = true) (f : Guard → Guard) :
    guardBody ok f s = (guardChanged { s with guard := f s.guard }, ⟨.done, guardBytes (f s.guard)⟩) :=
  (if_neg (by rw [hlock]; decide)).trans (if_neg (by rw [hok]; decide))

theorem setSpan_eq {place : Nat} (h : place < 8) (o : Option Span) (g : Guard) :
    setSpan place o g = { g with places := g.places.set! place o } := by
  rw [TableRows.set!_eq g.places h]
  exact dif_pos h

/-- The RANGE tests of WRITE GUARD SPAN. -/
theorem span_fits (place first last : Nat) :
    (decide (place < 8) && legalAddr first && legalAddr last && decide (first ≤ last)) = true
      ↔ place < 8 ∧ first ≤ last ∧ last < 2592000 := by
  have hlegal : ∀ a, legalAddr a = true ↔ a < 2592000 := fun _ => decide_eq_true_iff
  simp only [Bool.and_eq_true, decide_eq_true_eq, hlegal]
  omega

/-- Settles O25. -/
theorem guardCommandsChangeTheTable : Obligations.GuardCommandsChangeTheTable := by
  intro s place first last flag hlock span gone inv fits
  refine ⟨fun h => command_runs rfl (guardBody_refused hlock (fun hok => h ((span_fits ..).mp hok)) _), fun h => command_runs rfl
    (guardBody_refused hlock (fun hok => absurd (of_decide_eq_true hok) (Nat.not_lt.mpr h)) _), fun h => ?_, fun h => guardCommand_takes ?_,
    fun h => guardCommand_takes ?_, fun h => guardCommand_takes ?_⟩
  · refine congrArg Host.Outcome.next ((if_neg (by decide)).trans (if_pos ?_))
    exact decide_eq_false (Nat.not_lt.mpr h)
  · refine command_runs rfl ((guardBody_taken hlock ((span_fits ..).mpr h) _).trans ?_)
    rw [setSpan_eq h.1]
  · refine command_runs rfl ((guardBody_taken hlock (decide_eq_true h) _).trans ?_)
    rw [setSpan_eq h]
  · refine congrArg Host.Outcome.next ((if_neg (by decide)).trans ((if_neg ?_).trans ?_))
    · rw [SettingRows.isFlag_of_lt h]
      decide
    · rw [guardBody_taken hlock rfl]

end Sys2Proof.GuardChanges
end

section
/-! SUPPORT. PUNCH IN and PUNCH OUT: the bank that a punch asks for, its schedule and the ways it ends at once (R43, R101, R137, R142, R155,
R156). -/

namespace Sys2Proof.Punches
open Sys2Proof.Machine Sys2Proof.StepLaws Sys2Proof.SpliceEnds Sys2Proof.StoreCommands Sys2Proof.BlockWork Sys2Proof.GateCuts
open Sys2Proof.ClockMonitor

/-! ### A request for a bank (R43) -/

/-- With at most one bank PLAYING, that one is spent and the other stands. -/
theorem spendPlaying_get {s : State} (hok : s.banks.ok) (n : BankId) : (spendPlaying s).banks.get n =
    if (s.banks.get n).state = .playing then { s.banks.get n with state := .spent } else s.banks.get n := by
  unfold spendPlaying
  by_cases hn : (s.banks.get n).state = .playing
  · rw [if_pos hn, playing_some hok hn]
    exact banks_get_set_same ..
  · rw [if_neg hn]
    by_cases hm : (s.banks.get n.other).state = .playing
    · rw [playing_some hok hm]
      exact banks_get_set_back ..
    · rw [playing_none fun k => by cases n <;> cases k <;> assumption]

theorem spendPlaying_full {s : State} (hok : s.banks.ok) (n : BankId) :
    ((spendPlaying s).banks.get n).state = .full ↔ (s.banks.get n).state = .full := by
  rw [spendPlaying_get hok]
  split
  · next h =>
    rw [h]
    exact ⟨nofun, nofun⟩
  · rfl

theorem spendPlaying_get_full {s : State} (hok : s.banks.ok) {n : BankId} (h : (s.banks.get n).state = .full) :
    (spendPlaying s).banks.get n = s.banks.get n := by
  rw [spendPlaying_get hok, if_neg (by rw [h]; decide)]

/-- Spending a bank reaches the banks only. -/
theorem spendPlaying_rest (s : State) : { spendPlaying s with banks := s.banks } = s := by
  obtain ⟨b, hb⟩ := spendPlaying_frame s
  rw [hb]

theorem askBank_none {s : State} (hok : s.banks.ok) (h : ∀ n, (s.banks.get n).state ≠ .full) :
    askBank s = (.unavailable, spendPlaying s) := by
  have h0 : ¬(spendPlaying s).banks.b0.state = .full := fun hf => h .b0 ((spendPlaying_full hok .b0).mp hf)
  have h1 : ¬(spendPlaying s).banks.b1.state = .full := fun hf => h .b1 ((spendPlaying_full hok .b1).mp hf)
  simp only [askBank, if_neg h0, if_neg h1]

/-- The bank that a request finds: the first FULL one, granted where its rate is that in force. -/
theorem askBank_found {s : State} (hok : s.banks.ok) {n : BankId} (hfull : (s.banks.get n).state = .full)
    (hfirst : n = .b0 ∨ s.banks.b0.state ≠ .full) : askBank s =
      if (s.banks.get n).rate ≠ some s.clock.rate then (.mismatch, spendPlaying s)
      else (.granted n, setBank n { s.banks.get n with state := .playing, readPos := 0 } (spendPlaying s)) := by
  have hclock : (spendPlaying s).clock = s.clock := (congrArg State.clock (spendPlaying_rest s) :)
  have hget := spendPlaying_get_full hok hfull
  have hstate : ((spendPlaying s).banks.get n).state = .full := (spendPlaying_full hok n).mpr hfull
  cases n with
  | b0 =>
    simp only [askBank, if_pos (show (spendPlaying s).banks.b0.state = .full from hstate), hclock, hget]
  | b1 =>
    have h0 : ¬(spendPlaying s).banks.b0.state = .full := fun hf =>
      hfirst.resolve_left nofun ((spendPlaying_full hok .b0).mp hf)
    simp only [askBank, if_neg h0, if_pos (show (spendPlaying s).banks.b1.state = .full from hstate), hclock, hget]

/-! ### The schedule of a punch (R101, R155) -/

theorem nameSource_source (src : Source) (s : State) : (nameSource src s).intake.source = src := by
  unfold nameSource
  dsimp only
  split
  · next h => exact h.symm
  · split_ifs <;> rfl

/-- The splice of an accepted punch-in. -/
def punchSplice (s : State) : Splice :=
  { tag := .manual (nextTake s), index := none, rehearse := false, lay := false, notify := true, source := s.manual.source,
    method := .insert, inFrame := none, timecode := none, start := none, outPoint := none, span := none,
    fadeIn := min s.manual.fade (2 * framePairs s.clock.rate), fadeOut := min s.manual.fade (2 * framePairs s.clock.rate), late := false,
    take := nextTake s, actualIn := none, final := none, early := none, reason := none, mark := none, faults := 0, reworked := 0,
    finalReq := false, entered := none }

/-- The engine has taken the punch, before its source is named and its schedule asked for. -/
def punchTaken (s : State) : State :=
  { s with eng := { s.eng with takeCounter := nextTake s, splice := some (punchSplice s), prepared := [] } }

/-- The gate as the punch's schedule leaves it. -/
def punchGate (s : State) : Gate :=
  { s.gate with state := .scheduled, holder := some (.manual (nextTake s)), first := none,
                opening := (s.gate.opening + 1) % 65536, run := 0 }

/-- The state in which an accepted punch has its schedule. -/
def punched (s : State) : State := { nameSource s.manual.source (punchTaken s) with gate := punchGate s }

theorem punched_frame (s : State) : ∃ k : Intake, k.source = s.manual.source
    ∧ punched s = { punchTaken s with intake := k, gate := punchGate s } := by
  have hsource := nameSource_source s.manual.source (punchTaken s)
  obtain ⟨k, hk⟩ := nameSource_frame s.manual.source (punchTaken s)
  unfold punched
  rw [hk] at hsource ⊢
  exact ⟨k, hsource, rfl⟩

/-- When PUNCH IN can open a punch. -/
def PunchReady (s : State) : Prop := s.tl.mode = .play ∧ s.tl.state = .locked ∧ s.clock.lost = false

theorem openPunch_scheduled {s : State} (h : PunchReady s) (hclosed : s.gate.state = .closed) :
    openPunch s = if s.manual.source = .fly then punchBank (.manual (nextTake s)) (punched s) else punched s := by
  obtain ⟨hmode, hlocked, hlost⟩ := h
  have hschedule : schedule (.manual (nextTake s)) none (nameSource s.manual.source (punchTaken s)) = (none, punched s) := by
    unfold punched
    obtain ⟨k, hk⟩ := nameSource_frame s.manual.source (punchTaken s)
    rw [hk]
    obtain ⟨-, -, -, -, hgo⟩ := schedule_cases { punchTaken s with intake := k } (.manual (nextTake s)) none
    exact hgo hclosed hmode hlost (.inl hlocked)
  exact (congrArg (fun r : Option ScheduleRefusal × State => match r with
    | (some c, s2) => endSplice (scheduleOutcome c).1 (scheduleOutcome c).2 none true (postScheduleRefusal c none s2)
    | (none, s2) => if s.manual.source = Source.fly then punchBank (.manual (nextTake s)) s2 else s2) hschedule :)

/-! ### How a punch starts (R142, R155) -/

/-- What an opened punch is. -/
structure Opened (s t : State) : Prop where
  splice : t.eng.splice = some (punchSplice s)
  counter : t.eng.takeCounter = nextTake s
  gate : t.gate = punchGate s
  source : t.intake.source = s.manual.source

theorem punched_opened (s : State) : Opened s (punched s) := by
  obtain ⟨k, hk, hframe⟩ := punched_frame s
  rw [hframe]
  exact ⟨rfl, rfl, rfl, hk⟩

/-- The state in which a punch from FLY asks for its bank. -/
def asking (s : State) (k : Intake) : State := { punchTaken s with intake := { k with flyStart := none }, gate := punchGate s }

theorem punchBank_asks (s : State) : ∃ k : Intake, k.source = s.manual.source ∧ ∀ a u, askBank (asking s k) = (a, u) →
    punchBank (.manual (nextTake s)) (punched s) = match a with
      | .granted _ => { u with eng := { u.eng with bankFor := some (.manual (nextTake s)) } }
      | .unavailable => endSplice .starved none none true (post .flyStarved 2 none none (withdraw (.manual (nextTake s)) u))
      | .mismatch => endSplice .refused (some .rate) none true (post .recordRefused 3 none none (withdraw (.manual (nextTake s)) u)) := by
  obtain ⟨k, hk, hframe⟩ := punched_frame s
  refine ⟨k, hk, fun a u hask => ?_⟩
  have hask' : askBank { ({ punchTaken s with intake := k, gate := punchGate s } : State) with
    intake := { k with flyStart := none } } = (a, u) := hask
  rw [hframe]
  cases a <;> simp only [punchBank, hask']

/-- What a punch is that ends as it asks for its bank. -/
structure Failed (s : State) (o : Outcome) (r : Option Reason) (notices : PerPort NoticePort) (t : State) : Prop where
  splice : t.eng.splice = none
  gate : t.gate.state = .closed ∧ t.gate.holder = none
  result : ∃ x, t.eng.results.getLast? = some x ∧ x.tag = .manual (nextTake s) ∧ x.outcome = o ∧ x.reason = r ∧ x.actualIn = none
    ∧ x.actualOut = none
  notices : t.notices = notices

theorem punch_fails {s : State} {k : Intake} (o : Outcome) (r : Option Reason) (kind : NoticeKind) (n : Nat) :
    Failed s o r (post .spliceEnded 16 none none (post kind n none none s)).notices
      (endSplice o r none true (post kind n none none (withdraw (.manual (nextTake s)) (spendPlaying (asking s k))))) := by
  obtain ⟨b, hb⟩ := spendPlaying_frame (asking s k)
  have hwithdraw : withdraw (.manual (nextTake s)) (spendPlaying (asking s k)) = closeGate { asking s k with banks := b } := by
    rw [hb]
    exact if_pos rfl
  rw [hwithdraw]
  have hsplice : (post kind n none none (closeGate { asking s k with banks := b })).eng.splice = some (punchSplice s) := rfl
  obtain ⟨hnotices, hgate, -, -, hnone, -⟩ := endSplice_report hsplice o r none true
  refine ⟨hnone, ?_, ⟨_, endSplice_getLast hsplice .., rfl, rfl, rfl, rfl, rfl⟩, hnotices.trans ?_⟩
  · rw [hgate]
    exact ⟨rfl, rfl⟩
  · rfl

/-- What an opened punch is that has been granted bank `n`. -/
structure Granted (s : State) (n : BankId) (t : State) : Prop where
  opened : Opened s t
  bankFor : t.eng.bankFor = some (.manual (nextTake s))
  flyStart : t.intake.flyStart = none
  plays : t.banks.get n = { s.banks.get n with state := .playing, readPos := 0 }
  other : t.banks.get n.other = if (s.banks.get n.other).state = .playing then { s.banks.get n.other with state := .spent }
    else s.banks.get n.other

/-- A bank granted to a punch plays from its first pair, and a bank that was PLAYING is spent. -/
theorem punch_granted {s : State} {k : Intake} (hk : k.source = s.manual.source) (hok : s.banks.ok) (n : BankId) {u : State}
    (hu : u = setBank n { s.banks.get n with state := .playing, readPos := 0 } (spendPlaying (asking s k))) :
    Granted s n { u with eng := { u.eng with bankFor := some (.manual (nextTake s)) } } := by
  have hget := spendPlaying_get (s := asking s k) hok n.other
  obtain ⟨b, hb⟩ := spendPlaying_frame (asking s k)
  rw [hb] at hget hu
  subst hu
  exact ⟨⟨rfl, rfl, rfl, hk⟩, rfl, rfl, banks_get_set_same .., (banks_get_set_other ..).trans hget⟩

/-! ### A final-frame request (R102, R156) -/

theorem tag_eq_some_iff (op : CodingOp) (tag : SpliceTag) :
    op.tag = some tag ↔ ∃ b q, op.begun = some b ∧ b.plan = some q ∧ q.tag = tag := by
  simp only [CodingOp.tag, Option.bind_eq_some_iff, Option.map_eq_some_iff]
  exact ⟨fun ⟨b, hb, q, hq, ht⟩ => ⟨b, q, hb, hq, ht⟩, fun ⟨b, q, hb, hq, ht⟩ => ⟨b, hb, q, hq, ht⟩⟩

theorem requestFinal_asked {s : State} {sp : Splice} (hsplice : s.eng.splice = some sp)
    (h : s.gate.final.isSome = true ∨ sp.final.isSome = true) : requestFinal s = s := by
  unfold requestFinal
  rw [hsplice]
  exact if_pos h

theorem requestFinal_own {s : State} {sp : Splice} {op : CodingOp} {rest : List CodingOp} {b : BegunOp}
    (hsplice : s.eng.splice = some sp) (hgate : s.gate.final = none) (hfinal : sp.final = none) (hcoding : s.coding = op :: rest)
    (htag : op.tag = some sp.tag) (hb : op.begun = some b) :
    requestFinal s = { s with coding := { op with begun := some { b with finalReq := true } } :: rest } := by
  simp only [requestFinal, hsplice, hgate, hfinal, hcoding, htag, hb, Option.isSome_none, Bool.false_eq_true, or_self, if_false, if_true,
    Option.map_some]

theorem requestFinal_next {s : State} {sp : Splice} (hsplice : s.eng.splice = some sp) (hgate : s.gate.final = none)
    (hfinal : sp.final = none) (hother : ∀ op rest, s.coding = op :: rest → op.tag ≠ some sp.tag) :
    requestFinal s = { s with eng := { s.eng with splice := some { sp with finalReq := true } } } := by
  unfold requestFinal
  simp only [hsplice, hgate, hfinal, Option.isSome_none, Bool.false_eq_true, or_self, if_false]
  cases hcoding : s.coding with
  | nil => rfl
  | cons op rest => exact if_neg (hother op rest hcoding)

/-- Settles O32. -/
theorem manualPunch : Obligations.ManualPunch := by
  intro p s hp resting ready take opened failed
  have hin : permitted p 0x55 = true := CueCommands.permitted_of_not_barred hp (by decide)
  have hout : permitted p 0x56 = true := CueCommands.permitted_of_not_barred hp (by decide)
  have hresting : s.eng.state.resting = true ↔ resting := SettingRows.resting_iff ..
  have htakes : resting → punchOpen s = false → ready →
      exec (.punchIn p) s = .next (answer p ⟨.accepted, []⟩ (openPunch s)) := fun hrest hnopunch hready => by
    refine command_runs hin ?_
    have hbusy : ¬(s.eng.state.resting = false ∨ punchOpen s = true) := by simp [hresting.mpr hrest, hnopunch]
    have hstate : ¬(s.tl.mode ≠ .play ∨ s.tl.state ≠ .locked ∨ s.clock.lost = true) := by simp [hready.1, hready.2.1, hready.2.2]
    rw [punchIn, if_neg hbusy, if_neg hstate]
    rfl
  have hsettings : settingsOf (openPunch s) = settingsOf s := (openPunch_move s).toMove.settings
  have hopened : resting → punchOpen s = false → ready → Opened s (openPunch s) → opened (openPunch s) (punchSplice s) :=
    fun hrest hnopunch hready h => ⟨htakes hrest hnopunch hready, h.splice, rfl, rfl, rfl, rfl, rfl, rfl, rfl, h.counter,
      congrArg Gate.state h.gate, congrArg Gate.holder h.gate, congrArg Gate.first h.gate, h.source, hsettings⟩
  have hfailed : ∀ {o r u}, resting → punchOpen s = false → ready →
      Failed s o r (post .spliceEnded 16 none none u).notices (openPunch s) → failed o r u := fun hrest hnopunch hready h => by
    obtain ⟨x, hlast, htag, ho, hr, hfrom, hto⟩ := h.result
    exact ⟨_, x, htakes hrest hnopunch hready, h.splice, h.gate.1, h.gate.2, hlast, htag, ho, hr, hfrom, hto, h.notices, hsettings⟩
  refine ⟨fun h => ?busy, fun hrest hnopunch hready => ?state, fun hrest hnopunch hready hclosed hsource => ?line,
    fun hrest hnopunch hready hclosed hsource hok => ⟨fun n hfull hfirst => ⟨fun hrate => ?granted, fun hrate => ?mismatch⟩,
      fun h0 h1 => ?starved⟩, fun hnopunch => ?none, fun sp hsplice hindex => ?out⟩
  case busy =>
    refine command_runs hin ?_
    have hbusy : s.eng.state.resting = false ∨ punchOpen s = true := h.imp (fun hn => Bool.not_eq_true _ ▸ fun ht => hn (hresting.mp ht)) id
    rw [punchIn, if_pos hbusy]
    rfl
  case state =>
    refine command_runs hin ?_
    have hbusy : ¬(s.eng.state.resting = false ∨ punchOpen s = true) := by simp [hresting.mpr hrest, hnopunch]
    have hstate : s.tl.mode ≠ .play ∨ s.tl.state ≠ .locked ∨ s.clock.lost = true := by
      by_contra hall
      simp only [not_or, not_not, Bool.not_eq_true] at hall
      exact hready hall
    rw [punchIn, if_neg hbusy, if_pos hstate]
    rfl
  case line =>
    have hopen : openPunch s = punched s := (openPunch_scheduled hready hclosed).trans (if_neg hsource)
    exact ⟨_, _, hopened hrest hnopunch hready (hopen ▸ punched_opened s)⟩
  case granted =>
    obtain ⟨k, hk, hbank⟩ := punchBank_asks s
    have hask := (askBank_found (s := asking s k) hok hfull hfirst).trans (if_neg (not_not.mpr hrate))
    have hopen := ((openPunch_scheduled hready hclosed).trans (if_pos hsource)).trans (hbank _ _ hask)
    obtain ⟨hplays, hfor, hfly, hthis, hother⟩ : Granted s n (openPunch s) := hopen ▸ punch_granted hk hok n rfl
    exact ⟨_, _, hopened hrest hnopunch hready hplays, hfor, hfly, hthis, hother⟩
  case mismatch =>
    obtain ⟨k, hk, hbank⟩ := punchBank_asks s
    have hask := (askBank_found (s := asking s k) hok hfull hfirst).trans (if_pos hrate)
    have hopen := ((openPunch_scheduled hready hclosed).trans (if_pos hsource)).trans (hbank _ _ hask)
    exact hfailed hrest hnopunch hready (hopen ▸ punch_fails ..)
  case starved =>
    obtain ⟨k, hk, hbank⟩ := punchBank_asks s
    have hask := askBank_none (s := asking s k) hok fun n => by
      cases n
      · exact h0
      · exact h1
    have hopen := ((openPunch_scheduled hready hclosed).trans (if_pos hsource)).trans (hbank _ _ hask)
    exact hfailed hrest hnopunch hready (hopen ▸ punch_fails ..)
  case none =>
    refine command_runs hout ?_
    rw [punchOut, if_neg (by rw [hnopunch]; decide)]
    rfl
  case out =>
    intro taken mine
    have hpunch : punchOpen s = true := by rw [punchOpen, hsplice]; simp [hindex]
    have htaken : ∀ {t}, requestFinal s = t → taken t := fun h => by
      refine command_runs hout ?_
      rw [punchOut, if_pos hpunch, h]
      rfl
    refine ⟨fun h => htaken (requestFinal_asked hsplice h), fun hgate hfinal => ⟨fun op rest b hcoding hmine hb => ?_, fun hother => ?_⟩⟩
    · exact htaken (requestFinal_own hsplice hgate hfinal hcoding ((tag_eq_some_iff ..).mpr hmine) hb)
    · exact htaken (requestFinal_next hsplice hgate hfinal fun op rest hcoding htag => hother op rest hcoding ((tag_eq_some_iff ..).mp htag))

end Sys2Proof.Punches
end

section
/-! SUPPORT. STOP PROGRAM: the entries that a stop skips, the results that join the list, and the splice that it breaks (R147, R151, R152,
R156, R159). -/

namespace Sys2Proof.ProgramStops
open Sys2Proof.Machine Sys2Proof.StepLaws Sys2Proof.SpliceEnds Sys2Proof.StoreCommands Sys2Proof.BlockWork Sys2Proof.GateCuts
open Sys2Proof.ClockMonitor Sys2Proof.Punches Sys2Proof.GuardChanges

/-! ### Results that join the list (R159) -/

/-- The engine's record with results added in order. -/
def joined (l : List SpliceResult) (e : Engine) : Engine := l.foldl (fun e r => withResult r e) e

theorem joined_append (l m : List SpliceResult) (e : Engine) : joined (l ++ m) e = joined m (joined l e) := List.foldl_append

theorem joined_active (l : List SpliceResult) (e : Engine) (v : Vector (Option ActiveEntry) 16) :
    { joined l e with active := v } = joined l { e with active := v } := by
  induction l generalizing e with
  | nil => rfl
  | cons r l ih => exact ih (withResult r e)

/-- Only the results list and its count of lost results change. -/
theorem joined_frame (l : List SpliceResult) (e : Engine) :
    { joined l e with results := e.results, resultsLost := e.resultsLost } = e := by
  induction l generalizing e with
  | nil => rfl
  | cons r l ih =>
    exact congrArg (fun x : Engine => { x with results := e.results, resultsLost := e.resultsLost }) (ih (withResult r e))

/-- The results that joined: the last sixteen of all stay, and those before them are counted as lost. -/
def Joins (e : Engine) (l : List SpliceResult) (t : Engine) : Prop :=
  t.results = (e.results ++ l).drop ((e.results ++ l).length - 16)
    ∧ t.resultsLost = min 65535 (e.resultsLost + ((e.results ++ l).length - 16))

theorem withResult_joins {e : Engine} (hresults : e.results.length ≤ 16) (hlost : e.resultsLost ≤ 65535) (r : SpliceResult) :
    Joins e [r] (withResult r e) := by
  unfold Joins withResult
  by_cases h : e.results.length < 16
  · have hroom : (e.results ++ [r]).length - 16 = 0 := by rw [List.length_append, List.length_singleton]; omega
    rw [hroom, if_pos h, if_pos h]
    exact ⟨rfl, (Nat.min_eq_right hlost).symm⟩
  · have hfull : (e.results ++ [r]).length - 16 = 1 := by rw [List.length_append, List.length_singleton]; omega
    rw [hfull, if_neg h, if_neg h]
    exact ⟨(List.drop_append_of_le_length (by omega)).symm, rfl⟩

theorem Joins.bounds {e t : Engine} {l : List SpliceResult} (h : Joins e l t) : t.results.length ≤ 16 ∧ t.resultsLost ≤ 65535 := by
  obtain ⟨hresults, hlost⟩ := h
  rw [hresults, hlost, List.length_drop]
  omega

theorem Joins.trans {e t u : Engine} {l m : List SpliceResult} (h : Joins e l t) (k : Joins t m u) : Joins e (l ++ m) u := by
  obtain ⟨hresults, hlost⟩ := h
  obtain ⟨kresults, klost⟩ := k
  have hdrop : t.results ++ m = (e.results ++ (l ++ m)).drop ((e.results ++ l).length - 16) := by
    rw [hresults, ← List.append_assoc, List.drop_append_of_le_length (Nat.sub_le ..)]
  rw [hdrop, List.length_drop, List.drop_drop] at kresults
  rw [hdrop, List.length_drop, hlost] at klost
  unfold Joins
  rw [kresults, klost]
  simp only [List.length_append]
  exact ⟨congrArg (fun n => (e.results ++ (l ++ m)).drop n) (by omega), by omega⟩

theorem joined_joins (l : List SpliceResult) {e : Engine} (hresults : e.results.length ≤ 16) (hlost : e.resultsLost ≤ 65535) :
    Joins e l (joined l e) := by
  induction l generalizing e with
  | nil =>
    unfold Joins
    rw [List.append_nil, Nat.sub_eq_zero_of_le hresults]
    exact ⟨rfl, (Nat.min_eq_right hlost).symm⟩
  | cons r l ih =>
    have hfirst := withResult_joins hresults hlost r
    exact hfirst.trans (ih hfirst.bounds.1 hfirst.bounds.2)

/-! ### The entries that a stop skips (R151, R152) -/

/-- The result of an entry that is skipped. -/
def skipResult (s : State) (i : Fin 16) : Option SpliceResult := (pendingEntry s i).map fun e =>
  { tag := programTag s i, run := s.eng.run, pass := if rehearsing s then s.eng.pass else 0, rehearse := rehearsing s,
    outcome := .skipped, reason := none, actualIn := none, actualOut := none, late := false, take := takeFor s e, mark := none,
    faults := 0, reworked := 0 }

/-- One place of a stop. -/
def skipPlace (s : State) (i : Fin 16) : State :=
  match pendingEntry s i with
  | some e => endPending i e .skipped none false s
  | none => s

theorem skipPending_eq (s : State) : skipPending s = placeIds.foldl skipPlace s := rfl

/-- From `s` to `t` the PENDING entries of some places are skipped. -/
structure Skips (l : List (Fin 16)) (s t : State) : Prop where
  frame : { t with eng := s.eng, notices := s.notices } = s
  engine : t.eng = joined (l.filterMap (skipResult s)) { s.eng with active := t.eng.active }
  skipped : ∀ i ∈ l, ∀ e, pendingEntry s i = some e → t.eng.active[i] = some ⟨e, .ended .skipped⟩
  stays : ∀ i, i ∉ l → t.eng.active[i] = s.eng.active[i]
  stands : ∀ i, pendingEntry s i = none → t.eng.active[i] = s.eng.active[i]

theorem pendingEntry_some {s : State} {i : Fin 16} {e : Entry} (h : pendingEntry s i = some e) :
    s.eng.active[i] = some ⟨e, .pending⟩ := by
  unfold pendingEntry at h
  split at h
  · next a ha =>
    split at h
    · next hstate =>
      rw [ha, ← Option.some.inj h, ← hstate]
    · exact nomatch h
  · exact nomatch h

theorem skipPlace_skips (i : Fin 16) (s : State) : Skips [i] s (skipPlace s i) := by
  unfold skipPlace
  split
  · next e he =>
    rw [endPending, addResult_eq]
    have hset : (setEntryState i (.ended .skipped) s).eng.active[i] = some ⟨e, .ended .skipped⟩ :=
      setEntryState_get_same (pendingEntry_some he) _
    have hother : ∀ j, j ≠ i → (setEntryState i (.ended .skipped) s).eng.active[j] = s.eng.active[j] := fun j hj =>
      Vector.getElem_set_ne i.isLt j.isLt fun h => hj (Fin.ext h.symm)
    refine ⟨rfl, ?_, fun j hj f hf => ?_, fun j hj => hother j fun h => hj (List.mem_singleton.mpr h), fun j hj => hother j fun h => ?_⟩
    · rw [List.filterMap_cons, skipResult, he]
      rfl
    · obtain rfl := List.mem_singleton.mp hj
      rw [he] at hf
      obtain rfl := Option.some.inj hf
      exact hset
    · rw [h, he] at hj
      exact nomatch hj
  · next he =>
    refine ⟨rfl, ?_, fun j hj f hf => ?_, fun _ _ => rfl, fun _ _ => rfl⟩
    · rw [List.filterMap_cons, skipResult, he]
      rfl
    · rw [List.mem_singleton.mp hj, he] at hf
      exact nomatch hf

theorem Skips.entry {l : List (Fin 16)} {s t : State} (h : Skips l s t) {i : Fin 16} (hi : i ∉ l) : pendingEntry t i = pendingEntry s i := by
  unfold pendingEntry
  rw [h.stays i hi]

/-- The result of a place depends on its entry, the run, the pass, the mode and the take. -/
theorem Skips.result {l : List (Fin 16)} {s t : State} (h : Skips l s t) {i : Fin 16} (hi : i ∉ l) : skipResult t i = skipResult s i := by
  have hengine := joined_frame (l.filterMap (skipResult s)) { s.eng with active := t.eng.active }
  rw [← h.engine] at hengine
  have hrun : t.eng.run = s.eng.run := (congrArg Engine.run hengine :)
  have hpass : t.eng.pass = s.eng.pass := (congrArg Engine.pass hengine :)
  have hmode : t.eng.mode = s.eng.mode := (congrArg Engine.mode hengine :)
  have htake : t.eng.runTake = s.eng.runTake := (congrArg Engine.runTake hengine :)
  unfold skipResult programTag rehearsing takeFor
  rw [h.entry hi, hrun, hpass, hmode, htake]

theorem Skips.trans {l m : List (Fin 16)} {s t u : State} (h : Skips l s t) (k : Skips m t u) (hdisjoint : ∀ i ∈ m, i ∉ l) :
    Skips (l ++ m) s u := by
  have hresults : m.filterMap (skipResult t) = m.filterMap (skipResult s) := List.filterMap_congr fun i hi => h.result (hdisjoint i hi)
  refine ⟨(congrArg (fun v : State => { v with eng := s.eng, notices := s.notices }) k.frame).trans h.frame, ?_, fun i hi e he => ?_,
    fun i hi => ?_, fun i hi => ?_⟩
  · refine k.engine.trans ?_
    generalize u.eng.active = v
    rw [hresults, List.filterMap_append, joined_append]
    exact congrArg (joined _) ((congrArg (fun x : Engine => { x with active := v }) h.engine).trans (joined_active ..))
  · by_cases hm : i ∈ m
    · exact k.skipped i hm e ((h.entry (hdisjoint i hm)).trans he)
    · rw [k.stays i hm]
      exact h.skipped i ((List.mem_append.mp hi).resolve_right hm) e he
  · rw [List.mem_append, not_or] at hi
    rw [k.stays i hi.2, h.stays i hi.1]
  · have hactive := h.stands i hi
    have hentry : pendingEntry t i = pendingEntry s i := by
      unfold pendingEntry
      rw [hactive]
    rw [k.stands i (hentry.trans hi), hactive]

theorem foldl_skips (l : List (Fin 16)) (hl : l.Nodup) (s : State) : Skips l s (l.foldl skipPlace s) := by
  induction l generalizing s with
  | nil => exact ⟨rfl, rfl, nofun, fun _ _ => rfl, fun _ _ => rfl⟩
  | cons i l ih =>
    obtain ⟨hi, hrest⟩ := List.nodup_cons.mp hl
    exact (skipPlace_skips i s).trans (ih hrest _) fun j hj hji => hi (List.mem_singleton.mp hji ▸ hj)

theorem skipPending_skips (s : State) : Skips (List.finRange 16) s (skipPending s) := foldl_skips _ (List.nodup_finRange 16) s

/-! ### The banks of a stop (R44, R142) -/

/-- Every bank that was PLAYING is SPENT. -/
def Spent (s t : State) : Prop := s.banks.ok → ∀ n, (s.banks.get n).state = .playing → (t.banks.get n).state = .spent

theorem spendPlaying_spent (s : State) : Spent s (spendPlaying s) := fun hok n hn => by
  rw [spendPlaying_get hok, if_pos hn]

theorem spendAny_spent {s : State} (h : s.eng.bankFor.isSome = true) : Spent s (spendAny s) := by
  rw [spendAny, if_pos h]
  exact spendPlaying_spent { s with eng := { s.eng with bankFor := none } }

theorem spendAny_frame (s : State) : ∃ b f, spendAny s = { s with banks := b, eng := { s.eng with bankFor := f } } := by
  unfold spendAny
  split
  · obtain ⟨b, hb⟩ := spendPlaying_frame { s with eng := { s.eng with bankFor := none } }
    exact ⟨b, none, hb⟩
  · exact ⟨_, _, rfl⟩

theorem spendPlaying_keeps {s : State} {n : BankId} (h : (s.banks.get n).state = .spent) :
    ((spendPlaying s).banks.get n).state = .spent := by
  unfold spendPlaying
  cases hp : playing s with
  | none => exact h
  | some m =>
    by_cases hm : m = n
    · subst hm
      exact congrArg Bank.state (banks_get_set_same ..)
    · obtain rfl : m = n.other := by cases m <;> cases n <;> simp_all [BankId.other]
      exact (congrArg Bank.state (banks_get_set_back ..)).trans h

theorem spendAny_keeps {s : State} {n : BankId} (h : (s.banks.get n).state = .spent) : ((spendAny s).banks.get n).state = .spent := by
  unfold spendAny
  split
  · exact spendPlaying_keeps (s := { s with eng := { s.eng with bankFor := none } }) h
  · exact h

/-! ### The program is dropped (R141, R151, R152) -/

/-- The results that a stop adds. -/
def skipResults (s : State) : List SpliceResult := (List.finRange 16).filterMap (skipResult s)

/-- What a stop leaves of the entries that have not started. -/
structure Dropped (s t : State) : Prop where
  prepared : t.eng.prepared = []
  skipped : ∀ i e, pendingEntry s i = some e → t.eng.active[i] = some ⟨e, .ended .skipped⟩
  stands : ∀ i, pendingEntry s i = none → t.eng.active[i] = s.eng.active[i]
  results : t.eng.results = (joined (skipResults s) s.eng).results
  lost : t.eng.resultsLost = (joined (skipResults s) s.eng).resultsLost
  splice : t.eng.splice = s.eng.splice
  gate : t.gate = s.gate
  keeps : ∀ n, (s.banks.get n).state = .spent → (t.banks.get n).state = .spent

/-- Nothing is prepared any more. -/
def forgot (u : State) : State := { u with eng := { u.eng with prepared := [], layWait := none } }

/-- The engine of a state whose entries are skipped. -/
theorem Skips.engine_eq {l : List (Fin 16)} {s u : State} (h : Skips l s u) :
    u.eng = { joined (l.filterMap (skipResult s)) s.eng with active := u.eng.active } := by
  rw [joined_active]
  exact h.engine

theorem Skips.engine_rest {l : List (Fin 16)} {s u : State} (h : Skips l s u) :
    { u.eng with active := s.eng.active, results := s.eng.results, resultsLost := s.eng.resultsLost } = s.eng := by
  have hframe := joined_frame (l.filterMap (skipResult s)) s.eng
  have hengine := h.engine_eq
  generalize joined (l.filterMap (skipResult s)) s.eng = x at hframe hengine
  rw [hengine]
  exact (congrArg (fun x : Engine => { x with active := s.eng.active }) hframe :)

theorem Skips.forgotten {s u : State} (h : Skips (List.finRange 16) s u) : Dropped s (forgot u) := by
  have hengine := h.engine_eq
  refine ⟨rfl, fun i e he => h.skipped i (List.mem_finRange i) e he, h.stands,
    (congrArg Engine.results hengine :), (congrArg Engine.resultsLost hengine :), (congrArg Engine.splice h.engine_rest :),
    (congrArg State.gate h.frame :), fun n hn => ?_⟩
  have hbanks : (forgot u).banks = s.banks := (congrArg State.banks h.frame :)
  rwa [hbanks]

/-- The record of a stop, in a state that has it with other banks, another source and another timeline. -/
theorem Dropped.change {s u t : State} (h : Dropped s u)
    (hframe : { t with banks := u.banks, tl := u.tl, intake := u.intake, notices := u.notices,
                       eng := { t.eng with bankFor := u.eng.bankFor, state := u.eng.state } } = u)
    (hkeeps : ∀ n, (u.banks.get n).state = .spent → (t.banks.get n).state = .spent) : Dropped s t := by
  have heng : { t.eng with bankFor := u.eng.bankFor, state := u.eng.state } = u.eng := (congrArg State.eng hframe :)
  have hactive : t.eng.active = u.eng.active := (congrArg Engine.active heng :)
  refine ⟨(congrArg Engine.prepared heng :).trans h.prepared, fun i e he => ?_, fun i hi => ?_,
    (congrArg Engine.results heng :).trans h.results, (congrArg Engine.resultsLost heng :).trans h.lost,
    (congrArg Engine.splice heng :).trans h.splice, (congrArg State.gate hframe :).trans h.gate, fun n hn => hkeeps n (h.keeps n hn)⟩
  · rw [hactive]
    exact h.skipped i e he
  · rw [hactive]
    exact h.stands i hi

theorem Dropped.setEng {s t : State} (h : Dropped s t) (st : EngState) : Dropped s (setEng st t) := by
  rw [setEng_frame]
  exact h.change rfl fun _ hn => hn

theorem Dropped.spendAny {s t : State} (h : Dropped s t) : Dropped s (spendAny t) := by
  have hkeeps : ∀ n, (t.banks.get n).state = .spent → ((Machine.spendAny t).banks.get n).state = .spent := fun _ hn => spendAny_keeps hn
  obtain ⟨b, f, hb⟩ := spendAny_frame t
  rw [hb] at hkeeps ⊢
  exact h.change rfl hkeeps

theorem Dropped.nameSource {s t : State} (h : Dropped s t) (src : Source) : Dropped s (nameSource src t) := by
  obtain ⟨k, hk⟩ := nameSource_frame src t
  rw [hk]
  exact h.change rfl fun _ hn => hn

theorem Dropped.endLay {s t : State} (h : Dropped s t) : Dropped s (endLay t) := by
  unfold Machine.endLay
  split
  · exact h.change rfl fun _ hn => hn
  · exact h

theorem Dropped.joins {s t : State} (h : Dropped s t) (hresults : s.eng.results.length ≤ 16) (hlost : s.eng.resultsLost ≤ 65535) :
    Joins s.eng (skipResults s) t.eng := by
  have hjoined := joined_joins (skipResults s) hresults hlost
  unfold Joins at hjoined ⊢
  rwa [h.results, h.lost]

theorem endLay_intake (s : State) : (endLay s).intake = s.intake := by
  unfold endLay
  split <;> rfl

theorem endLay_banks (s : State) : (endLay s).banks = s.banks := by
  unfold endLay
  split <;> rfl

theorem dropProgram_eq (s : State) : dropProgram s = endLay (nameSource .analog (spendAny (forgot (skipPending s)))) := rfl

theorem dropProgram_dropped (s : State) : Dropped s (dropProgram s) := by
  rw [dropProgram_eq]
  exact (((skipPending_skips s).forgotten.spendAny).nameSource .analog).endLay

theorem dropProgram_source (s : State) : (dropProgram s).intake.source = .analog := by
  rw [dropProgram_eq, endLay_intake]
  exact nameSource_source ..

theorem Skips.spends {s u : State} (h : Skips (List.finRange 16) s u) (hfor : s.eng.bankFor.isSome = true) :
    Spent s (spendAny (forgot u)) := fun hok n hn => by
  have hbanks : (forgot u).banks = s.banks := (congrArg State.banks h.frame :)
  have hbank : (forgot u).eng.bankFor = s.eng.bankFor := (congrArg Engine.bankFor h.engine_rest :)
  exact spendAny_spent (by rw [hbank]; exact hfor) (by rw [hbanks]; exact hok) n (by rw [hbanks]; exact hn)

theorem dropProgram_spent {s : State} (hfor : s.eng.bankFor.isSome = true) : Spent s (dropProgram s) := fun hok n hn => by
  have hspent := (skipPending_skips s).spends hfor hok n hn
  rw [dropProgram_eq, endLay_banks]
  generalize spendAny (forgot (skipPending s)) = u at hspent
  obtain ⟨k, hk⟩ := nameSource_frame .analog u
  rw [hk]
  exact hspent

/-! ### A stop at the end (R152) -/

/-- The bank of a prepared entry is spent ahead of its splice. -/
def spentAhead (u : State) : State := if u.eng.bankFor ≠ u.eng.splice.map (·.tag) then spendAny u else u

/-- What is prepared is dropped while the ACTIVE entry runs on. -/
def forgotAhead (u : State) : State :=
  forgot (if (spentAhead u).eng.prepared = [] then spentAhead u else nameSource .analog (spentAhead u))

theorem dropAhead_eq (s : State) : dropAhead s = forgotAhead (skipPending s) := by
  unfold dropAhead
  generalize skipPending s = u
  rfl

theorem spentAhead_frame (u : State) : ∃ b f, spentAhead u = { u with banks := b, eng := { u.eng with bankFor := f } } := by
  unfold spentAhead
  split
  · exact spendAny_frame u
  · exact ⟨_, _, rfl⟩

theorem Skips.ahead {s u : State} (h : Skips (List.finRange 16) s u) : Dropped s (forgotAhead u)
    ∧ (forgotAhead u).intake.source = (if s.eng.prepared = [] then s.intake.source else .analog)
    ∧ (s.eng.bankFor.isSome = true → s.eng.bankFor ≠ s.eng.splice.map (·.tag) → Spent s (forgotAhead u)) := by
  have hbanks : u.banks = s.banks := (congrArg State.banks h.frame :)
  have hsource : u.intake = s.intake := (congrArg State.intake h.frame :)
  have hprepared : u.eng.prepared = s.eng.prepared := (congrArg Engine.prepared h.engine_rest :)
  have hbank : u.eng.bankFor = s.eng.bankFor := (congrArg Engine.bankFor h.engine_rest :)
  have hsplice : u.eng.splice = s.eng.splice := (congrArg Engine.splice h.engine_rest :)
  have hkeeps : ∀ n, (s.banks.get n).state = .spent → ((spentAhead u).banks.get n).state = .spent := fun n hn => by
    rw [← hbanks] at hn
    unfold spentAhead
    split
    · exact spendAny_keeps hn
    · exact hn
  have hspent : s.eng.bankFor.isSome = true → s.eng.bankFor ≠ s.eng.splice.map (·.tag) → Spent s (spentAhead u) :=
    fun hfor hne hok n hn => by
      rw [spentAhead, if_pos (by rw [hbank, hsplice]; exact hne)]
      exact spendAny_spent (by rw [hbank]; exact hfor) (by rw [hbanks]; exact hok) n (by rw [hbanks]; exact hn)
  obtain ⟨b, f, hv⟩ := spentAhead_frame u
  have hv' : (spentAhead u).eng.prepared = s.eng.prepared ∧ (spentAhead u).intake = s.intake := by
    rw [hv]
    exact ⟨hprepared, hsource⟩
  obtain ⟨k, hk, ht⟩ : ∃ k : Intake, k.source = (if s.eng.prepared = [] then s.intake.source else .analog)
      ∧ forgotAhead u = forgot { spentAhead u with intake := k } := by
    unfold forgotAhead
    rw [hv'.1]
    split
    · exact ⟨(spentAhead u).intake, by rw [hv'.2], rfl⟩
    · obtain ⟨k, hk⟩ := nameSource_frame .analog (spentAhead u)
      have hanalog := nameSource_source .analog (spentAhead u)
      rw [hk] at hanalog ⊢
      exact ⟨k, hanalog, rfl⟩
  rw [ht]
  refine ⟨?_, hk, fun hfor hne => hspent hfor hne⟩
  rw [hv] at hkeeps ⊢
  refine h.forgotten.change (t := forgot { u with banks := b, eng := { u.eng with bankFor := f }, intake := k }) rfl fun n hn => hkeeps n ?_
  rw [← hbanks]
  exact hn

/-! ### The splice that a stop breaks (R147, R151) -/

/-- The state in which a stop ends the splice. -/
def stoppedGate (s : State) : State :=
  abandonOps (fun op => op.tag.isSome && op.tag == s.eng.splice.map (·.tag)) (cutGate .stop s)

theorem stopSplice_eq (s : State) : stopSplice s = endSplice .broken none (cutPoint s) false (stoppedGate s) := rfl

theorem stoppedGate_rest (s : State) : (stoppedGate s).eng = s.eng ∧ (stoppedGate s).banks = s.banks ∧ (stoppedGate s).intake = s.intake
    ∧ (stoppedGate s).gate = s.gate.cut := by
  have hcut := (cutGate_cutWork (c := .stop) rfl s).frame
  have hgate := cutGate_gate .stop s
  have hdrop := abandonOps_work (fun op => op.tag.isSome && op.tag == s.eng.splice.map (·.tag)) (cutGate .stop s)
  unfold stoppedGate
  generalize cutGate .stop s = u at hcut hgate hdrop
  have hframe := hdrop.frame
  generalize abandonOps _ u = t at hframe ⊢
  exact ⟨(congrArg State.eng hframe :).trans (congrArg State.eng hcut :), (congrArg State.banks hframe :).trans (congrArg State.banks hcut :),
    (congrArg State.intake hframe :).trans (congrArg State.intake hcut :), (congrArg State.gate hframe :).trans hgate⟩

/-- Where the end of a splice leaves the banks and the line of the intake. -/
theorem endSplice_releases {s : State} {sp : Splice} (h : s.eng.splice = some sp) (o : Outcome) (r : Option Reason) (out : Option Point)
    (atIn : Bool) : let t := endSplice o r out atIn s
    (s.eng.bankFor = some sp.tag → Spent s t)
    ∧ (s.eng.bankFor ≠ some sp.tag → t.banks = s.banks ∧ t.eng.bankFor = s.eng.bankFor)
    ∧ (s.eng.prepared = [] → t.intake.source = .analog) := by
  intro t
  obtain ⟨f, hclose⟩ := closeEntry_frame sp o { s with eng := { s.eng with splice := none } }
  generalize hv : (closeEntry sp o { s with eng := { s.eng with splice := none } }).eng.active = v at hclose
  generalize hc : closeEntry sp o { s with eng := { s.eng with splice := none } } = c at hclose
  obtain ⟨b, x, hspend⟩ := spendFor_frame sp.tag c
  obtain ⟨k, hname⟩ := nameAfter_frame (spendFor sp.tag c)
  obtain ⟨y, hover⟩ := endOverride_frame sp (nameAfter (spendFor sp.tag c))
  have hreleased : released sp o s = endLayOf sp (endOverride sp (nameAfter (spendFor sp.tag c))) := by
    rw [← hc]
    rfl
  have ht : t.banks = (spendFor sp.tag c).banks ∧ t.eng.bankFor = (spendFor sp.tag c).eng.bankFor
      ∧ t.intake = (nameAfter (spendFor sp.tag c)).intake := by
    simp only [t]
    rw [endSplice_eq h, addResult_eq, hreleased, endLayOf_eq, hover]
    refine ⟨?_, ?_, rfl⟩
    · exact (congrArg State.banks hname :)
    · exact (congrArg (·.eng.bankFor) hname :)
  have hcbanks : c.banks = s.banks := by rw [hclose]
  have hcfor : c.eng.bankFor = s.eng.bankFor := by rw [hclose]
  have hcprepared : c.eng.prepared = s.eng.prepared := by rw [hclose]
  obtain ⟨htbanks, htfor, htintake⟩ := ht
  refine ⟨fun hfor hok n hn => ?_, fun hfor => ?_, fun hprepared => ?_⟩
  · rw [htbanks, spendFor, if_pos (hcfor.trans hfor)]
    exact spendPlaying_spent { c with eng := { c.eng with bankFor := none } } (by rw [hcbanks]; exact hok) n (by rw [hcbanks]; exact hn)
  · rw [htbanks, htfor, spendFor, if_neg (by rw [hcfor]; exact hfor)]
    exact ⟨hcbanks, hcfor⟩
  · have hnone : (spendFor sp.tag c).eng.prepared = [] := by
      rw [hspend]
      exact hcprepared.trans hprepared
    rw [htintake, nameAfter, if_pos hnone]
    exact nameSource_source ..

/-- The result of a splice that a stop breaks. -/
def brokenResult (s : State) (sp : Splice) : SpliceResult := spliceResult sp .broken none (cutPoint s) false (stoppedGate s)

/-- A stop's end of the splice `sp`. -/
structure Broken (s : State) (sp : Splice) (t : State) : Prop where
  engine : ∃ bank, t.eng = withResult (brokenResult s sp) { s.eng with splice := none, bankFor := bank, active := t.eng.active }
  gate : t.gate = s.gate.cut
  punch : sp.index = none → t.eng.active = s.eng.active
  entry : ∀ k, sp.index = some k → t.eng.active[k] = (s.eng.active[k]).map fun a => { a with state := .ended .broken }
  others : ∀ i, sp.index ≠ some i → t.eng.active[i] = s.eng.active[i]
  source : s.eng.prepared = [] → t.intake.source = .analog
  spent : s.eng.bankFor = some sp.tag → Spent s t
  kept : s.eng.bankFor ≠ some sp.tag → t.banks = s.banks ∧ t.eng.bankFor = s.eng.bankFor

theorem stopSplice_broken {s : State} {sp : Splice} (h : s.eng.splice = some sp) : Broken s sp (stopSplice s) := by
  obtain ⟨heng, hbanks, -, hgate⟩ := stoppedGate_rest s
  rw [stopSplice_eq]
  have hresult : brokenResult s sp = spliceResult sp .broken none (cutPoint s) false (stoppedGate s) := rfl
  generalize stoppedGate s = u at heng hbanks hgate hresult ⊢
  have hu : u.eng.splice = some sp := by rw [heng]; exact h
  obtain ⟨hspent, hkept, hsource⟩ := endSplice_releases hu .broken none (cutPoint s) false
  obtain ⟨f, b, k, v, bank, hend⟩ := endSplice_frame hu .broken none (cutPoint s) false
  have hactive : (endSplice .broken none (cutPoint s) false u).eng.active = (closeEntry sp .broken u).eng.active := by rw [hend]; rfl
  have hset : ∀ k, sp.index = some k → (closeEntry sp .broken u).eng.active =
      s.eng.active.set k ((s.eng.active[k]).map fun a => { a with state := .ended .broken }) := fun k hk => by
    rw [closeEntry, hk, ← heng]
    rfl
  refine ⟨⟨bank, ?_⟩, ?_, fun hnone => ?_, fun k hk => ?_, fun i hi => ?_, fun hprepared => hsource (by rw [heng]; exact hprepared),
    fun hfor => ?_, fun hfor => ?_⟩
  · rw [hactive, hresult, ← heng, hend]
  · rw [← hgate, hend]
  · rw [hactive, closeEntry, hnone, ← heng]
    rfl
  · rw [hactive, hset k hk]
    exact Vector.getElem_set_self k.isLt
  · rw [hactive]
    cases hindex : sp.index with
    | none =>
      rw [closeEntry, hindex, ← heng]
      rfl
    | some k =>
      rw [hset k hindex]
      exact Vector.getElem_set_ne k.isLt i.isLt fun hne => hi (by rw [hindex, Fin.ext hne])
  · intro hok n hn
    exact hspent (by rw [heng]; exact hfor) (by rw [hbanks]; exact hok) n (by rw [hbanks]; exact hn)
  · rw [← hbanks, ← heng]
    exact hkept (by rw [heng]; exact hfor)

/-- A stop without a splice to break cuts the gate only. -/
theorem stopSplice_none {s : State} (h : s.eng.splice = none) : (stopSplice s).eng = s.eng ∧ (stopSplice s).banks = s.banks
    ∧ (stopSplice s).gate = s.gate.cut := by
  obtain ⟨heng, hbanks, -, hgate⟩ := stoppedGate_rest s
  rw [stopSplice_eq]
  generalize stoppedGate s = u at heng hbanks hgate ⊢
  have hend : endSplice .broken none (cutPoint s) false u = u := by
    unfold endSplice
    rw [heng, h]
  rw [hend]
  exact ⟨heng, hbanks, hgate⟩

theorem Broken.joins {s t : State} {sp : Splice} (h : Broken s sp t) (hok : s.eng.ok) : Joins s.eng [brokenResult s sp] t.eng := by
  obtain ⟨bank, hengine⟩ := h.engine
  rw [hengine]
  exact withResult_joins (e := { s.eng with splice := none, bankFor := bank, active := t.eng.active }) hok.1 hok.2.1 _

/-- The broken entry is PENDING no more, and the other entries are as they were. -/
theorem Broken.pending {s t : State} {sp : Splice} (h : Broken s sp t) {k : Fin 16} (hk : sp.index = some k) (i : Fin 16) :
    pendingEntry t i = if i = k then none else pendingEntry s i := by
  unfold pendingEntry
  by_cases hi : i = k
  · subst hi
    rw [if_pos rfl, h.entry i hk]
    cases s.eng.active[i] <;> rfl
  · rw [if_neg hi, h.others i (by rw [hk]; exact fun hik => hi (Option.some.inj hik).symm)]

theorem Broken.skipResults {s t : State} {sp : Splice} (h : Broken s sp t) {k : Fin 16} (hk : sp.index = some k) :
    skipResults t = (List.finRange 16).filterMap fun i => if i = k then none else skipResult s i := by
  refine List.filterMap_congr fun i _ => ?_
  obtain ⟨bank, hengine⟩ := h.engine
  have hrun : t.eng.run = s.eng.run := (congrArg Engine.run hengine :)
  have hpass : t.eng.pass = s.eng.pass := (congrArg Engine.pass hengine :)
  have hmode : t.eng.mode = s.eng.mode := (congrArg Engine.mode hengine :)
  have htake : t.eng.runTake = s.eng.runTake := (congrArg Engine.runTake hengine :)
  unfold skipResult programTag rehearsing takeFor
  rw [h.pending hk, hrun, hpass, hmode, htake]
  by_cases hi : i = k
  · rw [if_pos hi, if_pos hi]
    rfl
  · rw [if_neg hi, if_neg hi]

/-! ### The commands -/

theorem setEng_state (st : EngState) (s : State) : (setEng st s).eng.state = st := by rw [setEng_frame]

theorem setEng_intake (st : EngState) (s : State) : (setEng st s).intake = s.intake := by rw [setEng_frame]

theorem setEng_banks (st : EngState) (s : State) : (setEng st s).banks = s.banks := by rw [setEng_frame]

/-- A stop with no splice in progress. -/
structure Stopped (s t : State) : Prop where
  dropped : Dropped s t
  source : t.intake.source = .analog
  spent : s.eng.bankFor.isSome = true → Spent s t

theorem stopped_setEng (st : EngState) (s : State) : Stopped s (setEng st (dropProgram s)) := by
  refine ⟨(dropProgram_dropped s).setEng st, ?_, fun hfor hok n hn => ?_⟩
  · rw [setEng_intake]
    exact dropProgram_source s
  · rw [setEng_banks]
    exact dropProgram_spent hfor hok n hn

/-- Every bank of a broken program is spent, by the splice's end or by the drop after it. -/
theorem stopSplice_spends {s t : State} (h : Stopped (stopSplice s) t) (hfor : s.eng.bankFor.isSome = true) : Spent s t := by
  intro hok n hn
  cases hsplice : s.eng.splice with
  | none =>
    obtain ⟨heng, hbanks, -⟩ := stopSplice_none hsplice
    exact h.spent (by rw [heng]; exact hfor) (by rw [hbanks]; exact hok) n (by rw [hbanks]; exact hn)
  | some sp =>
    have hbroken := stopSplice_broken hsplice
    by_cases htag : s.eng.bankFor = some sp.tag
    · exact h.dropped.keeps n (hbroken.spent htag hok n hn)
    · obtain ⟨hbanks, hbank⟩ := hbroken.kept htag
      exact h.spent (by rw [hbank]; exact hfor) (by rw [hbanks]; exact hok) n (by rw [hbanks]; exact hn)

theorem stopNow_punch {s : State} (h : punchOpen s = true) : stopNow s = (stopSplice s, .done) := if_pos h

theorem stopNow_program {s : State} (h : punchOpen s = false) : stopNow s = match s.eng.state with
    | .idle | .done | .aborted => (s, .state)
    | .armed | .waiting | .held => (setEng .aborted (dropProgram s), .done)
    | .splicing | .finishing => (setEng .aborted (dropProgram (stopSplice s)), .done) := by
  refine (if_neg (by rw [h]; decide)).trans ?_
  cases s.eng.state <;> rfl

theorem stopAtEnd_program {s : State} (h : punchOpen s = false) : stopAtEnd s = match s.eng.state with
    | .idle | .done | .aborted => (s, .state)
    | .armed | .waiting | .held => (setEng .done (dropProgram s), .done)
    | .splicing => (setEng .finishing (dropAhead s), .accepted)
    | .finishing => (s, .done) := by
  refine (if_neg (by rw [h]; decide)).trans ?_
  cases s.eng.state <;> rfl

theorem stop_permitted (p : Port) : permitted p 0x54 = true := by cases p <;> decide

theorem stopNow_runs {s t : State} {r : Result} (p : Port) (h : stopNow s = (t, r)) :
    exec (.stopProgramNow p) s = .next (answer p (refuse r) t) ∧ settingsOf t = settingsOf s := by
  have hsettings := (stopNow_step (Move.refl s)).settings
  refine ⟨command_runs (stop_permitted p) (by rw [h]; rfl), ?_⟩
  rwa [h] at hsettings

theorem stopAtEnd_runs {s t : State} {r : Result} (p : Port) (h : stopAtEnd s = (t, r)) :
    exec (.stopProgramAtEnd p) s = .next (answer p (refuse r) t) ∧ settingsOf t = settingsOf s := by
  have hsettings := (stopAtEnd_step (Move.refl s)).settings
  refine ⟨command_runs (stop_permitted p) (by rw [h]; rfl), ?_⟩
  rwa [h] at hsettings

/-- The actual out-point of a broken splice, spelt out. -/
theorem brokenResult_out {s : State} {sp : Splice} (h : s.eng.splice = some sp) : (brokenResult s sp).actualOut =
    match sp.actualIn with
    | none => none
    | some start =>
      if sp.rehearse then s.tl.head.bind fun w => if start.addr ≤ w then some ⟨w, 0⟩ else none
      else match s.gate.write with
        | some w => some ⟨w.addr, 0⟩
        | none => s.tl.head.map fun w => ⟨w, 0⟩ := by
  show cutPoint s = _
  unfold cutPoint
  rw [h]
  cases hin : sp.actualIn with
  | none => simp only [hin]
  | some start =>
    simp only [hin]
    split
    · cases s.tl.head <;> rfl
    · cases s.gate.write <;> rfl

theorem brokenResult_pass (s : State) (sp : Splice) : (brokenResult s sp).pass = if sp.rehearse then s.eng.pass else 0 := by
  have hpass : (stoppedGate s).eng.pass = s.eng.pass := by rw [(stoppedGate_rest s).1]
  rw [← hpass]
  rfl

theorem dropAhead_dropped (s : State) : Dropped s (dropAhead s)
    ∧ (dropAhead s).intake.source = (if s.eng.prepared = [] then s.intake.source else .analog)
    ∧ (s.eng.bankFor.isSome = true → s.eng.bankFor ≠ s.eng.splice.map (·.tag) → Spent s (dropAhead s)) := by
  rw [dropAhead_eq]
  exact (skipPending_skips s).ahead

/-- The result of a skipped entry, in the obligation's words. -/
theorem skipResult_eq (s : State) (i : Fin 16) : skipResult s i = (pendingEntry s i).map fun e =>
    ⟨.program s.eng.run s.eng.pass i.val, s.eng.run, if decide (s.eng.mode = some .rehearse) then s.eng.pass else 0,
      decide (s.eng.mode = some .rehearse), .skipped, none, none, none, false, if e.lay then 0 else s.eng.runTake.getD 0, none, 0, 0⟩ := by
  have hrehearsing : rehearsing s = decide (s.eng.mode = some .rehearse) := beq_eq_decide ..
  unfold skipResult programTag takeFor
  rw [hrehearsing]

/-- Settles O31. -/
theorem stopProgram : Obligations.StopProgram := by
  intro p s rehearse skipped joins skips spends breaks
  have hskipped : skipped = skipResult s := funext fun i => (skipResult_eq s i).symm
  have hbreaks : ∀ sp, s.eng.splice = some sp → breaks sp (brokenResult s sp) := fun sp hsplice =>
    ⟨rfl, rfl, rfl, rfl, brokenResult_pass s sp, rfl, rfl, rfl, rfl, rfl, rfl, brokenResult_out hsplice⟩
  have hdropped : ∀ {t}, Dropped s t → skips t (fun _ => true) ∧ joins t ((List.finRange 16).filterMap skipped) := fun h =>
    ⟨⟨h.prepared, fun i e _ he => h.skipped i e he⟩, fun hok => hskipped ▸ h.joins hok.1 hok.2.1⟩
  refine ⟨fun hnopunch => ⟨fun hstate => ?resting, fun hstate => ?waiting, fun hstate => ?running, fun hstate => ?atEnd, fun hstate => ?last⟩,
    fun hpunch => ⟨?punch, ?punchAtEnd⟩⟩
  case resting =>
    have hnow := stopNow_program hnopunch
    have hend := stopAtEnd_program hnopunch
    rcases hstate with h | h | h <;> rw [h] at hnow hend <;> exact ⟨(stopNow_runs p hnow).1, (stopAtEnd_runs p hend).1⟩
  case waiting =>
    have hnow : stopNow s = (setEng .aborted (dropProgram s), .done) := by
      rw [stopNow_program hnopunch]
      rcases hstate with h | h | h <;> rw [h]
    have hend : stopAtEnd s = (setEng .done (dropProgram s), .done) := by
      rw [stopAtEnd_program hnopunch]
      rcases hstate with h | h | h <;> rw [h]
    obtain ⟨hrun, hsettings⟩ := stopNow_runs p hnow
    obtain ⟨hrunEnd, hsettingsEnd⟩ := stopAtEnd_runs p hend
    have habort := stopped_setEng .aborted s
    have hdone := stopped_setEng .done s
    exact ⟨⟨_, hrun, setEng_state .., (hdropped habort.dropped).1, (hdropped habort.dropped).2, habort.source, habort.spent,
        habort.dropped.gate, hsettings⟩,
      _, hrunEnd, setEng_state .., (hdropped hdone.dropped).1, (hdropped hdone.dropped).2, hdone.source, hdone.spent, hdone.dropped.gate,
        hsettingsEnd⟩
  case running =>
    have hnow : stopNow s = (setEng .aborted (dropProgram (stopSplice s)), .done) := by
      rw [stopNow_program hnopunch]
      rcases hstate with h | h <;> rw [h]
    obtain ⟨hrun, hsettings⟩ := stopNow_runs p hnow
    have hstopped := stopped_setEng .aborted (stopSplice s)
    have hends : (stopSplice s).eng.splice = none ∧ (stopSplice s).gate = s.gate.cut := by
      cases hsplice : s.eng.splice with
      | none =>
        obtain ⟨heng, -, hgate⟩ := stopSplice_none hsplice
        exact ⟨by rw [heng]; exact hsplice, hgate⟩
      | some sp =>
        have hbroken := stopSplice_broken hsplice
        obtain ⟨bank, hengine⟩ := hbroken.engine
        exact ⟨(congrArg Engine.splice hengine :), hbroken.gate⟩
    refine ⟨_, hrun, setEng_state .., hstopped.dropped.splice.trans hends.1, hstopped.dropped.gate.trans hends.2, hstopped.source, hsettings,
      fun hfor => stopSplice_spends hstopped hfor, fun sp k hsplice hk => ?_⟩
    have hbroken := stopSplice_broken hsplice
    have hpending := hbroken.pending hk
    refine ⟨⟨hstopped.dropped.prepared, fun i e hi he => hstopped.dropped.skipped i e ?_⟩, fun a ha => ?_, brokenResult s sp,
      hbreaks sp hsplice, fun hok => ?_⟩
    · rw [hpending, if_neg (bne_iff_ne.mp hi)]
      exact he
    · rw [hstopped.dropped.stands k (by rw [hpending, if_pos rfl]), hbroken.entry k hk, ha]
      rfl
    · have hfirst := hbroken.joins hok
      have hrest := hstopped.dropped.joins hfirst.bounds.1 hfirst.bounds.2
      rw [hbroken.skipResults hk] at hrest
      exact hskipped ▸ hfirst.trans hrest
  case atEnd =>
    have hend : stopAtEnd s = (setEng .finishing (dropAhead s), .accepted) := by rw [stopAtEnd_program hnopunch, hstate]
    obtain ⟨hrun, hsettings⟩ := stopAtEnd_runs p hend
    obtain ⟨hdrop, hsource, hspent⟩ := dropAhead_dropped s
    generalize dropAhead s = u at hrun hsettings hdrop hsource hspent
    have hdrop := hdrop.setEng .finishing
    obtain ⟨hskips, hjoins⟩ := hdropped hdrop
    refine ⟨_, hrun, setEng_state .., hdrop.splice, hdrop.gate, hsettings, hskips, hjoins, ?_, fun hfor hne hok n hn => ?_⟩
    · rw [setEng_intake]
      exact hsource
    · rw [setEng_banks]
      exact hspent hfor hne hok n hn
  case last =>
    have hend : stopAtEnd s = (s, .done) := by rw [stopAtEnd_program hnopunch, hstate]
    exact (stopAtEnd_runs p hend).1
  case punch =>
    obtain ⟨hrun, hsettings⟩ := stopNow_runs p (stopNow_punch hpunch)
    obtain ⟨sp, hsplice, hindex⟩ : ∃ sp, s.eng.splice = some sp ∧ sp.index = none := by
      unfold punchOpen at hpunch
      split at hpunch
      · next sp hsp => exact ⟨sp, hsp, Option.isNone_iff_eq_none.mp hpunch⟩
      · exact nomatch hpunch
    have hbroken := stopSplice_broken hsplice
    obtain ⟨bank, hengine⟩ := hbroken.engine
    refine ⟨_, hrun, (congrArg Engine.splice hengine :), hbroken.gate, (congrArg Engine.state hengine :), hsettings, hbroken.source,
      fun sp' hsp' => ?_⟩
    obtain rfl := Option.some.inj (hsplice.symm.trans hsp')
    exact ⟨hbroken.punch hindex, brokenResult s sp, hbreaks sp hsplice, fun hok => hbroken.joins hok⟩
  case punchAtEnd =>
    have hend : stopAtEnd s = (requestFinal s, .accepted) := if_pos hpunch
    exact (stopAtEnd_runs p hend).1

end Sys2Proof.ProgramStops
end

section
/-! SUPPORT. START PROGRAM: the program checks place by place, and what an accepted start does (R135 to R137, R139, R141, R157). -/

namespace Sys2Proof.ProgramStarts
open Sys2Proof.Machine Sys2Proof.StepLaws Sys2Proof.SpliceEnds Sys2Proof.StoreCommands Sys2Proof.Punches Sys2Proof.ProgramStops

/-! ### Lists whose present places come first (R135) -/

/-- The present places are the first ones. -/
def Contiguous {α : Type} (l : List (Option α)) : Prop := (l.takeWhile (·.isSome)).length = (l.filterMap id).length

theorem contiguous_none {α : Type} {l : List (Option α)} : Contiguous (none :: l) ↔ l.filterMap id = [] := by
  unfold Contiguous
  rw [List.takeWhile_cons_of_neg Bool.false_ne_true, List.filterMap_cons_none rfl]
  exact ⟨fun h => List.length_eq_zero_iff.mp h.symm, fun h => by rw [h]; rfl⟩

theorem contiguous_some {α : Type} {l : List (Option α)} {a : α} : Contiguous (some a :: l) ↔ Contiguous l := by
  unfold Contiguous
  rw [List.takeWhile_cons_of_pos rfl, List.filterMap_cons_some (f := id) rfl, List.length_cons, List.length_cons]
  exact Nat.add_right_cancel_iff

theorem contiguous_of_first {α : Type} {l : List (Option α)} {n : Nat}
    (h : ∀ i x, l[i]? = some x → (x.isSome = true ↔ i < n)) : Contiguous l := by
  induction l generalizing n with
  | nil => rfl
  | cons x l ih =>
    have hhead := h 0 x rfl
    have htail : ∀ i y, l[i]? = some y → (y.isSome = true ↔ i + 1 < n) := fun i y hy => h (i + 1) y hy
    cases x with
    | none =>
      refine contiguous_none.mpr (List.filterMap_eq_nil_iff.mpr fun y hy => ?_)
      obtain ⟨i, hi⟩ := List.mem_iff_getElem?.mp hy
      have hn : ¬0 < n := fun h0 => nomatch hhead.mpr h0
      exact Option.not_isSome_iff_eq_none.mp fun hsome => hn (Nat.zero_lt_of_lt ((htail i y hi).mp hsome))
    | some a =>
      have hn : 0 < n := hhead.mp rfl
      exact contiguous_some.mpr (ih (n := n - 1) fun i y hy => (htail i y hy).trans (by omega))

/-- The present entries stand at their places. -/
theorem getElem?_of_contiguous {α : Type} {l : List (Option α)} (h : Contiguous l) (i : Nat) :
    (l.filterMap id)[i]? = l[i]?.join := by
  induction l generalizing i with
  | nil => rfl
  | cons x l ih =>
    cases x with
    | none =>
      have hnil := contiguous_none.mp h
      rw [List.filterMap_cons_none rfl, hnil]
      cases i with
      | zero => rfl
      | succ i =>
        rw [List.getElem?_cons_succ]
        cases hi : l[i]? with
        | none => rfl
        | some y =>
          have hy := List.filterMap_eq_nil_iff.mp hnil y (List.mem_of_getElem? hi)
          exact hy.symm
    | some a =>
      rw [List.filterMap_cons_some (f := id) rfl]
      cases i with
      | zero => rfl
      | succ i => exact ih (contiguous_some.mp h) i

/-! ### The program checks (R135) -/

theorem draft_getElem? (s : State) (i : Fin 16) : s.eng.draft.toList[i.val]? = some s.eng.draft[i] := by
  rw [List.getElem?_eq_getElem (by rw [Vector.length_toList]; exact i.isLt), Vector.getElem_toList]
  rfl

theorem draftContiguous_iff (s : State) : draftContiguous s = true ↔ Contiguous s.eng.draft.toList := beq_iff_eq

/-- A draft whose present places come first, as the list of its entries. -/
theorem draft_eq {s : State} (h : draftContiguous s = true) (i : Fin 16) : s.eng.draft[i] = (draftEntries s)[i.val]? := by
  rw [draftEntries, getElem?_of_contiguous ((draftContiguous_iff s).mp h), draft_getElem?]
  rfl

theorem draftEntries_length (s : State) : (draftEntries s).length ≤ 16 := by
  refine (List.length_filterMap_le ..).trans ?_
  rw [Vector.length_toList]

theorem draftContiguous_of_first {s : State} {n : Nat} (h : ∀ i : Fin 16, (s.eng.draft[i]).isSome = true ↔ i.val < n) :
    draftContiguous s = true := by
  refine (draftContiguous_iff s).mpr (contiguous_of_first (n := n) fun i x hx => ?_)
  have hi : i < 16 := by
    have := (List.getElem?_eq_some_iff.mp hx).1
    rwa [Vector.length_toList] at this
  rw [draft_getElem? s ⟨i, hi⟩] at hx
  exact Option.some.inj hx ▸ h ⟨i, hi⟩

theorem before_iff (p q : Point) : p.before q = true ↔ p.addr < q.addr ∨ p.addr = q.addr ∧ p.offset < q.offset := decide_eq_true_iff

/-- The order of the entries, place by place. -/
theorem ordered_iff : ∀ l : List Entry, ordered l = true ↔ ∀ i e g, l[i]? = some e → l[i + 1]? = some g →
    e.inPoint.before g.inPoint = true ∧ e.outPoint.before g.inPoint = true
  | [] => by simp [ordered]
  | [a] => by simp [ordered]
  | a :: b :: l => by
    rw [ordered, Bool.and_eq_true, Bool.and_eq_true, ordered_iff (b :: l)]
    constructor
    · rintro ⟨hab, hrest⟩ i e g he hg
      cases i with
      | zero =>
        obtain rfl := Option.some.inj he
        obtain rfl := Option.some.inj hg
        exact hab
      | succ i => exact hrest i e g he hg
    · exact fun h => ⟨h 0 a b rfl rfl, fun i e g he hg => h (i + 1) e g he hg⟩

/-- The lay flag stands in the first entry alone. -/
theorem lay_first_iff (l : List Entry) : (l.drop 1).all (fun e => !e.lay) = true ↔ ∀ i e, l[i]? = some e → e.lay = true → i = 0 := by
  rw [List.all_eq_true]
  constructor
  · intro h i e he hlay
    cases i with
    | zero => rfl
    | succ i =>
      have hmem : e ∈ l.drop 1 := List.mem_of_getElem? (i := i) (by rw [List.getElem?_drop, Nat.add_comm]; exact he)
      have := h e hmem
      simp [hlay] at this
  · intro h e he
    obtain ⟨i, hi⟩ := List.mem_iff_getElem?.mp he
    rw [List.getElem?_drop] at hi
    cases hlay : e.lay with
    | false => rfl
    | true => exact absurd (h _ e hi hlay) (by omega)

/-- The tests of a program on the list of its entries. -/
theorem programCheck_iff (m : RunMode) (s : State) : programCheck m s = true ↔ draftContiguous s = true ∧ draftEntries s ≠ []
    ∧ ∀ i e, (draftEntries s)[i]? = some e → e.valid (framePairs s.clock.rate) = true
      ∧ (e.lay = true → i = 0 ∧ m = .record) ∧ (e.lay = false → e.take = none ∨ e.take = some (nextTake s))
      ∧ ∀ g, (draftEntries s)[i + 1]? = some g → e.inPoint.before g.inPoint = true ∧ e.outPoint.before g.inPoint = true := by
  unfold programCheck
  dsimp only
  generalize draftEntries s = l
  have hempty : (!l.isEmpty) = true ↔ l ≠ [] := by cases l <;> simp
  have hvalid : l.all (Entry.valid (framePairs s.clock.rate)) = true ↔ ∀ (i : Nat) (e : Entry), l[i]? = some e →
      e.valid (framePairs s.clock.rate) = true := by
    rw [List.all_eq_true]
    exact ⟨fun h i e he => h e (List.mem_of_getElem? he), fun h e he => (List.mem_iff_getElem?.mp he).elim fun i hi => h i e hi⟩
  have hhead : (!(l.head?.any (·.lay)) || m == .record) = true ↔ ∀ e : Entry, l[0]? = some e → e.lay = true →
      m = .record := by
    cases l with
    | nil => simp
    | cons a l => cases hlay : a.lay <;> simp [hlay]
  have htake : (l.all fun e => e.lay || e.take == none || e.take == some (nextTake s)) = true ↔
      ∀ (i : Nat) (e : Entry), l[i]? = some e → e.lay = false → e.take = none ∨ e.take = some (nextTake s) := by
    rw [List.all_eq_true]
    constructor
    · intro h i e he hlay
      have := h e (List.mem_of_getElem? he)
      simpa [hlay] using this
    · intro h e he
      obtain ⟨i, hi⟩ := List.mem_iff_getElem?.mp he
      cases hlay : e.lay with
      | true => rfl
      | false => simpa using h i e hi hlay
  rw [Bool.and_eq_true, Bool.and_eq_true, Bool.and_eq_true, Bool.and_eq_true, Bool.and_eq_true, Bool.and_eq_true, hempty, hvalid,
    ordered_iff, lay_first_iff, hhead, htake]
  constructor
  · rintro ⟨⟨⟨⟨⟨⟨hcontiguous, hsome⟩, hvalid⟩, hordered⟩, hfirst⟩, hrecord⟩, htakes⟩
    refine ⟨hcontiguous, hsome, fun i e he => ⟨hvalid i e he, fun hlay => ?_, htakes i e he, fun g hg => hordered i e g he hg⟩⟩
    obtain rfl := hfirst i e he hlay
    exact ⟨rfl, hrecord e he hlay⟩
  · rintro ⟨hcontiguous, hsome, h⟩
    refine ⟨⟨⟨⟨⟨⟨hcontiguous, hsome⟩, fun i e he => ?_⟩, fun i e g he hg => ?_⟩, fun i e he hlay => ?_⟩, fun e he hlay => ?_⟩, fun i e he => ?_⟩
    · exact (h i e he).1
    · exact (h i e he).2.2.2 g hg
    · exact ((h i e he).2.1 hlay).1
    · exact ((h 0 e he).2.1 hlay).2
    · exact (h i e he).2.2.1

/-- The program checks in the obligation's words. -/
theorem programCheck_places (m : RunMode) (s : State) : programCheck m s = true ↔ ∃ n, 1 ≤ n
    ∧ (∀ i : Fin 16, (s.eng.draft[i]).isSome = true ↔ i.val < n)
    ∧ ∀ (i : Fin 16) (e : Entry), s.eng.draft[i] = some e → e.valid (framePairs s.clock.rate) = true
      ∧ (e.lay = true → i.val = 0 ∧ m = .record)
      ∧ (e.lay = false → e.take = none ∨ e.take = some (nextTake s))
      ∧ ∀ (j : Fin 16) (g : Entry), j.val = i.val + 1 → s.eng.draft[j] = some g →
        (e.inPoint.addr < g.inPoint.addr ∨ (e.inPoint.addr = g.inPoint.addr ∧ e.inPoint.offset < g.inPoint.offset))
        ∧ (e.outPoint.addr < g.inPoint.addr ∨ (e.outPoint.addr = g.inPoint.addr ∧ e.outPoint.offset < g.inPoint.offset)) := by
  rw [programCheck_iff]
  have hshort := draftEntries_length s
  constructor
  · rintro ⟨hcontiguous, hsome, h⟩
    have hdraft := draft_eq hcontiguous
    refine ⟨(draftEntries s).length, List.length_pos_iff.mpr hsome, fun i => ?_, fun i e he => ?_⟩
    · rw [hdraft]
      simp
    · rw [hdraft] at he
      obtain ⟨hvalid, hlay, htake, hnext⟩ := h i e he
      refine ⟨hvalid, hlay, htake, fun j g hj hg => ?_⟩
      rw [hdraft, hj] at hg
      rw [← before_iff, ← before_iff]
      exact hnext g hg
  · rintro ⟨n, hn, hfirst, h⟩
    have hcontiguous := draftContiguous_of_first hfirst
    have hdraft := draft_eq hcontiguous
    have hplace : ∀ {i e}, (draftEntries s)[i]? = some e → ∃ hi : i < 16, s.eng.draft[(⟨i, hi⟩ : Fin 16)] = some e := fun {i e} he => by
      have hi : i < 16 := Nat.lt_of_lt_of_le (List.getElem?_eq_some_iff.mp he).1 hshort
      exact ⟨hi, (hdraft ⟨i, hi⟩).trans he⟩
    refine ⟨hcontiguous, fun hnil => ?_, fun i e he => ?_⟩
    · have hzero := (hfirst 0).mpr hn
      rw [hdraft, hnil] at hzero
      exact nomatch hzero
    · obtain ⟨hi, hplaced⟩ := hplace he
      obtain ⟨hvalid, hlay, htake, hnext⟩ := h ⟨i, hi⟩ e hplaced
      refine ⟨hvalid, hlay, htake, fun g hg => ?_⟩
      obtain ⟨hj, hplacedNext⟩ := hplace hg
      rw [before_iff, before_iff]
      exact hnext ⟨i + 1, hj⟩ g rfl hplacedNext

/-! ### An accepted start (R136, R137, R157) -/

/-- The engine's record of a new run. -/
def startedEngine (m : RunMode) (passes target : Nat) (s : State) : Engine := { s.eng with
  run := (s.eng.run + 1) % 256, pass := 1, mode := some m, passes := some passes, runTake := some (nextTake s)
  takeCounter := if m = .record then nextTake s else s.eng.takeCounter
  active := mapPlaces (fun o => o.map activeCopy) s.eng.draft, prepared := [], layWait := none, locate := target }

/-- The state of a new run, before the engine goes on from it. -/
def started (m : RunMode) (passes : Nat) (e : Entry) (s : State) : State :=
  { s with eng := startedEngine m passes (e.inPoint.addr - s.eng.preroll) s }

theorem activeCopy_entry (e : Entry) : (activeCopy e).entry.lay = e.lay ∧ (activeCopy e).entry.source = e.source
    ∧ (activeCopy e).entry.inPoint.addr = e.inPoint.addr ∧ (activeCopy e).state = .pending := by
  unfold activeCopy
  split <;> exact ⟨rfl, rfl, rfl, rfl⟩

theorem started_first {s : State} {e : Entry} (he : s.eng.draft[(0 : Fin 16)] = some e) (m : RunMode) (passes target : Nat) :
    (startedEngine m passes target s).active[(0 : Fin 16)] = some (activeCopy e) := by
  show (mapPlaces (fun o => o.map activeCopy) s.eng.draft)[(0 : Fin 16)] = _
  rw [mapPlaces_get, he]
  rfl

theorem acceptStart_eq {s : State} {e : Entry} (he : s.eng.draft[(0 : Fin 16)] = some e) (m : RunMode) (passes : Nat) :
    acceptStart m passes s =
      if e.lay then setEng .waiting (nameSource e.source
        { started m passes e s with eng := { (started m passes e s).eng with layWait := some 3 } })
      else if s.tl.mode = .play ∧ s.tl.state = .locked ∧ s.tl.position < e.inPoint.addr - s.eng.preroll then
        setEng .waiting (started m passes e s)
      else setEng .armed (post .locateRequest ((s.eng.run + 1) % 256) (some (e.inPoint.addr - s.eng.preroll)) none (started m passes e s)) := by
  obtain ⟨hlay, hsource, haddr, hpending⟩ := activeCopy_entry e
  have hentry : pendingEntry (started m passes e s) 0 = some (activeCopy e).entry := by
    have hactive : (started m passes e s).eng.active[(0 : Fin 16)] = some (activeCopy e) := started_first he ..
    unfold pendingEntry
    rw [hactive]
    exact if_pos hpending
  unfold acceptStart
  extract_lets take eng s1 target src s2
  have htarget : target = e.inPoint.addr - s.eng.preroll := by
    have hactive : s1.eng.active[(0 : Fin 16)] = some (activeCopy e) := started_first he m passes s.eng.locate
    exact (locateTarget_eq hactive).trans (congrArg (· - s.eng.preroll) haddr)
  have hs2 : s2 = started m passes e s := by
    unfold started
    rw [← htarget]
    rfl
  clear_value s2 target
  subst hs2 htarget
  rw [hentry]
  simp only [hlay, hsource]
  rfl

/-! ### The command (R135) -/

/-- The number of passes fits the mode. -/
def passesFit (m : RunMode) (passes : Nat) : Bool :=
  match m with
  | .rehearse => decide (1 ≤ passes ∧ passes ≤ 15)
  | .record => decide (passes = 1)

theorem startProgram_busy {s : State} (h : s.eng.state.resting = false ∨ punchOpen s = true) (m : RunMode) (passes : Nat)
    (version : Option Nat) : startProgram m passes version s = (s, .busy) := if_pos h

/-- A start that is not BUSY, test by test. -/
theorem startProgram_tests {s : State} (hresting : s.eng.state.resting = true) (hpunch : punchOpen s = false) (m : RunMode)
    (passes version : Nat) : startProgram m passes (some version) s =
      if passesFit m passes = false then (s, .range)
      else if (some version).any (fun v => v != s.eng.version) = true then (s, .stale)
      else if programCheck m s = false then (s, .range)
      else if draftLays s = true ∧ s.tl.mode ≠ .play then (s, .state)
      else (acceptStart m passes s, .accepted) := by
  refine (if_neg (by simp [hresting, hpunch])).trans ?_
  cases m <;> rfl

theorem startBody_refused {mode : Byte} {m : RunMode} (hm : named runModes mode = some m) {s : State} {passes version : Nat} {r : Result}
    (hr : r ≠ .accepted) (h : startProgram m passes (some version) s = (s, r)) : startBody mode passes version s = (s, refuse r) := by
  simp only [startBody, hm, h, if_neg hr]

theorem startBody_accepted {mode : Byte} {m : RunMode} (hm : named runModes mode = some m) {s t : State} {passes version : Nat}
    (h : startProgram m passes (some version) s = (t, .accepted)) : startBody mode passes version s =
      (t, ⟨.accepted, be 1 t.eng.run ++ be 1 (codeIn runModes m) ++ be 1 (t.eng.runTake.getD 0)⟩) := by
  simp only [startBody, hm, h, if_true]

/-- What an accepted start leaves, whichever way the engine goes on. -/
structure Starts (m : RunMode) (passes : Nat) (s t : State) : Prop where
  engine : ∃ target, { t.eng with state := s.eng.state, layWait := none } = startedEngine m passes target s
  gate : t.gate = s.gate

theorem acceptStart_starts {s : State} {e : Entry} (he : s.eng.draft[(0 : Fin 16)] = some e) (m : RunMode) (passes : Nat) :
    Starts m passes s (acceptStart m passes s) := by
  rw [acceptStart_eq he]
  split
  · obtain ⟨k, hk⟩ := nameSource_frame e.source { started m passes e s with eng := { (started m passes e s).eng with layWait := some 3 } }
    rw [hk, setEng_frame]
    exact ⟨⟨_, rfl⟩, rfl⟩
  · split
    · rw [setEng_frame]
      exact ⟨⟨_, rfl⟩, rfl⟩
    · rw [setEng_frame]
      exact ⟨⟨_, rfl⟩, rfl⟩

/-- A lay waits at once, its source named. -/
theorem acceptStart_lay {s : State} {e : Entry} (he : s.eng.draft[(0 : Fin 16)] = some e) (hlay : e.lay = true)
    (hstate : s.eng.state ≠ .waiting) (m : RunMode) (passes : Nat) : let t := acceptStart m passes s
    (t.eng.state = .waiting ∧ t.notices = (post .programState 2 none none s).notices) ∧ t.eng.layWait = some 3
      ∧ t.intake.source = e.source := by
  intro t
  have ht : t = _ := (acceptStart_eq he m passes).trans (if_pos hlay)
  have hsource := nameSource_source e.source { started m passes e s with eng := { (started m passes e s).eng with layWait := some 3 } }
  obtain ⟨k, hk⟩ := nameSource_frame e.source { started m passes e s with eng := { (started m passes e s).eng with layWait := some 3 } }
  rw [hk] at ht hsource
  rw [ht, setEng_changed (by exact hstate)]
  exact ⟨⟨rfl, rfl⟩, rfl, hsource⟩

/-- Any other program waits below the locate target on a locked tape, and asks for a locate otherwise. -/
theorem acceptStart_locates {s : State} {e : Entry} (he : s.eng.draft[(0 : Fin 16)] = some e) (hlay : e.lay = false)
    (hwaiting : s.eng.state ≠ .waiting) (harmed : s.eng.state ≠ .armed) (m : RunMode) (passes : Nat) :
    let t := acceptStart m passes s
    let target := e.inPoint.addr - s.eng.preroll
    let near := s.tl.mode = .play ∧ s.tl.state = .locked ∧ s.tl.position < target
    t.eng.locate = target ∧ t.eng.layWait = none ∧ t.intake = s.intake
      ∧ (near → t.eng.state = .waiting ∧ t.notices = (post .programState 2 none none s).notices)
      ∧ (¬near → t.eng.state = .armed ∧ t.notices = (post .programState 1 none none
          (post .locateRequest ((s.eng.run + 1) % 256) (some target) none s)).notices) := by
  intro t target near
  have ht := (acceptStart_eq he m passes).trans (if_neg (by rw [hlay]; decide))
  by_cases hnear : near
  · have ht : t = setEng .waiting (started m passes e s) := ht.trans (if_pos hnear)
    rw [ht, setEng_changed (by exact hwaiting)]
    exact ⟨rfl, rfl, rfl, fun _ => ⟨rfl, rfl⟩, fun h => absurd hnear h⟩
  · have ht := ht.trans (if_neg hnear)
    rw [show t = _ from ht, setEng_changed (by exact harmed)]
    exact ⟨rfl, rfl, rfl, fun h => absurd h hnear, fun _ => ⟨rfl, rfl⟩⟩

/-- Settles O30. -/
theorem startProgram : Obligations.StartProgram := by
  refine ⟨programCheck_places, fun p mode passes version s hp => ?_⟩
  have hpermitted : permitted p 0x53 = true := CueCommands.permitted_of_not_barred hp (by decide)
  intro resting take refused
  have hresting : s.eng.state.resting = true ↔ resting := SettingRows.resting_iff ..
  refine ⟨fun hm => command_runs hpermitted (by simp only [startBody, hm]), fun m hm => ?_⟩
  intro fits
  have hfits : passesFit m passes.toNat = true ↔ fits := by cases m <;> exact decide_eq_true_iff
  have hrefused : ∀ {r}, r ≠ .accepted → Machine.startProgram m passes.toNat (some version.toNat) s = (s, r) → refused r :=
    fun hr h => command_runs hpermitted (startBody_refused hm hr h)
  refine ⟨fun h => hrefused nofun (startProgram_busy ?_ ..), fun hrest hnopunch => ?_⟩
  · exact h.imp (fun hn => Bool.not_eq_true _ ▸ fun ht => hn (hresting.mp ht)) id
  have hversion : (some version.toNat).any (fun v => v != s.eng.version) = true ↔ version.toNat ≠ s.eng.version := bne_iff_ne
  have htests := startProgram_tests (hresting.mpr hrest) hnopunch m passes.toNat version.toNat
  refine ⟨fun hf => hrefused nofun (htests.trans (if_pos ?_)), fun hf hv => hrefused nofun (htests.trans ?_), fun hf hv hc =>
    hrefused nofun (htests.trans ?_), fun hf hv hc hl hmode => hrefused nofun (htests.trans ?_), fun hf hv hc hl => ?_⟩
  · exact Bool.not_eq_true _ ▸ fun ht => hf (hfits.mp ht)
  · rw [hfits.mpr hf, if_neg (by decide), if_pos (hversion.mpr hv)]
  · rw [hfits.mpr hf, if_neg (by decide), if_neg (fun h => hversion.mp h hv), if_pos hc]
  · rw [hfits.mpr hf, if_neg (by decide), if_neg (fun h => hversion.mp h hv), hc, if_neg (by decide), if_pos ⟨hl, hmode⟩]
  · have haccepted : Machine.startProgram m passes.toNat (some version.toNat) s = (acceptStart m passes.toNat s, .accepted) := by
      rw [htests, hfits.mpr hf, if_neg (by decide), if_neg (fun h => hversion.mp h hv), hc, if_neg (by decide),
        if_neg fun h => h.2 (hl h.1)]
    obtain ⟨e, he⟩ : ∃ e, s.eng.draft[(0 : Fin 16)] = some e := by
      obtain ⟨n, hn, hfirst, -⟩ := (programCheck_places m s).mp hc
      exact Option.isSome_iff_exists.mp ((hfirst 0).mpr hn)
    have hwaiting : s.eng.state ≠ .waiting := by rcases hrest with h | h | h <;> rw [h] <;> decide
    have harmed : s.eng.state ≠ .armed := by rcases hrest with h | h | h <;> rw [h] <;> decide
    have hsettings : settingsOf (acceptStart m passes.toNat s) = settingsOf s := (acceptStart_move m passes.toNat s).toMove.settings
    obtain ⟨⟨target, hengine⟩, hgate⟩ := acceptStart_starts he m passes.toNat
    have hlay := fun h => acceptStart_lay he h hwaiting m passes.toNat
    have hlocates := fun h => acceptStart_locates he h hwaiting harmed m passes.toNat
    have hrun := command_runs hpermitted (startBody_accepted hm haccepted)
    generalize acceptStart m passes.toNat s = t at hengine hgate hsettings hlay hlocates hrun
    have hnumber : t.eng.run = (s.eng.run + 1) % 256 := (congrArg Engine.run hengine :)
    have htake : t.eng.runTake = some (nextTake s) := (congrArg Engine.runTake hengine :)
    rw [hnumber, htake] at hrun
    refine ⟨t, e, hrun, hnumber, (congrArg Engine.pass hengine :), (congrArg Engine.mode hengine :), (congrArg Engine.passes hengine :),
      htake, (congrArg Engine.takeCounter hengine :), fun i => ?_, (congrArg Engine.results hengine :),
      (congrArg Engine.resultsLost hengine :), hgate, hsettings, he, hlay, hlocates⟩
    have hactive : t.eng.active = mapPlaces (fun o => o.map activeCopy) s.eng.draft := (congrArg Engine.active hengine :)
    rw [hactive, mapPlaces_get]

end Sys2Proof.ProgramStarts
end

section
/-! SUPPORT. The places of a frame's samples: every position has its own word, and what a stored pair reads as (R1, R54). -/

namespace Sys2Proof.FramePlaces
open Sys2Proof.Machine

theorem framePairs_eq (r : Rate) : framePairs r = 2 * halfPairs r := by cases r <;> rfl

theorem wordOf_lt {r : Rate} {i : Nat} (hi : i < framePairs r) : wordOf r i < 400 := by
  rw [framePairs_eq] at hi
  have hhalf : halfPairs r ≤ 800 := by cases r <;> decide
  unfold wordOf
  split <;> omega

theorem sectorOf_lt (r : Rate) (c : Chan) (i : Nat) : sectorOf r c i < 8 := by
  have hc : c.num ≤ 1 := by cases c <;> decide
  unfold sectorOf
  split <;> omega

/-- A sector and a word of it have a place of their own. -/
theorem place_inj {k j l n : Nat} (hj : j < 400) (hn : n < 400) (h : 400 * k + j = 400 * l + n) : k = l ∧ j = n := by omega

/-- Each sample position of a frame has a place of its own (R1). -/
theorem placeOf_inj {r : Rate} {c d : Chan} {i k : Nat} (hi : i < framePairs r) (hk : k < framePairs r)
    (h : placeOf r c i = placeOf r d k) : c = d ∧ i = k := by
  obtain ⟨hsector, hword⟩ := place_inj (wordOf_lt hi) (wordOf_lt hk) h
  have hnum : c.num = d.num → c = d := by cases c <;> cases d <;> decide
  unfold sectorOf at hsector
  unfold wordOf at hword
  have hc : c.num ≤ 1 := by cases c <;> decide
  have hd : d.num ≤ 1 := by cases d <;> decide
  split at hsector <;> split at hsector <;> simp only [*, if_true, if_false] at hword <;> exact ⟨hnum (by omega), by omega⟩

/-- The sample of a pair in a channel. -/
def pairChan (p : SamplePair) : Chan → Sample
  | .left => p.left
  | .right => p.right

theorem sampleAt_putPair {r : Rate} {i k : Nat} (hi : i < framePairs r) (hk : k < framePairs r) (m : Memory) (p : SamplePair) (c : Chan) :
    sampleAt (putPair m r i p) r c k = if k = i then pairChan p c else sampleAt m r c k := by
  unfold putPair sampleAt
  by_cases hright : placeOf r c k = placeOf r .right i
  · obtain ⟨rfl, rfl⟩ := placeOf_inj hk hi hright
    rw [if_pos rfl, Memory.read_write_same]
    rfl
  · rw [Memory.read_write_other _ _ _ _ hright]
    by_cases hleft : placeOf r c k = placeOf r .left i
    · obtain ⟨rfl, rfl⟩ := placeOf_inj hk hi hleft
      rw [if_pos rfl, Memory.read_write_same]
      rfl
    · rw [Memory.read_write_other _ _ _ _ hleft]
      refine (if_neg fun h => ?_).symm
      subst h
      cases c
      · exact hleft rfl
      · exact hright rfl

theorem pairAt_putPair {r : Rate} {i k : Nat} (hi : i < framePairs r) (hk : k < framePairs r) (m : Memory) (p : SamplePair) :
    pairAt (putPair m r i p) r k = if k = i then p else pairAt m r k := by
  unfold pairAt
  rw [sampleAt_putPair hi hk, sampleAt_putPair hi hk]
  split <;> rfl

end Sys2Proof.FramePlaces
end

section
/-! SUPPORT. The intake: the pairs that arrive, the positions that a frame takes, and the bank that a request finds (R43, R44, R87 to R90). -/

namespace Sys2Proof.IntakePairs
open Sys2Proof.Machine Sys2Proof.StepLaws Sys2Proof.SpliceEnds Sys2Proof.ClockMonitor Sys2Proof.Punches Sys2Proof.FramePlaces

/-! ### One position (R88, R89) -/

/-- The frame after it has taken a pair. -/
def tookPair (f : IntakeFrame) (p : SamplePair) (tag : Tag) : IntakeFrame :=
  { f with taken := f.taken + 1, tags := addTag f.tags tag 1, last := some (p, tag) }

/-- A pair that is taken stands at its position of the slot, and the other positions and slots stand. -/
structure Stores (v : State) (f : IntakeFrame) (i : SlotId) (p : SamplePair) (tag : Tag) (t : State) : Prop where
  intake : t.intake = { v.intake with frame := some (tookPair f p tag) }
  stored : pairAt t.slots[i].audio f.rate f.taken = p
  positions : ∀ k, k < framePairs f.rate → k ≠ f.taken → pairAt t.slots[i].audio f.rate k = pairAt v.slots[i].audio f.rate k
  slots : ∀ j, j ≠ i → t.slots[j] = v.slots[j]
  frame : { t with intake := v.intake, slots := v.slots } = v

theorem takePair_stores {f : IntakeFrame} {i : SlotId} (hslot : f.slot = some i) (htaken : f.taken < framePairs f.rate) (p : SamplePair)
    (tag : Tag) (v : State) : Stores v f i p tag (takePair f p tag v) := by
  have ht : takePair f p tag v = modifySlot i (fun x => { x with audio := putPair x.audio f.rate f.taken p })
      (setIntakeFrame (some (tookPair f p tag)) v) := by
    obtain ⟨slot, taken, tags, slips, starve, rate, last⟩ := f
    obtain rfl : slot = some i := hslot
    rfl
  rw [ht]
  refine ⟨rfl, ?_, fun k hk hne => ?_, fun j hj => modifySlot_get_other (Ne.symm hj) .., rfl⟩
  · rw [modifySlot_get_same, pairAt_putPair htaken htaken, if_pos rfl]
  · rw [modifySlot_get_same, pairAt_putPair htaken hk, if_neg hne]
    rfl

/-! ### The lines (R89) -/

/-- The FIFO is priming still. -/
def waiting (s : State) : Bool := s.intake.priming && decide (s.intake.fifo.length < 128)

theorem waiting_iff (s : State) : waiting s = true ↔ s.intake.priming = true ∧ s.intake.fifo.length < 128 := by
  rw [waiting, Bool.and_eq_true, decide_eq_true_eq]

theorem waiting_eq_false_iff (s : State) : waiting s = false ↔ s.intake.priming = false ∨ 128 ≤ s.intake.fifo.length := by
  rw [waiting, Bool.and_eq_false_iff, decide_eq_false_iff_not, Nat.not_lt]

/-- The FIFO as a take leaves it. -/
def drawn (rest : List (SamplePair × Tag)) (priming : Bool) (s : State) : State :=
  { s with intake := { s.intake with fifo := rest, priming := priming } }

section
variable {f : IntakeFrame} {s : State}

theorem primed (h : s.intake.priming = true) : { s with intake := { s.intake with priming := true } } = s := by rw [← h]

theorem lineTake_waits (h : f.taken < framePairs f.rate) (hw : waiting s = true) : lineTake f s = takeSilence f s := by
  have hpriming := ((waiting_iff s).mp hw).1
  have hw' : (s.intake.priming && decide (s.intake.fifo.length < 128)) = true := hw
  simp only [lineTake, hw', if_pos h, if_true]
  exact congrArg (takeSilence f) (primed hpriming)

theorem lineTake_pair {p : SamplePair} {tag : Tag} {rest : List (SamplePair × Tag)} (h : f.taken < framePairs f.rate)
    (hw : waiting s = false) (hfifo : s.intake.fifo = (p, tag) :: rest) : lineTake f s = takePair f p tag (drawn rest false s) := by
  have hw' : (s.intake.priming && decide (s.intake.fifo.length < 128)) = false := hw
  simp only [lineTake, hw', if_pos h, Bool.false_eq_true, if_false]
  rw [hfifo]
  rfl

theorem lineTake_again {p : SamplePair} {tag : Tag} (h : f.taken < framePairs f.rate) (hw : waiting s = false)
    (hfifo : s.intake.fifo = []) (hlast : f.last = some (p, tag)) : lineTake f s = takePair (f.slip 1) p tag (drawn [] false s) := by
  have hw' : (s.intake.priming && decide (s.intake.fifo.length < 128)) = false := hw
  simp only [lineTake, hw', if_pos h, Bool.false_eq_true, if_false, drawn]
  rw [hfifo, hlast]

theorem lineTake_silent (h : f.taken < framePairs f.rate) (hw : waiting s = false) (hfifo : s.intake.fifo = []) (hlast : f.last = none) :
    lineTake f s = takeSilence (f.slip 1) (drawn [] false s) := by
  have hw' : (s.intake.priming && decide (s.intake.fifo.length < 128)) = false := hw
  simp only [lineTake, hw', if_pos h, Bool.false_eq_true, if_false, drawn]
  rw [hfifo, hlast]

theorem lineTake_full_waits (h : framePairs f.rate ≤ f.taken) (hw : waiting s = true) : lineTake f s = s := by
  have hpriming := ((waiting_iff s).mp hw).1
  have hw' : (s.intake.priming && decide (s.intake.fifo.length < 128)) = true := hw
  simp only [lineTake, hw', if_neg (Nat.not_lt.mpr h), if_true]
  exact primed hpriming

theorem lineTake_full_drops {x : SamplePair × Tag} {rest : List (SamplePair × Tag)} (h : framePairs f.rate ≤ f.taken)
    (hw : waiting s = false) (hfifo : s.intake.fifo = x :: rest) :
    lineTake f s = setIntakeFrame (some (f.slip 1)) (drawn rest false s) := by
  have hw' : (s.intake.priming && decide (s.intake.fifo.length < 128)) = false := hw
  simp only [lineTake, hw', if_neg (Nat.not_lt.mpr h), Bool.false_eq_true, if_false]
  rw [hfifo]
  rfl

theorem lineTake_full_empty (h : framePairs f.rate ≤ f.taken) (hw : waiting s = false) (hfifo : s.intake.fifo = []) :
    lineTake f s = drawn [] false s := by
  have hw' : (s.intake.priming && decide (s.intake.fifo.length < 128)) = false := hw
  simp only [lineTake, hw', if_neg (Nat.not_lt.mpr h), Bool.false_eq_true, if_false, drawn]
  rw [hfifo]

end

/-! ### FLY (R90, R43, R44) -/

section
variable {f : IntakeFrame} {s : State}

theorem flyTake_full (h : framePairs f.rate ≤ f.taken) : flyTake f s = s := if_pos h

theorem flyTake_before {st : Nat} (h : f.taken < framePairs f.rate) (hstart : s.intake.flyStart = some st) (hbefore : f.taken < st) :
    flyTake f s = takeSilence f s := by
  refine (if_neg (Nat.not_le.mpr h)).trans (if_pos ?_)
  rw [hstart]
  exact decide_eq_true hbefore

/-- From the fly start on, the PLAYING bank gives the pairs. -/
theorem flyTake_from (h : f.taken < framePairs f.rate) (hstart : ∀ st, s.intake.flyStart = some st → st ≤ f.taken) :
    (playing s = none → flyTake f s = takeSilence f s)
    ∧ ∀ n, playing s = some n → flyTake f s =
      if (s.banks.get n).count = some ((s.banks.get n).readPos + 1) then bankRanOut n (f.taken + 1)
        (takePair f (bankPair (s.banks.get n) (s.banks.get n).readPos) (tagNow s n.src)
          (setBank n { s.banks.get n with readPos := (s.banks.get n).readPos + 1 } s))
      else takePair f (bankPair (s.banks.get n) (s.banks.get n).readPos) (tagNow s n.src)
        (setBank n { s.banks.get n with readPos := (s.banks.get n).readPos + 1 } s) := by
  have hbefore : ¬((match s.intake.flyStart with
      | some st => decide (f.taken < st)
      | none => false) = true) := by
    cases hst : s.intake.flyStart with
    | none => exact Bool.false_ne_true
    | some st => exact fun hlt => absurd (of_decide_eq_true hlt) (Nat.not_lt.mpr (hstart st hst))
  refine ⟨fun hp => ?_, fun n hp => ?_⟩
  · refine (if_neg (Nat.not_le.mpr h)).trans ((if_neg hbefore).trans ?_)
    rw [hp]
  · refine (if_neg (Nat.not_le.mpr h)).trans ((if_neg hbefore).trans ?_)
    rw [hp]

end

theorem intakePeriod_line {s : State} {f : IntakeFrame} (hframe : s.intake.frame = some f) (hsource : s.intake.source ≠ .fly) :
    intakePeriod s = lineTake f s := by
  rw [intakePeriod, hframe]
  exact if_neg hsource

theorem intakePeriod_fly {s : State} {f : IntakeFrame} (hframe : s.intake.frame = some f) (hsource : s.intake.source = .fly) :
    intakePeriod s = flyTake f s := by
  rw [intakePeriod, hframe]
  exact if_pos hsource

/-! ### A frame without a slot (R88) -/

/-- A frame that is lent slot `i`. -/
def lend (i : SlotId) (f : IntakeFrame) : IntakeFrame := { f with slot := some i }

/-- A state with another intake frame. -/
def lent (x : Option IntakeFrame) (v : State) : State := { v with intake := { v.intake with frame := x } }

/-- `t` is what a period makes of `s`, whose frame has no slot, and `u` what it makes of the same frame with slot `i`. -/
structure Lends (i : SlotId) (s t u : State) : Prop where
  slots : t.slots = s.slots
  frame : t.intake.frame.map (lend i) = u.intake.frame
  bare : t.intake.frame.all (fun g => g.slot.isNone) = true
  rest : { t with intake := { t.intake with frame := u.intake.frame }, slots := u.slots } = u

/-- Only the slots of the state before count. -/
theorem Lends.ofSlots {i : SlotId} {s v t u : State} (h : Lends i v t u) (hv : v.slots = s.slots) : Lends i s t u :=
  ⟨h.slots.trans hv, h.frame, h.bare, h.rest⟩

section
variable {f : IntakeFrame} (hslot : f.slot = none) (i : SlotId) (x : Option IntakeFrame)
include hslot

theorem setIntakeFrame_lends (v : State) : Lends i v (setIntakeFrame (some f) v) (setIntakeFrame (some (lend i f)) (lent x v)) :=
  ⟨rfl, rfl, congrArg Option.isNone hslot, rfl⟩

theorem takePair_lends (p : SamplePair) (tag : Tag) (v : State) :
    Lends i v (takePair f p tag v) (takePair (lend i f) p tag (lent x v)) := by
  obtain ⟨slot, taken, tags, slips, starve, rate, last⟩ := f
  obtain rfl : slot = none := hslot
  exact ⟨rfl, rfl, rfl, rfl⟩

end

/-- The same frame lent a slot, with nothing taken. -/
theorem lent_lends {f : IntakeFrame} (hslot : f.slot = none) (i : SlotId) {v : State} (hframe : v.intake.frame = some f) :
    Lends i v v (lent (some (lend i f)) v) := by
  refine ⟨rfl, ?_, ?_, rfl⟩
  · rw [hframe]
    rfl
  · rw [hframe]
    exact congrArg Option.isNone hslot

theorem Lends.bankRanOut {i : SlotId} {s t u : State} (h : Lends i s t u) (n : BankId) (k : Nat) :
    Lends i s (bankRanOut n k t) (bankRanOut n k u) := by
  have hbanks : t.banks = u.banks := (congrArg State.banks h.rest :)
  by_cases hfull : (t.banks.get n.other).state = .full
  · rw [bankRanOut_full k hfull, bankRanOut_full k (by rw [← hbanks]; exact hfull), ← hbanks]
    refine ⟨h.slots, h.frame, h.bare, ?_⟩
    exact (congrArg (fun v : State => post .flySwitch n.other.num none none { v with
      banks := (t.banks.set n { t.banks.get n with state := .spent }).set n.other
        { t.banks.get n.other with state := .playing, readPos := 0 } }) h.rest :)
  · rw [bankRanOut_starves k hfull, bankRanOut_starves k (by rw [← hbanks]; exact hfull), ← hbanks]
    refine ⟨h.slots, ?_, ?_, ?_⟩
    · show (t.intake.frame.map _).map (lend i) = u.intake.frame.map _
      rw [← h.frame, Option.map_map, Option.map_map]
      rfl
    · show (t.intake.frame.map _).all _ = true
      have hbare := h.bare
      revert hbare
      cases t.intake.frame <;> exact id
    · exact (congrArg (fun v : State => { v with
      banks := t.banks.set n { t.banks.get n with state := .spent }, intake := starvedAt k n v.intake }) h.rest :)

theorem lineTake_lends {f : IntakeFrame} (hslot : f.slot = none) (i : SlotId) {s : State} (hframe : s.intake.frame = some f) :
    Lends i s (lineTake f s) (lineTake (lend i f) (lent (some (lend i f)) s)) := by
  have hlent : waiting (lent (some (lend i f)) s) = waiting s := rfl
  have hslip : ∀ n, (f.slip n).slot = none := fun _ => hslot
  by_cases hfull : f.taken < framePairs f.rate
  · cases hw : waiting s with
    | true =>
      rw [lineTake_waits hfull hw, lineTake_waits (f := lend i f) hfull (hlent.trans hw)]
      exact setIntakeFrame_lends (f := { f with taken := f.taken + 1 }) hslot i _ s
    | false =>
      cases hfifo : s.intake.fifo with
      | cons x rest =>
        rw [lineTake_pair hfull hw hfifo, lineTake_pair (f := lend i f) (s := lent (some (lend i f)) s) hfull (hlent.trans hw) hfifo]
        exact (takePair_lends hslot i (some (lend i f)) x.1 x.2 (drawn rest false s)).ofSlots rfl
      | nil =>
        cases hlast : f.last with
        | some x =>
          rw [lineTake_again hfull hw hfifo hlast,
            lineTake_again (f := lend i f) (s := lent (some (lend i f)) s) hfull (hlent.trans hw) hfifo hlast]
          exact (takePair_lends (hslip 1) i (some (lend i f)) x.1 x.2 (drawn [] false s)).ofSlots rfl
        | none =>
          rw [lineTake_silent hfull hw hfifo hlast,
            lineTake_silent (f := lend i f) (s := lent (some (lend i f)) s) hfull (hlent.trans hw) hfifo hlast]
          exact (setIntakeFrame_lends (f := { f.slip 1 with taken := f.taken + 1 }) hslot i (some (lend i f)) (drawn [] false s)).ofSlots rfl
  · have hfull := Nat.not_lt.mp hfull
    cases hw : waiting s with
    | true =>
      rw [lineTake_full_waits hfull hw, lineTake_full_waits (f := lend i f) hfull (hlent.trans hw)]
      exact lent_lends hslot i hframe
    | false =>
      cases hfifo : s.intake.fifo with
      | cons x rest =>
        rw [lineTake_full_drops hfull hw hfifo, lineTake_full_drops (f := lend i f) (s := lent (some (lend i f)) s) hfull (hlent.trans hw) hfifo]
        exact (setIntakeFrame_lends (hslip 1) i (some (lend i f)) (drawn rest false s)).ofSlots rfl
      | nil =>
        rw [lineTake_full_empty hfull hw hfifo, lineTake_full_empty (f := lend i f) (s := lent (some (lend i f)) s) hfull (hlent.trans hw) hfifo]
        exact (lent_lends (v := drawn [] false s) hslot i hframe).ofSlots rfl

theorem flyTake_lends {f : IntakeFrame} (hslot : f.slot = none) (i : SlotId) {s : State} (hframe : s.intake.frame = some f) :
    Lends i s (flyTake f s) (flyTake (lend i f) (lent (some (lend i f)) s)) := by
  have hsilence : Lends i s (takeSilence f s) (takeSilence (lend i f) (lent (some (lend i f)) s)) :=
    setIntakeFrame_lends (f := { f with taken := f.taken + 1 }) hslot i _ s
  by_cases hfull : framePairs f.rate ≤ f.taken
  · rw [flyTake_full hfull, flyTake_full (f := lend i f) hfull]
    exact lent_lends hslot i hframe
  · have hfull := Nat.not_le.mp hfull
    by_cases hstart : ∀ st, s.intake.flyStart = some st → st ≤ f.taken
    · obtain ⟨hnone, hsome⟩ := flyTake_from (s := s) hfull hstart
      obtain ⟨lnone, lsome⟩ := flyTake_from (f := lend i f) (s := lent (some (lend i f)) s) hfull hstart
      cases hp : playing s with
      | none =>
        rw [hnone hp, lnone hp]
        exact hsilence
      | some n =>
        rw [hsome n hp, lsome n hp]
        have hpair := takePair_lends hslot i (some (lend i f)) (bankPair (s.banks.get n) (s.banks.get n).readPos) (tagNow s n.src)
          (setBank n { s.banks.get n with readPos := (s.banks.get n).readPos + 1 } s)
        by_cases hlast : (s.banks.get n).count = some ((s.banks.get n).readPos + 1)
        · rw [if_pos hlast, if_pos (by exact hlast)]
          exact Lends.bankRanOut (s := s) (hpair.ofSlots rfl) n (f.taken + 1)
        · rw [if_neg hlast, if_neg (by exact hlast)]
          exact hpair.ofSlots rfl
    · simp only [not_forall, not_le] at hstart
      obtain ⟨st, hst, hbefore⟩ := hstart
      rw [flyTake_before hfull hst hbefore, flyTake_before (f := lend i f) (s := lent (some (lend i f)) s) hfull hst hbefore]
      exact hsilence

/-! ### The pairs that arrive (R82, R87) -/

/-- The state that has heard a pair on a line. -/
def heard (line : InputLine) (pair : SamplePair) (s : State) : State := notePair line (some pair) s

theorem acceptPair_other {line : InputLine} {s : State} (h : s.intake.source ≠ lineSource line) (pair : SamplePair) :
    acceptPair line pair s = s := if_pos h

theorem acceptPair_none {line : InputLine} {s : State} (h : s.intake.source = lineSource line) (hframe : s.intake.frame = none)
    (pair : SamplePair) : acceptPair line pair s = { s with intake := { s.intake with fifo :=
      (if 128 ≤ s.intake.fifo.length then s.intake.fifo.drop 1 else s.intake.fifo) ++ [(pair, tagNow s (lineSrc line))] } } := by
  refine (if_neg (not_not.mpr h)).trans ?_
  rw [hframe]

theorem acceptPair_some {line : InputLine} {s : State} {f : IntakeFrame} (h : s.intake.source = lineSource line)
    (hframe : s.intake.frame = some f) (pair : SamplePair) : acceptPair line pair s =
      if 256 ≤ s.intake.fifo.length then setIntakeFrame (some (f.slip 1)) s
      else { s with intake := { s.intake with fifo := s.intake.fifo ++ [(pair, tagNow s (lineSrc line))] } } := by
  refine (if_neg (not_not.mpr h)).trans ?_
  rw [hframe]

/-- A position taken from the PLAYING bank, with the pair and its tag. -/
theorem flyTake_plays {s : State} {f : IntakeFrame} {i : SlotId} {n : BankId} (hslot : f.slot = some i)
    (htaken : f.taken < framePairs f.rate) (hstart : ∀ st, s.intake.flyStart = some st → st ≤ f.taken) (hp : playing s = some n) :
    let b := s.banks.get n
    let p := bankPair b b.readPos
    ∃ v, Stores (setBank n { b with readPos := b.readPos + 1 } s) f i p (tagNow s n.src) v
      ∧ flyTake f s = if b.count = some (b.readPos + 1) then bankRanOut n (f.taken + 1) v else v := by
  obtain ⟨-, hsome⟩ := flyTake_from (s := s) htaken hstart
  exact ⟨_, takePair_stores hslot htaken .., hsome n hp⟩

/-- The banks when those PLAYING are spent. -/
def spentBanks (b : Banks) : Banks :=
  let spent : Bank → Bank := fun x => if x.state = .playing then { x with state := .spent } else x
  ⟨spent b.b0, spent b.b1⟩

theorem spendPlaying_eq {s : State} (hok : s.banks.ok) : spendPlaying s = { s with banks := spentBanks s.banks } := by
  have h0 := spendPlaying_get hok .b0
  have h1 := spendPlaying_get hok .b1
  obtain ⟨b, hb⟩ := spendPlaying_frame s
  rw [hb] at h0 h1 ⊢
  have hbanks : b = spentBanks s.banks := congrArg₂ Banks.mk h0 h1
  rw [hbanks]

theorem banks_set_set (b : Banks) (n : BankId) (x y : Bank) : (b.set n x).set n y = b.set n y := by cases n <;> rfl

/-- What a position taken from bank `n` gives beside the slot. -/
structure Gives (s : State) (f : IntakeFrame) (i : SlotId) (p : SamplePair) (banks : Banks) (frame : IntakeFrame)
    (notices : PerPort NoticePort) (t : State) : Prop where
  stored : pairAt t.slots[i].audio f.rate f.taken = p
  banks : t.banks = banks
  intake : t.intake = { s.intake with frame := some frame }
  notices : t.notices = notices
  rest : { t with banks := s.banks, intake := s.intake, notices := s.notices, slots := s.slots } = s

section
variable {s v : State} {f : IntakeFrame} {i : SlotId} {n : BankId} {p : SamplePair} {tag : Tag} {b : Bank}

theorem stores_gives (h : Stores (setBank n b s) f i p tag v) : Gives s f i p (s.banks.set n b) (tookPair f p tag) s.notices v :=
  ⟨h.stored, (congrArg State.banks h.frame :), h.intake, (congrArg State.notices h.frame :),
    (congrArg (fun x : State => { x with banks := s.banks, notices := s.notices }) h.frame :)⟩

theorem stores_full (h : Stores (setBank n b s) f i p tag v) (hfull : (s.banks.get n.other).state = .full) (k : Nat) :
    Gives s f i p ((s.banks.set n { b with state := .spent }).set n.other { s.banks.get n.other with state := .playing, readPos := 0 })
      (tookPair f p tag) (post .flySwitch n.other.num none none s).notices (bankRanOut n k v) := by
  have hbanks : v.banks = s.banks.set n b := (congrArg State.banks h.frame :)
  have hother : v.banks.get n.other = s.banks.get n.other := by rw [hbanks]; exact banks_get_set_other ..
  have hown : v.banks.get n = b := by rw [hbanks]; exact banks_get_set_same ..
  rw [bankRanOut_full k (by rw [hother]; exact hfull), hother, hown, hbanks, banks_set_set]
  exact ⟨h.stored, rfl, h.intake, post_notices_congr (congrArg State.routes h.frame :) (congrArg State.notices h.frame :) ..,
    (congrArg (fun x : State => { x with banks := s.banks, notices := s.notices }) h.frame :)⟩

theorem stores_starves (h : Stores (setBank n b s) f i p tag v) (hfull : (s.banks.get n.other).state ≠ .full) (k : Nat) :
    Gives s f i p (s.banks.set n { b with state := .spent }) { tookPair f p tag with starve := some (k, n) } s.notices
      (bankRanOut n k v) := by
  have hbanks : v.banks = s.banks.set n b := (congrArg State.banks h.frame :)
  have hother : v.banks.get n.other = s.banks.get n.other := by rw [hbanks]; exact banks_get_set_other ..
  have hown : v.banks.get n = b := by rw [hbanks]; exact banks_get_set_same ..
  rw [bankRanOut_starves k (by rw [hother]; exact hfull), hown, hbanks, banks_set_set, h.intake]
  exact ⟨h.stored, rfl, rfl, (congrArg State.notices h.frame :), (congrArg (fun x : State => { x with banks := s.banks, notices := s.notices }) h.frame :)⟩

end

/-- A pair that arrives, by the record source, the intake frame and the room in the FIFO. -/
theorem arrival_cases (line : InputLine) (pair : SamplePair) (s : State) :
    let heard := notePair line (some pair) s
    let entry : SamplePair × Tag := (pair, tagNow s (lineSrc line))
    let arrives : Res → Prop := fun r => exec (.samplePairArrival line pair) s = r
    (s.intake.source ≠ lineSource line → arrives (.next heard))
    ∧ (s.intake.source = lineSource line →
      (s.intake.frame = none → s.intake.fifo.length < 128 →
        arrives (.next { heard with intake := { s.intake with fifo := s.intake.fifo ++ [entry] } }))
      ∧ (s.intake.frame = none → 128 ≤ s.intake.fifo.length →
        arrives (.next { heard with intake := { s.intake with fifo := s.intake.fifo.drop 1 ++ [entry] } }))
      ∧ (∀ f, s.intake.frame = some f → s.intake.fifo.length < 256 →
        arrives (.next { heard with intake := { s.intake with fifo := s.intake.fifo ++ [entry] } }))
      ∧ (∀ f, s.intake.frame = some f → 256 ≤ s.intake.fifo.length →
        arrives (.next { heard with intake := { s.intake with frame := some { f with slips := min 65535 (f.slips + 1) } } }))) := by
  intro heard entry arrives
  have hintake : heard.intake = s.intake := by cases line <;> rfl
  have hentry : entry = (pair, tagNow heard (lineSrc line)) := by cases line <;> rfl
  have hrun : ∀ {t}, acceptPair line pair heard = t → arrives (.next t) := fun h => congrArg Host.Outcome.next h
  rw [hentry]
  generalize heard = v at hintake hrun
  rw [← hintake]
  refine ⟨fun hsource => hrun (acceptPair_other hsource pair), fun hsource => ⟨fun hframe hroom => hrun ?_, fun hframe hfull => hrun ?_,
    fun f hframe hroom => hrun ?_, fun f hframe hfull => hrun ?_⟩⟩
  · rw [acceptPair_none hsource hframe, if_neg (Nat.not_le.mpr hroom)]
  · rw [acceptPair_none hsource hframe, if_pos hfull]
  · exact (acceptPair_some hsource hframe pair).trans (if_neg (Nat.not_le.mpr hroom))
  · exact (acceptPair_some hsource hframe pair).trans (if_pos hfull)

/-- Settles O45. -/
theorem intakeTakesPairs : Obligations.IntakeTakesPairs := by
  refine ⟨fun line pair s => ?arrival, fun s => ⟨rfl, rfl⟩, fun s hframe => ?idle, fun s f i hframe hslot htaken => ?position,
    fun s f hframe hfull => ?full, fun s f i hframe hslot => ?slotless, fun s hok => ?bank⟩
  case arrival =>
    cases line with
    | analog => exact arrival_cases .analog pair s
    | digital => exact arrival_cases .digital pair s
  case idle =>
    refine congrArg Host.Outcome.next ?_
    rw [intakePeriod, hframe]
  case position =>
    intro takes silent
    have htakes : ∀ {g p tag rest}, g.slot = some i → g.taken = f.taken → g.rate = f.rate →
        intakePeriod s = takePair g p tag (drawn rest false s) → ∃ t, exec .intakeSamplePeriod s = .next t
          ∧ Stores (drawn rest false s) g i p tag t := fun hg ht hr h =>
      ⟨_, congrArg Host.Outcome.next h, takePair_stores hg (by rw [ht, hr]; exact htaken) ..⟩
    refine ⟨fun hsource hpriming hfifo => ?waits, fun hsource hready => ⟨fun p tag rest hfifo => ?pair, fun p tag hfifo hlast => ?again,
      fun hfifo hlast => ?silence⟩, fun hsource => ⟨fun st hst hbefore => ?before, fun hstart => ⟨fun hnone => ?noBank,
        fun n hn hother => ?plays⟩⟩⟩
    case waits =>
      refine congrArg Host.Outcome.next ((intakePeriod_line hframe hsource).trans ((lineTake_waits htaken ?_).trans ?_))
      · exact (waiting_iff s).mpr ⟨hpriming, hfifo⟩
      · rw [← hpriming]
        rfl
    case pair =>
      have hline := lineTake_pair htaken ((waiting_eq_false_iff s).mpr hready) hfifo
      obtain ⟨t, hrun, hstores⟩ := htakes hslot rfl rfl ((intakePeriod_line hframe hsource).trans hline)
      exact ⟨t, hrun, hstores.intake, hstores.stored, hstores.positions, hstores.slots,
        (congrArg (fun x : State => { x with intake := s.intake }) hstores.frame :)⟩
    case again =>
      have hline := lineTake_again htaken ((waiting_eq_false_iff s).mpr hready) hfifo hlast
      obtain ⟨t, hrun, hstores⟩ := htakes (g := f.slip 1) hslot rfl rfl ((intakePeriod_line hframe hsource).trans hline)
      exact ⟨t, hrun, hstores.intake, hstores.stored, hstores.positions, hstores.slots,
        (congrArg (fun x : State => { x with intake := s.intake }) hstores.frame :)⟩
    case silence =>
      have hline := lineTake_silent htaken ((waiting_eq_false_iff s).mpr hready) hfifo hlast
      refine congrArg Host.Outcome.next ((intakePeriod_line hframe hsource).trans (hline.trans ?_))
      rw [drawn, ← hfifo]
      rfl
    case before =>
      exact congrArg Host.Outcome.next ((intakePeriod_fly hframe hsource).trans (flyTake_before htaken hst hbefore))
    case noBank =>
      exact congrArg Host.Outcome.next ((intakePeriod_fly hframe hsource).trans
        ((flyTake_from htaken hstart).1 (playing_none hnone)))
    case plays =>
      intro b src p tag took gives
      have hok : s.banks.ok := by
        cases n with
        | b0 => exact fun h => hother h.2
        | b1 => exact fun h => hother h.1
      obtain ⟨v, hstores, hfly⟩ := flyTake_plays hslot htaken hstart (playing_some hok hn)
      have hrun : exec .intakeSamplePeriod s = .next _ := congrArg Host.Outcome.next ((intakePeriod_fly hframe hsource).trans hfly)
      have htag : tag = tagNow s n.src := by cases n <;> rfl
      have hgives : ∀ {banks frame notices t}, exec .intakeSamplePeriod s = .next t → Gives s f i p banks frame notices t →
          gives banks frame notices := fun h k => ⟨_, h, k.stored, k.banks, k.intake, k.notices, k.rest⟩
      have htook : took = tookPair f p (tagNow s n.src) := by rw [← htag]; rfl
      rw [htook]
      refine ⟨fun hlast => ?_, fun hlast => ⟨fun hfull => ?_, fun hfull => ?_⟩⟩
      · rw [if_neg hlast] at hrun
        exact hgives hrun (stores_gives hstores)
      · rw [if_pos hlast] at hrun
        have hfly := stores_full hstores hfull (f.taken + 1)
        cases n <;> exact hgives hrun hfly
      · rw [if_pos hlast] at hrun
        exact hgives hrun (stores_starves hstores hfull (f.taken + 1))
  case full =>
    refine ⟨fun hsource => ?_, fun hsource => ⟨fun hpriming hfifo => ?_, fun hready => ⟨fun x rest hfifo => ?_, fun hfifo => ?_⟩⟩⟩
    · exact congrArg Host.Outcome.next ((intakePeriod_fly hframe hsource).trans (flyTake_full hfull))
    · exact congrArg Host.Outcome.next ((intakePeriod_line hframe hsource).trans
        (lineTake_full_waits hfull ((waiting_iff s).mpr ⟨hpriming, hfifo⟩)))
    · exact congrArg Host.Outcome.next ((intakePeriod_line hframe hsource).trans
        (lineTake_full_drops hfull ((waiting_eq_false_iff s).mpr hready) hfifo))
    · refine congrArg Host.Outcome.next ((intakePeriod_line hframe hsource).trans
        ((lineTake_full_empty hfull ((waiting_eq_false_iff s).mpr hready) hfifo).trans ?_))
      rw [drawn, ← hfifo]
  case slotless =>
    have hlends : Lends i s (intakePeriod s) (intakePeriod (lent (some (lend i f)) s)) := by
      by_cases hsource : s.intake.source = .fly
      · rw [intakePeriod_fly hframe hsource, intakePeriod_fly (s := lent (some (lend i f)) s) rfl hsource]
        exact flyTake_lends hslot i hframe
      · rw [intakePeriod_line hframe hsource, intakePeriod_line (s := lent (some (lend i f)) s) rfl hsource]
        exact lineTake_lends hslot i hframe
    exact ⟨_, _, rfl, rfl, hlends.slots, hlends.frame, hlends.bare, hlends.rest⟩
  case bank =>
    intro spent left
    have hspend : spendPlaying s = { s with banks := left } := spendPlaying_eq hok
    refine ⟨fun h0 h1 => ?none, fun n hfull hfirst => ⟨fun hrate => ?other, fun hrate => ?granted⟩⟩
    case none =>
      have hnone : ∀ n, (s.banks.get n).state ≠ .full := fun n => by
        cases n with
        | b0 => exact h0
        | b1 => exact h1
      exact (askBank_none hok hnone).trans (congrArg _ hspend)
    case other => exact (askBank_found hok hfull hfirst).trans ((if_pos hrate).trans (congrArg _ hspend))
    case granted =>
      refine (askBank_found hok hfull hfirst).trans ((if_neg (not_not.mpr hrate)).trans ?_)
      rw [hspend]
      rfl

end Sys2Proof.IntakePairs
end

section
/-! SUPPORT. The concealment walk: a frame's positions one by one, and what comes of a run of good or of bad ones (R68 to R74). -/

namespace Sys2Proof.ConcealWalk
open Sys2Proof.Machine

/-! ### A run of like positions -/

/-- Take the positions of a run one by one. -/
def takeRun (take : ConcealRec → Sample → Taken) : List Sample → Walk → List Sample × Walk
  | [], w => ([], w)
  | v :: l, w =>
    let x := take w.rec' v
    let y := takeRun take l (w.add x)
    (x.out :: y.1, y.2)

/-- Good positions, of these values. -/
def good (l : List Sample) : List (Bool × Sample) := l.map fun v => (false, v)

/-- Bad positions, of these values. -/
def bad (l : List Sample) : List (Bool × Sample) := l.map fun v => (true, v)

variable {P : ConcealParams}

theorem walk_good (plain : Bool) (left : Option Sample) (b : Option Bridge) (l : List Sample) (w : Walk) :
    walkChannel P plain left b (good l) w = takeRun (takeGood P) l w := by
  induction l generalizing left b w with
  | nil => cases b <;> rfl
  | cons v l ih =>
    have h := ih (some v) none (w.add (takeGood P w.rec' v))
    cases b <;>
    · show (_ :: (walkChannel P plain (some v) none (good l) _).1, (walkChannel P plain (some v) none (good l) _).2) = _
      rw [h]
      rfl

theorem bad_takeWhile (l : List Sample) : (bad l).takeWhile (·.1) = bad l := by
  rw [List.takeWhile_eq_self_iff]
  rintro x hx
  obtain ⟨v, -, rfl⟩ := List.mem_map.mp hx
  rfl

theorem bad_dropWhile (l : List Sample) (rest : List (Bool × Sample)) :
    (bad l ++ rest).dropWhile (·.1) = rest.dropWhile (·.1) := by
  induction l with
  | nil => rfl
  | cons v l ih => exact ih

/-- A bad position where no bridge begins. -/
theorem walk_unbridged {plain : Bool} {left : Option Sample} {v : Sample} {t : List (Bool × Sample)} {w : Walk}
    (h : bridgeAt P plain w.rec' left (1 + (t.takeWhile (·.1)).length) (t.dropWhile (·.1)) = none) :
    walkChannel P plain left none ((true, v) :: t) w =
      ((takeBad P w.rec').out :: (walkChannel P plain none none t (w.add (takeBad P w.rec'))).1,
        (walkChannel P plain none none t (w.add (takeBad P w.rec'))).2) := by
  rw [walkChannel, h]

theorem bridgeAt_end (plain : Bool) (r : ConcealRec) (left : Option Sample) (n : Nat) : bridgeAt P plain r left n [] = none := by
  unfold bridgeAt
  split
  · cases left <;> rfl
  · rfl

/-- A bad run that reaches the frame's end is not bridged (R68). -/
theorem walk_bad (plain : Bool) (left : Option Sample) (l : List Sample) (w : Walk) :
    walkChannel P plain left none (bad l) w = takeRun (fun r _ => takeBad P r) l w := by
  induction l generalizing left w with
  | nil => cases left <;> rfl
  | cons v l ih =>
    have hend : (bad l).dropWhile (·.1) = [] := by
      have h := bad_dropWhile l []
      rwa [List.append_nil] at h
    refine (walk_unbridged (t := bad l) ?_).trans ?_
    · rw [hend]
      exact bridgeAt_end ..
    · rw [ih]
      rfl

/-- A run, by what holds before each of its positions. -/
theorem takeRun_spec {take : ConcealRec → Sample → Taken} {o : Nat → Sample} {Inv : Nat → Walk → Prop} {l : List Sample} {w : Walk}
    (h0 : Inv 0 w)
    (hstep : ∀ n w, n < l.length → Inv n w → (take w.rec' (l.getD n 0)).out = o n ∧ Inv (n + 1) (w.add (take w.rec' (l.getD n 0)))) :
    (takeRun take l w).1 = (List.range l.length).map o ∧ Inv l.length (takeRun take l w).2 := by
  induction l generalizing w o Inv with
  | nil => exact ⟨rfl, h0⟩
  | cons v l ih =>
    obtain ⟨hout, hinv⟩ := hstep 0 w (Nat.zero_lt_succ _) h0
    obtain ⟨houts, hlast⟩ := ih (o := fun n => o (n + 1)) (Inv := fun n => Inv (n + 1)) hinv
      (fun n w hn h => hstep (n + 1) w (Nat.succ_lt_succ hn) h)
    refine ⟨?_, hlast⟩
    rw [List.length_cons, List.range_succ_eq_map, List.map_cons, List.map_map]
    exact congrArg₂ List.cons hout houts

/-! ### One position -/

section
variable {r : ConcealRec} {f : Fade} {v : Sample}

theorem fadeOutStep_goes (h : f.step + 1 < f.length) : fadeOutStep r f v =
    ⟨{ r with gain := fadeOutGain f, fade := some { f with step := f.step + 1 } }, scale v (fadeOutGain f), true, false, 0⟩ :=
  if_neg (Nat.not_le.mpr h)

theorem fadeOutStep_ends (h : f.length ≤ f.step + 1) : fadeOutStep r f v =
    ⟨enterMuted { r with gain := fadeOutGain f, fade := some { f with step := f.step + 1 } }, scale v (fadeOutGain f), true, false, 1⟩ :=
  if_pos h

theorem fadeInStep_goes (h : f.step + 1 < f.length) : fadeInStep r f v =
    ⟨{ r with gain := fadeInGain f, fade := some { f with step := f.step + 1 } }, scale v (fadeInGain f), true, false, 0⟩ :=
  if_neg (Nat.not_le.mpr h)

theorem fadeInStep_ends (h : f.length ≤ f.step + 1) : fadeInStep r f v =
    ⟨{ r with state := .clean, gain := unity, fade := none }, scale v (fadeInGain f), true, false, 0⟩ := if_pos h

theorem takeGood_clean (h : r.state = .clean) : takeGood P r v = ⟨{ r with lastGood := v, gain := unity }, v, false, false, 0⟩ := by
  simp only [takeGood, h]

theorem takeGood_holding (h : r.state = .holding) :
    takeGood P r v = ⟨{ r with lastGood := v, state := .clean, gain := unity, hold := 0 }, v, false, false, 0⟩ := by
  simp only [takeGood, h]

theorem takeGood_fadingOut (h : r.state = .fadingOut) (hfade : r.fade = some f) :
    takeGood P r v = fadeOutStep { r with lastGood := v } f v := by
  simp only [takeGood, h, fadeOf, hfade, Option.getD_some]

theorem takeGood_fadingIn (h : r.state = .fadingIn) (hfade : r.fade = some f) :
    takeGood P r v = fadeInStep { r with lastGood := v } f v := by
  simp only [takeGood, h, fadeOf, hfade, Option.getD_some]

theorem takeBad_fadingOut (h : r.state = .fadingOut) (hfade : r.fade = some f) : takeBad P r = fadeOutStep r f r.lastGood := by
  simp only [takeBad, h, fadeOf, hfade, Option.getD_some]

theorem takeBad_muted (h : r.state = .muted) : takeBad P r = ⟨r, 0, true, true, 0⟩ := by
  simp only [takeBad, h]

theorem takeBad_recovering (h : r.state = .recovering) : takeBad P r = ⟨{ r with recover := 0 }, 0, true, true, 0⟩ := by
  simp only [takeBad, h]

theorem takeBad_fadingIn (h : r.state = .fadingIn) (hfade : r.fade = some f) :
    takeBad P r = beginFadeOut P (addLong r) (if f.step = 0 then zeroGain else r.gain) := by
  simp only [takeBad, h, fadeOf, hfade, Option.getD_some]

theorem beginFadeOut_zero : beginFadeOut P r zeroGain = ⟨enterMuted r, 0, true, true, 1⟩ := rfl

theorem beginFadeOut_from {g : Frac} (h : 1 ≤ g.num) : beginFadeOut P r g =
    fadeOutStep { r with state := .fadingOut, fade := some ⟨g, P.fade, 0⟩, gain := g } ⟨g, P.fade, 0⟩ r.lastGood :=
  if_neg (Nat.one_le_iff_ne_zero.mp h)

end

/-! ### A channel that holds its last good value, fades it out, and falls silent (R70 to R72) -/

/-- A channel that holds for `h` more bad positions, and has then counted `n` long runs: a hold goes on, or begins in CLEAN. -/
def Holds (P : ConcealParams) (h n : Nat) (r : ConcealRec) : Prop :=
  (r.state = .clean ∧ h = P.hold ∧ n = min counterMax (r.longRuns + 1)) ∨ (r.state = .holding ∧ h = r.hold ∧ n = r.longRuns)

theorem takeBad_holds {r : ConcealRec} {h n : Nat} (hr : Holds P (h + 1) n r) :
    takeBad P r = ⟨{ r with state := .holding, longRuns := n, hold := h, gain := unity }, r.lastGood, true, false, 0⟩ := by
  obtain ⟨state, gain, lastGood, carried, hold, fade, recover, bridged, longRuns, mutes⟩ := r
  rcases hr with ⟨hstate, hhold, rfl⟩ | ⟨hstate, hhold, rfl⟩
  · obtain rfl : state = .clean := hstate
    simp only [takeBad, ← hhold, if_pos (Nat.le_add_left 1 h)]
    rfl
  · obtain rfl : state = .holding := hstate
    obtain rfl : h + 1 = hold := hhold
    rfl

theorem takeBad_held {r : ConcealRec} {n : Nat} (hr : Holds P 0 n r) :
    takeBad P r = beginFadeOut P { r with longRuns := n } unity := by
  obtain ⟨state, gain, lastGood, carried, hold, fade, recover, bridged, longRuns, mutes⟩ := r
  rcases hr with ⟨hstate, hhold, rfl⟩ | ⟨hstate, hhold, rfl⟩
  · obtain rfl : state = .clean := hstate
    simp only [takeBad, ← hhold]
    rfl
  · obtain rfl : state = .holding := hstate
    obtain rfl : 0 = hold := hhold
    rfl

/-- The gain of position `n` of a bad run: held for `hold` positions, then the steps of the fade. -/
def runValue (P : ConcealParams) (hold : Nat) (v : Sample) (n : Nat) : Sample :=
  if n < hold then v else if n < hold + P.fade then scale v ⟨P.fade - (n - hold), P.fade + 1⟩ else 0

/-- What has come of a channel after `n` positions of a bad run. -/
structure RanBad (P : ConcealParams) (r : ConcealRec) (hold longRuns n : Nat) (w : Walk) : Prop where
  value : w.rec'.lastGood = r.lastGood
  bridged : w.rec'.bridged = r.bridged
  counted : 1 ≤ n → w.rec'.longRuns = longRuns
  muted : w.muted = n - (hold + P.fade)
  holds : n ≤ hold → Holds P (hold - n) longRuns w.rec'
  fades : hold < n → n < hold + P.fade → w.rec'.state = .fadingOut ∧ w.rec'.fade = some ⟨unity, P.fade, n - hold⟩
  silent : hold + P.fade ≤ n → w.rec'.state = .muted
  mutes : w.rec'.mutes = if hold + P.fade ≤ n then min counterMax (r.mutes + 1) else r.mutes

theorem unity_gain (fade k : Nat) : fadeOutGain ⟨unity, fade, k⟩ = ⟨fade - k, fade + 1⟩ := by
  simp only [fadeOutGain, unity, Nat.one_mul]

theorem ranBad_step {r : ConcealRec} {hold longRuns n : Nat} {w : Walk} (hfade : 1 ≤ P.fade) (h : RanBad P r hold longRuns n w) :
    (takeBad P w.rec').out = runValue P hold r.lastGood n ∧ RanBad P r hold longRuns (n + 1) (w.add (takeBad P w.rec')) := by
  obtain ⟨hvalue, hbridged, hcounted, hmuted, hholds, hfades, hsilent, hmutes⟩ := h
  -- a step of the fade, the first or a later one
  have step : ∀ (x : ConcealRec) (k : Nat), k < P.fade → hold + k = n → x.lastGood = r.lastGood → x.bridged = r.bridged →
      x.longRuns = longRuns → x.state = .fadingOut → x.mutes = r.mutes →
      takeBad P w.rec' = fadeOutStep x ⟨unity, P.fade, k⟩ x.lastGood →
      (takeBad P w.rec').out = runValue P hold r.lastGood n ∧ RanBad P r hold longRuns (n + 1) (w.add (takeBad P w.rec')) := by
    intro x k hk hn xvalue xbridged xcounted xstate xmutes htake
    have hout : runValue P hold r.lastGood n = scale x.lastGood (fadeOutGain ⟨unity, P.fade, k⟩) := by
      rw [runValue, if_neg (by omega), if_pos (by omega), unity_gain, xvalue, show n - hold = k by omega]
    rw [htake, hout]
    by_cases hlast : P.fade ≤ k + 1
    · rw [fadeOutStep_ends (f := ⟨unity, P.fade, k⟩) hlast]
      refine ⟨rfl, xvalue, xbridged, fun _ => xcounted, ?_, fun _ => by omega, fun _ _ => by omega, fun _ => rfl, ?_⟩
      · show w.muted + 0 = _
        omega
      · rw [if_pos (by omega), ← xmutes]
        rfl
    · have hgoes := Nat.not_le.mp hlast
      rw [fadeOutStep_goes (f := ⟨unity, P.fade, k⟩) hgoes]
      refine ⟨rfl, xvalue, xbridged, fun _ => xcounted, ?_, fun _ => by omega, fun _ _ => ⟨xstate, ?_⟩, fun _ => by omega, ?_⟩
      · show w.muted + 0 = _
        omega
      · rw [show n + 1 - hold = k + 1 by omega]
        rfl
      · rw [if_neg (by omega)]
        exact xmutes
  rcases Nat.lt_trichotomy n hold with hn | rfl | hn
  · have htake := takeBad_holds (h := hold - (n + 1)) (n := longRuns) (r := w.rec')
      (by rw [show hold - (n + 1) + 1 = hold - n by omega]; exact hholds (by omega))
    rw [htake]
    refine ⟨?_, hvalue, hbridged, fun _ => rfl, ?_, fun _ => .inr ⟨rfl, rfl, rfl⟩, fun _ _ => by omega, fun _ => by omega, ?_⟩
    · rw [runValue, if_pos hn]
      exact hvalue
    · show w.muted + 0 = _
      omega
    · rw [if_neg (by omega)] at hmutes ⊢
      exact hmutes
  · have htake := takeBad_held (n := longRuns) (by rw [← Nat.sub_self n]; exact hholds le_rfl)
    rw [beginFadeOut_from (g := unity) le_rfl] at htake
    rw [if_neg (by omega)] at hmutes
    exact step { w.rec' with longRuns := longRuns, state := .fadingOut, fade := some ⟨unity, P.fade, 0⟩, gain := unity } 0 hfade
      (Nat.add_zero n) hvalue hbridged rfl rfl hmutes htake
  · by_cases hlast : n < hold + P.fade
    · obtain ⟨hstate, hf⟩ := hfades hn hlast
      rw [if_neg (by omega)] at hmutes
      exact step w.rec' (n - hold) (by omega) (by omega) hvalue hbridged (hcounted (by omega)) hstate hmutes
        (takeBad_fadingOut hstate hf)
    · have hlast := Nat.not_lt.mp hlast
      rw [takeBad_muted (hsilent hlast)]
      refine ⟨?_, hvalue, hbridged, fun _ => hcounted (by omega), ?_, fun _ => by omega, fun _ _ => by omega, fun _ => hsilent hlast, ?_⟩
      · rw [runValue, if_neg (by omega), if_neg (by omega)]
      · show w.muted + 1 = _
        omega
      · rw [if_pos (by omega)] at hmutes ⊢
        exact hmutes

theorem ranBad_begins {r : ConcealRec} {hold longRuns : Nat} (hfade : 1 ≤ P.fade) (h : Holds P hold longRuns r) :
    RanBad P r hold longRuns 0 ⟨r, false, 0, 0⟩ :=
  ⟨rfl, rfl, fun h => absurd h (by decide), (Nat.zero_sub _).symm, fun _ => h, fun h => absurd h (Nat.not_lt_zero _),
    fun h => by omega, (if_neg (by omega)).symm⟩

/-! ### A fade-out goes on (R72) -/

/-- What has come of a channel that fades out by `f` after `n` positions. -/
structure Faded (r : ConcealRec) (f : Fade) (n : Nat) (w : Walk) : Prop where
  touched : 1 ≤ n → w.touched = true
  muted : w.muted = 0
  goes : f.step + n < f.length → w.rec'.state = .fadingOut ∧ w.rec'.fade = some { f with step := f.step + n }
    ∧ w.rec'.mutes = r.mutes ∧ w.notices = 0
  ends : f.step + n = f.length → w.rec'.state = .muted ∧ w.rec'.mutes = min counterMax (r.mutes + 1) ∧ w.notices = 1

theorem faded_begins {r : ConcealRec} {f : Fade} (hstate : r.state = .fadingOut) (hfade : r.fade = some f) (hstep : f.step < f.length) :
    Faded r f 0 ⟨r, false, 0, 0⟩ :=
  ⟨fun h => absurd h (by decide), rfl, fun _ => ⟨hstate, hfade, rfl, rfl⟩, fun h => absurd h (Nat.ne_of_lt hstep)⟩

/-- The gain of a fade-out at its position `n` from here. -/
def fadedGain (f : Fade) (n : Nat) : Frac := ⟨f.start.num * (f.length - (f.step + n)), f.start.den * (f.length + 1)⟩

theorem faded_step {r x : ConcealRec} {f : Fade} {n : Nat} {w : Walk} {v : Sample} (hn : f.step + n < f.length) (h : Faded r f n w)
    (hstate : x.state = w.rec'.state) (hmutes : x.mutes = w.rec'.mutes) :
    let t := fadeOutStep x { f with step := f.step + n } v
    t.out = scale v (fadedGain f n) ∧ t.rec'.lastGood = x.lastGood ∧ Faded r f (n + 1) (w.add t) := by
  obtain ⟨-, hmuted, hgoes, -⟩ := h
  obtain ⟨wstate, -, wmutes, wnotices⟩ := hgoes hn
  have htouched : (w.touched || true) = true := Bool.or_true _
  intro t
  by_cases hlast : f.length ≤ f.step + n + 1
  · have ht : t = _ := fadeOutStep_ends (f := { f with step := f.step + n }) hlast
    rw [ht]
    refine ⟨rfl, rfl, fun _ => htouched, hmuted, fun _ => by omega, fun _ => ⟨rfl, ?_, ?_⟩⟩
    · rw [← wmutes, ← hmutes]
      rfl
    · show w.notices + 1 = 1
      rw [wnotices]
  · have ht : t = _ := fadeOutStep_goes (f := { f with step := f.step + n }) (Nat.not_le.mp hlast)
    rw [ht]
    refine ⟨rfl, rfl, fun _ => htouched, hmuted, fun _ => ⟨hstate.trans wstate, rfl, hmutes.trans wmutes, ?_⟩, fun _ => by omega⟩
    show w.notices + 0 = 0
    rw [wnotices]

/-! ### Silence, and the way back (R73, R74) -/

/-- A silent channel: MUTED, or RECOVERING with `count` good positions behind it. -/
def Silent (count : Nat) (r : ConcealRec) : Prop :=
  (r.state = .muted ∧ count = 0) ∨ (r.state = .recovering ∧ count = r.recover)

theorem takeGood_silent {r : ConcealRec} {count : Nat} {v : Sample} (h : Silent count r) (hlow : count < 64) :
    takeGood P r v = recoverStep P { r with lastGood := v } (count + 1) := by
  rcases h with ⟨hstate, rfl⟩ | ⟨hstate, rfl⟩
  · simp only [takeGood, hstate]
  · have hsat : saturate 64 (r.recover + 1) = r.recover + 1 := Nat.min_eq_right hlow
    simp only [takeGood, hstate, hsat]

/-- A channel in a state other than FADING_IN, or its fade-in's steps. -/
structure Recovered (P : ConcealParams) (count n : Nat) (w : Walk) : Prop where
  waits : count + n < P.recover → Silent (count + n) w.rec' ∧ (1 ≤ n → w.rec'.state = .recovering)
  fades : P.recover ≤ count + n → count + n < P.recover + P.fade →
    w.rec'.state = .fadingIn ∧ w.rec'.fade = some ⟨zeroGain, P.fade, count + n - P.recover⟩
  clean : P.recover + P.fade ≤ count + n → w.rec'.state = .clean
  muted : w.muted = min n (P.recover - count)
  notices : w.notices = if P.recover ≤ count + n then 1 else 0

/-- The value of position `n` of good positions after silence. -/
def recoveredValue (P : ConcealParams) (wait : Nat) (v : Sample) (n : Nat) : Sample :=
  if n < wait then 0 else if n < wait + P.fade then scale v ⟨n - wait + 1, P.fade + 1⟩ else v

theorem recovered_step {count n : Nat} {w : Walk} {v : Sample} (hP : P.recover ≤ 64) (hfade : 1 ≤ P.fade) (hcount : count < P.recover)
    (h : Recovered P count n w) :
    (takeGood P w.rec' v).out = recoveredValue P (P.recover - count) v n ∧ Recovered P count (n + 1) (w.add (takeGood P w.rec' v)) := by
  obtain ⟨hwaits, hfades, hclean, hmuted, hnotices⟩ := h
  by_cases hwait : count + n < P.recover
  · obtain ⟨hsilent, -⟩ := hwaits hwait
    rw [if_neg (by omega)] at hnotices
    rw [takeGood_silent hsilent (by omega)]
    have hout : recoveredValue P (P.recover - count) v n = 0 := if_pos (by omega)
    rw [hout]
    by_cases hback : P.recover ≤ count + n + 1
    · rw [recoverStep, if_pos hback]
      refine ⟨rfl, fun _ => by omega, fun _ _ => ⟨rfl, ?_⟩, fun _ => by omega, ?_, ?_⟩
      · rw [show count + (n + 1) - P.recover = 0 by omega]
        rfl
      · show w.muted + 1 = _
        omega
      · rw [if_pos (by omega)]
        show w.notices + 1 = 1
        rw [hnotices]
    · rw [recoverStep, if_neg hback]
      refine ⟨rfl, fun _ => ⟨.inr ⟨rfl, rfl⟩, fun _ => rfl⟩, fun _ => by omega, fun _ => by omega, ?_, ?_⟩
      · show w.muted + 1 = _
        omega
      · rw [if_neg (by omega)]
        show w.notices + 0 = 0
        rw [hnotices]
  · rw [if_pos (by omega)] at hnotices
    by_cases hfading : count + n < P.recover + P.fade
    · obtain ⟨hstate, hf⟩ := hfades (by omega) hfading
      rw [takeGood_fadingIn hstate hf]
      have hout : recoveredValue P (P.recover - count) v n = scale v (fadeInGain ⟨zeroGain, P.fade, count + n - P.recover⟩) := by
        rw [recoveredValue, if_neg (by omega), if_pos (by omega), fadeInGain,
          show n - (P.recover - count) = count + n - P.recover by omega]
      rw [hout]
      by_cases hlast : P.fade ≤ count + n - P.recover + 1
      · rw [fadeInStep_ends (f := ⟨zeroGain, P.fade, count + n - P.recover⟩) hlast]
        refine ⟨rfl, fun _ => by omega, fun _ _ => by omega, fun _ => rfl, ?_, ?_⟩
        · show w.muted + 0 = _
          omega
        · rw [if_pos (by omega)]
          show w.notices + 0 = 1
          rw [hnotices]
      · rw [fadeInStep_goes (f := ⟨zeroGain, P.fade, count + n - P.recover⟩) (Nat.not_le.mp hlast)]
        refine ⟨rfl, fun _ => by omega, fun _ _ => ⟨hstate, ?_⟩, fun _ => by omega, ?_, ?_⟩
        · rw [show count + (n + 1) - P.recover = count + n - P.recover + 1 by omega]
          rfl
        · show w.muted + 0 = _
          omega
        · rw [if_pos (by omega)]
          show w.notices + 0 = 1
          rw [hnotices]
    · rw [takeGood_clean (hclean (by omega))]
      refine ⟨?_, fun _ => by omega, fun _ _ => by omega, fun _ => hclean (by omega), ?_, ?_⟩
      · rw [recoveredValue, if_neg (by omega), if_neg (by omega)]
      · show w.muted + 0 = _
        omega
      · rw [if_pos (by omega)]
        show w.notices + 0 = 1
        rw [hnotices]

/-- What has come of a silent channel after `n` bad positions. -/
structure StaysSilent (r : ConcealRec) (n : Nat) (w : Walk) : Prop where
  muted : w.muted = n
  notices : w.notices = 0
  state : w.rec'.state = r.state
  longRuns : w.rec'.longRuns = r.longRuns
  mutes : w.rec'.mutes = r.mutes
  recover : 1 ≤ n → r.state = .recovering → w.rec'.recover = 0

theorem staysSilent_step {r : ConcealRec} {n : Nat} {w : Walk} (hr : r.state = .muted ∨ r.state = .recovering) (h : StaysSilent r n w) :
    (takeBad P w.rec').out = 0 ∧ StaysSilent r (n + 1) (w.add (takeBad P w.rec')) := by
  obtain ⟨hmuted, hnotices, hstate, hlong, hmutes, -⟩ := h
  have hcount : w.muted + 1 = n + 1 := congrArg (· + 1) hmuted
  rcases hr with hr | hr
  · rw [takeBad_muted (hstate.trans hr)]
    exact ⟨rfl, hcount, hnotices, hstate, hlong, hmutes, fun _ h => absurd (hr.symm.trans h) nofun⟩
  · rw [takeBad_recovering (hstate.trans hr)]
    exact ⟨rfl, hcount, hnotices, hstate, hlong, hmutes, fun _ _ => rfl⟩

theorem recovered_begins {r : ConcealRec} {count : Nat} (hcount : count < P.recover) (h : Silent count r) :
    Recovered P count 0 ⟨r, false, 0, 0⟩ :=
  ⟨fun _ => ⟨h, fun h => absurd h (by decide)⟩, fun h => by omega, fun h => by omega, (Nat.zero_min _).symm, (if_neg (by omega)).symm⟩

/-- What has come of a channel that fades in by `f` after `n` good positions. -/
structure FadedIn (f : Fade) (n : Nat) (w : Walk) : Prop where
  goes : f.step + n < f.length → w.rec'.state = .fadingIn ∧ w.rec'.fade = some { f with step := f.step + n }
  ends : f.step + n = f.length → w.rec'.state = .clean
  muted : w.muted = 0
  notices : w.notices = 0

theorem fadedIn_step {f : Fade} {n : Nat} {w : Walk} {v : Sample} (hn : f.step + n < f.length) (h : FadedIn f n w) :
    (takeGood P w.rec' v).out = scale v ⟨f.step + n + 1, f.length + 1⟩ ∧ FadedIn f (n + 1) (w.add (takeGood P w.rec' v)) := by
  obtain ⟨hgoes, -, hmuted, hnotices⟩ := h
  obtain ⟨hstate, hf⟩ := hgoes hn
  rw [takeGood_fadingIn hstate hf]
  by_cases hlast : f.length ≤ f.step + n + 1
  · rw [fadeInStep_ends (f := { f with step := f.step + n }) hlast]
    exact ⟨rfl, fun _ => by omega, fun _ => rfl, hmuted, hnotices⟩
  · rw [fadeInStep_goes (f := { f with step := f.step + n }) (Nat.not_le.mp hlast)]
    exact ⟨rfl, fun _ => ⟨hstate, rfl⟩, fun _ => by omega, hmuted, hnotices⟩

/-! ### A bridge (R68, R69) -/

theorem bridgeAt_plain {r : ConcealRec} (hstate : r.state = .clean) {run : Nat} (hrun : run ≤ P.bridge) (a b : Sample) (bit : Bool)
    (rest : List (Bool × Sample)) : bridgeAt P true r (some a) run ((bit, b) :: rest) = some ⟨a, b, run, 1⟩ :=
  if_pos ⟨.inl hstate, hrun, rfl⟩

/-- The first bad position of a bridge, as if the bridge were in progress. -/
theorem walk_bridges {plain : Bool} {left : Option Sample} {v a b : Sample} {t : List (Bool × Sample)} {w : Walk} {n : Nat}
    (h : bridgeAt P plain w.rec' left (1 + (t.takeWhile (·.1)).length) (t.dropWhile (·.1)) = some ⟨a, b, n, 1⟩) :
    walkChannel P plain left none ((true, v) :: t) w = walkChannel P plain left (some ⟨a, b, n, 1⟩) ((true, v) :: t)
      { w with rec' := { w.rec' with bridged := min counterMax (w.rec'.bridged + n) } } := by
  conv_lhs => rw [walkChannel, h]
  rfl

/-- The positions of a bridge in a CLEAN channel, from its position `k` on. -/
theorem walk_bridge {plain : Bool} {left : Option Sample} {a b : Sample} {n k : Nat} (junk : List Sample) (rest : List (Bool × Sample))
    (w : Walk) (hstate : w.rec'.state = .clean) (hlen : 1 ≤ junk.length) (hend : k + junk.length = n + 1) :
    walkChannel P plain left (some ⟨a, b, n, k⟩) (bad junk ++ rest) w =
      (((List.range junk.length).map fun j => interpolate a b n (k + j))
          ++ (walkChannel P plain left none rest { w with touched := true }).1,
        (walkChannel P plain left none rest { w with touched := true }).2) := by
  induction junk generalizing k w with
  | nil => exact absurd hlen (by decide)
  | cons v junk ih =>
    have htake : ∀ u, takeBridged P w.rec' u = ⟨w.rec', u, true, false, 0⟩ := fun u => by
      simp only [takeBridged, hstate]
    have hwalk : w.add (takeBridged P w.rec' (interpolate a b n k)) = { w with touched := true } := by
      rw [htake, Walk.add, Bool.or_true]
      rfl
    have hcons : walkChannel P plain left (some ⟨a, b, n, k⟩) ((true, v) :: (bad junk ++ rest)) w =
        (interpolate a b n k :: (walkChannel P plain left (if k < n then some ⟨a, b, n, k + 1⟩ else none) (bad junk ++ rest)
            { w with touched := true }).1,
          (walkChannel P plain left (if k < n then some ⟨a, b, n, k + 1⟩ else none) (bad junk ++ rest) { w with touched := true }).2) := by
      rw [walkChannel, hwalk, htake]
    refine hcons.trans ?_
    rw [List.length_cons, List.range_succ_eq_map, List.map_cons, List.map_map]
    rw [List.length_cons] at hend
    cases junk with
    | nil =>
      rw [if_neg (by rw [List.length_nil] at hend; omega)]
      rfl
    | cons u junk =>
      rw [if_pos (by rw [List.length_cons] at hend; omega),
        ih (k := k + 1) { w with touched := true } hstate (Nat.succ_pos _) (by omega)]
      refine Prod.ext (congrArg₂ List.cons rfl (congrArg (· ++ _) (List.map_congr_left fun j _ => ?_))) rfl
      rw [Function.comp_apply, Nat.succ_eq_add_one, Nat.add_right_comm, Nat.add_assoc]

/-! ### A channel of a frame -/

section
variable {plain : Bool} {addr : Option Nat} {r : ConcealRec} {l : List Sample}

/-- A channel of one kind of positions, by what holds before each of them; the carried neighbour is not told. -/
theorem conceal_spec {take : ConcealRec → Sample → Taken} {kind : List (Bool × Sample)} {o : Nat → Sample} {Inv : Nat → Walk → Prop}
    (hwalk : walkChannel P plain (carriedFor r addr) none kind ⟨r, false, 0, 0⟩ = takeRun take l ⟨r, false, 0, 0⟩)
    (h0 : Inv 0 ⟨r, false, 0, 0⟩)
    (hstep : ∀ n w, n < l.length → Inv n w → (take w.rec' (l.getD n 0)).out = o n ∧ Inv (n + 1) (w.add (take w.rec' (l.getD n 0)))) :
    (concealChannel P plain addr r kind).1 = (List.range l.length).map o
    ∧ ∃ w, Inv l.length w
      ∧ (concealChannel P plain addr r kind).2 = { w with rec' := { w.rec' with carried := carryFrom addr kind } } := by
  obtain ⟨houts, hlast⟩ := takeRun_spec h0 hstep
  simp only [concealChannel, hwalk]
  exact ⟨houts, _, hlast, rfl⟩

theorem conceal_good {o : Nat → Sample} {Inv : Nat → Walk → Prop} (h0 : Inv 0 ⟨r, false, 0, 0⟩)
    (hstep : ∀ n w, n < l.length → Inv n w →
      (takeGood P w.rec' (l.getD n 0)).out = o n ∧ Inv (n + 1) (w.add (takeGood P w.rec' (l.getD n 0)))) :
    (concealChannel P plain addr r (good l)).1 = (List.range l.length).map o
    ∧ ∃ w, Inv l.length w
      ∧ (concealChannel P plain addr r (good l)).2 = { w with rec' := { w.rec' with carried := carryFrom addr (good l) } } :=
  conceal_spec (walk_good ..) h0 hstep

theorem conceal_bad {o : Nat → Sample} {Inv : Nat → Walk → Prop} (h0 : Inv 0 ⟨r, false, 0, 0⟩)
    (hstep : ∀ n w, n < l.length → Inv n w → (takeBad P w.rec').out = o n ∧ Inv (n + 1) (w.add (takeBad P w.rec'))) :
    (concealChannel P plain addr r (bad l)).1 = (List.range l.length).map o
    ∧ ∃ w, Inv l.length w
      ∧ (concealChannel P plain addr r (bad l)).2 = { w with rec' := { w.rec' with carried := carryFrom addr (bad l) } } :=
  conceal_spec (walk_bad ..) h0 hstep

end

theorem range_getD (l : List Sample) : ((List.range l.length).map fun n => l.getD n 0) = l := by
  refine List.ext_getElem (by simp) fun n h _ => ?_
  rw [List.length_map, List.length_range] at h
  rw [List.getElem_map, List.getElem_range, List.getD_eq_getElem _ _ h]

/-- What has come of good positions in a channel that passes them. -/
def Passed (n : Nat) (r : ConcealRec) (w : Walk) : Prop :=
  w.touched = false ∧ w.muted = 0 ∧ w.notices = 0 ∧ (w.rec'.state = .clean ∨ (n = 0 ∧ w.rec'.state = r.state))

/-- A CLEAN channel, or one that leaves HOLDING, passes good positions (R70, R71). -/
theorem conceal_passes {plain : Bool} {addr : Option Nat} {r : ConcealRec} (l : List Sample)
    (hstate : r.state = .clean ∨ r.state = .holding) : let y := concealChannel P plain addr r (good l)
    y.1 = l ∧ y.2.touched = false ∧ y.2.muted = 0 ∧ y.2.notices = 0 ∧ (l ≠ [] ∨ r.state = .clean → y.2.rec'.state = .clean) := by
  intro y
  have hpass : ∀ (n : Nat) (w : Walk), n < l.length → Passed n r w →
      (takeGood P w.rec' (l.getD n 0)).out = l.getD n 0 ∧ Passed (n + 1) r (w.add (takeGood P w.rec' (l.getD n 0))) := by
    rintro n w - ⟨htouched, hmuted, hnotices, hclean⟩
    have hnow : w.rec'.state = .clean ∨ w.rec'.state = .holding := by
      rcases hclean with h | ⟨-, h⟩
      · exact .inl h
      · rwa [h]
    have htouched : (w.touched || false) = false := (Bool.or_false _).trans htouched
    rcases hnow with h | h
    · rw [takeGood_clean h]
      exact ⟨rfl, htouched, hmuted, hnotices, .inl h⟩
    · rw [takeGood_holding h]
      exact ⟨rfl, htouched, hmuted, hnotices, .inl rfl⟩
  obtain ⟨houts, w, ⟨htouched, hmuted, hnotices, hclean⟩, hy⟩ := conceal_good (P := P) (plain := plain) (addr := addr) (r := r) (l := l)
    (o := fun n => l.getD n 0) (Inv := fun n => Passed n r) ⟨rfl, rfl, rfl, .inr ⟨rfl, rfl⟩⟩ hpass
  have hy : y.2 = _ := hy
  rw [hy]
  refine ⟨houts.trans (range_getD l), htouched, hmuted, hnotices, fun h => ?_⟩
  rcases hclean with hclean | ⟨hlen, hsame⟩
  · exact hclean
  · exact hsame.trans (h.resolve_left (not_not.mpr (List.length_eq_zero_iff.mp hlen)))

/-- A run between good values, no longer than the Bridge Limit, is interpolated (R68, R69). -/
theorem conceal_bridges {addr : Option Nat} {r : ConcealRec} (hstate : r.state = .clean) (a b : Sample) (junk : List Sample)
    (hlen : 1 ≤ junk.length) (hbridge : junk.length ≤ P.bridge) :
    let y := concealChannel P true addr r ((false, a) :: bad junk ++ [(false, b)])
    y.1 = a :: ((List.range junk.length).map fun n => interpolate a b junk.length (n + 1)) ++ [b]
      ∧ y.2.rec'.bridged = min counterMax (r.bridged + junk.length) ∧ y.2.rec'.longRuns = r.longRuns ∧ y.2.touched = true := by
  let r1 : ConcealRec := { r with lastGood := a, gain := unity }
  let r2 : ConcealRec := { r1 with bridged := min counterMax (r.bridged + junk.length) }
  have hwalk : walkChannel P true (some a) none (bad junk ++ [(false, b)]) ⟨r1, false, 0, 0⟩ =
      (((List.range junk.length).map fun j => interpolate a b junk.length (1 + j)) ++ [b],
        ⟨{ r2 with lastGood := b, gain := unity }, true, 0, 0⟩) := by
    cases junk with
    | nil => exact absurd hlen (by decide)
    | cons v junk =>
      have htake : 1 + ((bad junk ++ [(false, b)]).takeWhile (·.1)).length = (v :: junk).length := by
        have h := bad_takeWhile junk
        rw [List.takeWhile_append, if_pos (by rw [h]), List.length_append, bad, List.length_map]
        exact Nat.add_comm ..
      have hdrop : (bad junk ++ [(false, b)]).dropWhile (·.1) = [(false, b)] := bad_dropWhile junk _
      have hat : bridgeAt P true r1 (some a) (1 + ((bad junk ++ [(false, b)]).takeWhile (·.1)).length)
          ((bad junk ++ [(false, b)]).dropWhile (·.1)) = some ⟨a, b, (v :: junk).length, 1⟩ := by
        rw [htake, hdrop]
        exact bridgeAt_plain hstate hbridge a b false []
      refine (walk_bridges (w := ⟨r1, false, 0, 0⟩) hat).trans
        ((walk_bridge (k := 1) (v :: junk) [(false, b)] ⟨r2, false, 0, 0⟩ hstate hlen (Nat.add_comm ..)).trans ?_)
      have hlast : walkChannel P true (some a) none [(false, b)] ⟨r2, true, 0, 0⟩ =
          ([b], ⟨{ r2 with lastGood := b, gain := unity }, true, 0, 0⟩) := by
        have h : walkChannel P true (some a) none [(false, b)] ⟨r2, true, 0, 0⟩ =
            ([(takeGood P r2 b).out], Walk.add ⟨r2, true, 0, 0⟩ (takeGood P r2 b)) := rfl
        rw [h, takeGood_clean (r := r2) hstate]
        rfl
      rw [hlast]
  have hfirst : walkChannel P true (carriedFor r addr) none ((false, a) :: bad junk ++ [(false, b)]) ⟨r, false, 0, 0⟩ =
      (a :: (walkChannel P true (some a) none (bad junk ++ [(false, b)]) ⟨r1, false, 0, 0⟩).1,
        (walkChannel P true (some a) none (bad junk ++ [(false, b)]) ⟨r1, false, 0, 0⟩).2) := by
    rw [List.cons_append, walkChannel, takeGood_clean hstate]
    rfl
  simp only [concealChannel, hfirst, hwalk]
  refine ⟨congrArg (fun x => a :: (x ++ [b])) (List.map_congr_left fun j _ => ?_), rfl, rfl, trivial⟩
  rw [Nat.add_comm]

/-- Settles O43: every run is a list of like positions, and each of its positions keeps what its state says. -/
theorem concealmentOfRuns : Obligations.ConcealmentOfRuns := by
  intro P addr r value bad good taken
  refine ⟨fun hclean => ⟨fun plain l => ?passes, fun a b junk hlen hbridge => ?bridges⟩, fun plain junk hstate hfade hlen => ?silences,
    fun hholding plain l hl => ?goesOn, fun f hstate hf hstep plain l hlen hlast => ?fadesOut, fun hsilent plain l hl => ?stays,
    fun hsilent hP hfade count hmuted hrecovering hcount plain l hl => ?recovers, fun f hstate hf hstep =>
      ⟨fun plain l hlen hlast => ?fadesIn, fun v => ?breaks⟩⟩
  case passes =>
    intro y
    obtain ⟨houts, htouched, hmuted, hnotices, hstate⟩ := conceal_passes (P := P) (plain := plain) (addr := addr) l (.inl hclean)
    exact ⟨houts, htouched, hmuted, hnotices, hstate (.inr hclean)⟩
  case bridges => exact conceal_bridges hclean a b junk hlen hbridge
  case silences =>
    intro hold y
    have hholds : Holds P hold (if r.state = .clean then min counterMax (r.longRuns + 1) else r.longRuns) r := by
      rcases hstate with h | h
      · exact .inl ⟨h, if_pos h, if_pos h⟩
      · have hne : r.state ≠ .clean := by rw [h]; nofun
        exact .inr ⟨h, if_neg hne, if_neg hne⟩
    obtain ⟨houts, w, hran, hy⟩ := conceal_bad (plain := plain) (addr := addr) (l := junk)
      (ranBad_begins hfade hholds) fun n w _ h => ranBad_step hfade h
    have hy : y.2 = _ := hy
    rw [hy]
    exact ⟨houts, hran.bridged, hran.counted hlen, hran.mutes, hran.muted⟩
  case goesOn =>
    intro y
    obtain ⟨houts, htouched, -, hnotices, hstate⟩ := conceal_passes (P := P) (plain := plain) (addr := addr) l (.inr hholding)
    exact ⟨houts, hstate (.inl hl), htouched, hnotices⟩
  case fadesOut =>
    intro gain
    obtain ⟨hgoods, w, hfaded, hgood⟩ := conceal_good (P := P) (plain := plain) (addr := addr) (l := l)
      (o := fun n => scale (value l n) (gain n)) (faded_begins hstate hf hstep) fun n w hn h => by
        have hin : f.step + n < f.length := by omega
        obtain ⟨wstate, wfade, -, -⟩ := h.goes hin
        rw [takeGood_fadingOut wstate wfade]
        obtain ⟨hout, -, hnext⟩ := faded_step hin h (x := { w.rec' with lastGood := l.getD n 0 }) (v := l.getD n 0) rfl rfl
        exact ⟨hout, hnext⟩
    obtain ⟨hbads, w', ⟨hfaded', -⟩, hbad⟩ := conceal_bad (P := P) (plain := plain) (addr := addr) (l := l)
      (o := fun n => scale r.lastGood (gain n)) (Inv := fun n w => Faded r f n w ∧ w.rec'.lastGood = r.lastGood)
      ⟨faded_begins hstate hf hstep, rfl⟩ fun n w hn h => by
        have hin : f.step + n < f.length := by omega
        obtain ⟨h, hvalue⟩ := h
        obtain ⟨wstate, wfade, -, -⟩ := h.goes hin
        rw [takeBad_fadingOut wstate wfade]
        obtain ⟨hout, hkept, hnext⟩ := faded_step hin h (x := w.rec') (v := w.rec'.lastGood) rfl rfl
        exact ⟨hvalue ▸ hout, hnext, hkept.trans hvalue⟩
    have result : ∀ {w : Walk} {x : Option (Sample × Nat)} {y : List Sample × Walk}, Faded r f l.length w →
        y.2 = { w with rec' := { w.rec' with carried := x } } → y.2.touched = true ∧ y.2.muted = 0
          ∧ (f.step + l.length = f.length →
            y.2.rec'.state = .muted ∧ y.2.rec'.mutes = min 4294967295 (r.mutes + 1) ∧ y.2.notices = 1)
          ∧ (f.step + l.length < f.length → y.2.rec'.state = .fadingOut ∧ y.2.rec'.mutes = r.mutes ∧ y.2.notices = 0) := by
      intro w x y h hy
      rw [hy]
      refine ⟨h.touched hlen, h.muted, h.ends, fun hlt => ?_⟩
      obtain ⟨wstate, -, wmutes, wnotices⟩ := h.goes hlt
      exact ⟨wstate, wmutes, wnotices⟩
    refine ⟨hgoods, hbads, fun y hy => ?_⟩
    rcases hy with rfl | rfl
    · exact result hfaded hgood
    · exact result hfaded' hbad
  case stays =>
    intro y
    obtain ⟨houts, w, ⟨wmuted, wnotices, wstate, wlong, wmutes, wrecover⟩, hy⟩ := conceal_bad (P := P) (plain := plain) (addr := addr)
      (l := l) (Inv := StaysSilent r) ⟨rfl, rfl, rfl, rfl, rfl, fun h => absurd h (by decide)⟩ fun n w _ h => staysSilent_step hsilent h
    have hy : y.2 = _ := hy
    rw [hy]
    refine ⟨houts.trans ?_, wmuted, wnotices, wstate, wlong, wmutes, wrecover (List.length_pos_of_ne_nil hl)⟩
    rw [List.map_const', List.length_range]
  case recovers =>
    intro wait y
    have hcount' : Silent count r := by
      rcases hsilent with h | h
      · exact .inl ⟨h, hmuted h⟩
      · exact .inr ⟨h, hrecovering h⟩
    have hpos : 1 ≤ l.length := List.length_pos_of_ne_nil hl
    obtain ⟨houts, w, hrec, hy⟩ := conceal_good (plain := plain) (addr := addr) (l := l)
      (o := fun n => recoveredValue P wait (value l n) n) (recovered_begins hcount hcount') fun n w _ h => recovered_step hP hfade hcount h
    have hy : y.2 = _ := hy
    rw [hy]
    refine ⟨houts, hrec.muted, ?_, ?_⟩
    · refine hrec.notices.trans ?_
      simp only [wait, Nat.sub_le_iff_le_add']
    · by_cases h1 : l.length < wait
      · rw [if_pos h1]
        exact (hrec.waits (by omega)).2 hpos
      · rw [if_neg h1]
        by_cases h2 : l.length < wait + P.fade
        · rw [if_pos h2]
          exact (hrec.fades (by omega) (by omega)).1
        · rw [if_neg h2]
          exact hrec.clean (by omega)
  case fadesIn =>
    intro y
    obtain ⟨houts, w, hin, hy⟩ := conceal_good (P := P) (plain := plain) (addr := addr) (l := l) (Inv := FadedIn f)
      (o := fun n => scale (value l n) ⟨f.step + n + 1, f.length + 1⟩) ⟨fun _ => ⟨hstate, hf⟩, fun h => by omega, rfl, rfl⟩
      fun n w hn h => fadedIn_step (by omega) h
    have hy : y.2 = _ := hy
    rw [hy]
    refine ⟨houts, ?_, hin.muted, hin.notices⟩
    by_cases h : f.step + l.length = f.length
    · rw [if_pos h]
      exact hin.ends h
    · rw [if_neg h]
      exact (hin.goes (by omega)).1
  case breaks =>
    intro y
    have hy : y = ([(takeBad P r).out],
        { Walk.add ⟨r, false, 0, 0⟩ (takeBad P r) with
          rec' := { (takeBad P r).rec' with carried := carryFrom addr (bad [v]) } }) := by
      have hwalk := walk_bad (P := P) false (carriedFor r addr) [v] ⟨r, false, 0, 0⟩
      show concealChannel P false addr r (ConcealWalk.bad [v]) = _
      rw [concealChannel, hwalk]
      rfl
    rw [takeBad_fadingIn hstate hf] at hy
    rw [hy]
    have hlong : ∀ g, (beginFadeOut P (addLong r) g).rec'.longRuns = min 4294967295 (r.longRuns + 1) := fun g => by
      rw [beginFadeOut]
      split
      · rfl
      · rw [fadeOutStep]
        split <;> rfl
    refine ⟨hlong _, fun h0 => ?_, fun h1 hgain hfade => ?_⟩
    · rw [if_pos h0, beginFadeOut_zero]
      exact ⟨rfl, rfl, rfl, rfl⟩
    · rw [if_neg (Nat.one_le_iff_ne_zero.mp h1), beginFadeOut_from (by exact hgain),
        fadeOutStep_goes (f := ⟨r.gain, P.fade, 0⟩) hfade]
      exact ⟨rfl, rfl, rfl, rfl⟩

end Sys2Proof.ConcealWalk
end

section
/-! SUPPORT. The parity algebra: words of twenty bits as a field, and the words that P and Q give back (R3 to R5, R56). -/

namespace Sys2Proof.ParityAlgebra
open Sys2Proof.Machine

/-! ### Additive functions of words (R4) -/

/-- A function that takes exclusive-ORs to exclusive-ORs. -/
def Additive (f : Sample → Sample) : Prop := ∀ x y, f (x ^^^ y) = f x ^^^ f y

theorem Additive.zero {f : Sample → Sample} (h : Additive f) : f 0 = 0 := by
  have h0 := h 0 0
  rw [BitVec.xor_self] at h0
  exact h0.trans (BitVec.xor_self)

theorem Additive.comp {f g : Sample → Sample} (hf : Additive f) (hg : Additive g) : Additive fun x => f (g x) := fun x y => by
  show f (g (x ^^^ y)) = _
  rw [hg, hf]

theorem additive_id : Additive fun x => x := fun _ _ => rfl

theorem xor_exchange (a b c d : Sample) : (a ^^^ b) ^^^ (c ^^^ d) = (a ^^^ c) ^^^ (b ^^^ d) := by
  rw [BitVec.xor_assoc, BitVec.xor_assoc, ← BitVec.xor_assoc b, BitVec.xor_comm b c, BitVec.xor_assoc c]

theorem Additive.xor {f g : Sample → Sample} (hf : Additive f) (hg : Additive g) : Additive fun x => f x ^^^ g x := fun x y => by
  show f (x ^^^ y) ^^^ g (x ^^^ y) = _
  rw [hf, hg]
  exact xor_exchange ..

theorem shiftLeft_bit (w : Sample) {i : Nat} (hi : i < 20) : (w <<< 1).getLsbD i = (!decide (i = 0) && w.getLsbD (i - 1)) := by
  rw [BitVec.getLsbD_shiftLeft, decide_eq_true hi, Bool.true_and]
  simp only [Nat.lt_one_iff]

theorem mulAlpha_bit (w : Sample) {i : Nat} (hi : i < 20) :
    (mulAlpha w).getLsbD i = ((!decide (i = 0) && w.getLsbD (i - 1)) ^^ (w.msb && (9#20).getLsbD i)) := by
  rw [mulAlpha]
  cases hmsb : w.msb with
  | true => rw [if_pos rfl, BitVec.getLsbD_xor, shiftLeft_bit w hi, Bool.true_and]
  | false => rw [if_neg Bool.false_ne_true, shiftLeft_bit w hi, Bool.false_and, Bool.xor_false]

theorem mulAlpha_additive : Additive mulAlpha := fun x y => by
  refine BitVec.eq_of_getLsbD_eq fun i hi => ?_
  rw [BitVec.getLsbD_xor, mulAlpha_bit _ hi, mulAlpha_bit _ hi, mulAlpha_bit _ hi, BitVec.msb_xor, BitVec.getLsbD_xor]
  cases (9#20).getLsbD i <;> cases decide (i = 0) <;> cases x.msb <;> cases y.msb <;> simp

theorem shiftLeft_next (w : Sample) {i : Nat} (hi : i < 19) : (w <<< 1).getLsbD (1 + i) = w.getLsbD i := by
  rw [shiftLeft_bit w (by omega), decide_eq_false (by omega), Nat.add_sub_cancel_left]
  rfl

theorem topBit_low : ∀ i < 19, (0x80000#20).getLsbD i = false := by decide

theorem divAlpha_mulAlpha (w : Sample) : divAlpha (mulAlpha w) = w := by
  have hlow : (mulAlpha w).getLsbD 0 = w.msb := by
    rw [mulAlpha_bit w (by decide)]
    exact (Bool.false_xor _).trans (Bool.and_true _)
  refine BitVec.eq_of_getLsbD_eq fun i hi => ?_
  rw [divAlpha, hlow, mulAlpha]
  cases hmsb : w.msb with
  | true =>
    rw [if_pos rfl, if_pos rfl, BitVec.xor_assoc, BitVec.xor_self, BitVec.xor_zero, BitVec.getLsbD_or, BitVec.getLsbD_ushiftRight]
    by_cases hlast : i < 19
    · rw [shiftLeft_next w hlast, topBit_low i hlast, Bool.or_false]
    · obtain rfl : i = 19 := by omega
      have htop : w.getLsbD 19 = true := hmsb
      rw [BitVec.getLsbD_of_ge _ _ le_rfl, htop]
      rfl
  | false =>
    rw [if_neg Bool.false_ne_true, if_neg Bool.false_ne_true, BitVec.getLsbD_ushiftRight]
    by_cases hlast : i < 19
    · exact shiftLeft_next w hlast
    · obtain rfl : i = 19 := by omega
      rw [BitVec.getLsbD_of_ge _ _ le_rfl, ← hmsb]
      rfl

theorem mulPow_additive (k : Nat) : Additive (mulPow k) := by
  induction k with
  | zero => exact additive_id
  | succ k ih => exact ih.comp mulAlpha_additive

theorem mulPow_succ (k : Nat) (w : Sample) : mulPow (k + 1) w = mulAlpha (mulPow k w) := Function.iterate_succ_apply' ..

theorem divPow_mulPow (k : Nat) (w : Sample) : divPow k (mulPow k w) = w := by
  induction k with
  | zero => rfl
  | succ k ih =>
    rw [mulPow_succ]
    show divPow k (divAlpha _) = w
    rw [divAlpha_mulAlpha, ih]

theorem mulPow_add (k l : Nat) (w : Sample) : mulPow (k + l) w = mulPow k (mulPow l w) := Function.iterate_add_apply ..

/-- The steps of a product over some bit places, from `acc` on. -/
def gfSteps (a b acc : Sample) (l : List Nat) : Sample :=
  l.foldl (fun acc i => if b.getMsbD i then mulAlpha acc ^^^ a else mulAlpha acc) acc

theorem gfSteps_xor (a b c : Sample) (l : List Nat) (x y : Sample) :
    gfSteps a (b ^^^ c) (x ^^^ y) l = gfSteps a b x l ^^^ gfSteps a c y l := by
  induction l generalizing x y with
  | nil => rfl
  | cons i l ih =>
    have hstep : (if (b ^^^ c).getMsbD i then mulAlpha (x ^^^ y) ^^^ a else mulAlpha (x ^^^ y)) =
        (if b.getMsbD i then mulAlpha x ^^^ a else mulAlpha x) ^^^ (if c.getMsbD i then mulAlpha y ^^^ a else mulAlpha y) := by
      rw [BitVec.getMsbD_xor, mulAlpha_additive]
      cases b.getMsbD i <;> cases c.getMsbD i
      · rfl
      · exact BitVec.xor_assoc ..
      · show _ = (mulAlpha x ^^^ a) ^^^ mulAlpha y
        rw [BitVec.xor_assoc, BitVec.xor_assoc, BitVec.xor_comm a]
        rfl
      · show _ = (mulAlpha x ^^^ a) ^^^ (mulAlpha y ^^^ a)
        rw [xor_exchange, BitVec.xor_self, BitVec.xor_zero]
        rfl
    exact (congrArg (fun acc => gfSteps a (b ^^^ c) acc l) hstep).trans (ih ..)

theorem gfMul_additive (a : Sample) : Additive (gfMul a) := fun b c => gfSteps_xor a b c _ 0 0

/-- The bits of a word below `n`. -/
def lowBits (w : Sample) : Nat → Sample
  | 0 => 0
  | n + 1 => lowBits w n ^^^ (if w.getLsbD n then BitVec.twoPow 20 n else 0)

theorem lowBits_bit (w : Sample) (n i : Nat) (hi : i < 20) : (lowBits w n).getLsbD i = (decide (i < n) && w.getLsbD i) := by
  induction n with
  | zero => exact BitVec.getLsbD_zero
  | succ n ih =>
    rw [lowBits, BitVec.getLsbD_xor, ih]
    have htop : (if w.getLsbD n then BitVec.twoPow 20 n else 0).getLsbD i = (decide (i = n) && w.getLsbD n) := by
      cases w.getLsbD n
      · rw [if_neg Bool.false_ne_true, Bool.and_false]
        exact BitVec.getLsbD_zero
      · rw [if_pos rfl, BitVec.getLsbD_twoPow, Bool.and_true, Bool.eq_iff_iff, Bool.and_eq_true, decide_eq_true_eq, decide_eq_true_eq,
          decide_eq_true_eq]
        exact ⟨fun h => h.2.symm, fun h => ⟨h ▸ hi, h.symm⟩⟩
    rw [htop]
    rcases Nat.lt_trichotomy i n with h | rfl | h
    · rw [decide_eq_true h, decide_eq_false (Nat.ne_of_lt h), decide_eq_true (Nat.lt_succ_of_lt h), Bool.false_and, Bool.xor_false]
    · rw [decide_eq_false (Nat.lt_irrefl i), decide_eq_true rfl, decide_eq_true (Nat.lt_succ_self i), Bool.false_and, Bool.false_xor]
    · rw [decide_eq_false (by omega), decide_eq_false (by omega), decide_eq_false (by omega)]
      rfl

theorem lowBits_all (w : Sample) : lowBits w 20 = w := BitVec.eq_of_getLsbD_eq fun i hi => by
  rw [lowBits_bit _ _ _ hi, decide_eq_true hi, Bool.true_and]

/-- An additive function that keeps each single bit keeps every word. -/
theorem Additive.keeps {f : Sample → Sample} (h : Additive f) (hbits : ∀ n < 20, f (BitVec.twoPow 20 n) = BitVec.twoPow 20 n) (w : Sample) :
    f w = w := by
  have hlow : ∀ n ≤ 20, f (lowBits w n) = lowBits w n := by
    intro n
    induction n with
    | zero => exact fun _ => h.zero
    | succ n ih =>
      intro hn
      rw [lowBits, h, ih (Nat.le_of_succ_le hn)]
      split
      · rw [hbits n hn]
      · rw [h.zero]
  have hall := hlow 20 le_rfl
  rwa [lowBits_all] at hall

/-! ### The coefficient of the second lost word (R5) -/

/-- Dividing by `1 + α^d` undoes it, for each distance of two data sectors. -/
theorem gfInv_bits : ∀ d < 8, 1 ≤ d → ∀ n < 20,
    gfMul (gfInv (1 ^^^ mulPow d 1)) (mulPow d (BitVec.twoPow 20 n) ^^^ BitVec.twoPow 20 n) = BitVec.twoPow 20 n := by
  decide +kernel

/-- The second lost word from the two checks without the words that arrived. -/
theorem second_recovered {k l : Nat} (hkl : k < l) (hl : l < 8) (x y : Sample) :
    gfMul (gfInv (1 ^^^ mulPow (l - k) 1)) (divPow k (mulPow k x ^^^ mulPow l y) ^^^ (x ^^^ y)) = y := by
  have hpow : mulPow l y = mulPow k (mulPow (l - k) y) := by rw [← mulPow_add, Nat.add_sub_cancel' (Nat.le_of_lt hkl)]
  rw [hpow, ← mulPow_additive, divPow_mulPow, BitVec.xor_comm x, BitVec.xor_comm x y, xor_exchange, BitVec.xor_self, BitVec.xor_zero]
  exact ((gfMul_additive _).comp ((mulPow_additive (l - k)).xor additive_id)).keeps
    (gfInv_bits (l - k) (by omega) (by omega)) y

/-! ### Sums over sectors (R3, R4) -/

/-- The exclusive-OR of a value of each sector. -/
def xorSum (g : Nat → Sample) (ks : List Nat) : Sample := ks.foldl (fun acc k => acc ^^^ g k) 0

theorem xorSum_from (g : Nat → Sample) (ks : List Nat) (a : Sample) : ks.foldl (fun acc k => acc ^^^ g k) a = a ^^^ xorSum g ks := by
  induction ks generalizing a with
  | nil => exact (BitVec.xor_zero).symm
  | cons k ks ih =>
    have hcons : xorSum g (k :: ks) = g k ^^^ xorSum g ks := by
      show ks.foldl _ (0 ^^^ g k) = _
      rw [ih]
      exact congrArg (· ^^^ _) BitVec.zero_xor
    rw [List.foldl_cons, ih, hcons, BitVec.xor_assoc]

theorem xorSum_cons (g : Nat → Sample) (k : Nat) (ks : List Nat) : xorSum g (k :: ks) = g k ^^^ xorSum g ks := by
  rw [xorSum, List.foldl_cons, xorSum_from]
  exact congrArg (· ^^^ _) BitVec.zero_xor

theorem xorSum_one (g : Nat → Sample) (k : Nat) : xorSum g [k] = g k := BitVec.zero_xor

theorem xorSum_two (g : Nat → Sample) (k l : Nat) : xorSum g [k, l] = g k ^^^ g l := by rw [xorSum_cons, xorSum_one]

theorem xorSum_congr {g g' : Nat → Sample} {ks : List Nat} (h : ∀ k ∈ ks, g k = g' k) : xorSum g ks = xorSum g' ks := by
  induction ks with
  | nil => rfl
  | cons k ks ih =>
    rw [xorSum_cons, xorSum_cons, h k List.mem_cons_self, ih fun l hl => h l (List.mem_cons_of_mem _ hl)]

theorem xorSum_filter (g : Nat → Sample) (p : Nat → Bool) (ks : List Nat) :
    xorSum g ks ^^^ xorSum g (ks.filter fun k => !p k) = xorSum g (ks.filter p) := by
  induction ks with
  | nil => exact BitVec.xor_self
  | cons k ks ih =>
    rw [xorSum_cons]
    cases hp : p k with
    | true =>
      rw [List.filter_cons_of_neg (by rw [hp]; decide), List.filter_cons_of_pos hp, xorSum_cons, BitVec.xor_assoc, ih]
    | false =>
      rw [List.filter_cons_of_pos (by rw [hp]; decide), List.filter_cons_of_neg (by rw [hp]; decide), xorSum_cons, xor_exchange, ih,
        BitVec.xor_self, BitVec.zero_xor]

/-! ### What is left of a check (R5) -/

theorem mem_missingData {e : Vector SectorEntry 10} {k : Nat} : k ∈ missingData e ↔ k < 8 ∧ (entryAt e k).isGood = false := by
  rw [missingData, List.mem_filter, dataSectors, List.mem_range, Bool.not_eq_true']

/-- The data sectors that arrived. -/
def arrivedData (e : Vector SectorEntry 10) : List Nat := dataSectors.filter fun k => !(missingData e).contains k

theorem mem_arrivedData {e : Vector SectorEntry 10} {k : Nat} (h : k ∈ arrivedData e) : k < 8 ∧ (entryAt e k).isGood = true := by
  rw [arrivedData, List.mem_filter, dataSectors, List.mem_range, Bool.not_eq_true'] at h
  obtain ⟨hk, hmiss⟩ := h
  refine ⟨hk, ?_⟩
  cases hgood : (entryAt e k).isGood with
  | true => rfl
  | false => exact absurd (hmiss.symm.trans (List.contains_iff_mem.mpr (mem_missingData.mpr ⟨hk, hgood⟩))) nofun

/-- A check without the words that arrived is the sum over the lost ones. -/
theorem rest_eq {e : Vector SectorEntry 10} {g g' : Nat → Sample} {check : Sample} (hcheck : check = xorSum g dataSectors)
    (hsame : ∀ k, k < 8 → (entryAt e k).isGood = true → g' k = g k) :
    check ^^^ xorSum g' (arrivedData e) = xorSum g (missingData e) := by
  have hkept : xorSum g' (arrivedData e) = xorSum g (arrivedData e) := xorSum_congr fun k hk => by
    obtain ⟨h8, hgood⟩ := mem_arrivedData hk
    exact hsame k h8 hgood
  have hmiss : dataSectors.filter (fun k => (missingData e).contains k) = missingData e := by
    refine List.filter_congr fun k hk => ?_
    rw [dataSectors, List.mem_range] at hk
    rw [Bool.eq_iff_iff, List.contains_iff_mem, mem_missingData, Bool.not_eq_true', and_iff_right hk]
  rw [hcheck, hkept, arrivedData, xorSum_filter, hmiss]

section
variable {e : Vector SectorEntry 10} {m p q : Memory}

theorem recover_one {k : Nat} (hmiss : missingData e = [k]) : recover e m p q =
    if (entryAt e 8).isGood then [(k, (List.range 400).map fun j => p.read j ^^^ xorWords m (arrivedData e) j)]
    else if (entryAt e 9).isGood then
      [(k, (List.range 400).map fun j => divPow k (q.read j ^^^ sumWords m (arrivedData e) j))]
    else [] := by
  simp only [recover, arrivedData, hmiss]

theorem recover_two {k l : Nat} (hmiss : missingData e = [k, l]) : recover e m p q =
    if (entryAt e 8).isGood && (entryAt e 9).isGood then
      let restP := fun j => p.read j ^^^ xorWords m (arrivedData e) j
      let restQ := fun j => q.read j ^^^ sumWords m (arrivedData e) j
      let second := fun j => gfMul (gfInv (1 ^^^ mulPow (l - k) 1)) (divPow k (restQ j) ^^^ restP j)
      [(k, (List.range 400).map fun j => restP j ^^^ second j), (l, (List.range 400).map second)]
    else [] := by
  simp only [recover, arrivedData, hmiss]

theorem recover_more (hmiss : (missingData e).length = 0 ∨ 3 ≤ (missingData e).length) : recover e m p q = [] := by
  rw [recover]
  rcases h : missingData e with _ | ⟨a, _ | ⟨b, _ | ⟨c, l⟩⟩⟩
  · rfl
  · rw [h] at hmiss
    simp at hmiss
  · rw [h] at hmiss
    simp at hmiss
  · rfl

end

theorem missingData_pair {e : Vector SectorEntry 10} {k l : Nat} (h : missingData e = [k, l]) : k < l ∧ l < 8 := by
  have hsorted : (missingData e).Pairwise (· < ·) := List.Pairwise.filter _ List.pairwise_lt_range
  have hl : l ∈ missingData e := by rw [h]; exact List.mem_cons_of_mem _ List.mem_cons_self
  rw [h] at hsorted
  exact ⟨List.rel_of_pairwise_cons hsorted List.mem_cons_self, (mem_missingData.mp hl).1⟩

/-- Settles O41. -/
theorem parityRecoversLostSectors : Obligations.ParityRecoversLostSectors := by
  intro e whole m p q hp hq hm lost
  have hrestP : (entryAt e 8).isGood = true → ∀ j, j < 400 →
      p.read j ^^^ xorWords m (arrivedData e) j = xorSum (fun k => dataWord whole k j) (missingData e) := fun h8 j hj =>
    rest_eq (hp h8 j hj) fun k hk hgood => hm k hk hgood j hj
  have hrestQ : (entryAt e 9).isGood = true → ∀ j, j < 400 →
      q.read j ^^^ sumWords m (arrivedData e) j = xorSum (fun k => mulPow k (dataWord whole k j)) (missingData e) := fun h9 j hj =>
    rest_eq (hq h9 j hj) fun k hk hgood => congrArg (mulPow k) (hm k hk hgood j hj)
  have hlost : ∀ {k : Nat} {g : Nat → Sample}, (∀ j, j < 400 → g j = dataWord whole k j) → (k, (List.range 400).map g) = lost k :=
    fun h => congrArg _ (List.map_congr_left fun j hj => h j (List.mem_range.mp hj))
  refine ⟨fun k hmiss hparity => ?one, fun k hmiss h8 h9 => ?noParity, fun k l hmiss h8 h9 => ?two, fun k l hmiss hparity => ?lacking,
    recover_more⟩
  case one =>
    rw [recover_one hmiss]
    by_cases h8 : (entryAt e 8).isGood = true
    · rw [if_pos h8, hlost fun j hj => by rw [hrestP h8 j hj, hmiss, xorSum_one]]
    · have h9 := hparity.resolve_left h8
      rw [if_neg h8, if_pos h9, hlost fun j hj => by rw [hrestQ h9 j hj, hmiss, xorSum_one, divPow_mulPow]]
  case noParity => rw [recover_one hmiss, if_neg (by rw [h8]; decide), if_neg (by rw [h9]; decide)]
  case two =>
    obtain ⟨hkl, hl⟩ := missingData_pair hmiss
    have hsecond : ∀ j, j < 400 → gfMul (gfInv (1 ^^^ mulPow (l - k) 1)) (divPow k (q.read j ^^^ sumWords m (arrivedData e) j) ^^^
        (p.read j ^^^ xorWords m (arrivedData e) j)) = dataWord whole l j := fun j hj => by
      rw [hrestP h8 j hj, hrestQ h9 j hj, hmiss, xorSum_two, xorSum_two]
      exact second_recovered hkl hl ..
    rw [recover_two hmiss, if_pos (by rw [h8, h9]; rfl)]
    refine congrArg₂ (fun a b => [a, b]) (hlost fun j hj => ?_) (hlost hsecond)
    show (p.read j ^^^ xorWords m (arrivedData e) j) ^^^ gfMul _ _ = _
    rw [hsecond j hj, hrestP h8 j hj, hmiss, xorSum_two, BitVec.xor_assoc, BitVec.xor_self, BitVec.xor_zero]
  case lacking =>
    rw [recover_two hmiss, if_neg]
    rw [Bool.and_eq_true]
    rintro ⟨h8, h9⟩
    rcases hparity with h | h
    · rw [h8] at h
      exact absurd h (by decide)
    · rw [h9] at h
      exact absurd h (by decide)

end Sys2Proof.ParityAlgebra
end

section
/-! SUPPORT. Sectors that arrive: where their words stand, and what a frame change leaves (R50 to R54). -/

namespace Sys2Proof.SectorStorage
open Sys2Proof.Machine Sys2Proof.SpliceEnds Sys2Proof.BlockWork Sys2Proof.StoreCommands

/-! ### The words of a sector (R6) -/

theorem wordsOf_length : ∀ (n : Nat) (l : List Byte), l.length = 5 * n → (wordsOf l).length = 2 * n
  | 0, [], _ => rfl
  | n + 1, a :: b :: c :: d :: e :: t, h => by
    have ht : t.length = 5 * n := by
      simp only [List.length_cons] at h
      omega
    rw [wordsOf, List.length_cons, List.length_cons, wordsOf_length n t ht]
    omega
  | n + 1, [], h => by simp at h
  | n + 1, [_], h => by simp at h; omega
  | n + 1, [_, _], h => by simp at h; omega
  | n + 1, [_, _, _], h => by simp at h; omega
  | n + 1, [_, _, _, _], h => by simp at h; omega

theorem readSector_words (bytes : List Byte) : (readSector bytes).words.length = 400 := by
  refine wordsOf_length 200 _ ?_
  simp only [List.length_drop, List.length_take, List.length_append, List.length_replicate]
  omega

/-! ### The channels (R47) -/

@[simp] theorem capture_setCapture (ch : HeadStream) (c : Capture) (s : State) : capture (setCapture ch c s) ch = c := by
  cases ch <;> rfl

theorem capture_setAssembly (ch : HeadStream) (f : Option CaptureFrame) (s : State) :
    capture (setAssembly ch f s) ch = { capture s ch with assembly := f } := capture_setCapture ..

theorem capture_modifySlot (ch : HeadStream) (i : SlotId) (g : Slot → Slot) (s : State) :
    capture (modifySlot i g s) ch = capture s ch := by
  cases ch <;> rfl

theorem setAssembly_slots (ch : HeadStream) (f : Option CaptureFrame) (s : State) : (setAssembly ch f s).slots = s.slots :=
  setCapture_slots ..

theorem countCapture_eq (ch : HeadStream) (f : CaptureStats → CaptureStats) (s : State) :
    countCapture ch f s = setCapture ch { capture s ch with stats := f (capture s ch).stats } s := rfl

theorem settleCloses_none {ch : HeadStream} {s : State} (h : (capture s ch).closing = []) : settleCloses ch s = s := by
  rw [settleCloses, h]
  rfl

/-- A close operation of a frame with a slot takes its time. -/
theorem settleCloses_front {ch : HeadStream} {s : State} {cf : ClosingFrame} (h : (capture s ch).closing = [cf])
    (hslot : cf.frame.slot.isSome = true) : settleCloses ch s = s := by
  have hnone : ¬cf.frame.slot.isNone = true := by
    cases hs : cf.frame.slot with
    | none => rw [hs] at hslot; exact absurd hslot Bool.false_ne_true
    | some i => exact Bool.false_ne_true
  simp only [settleCloses, h, List.length_singleton, settleAbsent, if_neg hnone]

/-! ### A sector stored (R54) -/

/-- The words of sector `k` at their places in frame `g` and its slot `i`. -/
def Holds (i : SlotId) (k : Nat) (words : List Sample) (g : CaptureFrame) (t : State) : Prop :=
  ∀ j (hj : j < words.length),
    (k < 8 → dataWord t.slots[i].audio k j = words[j]) ∧ (k = 8 → g.p.read j = words[j]) ∧ (k = 9 → g.q.read j = words[j])

/-- The words of sector `l` as they were. -/
def Keeps (i : SlotId) (l : Nat) (f : CaptureFrame) (v : State) (g : CaptureFrame) (t : State) : Prop :=
  (l < 8 → ∀ j, j < 400 → dataWord t.slots[i].audio l j = dataWord v.slots[i].audio l j) ∧ (l = 8 → g.p = f.p) ∧ (l = 9 → g.q = f.q)

/-- Frame `g` and its slot after the store of a sector in frame `f`. -/
structure Stored (ch : HeadStream) (f : CaptureFrame) (i : SlotId) (k : Nat) (x : SectorEntry) (words : List Sample) (v : State)
    (g : CaptureFrame) (t : State) : Prop where
  capture : capture t ch = { capture v ch with assembly := some g }
  slot : g.slot = f.slot
  addr : g.addr = f.addr
  entries : g.entries = setEntry f.entries k x
  others : ∀ j : SlotId, j ≠ i → t.slots[j] = v.slots[j]
  same : t.slots[i] = { v.slots[i] with audio := t.slots[i].audio }
  stored : Holds i k words g t
  kept : ∀ l, l ≠ k → Keeps i l f v g t

theorem place_read {words : List Sample} {j : Nat} (hj : j < words.length) : (Memory.place 0 words).read j = words[j] := by
  have h := Memory.read_splice_in [] 0 words j (Nat.zero_le j) (by omega)
  rw [Nat.sub_zero, List.getD_eq_getElem _ _ hj] at h
  rw [← h, Memory.splice, List.filter_nil, List.filter_nil, List.nil_append, List.append_nil]

theorem dataWord_splice {m : Memory} {k j : Nat} {words : List Sample} (hj : j < words.length) :
    dataWord (m.splice (400 * k) words) k j = words[j] := by
  rw [dataWord, Memory.read_splice_in _ _ _ _ (Nat.le_add_right ..) (by omega), Nat.add_sub_cancel_left,
    List.getD_eq_getElem _ _ hj]

theorem dataWord_splice_other {m : Memory} {k l j : Nat} {words : List Sample} (hlen : words.length = 400) (hkl : l ≠ k) (hj : j < 400) :
    dataWord (m.splice (400 * k) words) l j = dataWord m l j := Memory.read_splice_out _ _ _ _ (by omega)

theorem storeSector_p (ch : HeadStream) (f : CaptureFrame) (x : SectorEntry) (words : List Sample) (v : State) :
    storeSector ch f 8 x words v = setAssembly ch (some { f with entries := setEntry f.entries 8 x, p := Memory.place 0 words }) v := rfl

theorem storeSector_q (ch : HeadStream) (f : CaptureFrame) (x : SectorEntry) (words : List Sample) (v : State) :
    storeSector ch f 9 x words v = setAssembly ch (some { f with entries := setEntry f.entries 9 x, q := Memory.place 0 words }) v := rfl

theorem storeSector_data {ch : HeadStream} {f : CaptureFrame} {i : SlotId} {k : Nat} {x : SectorEntry} {words : List Sample} {v : State}
    (hslot : f.slot = some i) (h8 : k ≠ 8) (h9 : k ≠ 9) : storeSector ch f k x words v =
      modifySlot i (fun y => { y with audio := y.audio.splice (400 * k) words })
        (setAssembly ch (some { f with entries := setEntry f.entries k x }) v) := by
  rw [storeSector, if_neg h8, if_neg h9]
  show (match f.slot with | none => _ | some i => _) = _
  rw [hslot]

theorem storeSector_stores {f : CaptureFrame} {i : SlotId} (hslot : f.slot = some i) {words : List Sample} (hlen : words.length = 400)
    (ch : HeadStream) (k : Nat) (x : SectorEntry) (v : State) : ∃ g, Stored ch f i k x words v g (storeSector ch f k x words v) := by
  by_cases h8 : k = 8
  · subst h8
    rw [storeSector_p]
    refine ⟨_, capture_setAssembly .., rfl, rfl, rfl, fun j _ => by rw [setAssembly_slots], by rw [setAssembly_slots],
      fun j hj => ⟨fun h => absurd h (by decide), fun _ => place_read hj, fun h => absurd h (by decide)⟩,
      fun l hl => ⟨fun _ _ _ => by rw [setAssembly_slots], fun h => absurd h hl, fun _ => rfl⟩⟩
  · by_cases h9 : k = 9
    · subst h9
      rw [storeSector_q]
      refine ⟨_, capture_setAssembly .., rfl, rfl, rfl, fun j _ => by rw [setAssembly_slots], by rw [setAssembly_slots],
        fun j hj => ⟨fun h => absurd h (by decide), fun h => absurd h (by decide), fun _ => place_read hj⟩,
        fun l hl => ⟨fun _ _ _ => by rw [setAssembly_slots], fun _ => rfl, fun h => absurd h hl⟩⟩
    · rw [storeSector_data hslot h8 h9]
      refine ⟨_, (capture_modifySlot ..).trans (capture_setAssembly ..), rfl, rfl, rfl, fun j hj => ?_, ?_,
        fun j hj => ⟨fun _ => ?_, fun h => absurd h h8, fun h => absurd h h9⟩,
        fun l hl => ⟨fun _ j hj => ?_, fun _ => rfl, fun _ => rfl⟩⟩
      · rw [modifySlot_get_other (Ne.symm hj), setAssembly_slots]
      · rw [modifySlot_get_same, setAssembly_slots]
      · rw [modifySlot_get_same]
        exact dataWord_splice hj
      · rw [modifySlot_get_same, setAssembly_slots]
        exact dataWord_splice_other hlen hl hj

/-! ### A passing sector (R50, R52) -/

/-- A state whose slot has taken an address. -/
theorem setSlotAddr_some (i : SlotId) (a : Option Nat) (s : State) :
    setSlotAddr (some i) a s = modifySlot i (fun x => { x with addr := a }) s := rfl

theorem placeGood_absent {f : CaptureFrame} (hslot : f.slot = none) (ch : HeadStream) (k a : Nat) (h : Header) (words : List Sample)
    (s : State) : placeGood ch f k a h words s = setCapture ch { capture s ch with
      assembly := some { f with addr := some a }, stats := CaptureStats.addFailed 1 (capture s ch).stats } s := by
  have hplace : placeGood ch f k a h words s =
      countCapture ch (CaptureStats.addFailed 1) (setAssembly ch (some { f with addr := some a }) s) := by
    simp only [placeGood, hslot, setSlotAddr]
  rw [hplace, countCapture_eq, capture_setAssembly]
  cases ch <;> rfl

theorem placeGood_slot {f : CaptureFrame} {i : SlotId} (hslot : f.slot = some i) (ch : HeadStream) (k a : Nat) (h : Header)
    (words : List Sample) (s : State) : placeGood ch f k a h words s =
      storeGood ch { f with addr := some a } k h words (setSlotAddr (some i) (some a) s) := by
  simp only [placeGood, hslot]

theorem storeGood_again {f : CaptureFrame} {k : Nat} (hgood : (entryAt f.entries k).isGood = true) (ch : HeadStream) (h : Header)
    (words : List Sample) (s : State) : storeGood ch f k h words s = setAssembly ch (some f) s := by
  rw [storeGood]
  cases he : entryAt f.entries k with
  | missing => rw [he] at hgood; exact absurd hgood Bool.false_ne_true
  | failed => rw [he] at hgood; exact absurd hgood Bool.false_ne_true
  | good x => rfl
  | rebuilt => rfl

theorem storeGood_new {f : CaptureFrame} {k : Nat} (hgood : (entryAt f.entries k).isGood = false) (ch : HeadStream) (h : Header)
    (words : List Sample) (s : State) : storeGood ch f k h words s = storeSector ch f k (.good h) words s := by
  rw [storeGood]
  cases he : entryAt f.entries k with
  | missing => rfl
  | failed => rfl
  | good x => rw [he] at hgood; exact absurd hgood.symm Bool.false_ne_true
  | rebuilt => rw [he] at hgood; exact absurd hgood.symm Bool.false_ne_true

/-- The address that a passing sector gives the frame's slot. -/
theorem setSlotAddr_get (i : SlotId) (a : Option Nat) (s : State) :
    (setSlotAddr (some i) a s).slots[i] = { s.slots[i] with addr := a } ∧ (∀ j, j ≠ i → (setSlotAddr (some i) a s).slots[j] = s.slots[j])
      ∧ ∀ ch, capture (setSlotAddr (some i) a s) ch = capture s ch :=
  ⟨modifySlot_get_same .., fun _ hj => modifySlot_get_other (Ne.symm hj) .., fun _ => capture_modifySlot ..⟩

/-- Frame `g` and its slot after a passing sector with address `a` has come for frame `f`. -/
structure Placed (ch : HeadStream) (f : CaptureFrame) (i : SlotId) (k a : Nat) (h : Header) (words : List Sample) (s : State)
    (g : CaptureFrame) (t : State) : Prop where
  capture : capture t ch = { capture s ch with assembly := some g }
  slot : g.slot = some i
  addr : g.addr = some a
  others : ∀ j : SlotId, j ≠ i → t.slots[j] = s.slots[j]
  same : t.slots[i] = { s.slots[i] with addr := some a, audio := t.slots[i].audio }
  again : (entryAt f.entries k).isGood = true → g.entries = f.entries ∧ t.slots[i].audio = s.slots[i].audio
  new : (entryAt f.entries k).isGood = false → g.entries = setEntry f.entries k (.good h) ∧ Holds i k words g t
  kept : ∀ l, l ≠ k ∨ (entryAt f.entries k).isGood = true → Keeps i l f s g t

theorem placeGood_places {f : CaptureFrame} {i : SlotId} (hslot : f.slot = some i) {words : List Sample} (hlen : words.length = 400)
    (ch : HeadStream) (k a : Nat) (h : Header) (s : State) : ∃ g, Placed ch f i k a h words s g (placeGood ch f k a h words s) := by
  obtain ⟨hsame, hothers, hcapture⟩ := setSlotAddr_get i (some a) s
  rw [placeGood_slot hslot]
  generalize setSlotAddr (some i) (some a) s = v at hsame hothers hcapture
  have haudio : v.slots[i].audio = s.slots[i].audio := by rw [hsame]
  cases hgood : (entryAt f.entries k).isGood with
  | true =>
    rw [storeGood_again (f := { f with addr := some a }) hgood]
    refine ⟨{ f with addr := some a }, ?_, hslot, rfl, fun j hj => ?_, ?_, fun _ => ⟨rfl, ?_⟩, fun h => absurd h.symm (by rw [hgood]; decide),
      fun l _ => ⟨fun _ j _ => ?_, fun _ => rfl, fun _ => rfl⟩⟩
    · rw [capture_setAssembly, hcapture]
    · rw [setAssembly_slots, hothers j hj]
    · rw [setAssembly_slots, hsame]
    · rw [setAssembly_slots, haudio]
    · rw [setAssembly_slots, haudio]
  | false =>
    rw [storeGood_new (f := { f with addr := some a }) hgood]
    obtain ⟨g, hg⟩ := storeSector_stores (f := { f with addr := some a }) hslot hlen ch k (.good h) v
    refine ⟨g, ?_, hg.slot.trans hslot, hg.addr, fun j hj => ?_, ?_, fun h => absurd h (by rw [hgood]; decide),
      fun _ => ⟨hg.entries, hg.stored⟩, fun l hl => ?_⟩
    · rw [hg.capture, hcapture]
    · rw [hg.others j hj, hothers j hj]
    · rw [hg.same, hsame]
    · obtain ⟨hd, hp, hq⟩ := hg.kept l (hl.resolve_right (by rw [hgood]; decide))
      exact ⟨fun h8 j hj => (hd h8 j hj).trans (by rw [haudio]), hp, hq⟩

/-! ### A failed sector (R50, R51) -/

/-- Frame `g` and its slot after a failed sector. -/
structure Failed (ch : HeadStream) (f : CaptureFrame) (i : SlotId) (number : Option Nat) (words : List Sample) (s : State)
    (g : CaptureFrame) (t : State) : Prop where
  capture : capture t ch = { capture s ch with
    assembly := some g, stats := CaptureStats.addFailed 1 (Machine.capture s ch).stats }
  addr : g.addr = f.addr
  others : ∀ j : SlotId, j ≠ i → t.slots[j] = s.slots[j]
  slotAddr : t.slots[i].addr = s.slots[i].addr
  entries : ∀ k, number = some k → g.entries = if entryAt f.entries k = .missing then setEntry f.entries k .failed else f.entries
  stored : ∀ k, number = some k → entryAt f.entries k = .missing → Holds i k words g t
  kept : ∀ k, number = some k → ∀ l, l ≠ k ∨ entryAt f.entries k ≠ .missing → Keeps i l f s g t
  bare : number = none → g = f ∧ t.slots = s.slots

theorem failedArrival_missing {f : CaptureFrame} {i : SlotId} (hslot : f.slot = some i) {k : Nat} (he : entryAt f.entries k = .missing)
    (ch : HeadStream) (words : List Sample) (s : State) : failedArrival ch f (some k) words s =
      storeSector ch f k .failed words (countCapture ch (CaptureStats.addFailed 1) s) := by
  simp only [failedArrival, hslot, he]

theorem failedArrival_counts {f : CaptureFrame} {number : Option Nat}
    (h : f.slot = none ∨ ∀ k, number = some k → entryAt f.entries k ≠ .missing) (ch : HeadStream) (words : List Sample) (s : State) :
    failedArrival ch f number words s = countCapture ch (CaptureStats.addFailed 1) s := by
  cases hslot : f.slot with
  | none => simp only [failedArrival, hslot]
  | some i =>
    cases number with
    | none => simp only [failedArrival, hslot]
    | some k =>
      have hne := (h.resolve_left (by rw [hslot]; nofun)) k rfl
      cases he : entryAt f.entries k with
      | missing => exact absurd he hne
      | failed => simp only [failedArrival, hslot, he]
      | good x => simp only [failedArrival, hslot, he]
      | rebuilt => simp only [failedArrival, hslot, he]

theorem failedArrival_fails {f : CaptureFrame} {i : SlotId} (hslot : f.slot = some i) {words : List Sample} (hlen : words.length = 400)
    {ch : HeadStream} {s : State} (hf : (capture s ch).assembly = some f) (number : Option Nat) :
    ∃ g, Failed ch f i number words s g (failedArrival ch f number words s) := by
  have hslots : (countCapture ch (CaptureStats.addFailed 1) s).slots = s.slots := setCapture_slots ..
  have hcapture : capture (countCapture ch (CaptureStats.addFailed 1) s) ch =
      { capture s ch with stats := CaptureStats.addFailed 1 (capture s ch).stats } := capture_setCapture ..
  by_cases hmissing : ∃ k, number = some k ∧ entryAt f.entries k = .missing
  · obtain ⟨k, rfl, he⟩ := hmissing
    rw [failedArrival_missing hslot he]
    obtain ⟨g, hg⟩ := storeSector_stores hslot hlen ch k .failed (countCapture ch (CaptureStats.addFailed 1) s)
    refine ⟨g, ?_, hg.addr, fun j hj => ?_, ?_, ?_, ?_, ?_, nofun⟩
    · rw [hg.capture, hcapture]
    · rw [hg.others j hj, hslots]
    · rw [hg.same, hslots]
    · rintro _ ⟨⟩
      rw [if_pos he, hg.entries]
    · rintro _ ⟨⟩ _
      exact hg.stored
    · rintro _ ⟨⟩ l hl
      obtain ⟨hd, hp, hq⟩ := hg.kept l (hl.resolve_right (not_not.mpr he))
      exact ⟨fun h8 j hj => (hd h8 j hj).trans (by rw [hslots]), hp, hq⟩
  · have hne : ∀ k, number = some k → entryAt f.entries k ≠ .missing := fun k hk he => hmissing ⟨k, hk, he⟩
    rw [failedArrival_counts (.inr hne)]
    refine ⟨f, ?_, rfl, fun j _ => by rw [hslots], by rw [hslots], fun k hk => (if_neg (hne k hk)).symm,
      fun k hk he => absurd he (hne k hk), fun _ _ l _ => ⟨fun _ _ _ => by rw [hslots], fun _ => rfl, fun _ => rfl⟩,
      fun _ => ⟨rfl, hslots⟩⟩
    rw [hcapture, ← hf]

/-! ### A frame change (R49, R53) -/

/-- The state in which the next frame of a channel has begun, with address `a`, beside the closed frame `cf`. -/
structure Changed (ch : HeadStream) (a : Nat) (cf : ClosingFrame) (s : State) (g : CaptureFrame) (t : State) : Prop where
  capture : capture t ch = { capture s ch with assembly := some g, closing := (Machine.capture s ch).closing ++ [cf] }
  frame : g = ⟨some a, g.slot, noEntries, [], []⟩
  slot : ∀ n, g.slot = some n → t.slots[n].state = .filling ∧ t.slots[n].addr = some a

theorem allocate_capture (role : Role) (addr : Option Nat) (s : State) (ch : HeadStream) :
    capture (allocate role addr s).2 ch = capture s ch := by
  rw [allocate]
  cases chooseSlot s <;> cases ch <;> rfl

theorem allocate_fills {role : Role} {addr : Option Nat} {s : State} {n : SlotId} (h : (allocate role addr s).1 = some n) :
    (allocate role addr s).2.slots[n].state = .filling := by
  rw [allocate] at h ⊢
  cases hc : chooseSlot s with
  | none => rw [hc] at h; exact absurd h nofun
  | some i =>
    rw [hc] at h
    obtain rfl : i = n := Option.some.inj h
    show (setSlot i _ _).slots[i].state = _
    rw [setSlot_get_same]

theorem closeEvent_changes {ch : HeadStream} {f : CaptureFrame} {s : State} (hf : (capture s ch).assembly = some f) (a : Nat) :
    ∃ g, Changed ch a ⟨f, false, s.tl.mode, s.tl.dir, 0⟩ s g (closeEvent ch false 0 (some a) s) := by
  let v := setCapture ch { capture s ch with
    assembly := none, closing := (capture s ch).closing ++ [⟨f, false, s.tl.mode, s.tl.dir, 0⟩] } s
  have hevent : closeEvent ch false 0 (some a) s = beginFrame ch (some a) v := by simp only [closeEvent, hf, v]
  have hcapture : capture (allocate (chanRole ch) (some a) v).2 ch = capture v ch := allocate_capture ..
  have hfills := @allocate_fills (chanRole ch) (some a) v
  have hbegin : beginFrame ch (some a) v = setAssembly ch (some ⟨some a, (allocate (chanRole ch) (some a) v).1, noEntries, [], []⟩)
      (setSlotAddr (allocate (chanRole ch) (some a) v).1 (some a) (allocate (chanRole ch) (some a) v).2) := rfl
  rw [hevent, hbegin]
  generalize allocate (chanRole ch) (some a) v = q at hcapture hfills
  obtain ⟨o, w⟩ := q
  refine ⟨⟨some a, o, noEntries, [], []⟩, ?_, rfl, fun n hn => ?_⟩
  · rw [capture_setAssembly]
    have hset : capture (setSlotAddr o (some a) w) ch = capture v ch := by
      cases o with
      | none => exact hcapture
      | some n => exact ((setSlotAddr_get n (some a) w).2.2 ch).trans hcapture
    rw [hset, capture_setCapture]
  · obtain rfl : o = some n := hn
    rw [setAssembly_slots, (setSlotAddr_get n (some a) w).1]
    exact ⟨hfills rfl, rfl⟩

/-! ### An arrival (R48, R51) -/

section
variable {ch : HeadStream} {bytes : List Byte} {s : State} {f : CaptureFrame}

theorem arrive_none (h : (capture s ch).assembly = none) : arrive ch bytes s = s := by rw [arrive, h]

theorem arrive_failed (hf : (capture s ch).assembly = some f) (h : (readSector bytes).number = none ∨ (readSector bytes).header = none) :
    arrive ch bytes s = failedArrival ch f (readSector bytes).number (readSector bytes).words s := by
  rw [arrive, hf]
  cases hn : (readSector bytes).number with
  | none => simp only [hn]
  | some k => simp only [hn, h.resolve_left (by rw [hn]; nofun)]

theorem arrive_good (hf : (capture s ch).assembly = some f) {k a : Nat} {h : Header} (hn : (readSector bytes).number = some k)
    (hh : (readSector bytes).header = some h) (ha : h.addr = some a) :
    arrive ch bytes s = goodArrival ch f k a h (readSector bytes).words s := by
  simp only [arrive, hf, hn, hh, ha]

end

theorem goodArrival_here {f : CaptureFrame} {a : Nat} (h : f.addr = none ∨ f.addr = some a) (ch : HeadStream) (k : Nat) (x : Header)
    (words : List Sample) (s : State) : goodArrival ch f k a x words s = placeGood ch f k a x words s := by
  rw [goodArrival]
  rcases h with h | h
  · rw [h]
  · rw [h]
    exact if_pos rfl

theorem goodArrival_change {ch : HeadStream} {f g : CaptureFrame} {a b : Nat} {s : State} (h : f.addr = some b) (hne : b ≠ a)
    (hg : (capture (closeEvent ch false 0 (some a) s) ch).assembly = some g) (k : Nat) (x : Header) (words : List Sample) :
    goodArrival ch f k a x words s = placeGood ch g k a x words (closeEvent ch false 0 (some a) s) := by
  simp only [goodArrival, h, if_neg hne, hg]

/-! ### The close of an absent frame (R50) -/

/-- A state with the same channels as another. -/
def SameChannels (s t : State) : Prop := t.pre = s.pre ∧ t.conf = s.conf

theorem timelineSet_channels (t : Timeline) (s : State) : SameChannels s (timelineSet t s) := by
  have hwork := (relocked_gateWork t s).frame
  rw [timelineSet_eq]
  generalize relocked t s = u at hwork
  have hjog := jogSync_frame u
  generalize jogSync u = v at hjog
  exact ⟨(congrArg State.pre hjog :).trans (congrArg State.pre hwork :), (congrArg State.conf hjog :).trans (congrArg State.conf hwork :)⟩

theorem joinConceal_channels (o : Option SlotId) (s : State) : SameChannels s (joinConceal o s) := by
  unfold joinConceal beginConceal
  split <;> exact ⟨rfl, rfl⟩

theorem concealIdle_channels (s : State) : SameChannels s (concealIdle s) := by
  unfold concealIdle
  split <;> exact ⟨rfl, rfl⟩

theorem SameChannels.capture {s t : State} (h : SameChannels s t) (ch : HeadStream) : capture t ch = capture s ch := by
  cases ch with
  | preRead => exact h.1
  | confidence => exact h.2

theorem afterClose_assembling {ch : HeadStream} {s : State} (h : (capture s ch).assembly.isSome = true) :
    afterClose ch s = concealIdle s := by
  have hstate : channelState (capture s ch) ≠ .idle := by
    rw [channelState]
    split
    · nofun
    · nofun
  rw [afterClose, enterIdle, if_neg hstate, startReading, if_neg (fun h => hstate h.1)]

/-- The close of an absent frame that no judge entry waits for is counted. -/
theorem completeFront_absent {ch : HeadStream} {cf : ClosingFrame} (hslot : cf.frame.slot = none) (hjudge : cf.designated = 0) (s : State) :
    ∃ h, capture (completeFront ch cf s) ch = (capture s ch).closedAbsent h := by
  cases ch with
  | preRead =>
    have hfront : completeFront .preRead cf s = joinConceal none (timelineClose none
        (setCapture .preRead ((capture s .preRead).closedAbsent (inherited s (capture s .preRead) cf
          (saturate 31 ((capture s .preRead).headless + 1)))) s)) := by
      simp only [completeFront, hslot, handPreRead, cueFrame, ite_self]
    rw [hfront]
    exact ⟨_, ((joinConceal_channels ..).capture .preRead).trans (((timelineSet_channels ..).capture .preRead).trans rfl)⟩
  | confidence =>
    have hfront : completeFront .confidence cf s =
        setCapture .confidence ((capture s .confidence).closedAbsent (inherited s (capture s .confidence) cf
          (saturate 31 ((capture s .confidence).headless + 1)))) s := by
      simp only [completeFront, hslot, handConfidence, hjudge]
      rfl
    rw [hfront]
    exact ⟨_, capture_setCapture ..⟩

/-- The close of the one absent frame beside a frame in assembly completes at once. -/
theorem settleCloses_absent {ch : HeadStream} {s : State} {cf : ClosingFrame} {g : CaptureFrame} (hclosing : (capture s ch).closing = [cf])
    (hassembly : (capture s ch).assembly = some g) (hslot : cf.frame.slot = none) (hjudge : cf.designated = 0) :
    ∃ h, capture (settleCloses ch s) ch = (capture s ch).closedAbsent h := by
  obtain ⟨h, hfront⟩ := completeFront_absent (ch := ch) hslot hjudge s
  have hsettle : settleCloses ch s = afterClose ch (completeFront ch cf s) := by
    simp only [settleCloses, hclosing, List.length_singleton, settleAbsent, hslot, Option.isNone_none, if_true]
  refine ⟨h, ?_⟩
  rw [hsettle, afterClose_assembling (by rw [hfront]; exact congrArg Option.isSome hassembly), (concealIdle_channels _).capture, hfront]

/-! ### The obligation -/

section
variable {ch : HeadStream} {bytes : List Byte} {s : State} {f : CaptureFrame}

theorem exec_sectorArrival {t : State} (h : settleCloses ch (arrive ch bytes s) = t) : exec (.sectorArrival ch bytes) s = .next t :=
  congrArg Host.Outcome.next h

/-- A passing sector of the frame in assembly, whose slot takes it. -/
theorem arrives_placed {i : SlotId} {k a : Nat} {h : Header} (hf : (capture s ch).assembly = some f) (hslot : f.slot = some i)
    (hclosing : (capture s ch).closing = []) (hn : (readSector bytes).number = some k) (hh : (readSector bytes).header = some h)
    (ha : h.addr = some a) (haddr : f.addr = none ∨ f.addr = some a) : ∃ t g, exec (.sectorArrival ch bytes) s = .next t
      ∧ Placed ch f i k a h (readSector bytes).words s g t := by
  obtain ⟨g, hg⟩ := placeGood_places hslot (readSector_words bytes) ch k a h s
  refine ⟨_, g, exec_sectorArrival ?_, hg⟩
  rw [arrive_good hf hn hh ha, goodArrival_here haddr, settleCloses_none]
  rw [hg.capture]
  exact hclosing

/-- A failed sector of a frame with a slot. -/
theorem arrives_failed {i : SlotId} (hf : (capture s ch).assembly = some f) (hslot : f.slot = some i)
    (hclosing : (capture s ch).closing = []) (h : (readSector bytes).number = none ∨ (readSector bytes).header = none) :
    ∃ t g, exec (.sectorArrival ch bytes) s = .next t
      ∧ Failed ch f i (readSector bytes).number (readSector bytes).words s g t := by
  obtain ⟨g, hg⟩ := failedArrival_fails hslot (readSector_words bytes) hf (readSector bytes).number
  refine ⟨_, g, exec_sectorArrival ?_, hg⟩
  rw [arrive_failed hf h, settleCloses_none]
  rw [hg.capture]
  exact hclosing

/-- A passing sector of another address: the next frame `g` begins, and takes it where it has a slot. -/
theorem arrives_changed {k a b : Nat} {h : Header} (hf : (capture s ch).assembly = some f) (hn : (readSector bytes).number = some k)
    (hh : (readSector bytes).header = some h) (ha : h.addr = some a) (hb : f.addr = some b) (hne : b ≠ a) :
    ∃ u g, Changed ch a ⟨f, false, s.tl.mode, s.tl.dir, 0⟩ s g u
      ∧ arrive ch bytes s = placeGood ch g k a h (readSector bytes).words u := by
  obtain ⟨g, hg⟩ := closeEvent_changes hf a
  have hassembly : (capture (closeEvent ch false 0 (some a) s) ch).assembly = some g := by rw [hg.capture]
  refine ⟨_, g, hg, ?_⟩
  rw [arrive_good hf hn hh ha, goodArrival_change hb hne hassembly]

end

theorem entries_new (k : Nat) : (entryAt noEntries k).isGood = false := by
  have h : entryAt noEntries k = .missing := by
    rw [entryAt, noEntries, Vector.toList_replicate, List.getD_eq_getElem?_getD, List.getElem?_replicate]
    split <;> rfl
  rw [h]
  rfl

/-- Settles O40. -/
theorem sectorsAreStored : Obligations.SectorsAreStored := by
  intro ch bytes s c x counted
  refine ⟨fun hnone hclosing => ?idle, fun f i hf hslot hclosing => ⟨fun k h a hn hh ha haddr => ?placed, fun hfails => ?failed,
    fun k h a b hn hh ha hb hne => ?changed⟩, fun f hf hslot hclosing => ⟨fun hfails => ?counts, fun k h a hn hh ha =>
      ⟨fun haddr => ?absent, fun b hb hne => ?absentChange⟩⟩⟩
  case idle => exact exec_sectorArrival (by rw [arrive_none hnone, settleCloses_none hclosing])
  case placed =>
    obtain ⟨t, g, hrun, hg⟩ := arrives_placed hf hslot hclosing hn hh ha haddr
    refine ⟨t, g, hrun, ?_, hg.slot, hg.addr, ?_, ?_, hg.others, hg.again, hg.new, hg.kept⟩
    · rw [hg.capture]
    · rw [hg.same]
    · rw [hg.capture]
  case failed =>
    obtain ⟨t, g, hrun, hg⟩ := arrives_failed hf hslot hclosing hfails
    refine ⟨t, g, hrun, ?_, hg.addr, ?_, hg.others, hg.slotAddr, fun k hk => ⟨hg.entries k hk, hg.stored k hk, hg.kept k hk⟩, hg.bare⟩
    · rw [hg.capture]
    · rw [hg.capture]
      rfl
  case changed =>
    obtain ⟨u, g, hu, harrive⟩ := arrives_changed hf hn hh ha hb hne
    have huclosing : (capture u ch).closing = [⟨f, false, s.tl.mode, s.tl.dir, 0⟩] := by
      rw [hu.capture]
      exact congrArg (· ++ _) hclosing
    have hustats : (capture u ch).stats = c.stats := by rw [hu.capture]
    have hrun : ∀ {t}, placeGood ch g k a h (readSector bytes).words u = t → (capture t ch).closing = (capture u ch).closing →
        exec (.sectorArrival ch bytes) s = .next t := fun ht hcl => exec_sectorArrival (by
      rw [harrive, ht, settleCloses_front (hcl.trans huclosing) (congrArg Option.isSome hslot)])
    cases hgslot : g.slot with
    | none =>
      refine ⟨_, { g with addr := some a }, hrun (placeGood_absent hgslot ..) ?_, ?_, rfl, ?_, fun _ => ⟨?_, ?_⟩,
        fun n hn => absurd (hgslot.symm.trans hn) nofun⟩
      · rw [capture_setCapture]
      · rw [capture_setCapture]
      · rw [capture_setCapture]
        exact huclosing
      · rw [hu.frame]
      · rw [capture_setCapture, hustats]
        rfl
    | some n =>
      obtain ⟨g', hg'⟩ := placeGood_places hgslot (readSector_words bytes) ch k a h u
      have hentries : g.entries = noEntries := by rw [hu.frame]
      obtain ⟨hnew, hholds⟩ := hg'.new (by rw [hentries]; exact entries_new k)
      obtain ⟨hfilling, -⟩ := hu.slot n hgslot
      refine ⟨_, g', hrun rfl ?_, ?_, hg'.addr, ?_, fun hnone => absurd (hg'.slot.symm.trans hnone) nofun, fun m hm => ?_⟩
      · rw [hg'.capture]
      · rw [hg'.capture]
      · rw [hg'.capture]
        exact huclosing
      · obtain rfl : n = m := Option.some.inj (hg'.slot.symm.trans hm)
        refine ⟨by rw [hnew, hentries], ?_, ?_, ?_, fun h8 j hj => (hholds j hj).1 h8⟩
        · rw [hg'.capture]
          exact hustats
        · rw [hg'.same]
          exact hfilling
        · rw [hg'.same]
  case counts =>
    refine exec_sectorArrival ?_
    rw [arrive_failed hf hfails, failedArrival_counts (.inl hslot), countCapture_eq, settleCloses_none]
    · rfl
    · rw [capture_setCapture]
      exact hclosing
  case absent =>
    refine exec_sectorArrival ?_
    rw [arrive_good hf hn hh ha, goodArrival_here haddr, placeGood_absent hslot, settleCloses_none]
    · rfl
    · rw [capture_setCapture]
      exact hclosing
  case absentChange =>
    obtain ⟨u, g, hu, harrive⟩ := arrives_changed hf hn hh ha hb hne
    have huclosing : (capture u ch).closing = [⟨f, false, s.tl.mode, s.tl.dir, 0⟩] := by
      rw [hu.capture]
      exact congrArg (· ++ _) hclosing
    have hustats : (capture u ch).stats = c.stats := by rw [hu.capture]
    have hentries : g.entries = noEntries := by rw [hu.frame]
    have hrun : ∀ {t g'}, placeGood ch g k a h (readSector bytes).words u = t → (capture t ch).closing = (capture u ch).closing →
        (capture t ch).assembly = some g' → ∃ t' hd, exec (.sectorArrival ch bytes) s = .next t'
          ∧ capture t' ch = (capture t ch).closedAbsent hd := fun ht hcl hassembly => by
      obtain ⟨hd, hcapture⟩ := settleCloses_absent (hcl.trans huclosing) hassembly hslot rfl
      exact ⟨_, hd, exec_sectorArrival (by rw [harrive, ht]), hcapture⟩
    cases hgslot : g.slot with
    | none =>
      obtain ⟨t, hd, hexec, hcapture⟩ := hrun (placeGood_absent hgslot ..) (by rw [capture_setCapture]) (by rw [capture_setCapture])
      rw [capture_setCapture] at hcapture
      refine ⟨t, { g with addr := some a }, hexec, by rw [hcapture]; rfl, rfl, ?_, ?_, ?_, ?_, ?_⟩
      · rw [hcapture]
        exact congrArg (List.drop 1) huclosing
      · rw [hcapture, ← hustats]
        rfl
      · rw [hcapture, ← hustats]
        rfl
      · rw [hcapture, if_pos hgslot]
        exact congrArg (fun x => (CaptureStats.addFailed 1 x).failed) hustats
      · rw [if_pos hgslot]
        exact hentries
    | some n =>
      obtain ⟨g', hg'⟩ := placeGood_places hgslot (readSector_words bytes) ch k a h u
      obtain ⟨t, hd, hexec, hcapture⟩ := hrun rfl (by rw [hg'.capture]) (by rw [hg'.capture])
      obtain ⟨hnew, -⟩ := hg'.new (by rw [hentries]; exact entries_new k)
      have hslot' : g'.slot ≠ none := by rw [hg'.slot]; nofun
      rw [hg'.capture] at hcapture
      refine ⟨t, g', hexec, by rw [hcapture]; rfl, hg'.addr, ?_, ?_, ?_, ?_, ?_⟩
      · rw [hcapture]
        exact congrArg (List.drop 1) huclosing
      · rw [hcapture, ← hustats]
        rfl
      · rw [hcapture, ← hustats]
        rfl
      · rw [hcapture, if_neg hslot', ← hustats]
        rfl
      · rw [if_neg hslot', hnew, hentries]

end Sys2Proof.SectorStorage
end

section
/-! SUPPORT. A concealment operation completes: the channels' results in the slot, the notices, and the next operation (R66, R67, R75). -/

namespace Sys2Proof.ConcealEnd
open Sys2Proof.Machine Sys2Proof.SpliceEnds Sys2Proof.StoreCommands Sys2Proof.FramePlaces

/-! ### The results in the slot (R67) -/

theorem walk_length (P : ConcealParams) (plain : Bool) (left : Option Sample) (b : Option Bridge) (l : List (Bool × Sample)) (w : Walk) :
    (walkChannel P plain left b l w).1.length = l.length := by
  induction l generalizing left b w with
  | nil => cases left <;> cases b <;> rfl
  | cons x l ih =>
    obtain ⟨bit, v⟩ := x
    cases bit with
    | false =>
      rw [walkChannel]
      exact congrArg (· + 1) (ih ..)
    | true =>
      cases b with
      | some b =>
        rw [walkChannel]
        exact congrArg (· + 1) (ih ..)
      | none =>
        rw [walkChannel]
        split <;> exact congrArg (· + 1) (ih ..)

theorem conceal_length (P : ConcealParams) (plain : Bool) (addr : Option Nat) (r : ConcealRec) (l : List (Bool × Sample)) :
    (concealChannel P plain addr r l).1.length = l.length := walk_length ..

theorem slotPositions_length (x : Slot) (r : Rate) (c : Chan) : (slotPositions x r c).length = framePairs r := by
  rw [slotPositions, List.length_map, List.length_range]

theorem sampleAt_write {r : Rate} {c d : Chan} {i n : Nat} (hi : i < framePairs r) (hn : n < framePairs r) (m : Memory) (v : Sample) :
    sampleAt (m.write (placeOf r c i) v) r d n = if d = c ∧ n = i then v else sampleAt m r d n := by
  by_cases h : placeOf r d n = placeOf r c i
  · obtain ⟨rfl, rfl⟩ := placeOf_inj hn hi h
    rw [if_pos ⟨rfl, rfl⟩]
    exact Memory.read_write_same ..
  · rw [if_neg fun heq => h (by rw [heq.1, heq.2])]
    exact Memory.read_write_other _ _ _ _ h

/-- A channel's values stand at their positions, and no other position changes. -/
theorem sampleAt_putChannel {r : Rate} {c d : Chan} {n : Nat} (hn : n < framePairs r) (l : List Sample) (i : Nat) (m : Memory)
    (hlen : i + l.length ≤ framePairs r) :
    sampleAt (putChannel r c i l m) r d n = if d = c ∧ i ≤ n ∧ n < i + l.length then l.getD (n - i) 0 else sampleAt m r d n := by
  induction l generalizing i m with
  | nil =>
    rw [if_neg fun h => by
      rw [List.length_nil] at h
      omega]
    rfl
  | cons v l ih =>
    rw [List.length_cons] at hlen
    rw [putChannel, ih (i + 1) _ (by omega), sampleAt_write (by omega) hn, List.length_cons]
    by_cases hc : d = c
    · rcases Nat.lt_trichotomy n i with h | rfl | h
      · rw [if_neg (by omega), if_neg (by omega), if_neg (by omega)]
      · rw [if_neg (by omega), if_pos ⟨hc, rfl⟩, if_pos ⟨hc, by omega⟩, Nat.sub_self]
        rfl
      · by_cases hin : n < i + 1 + l.length
        · rw [if_pos ⟨hc, by omega⟩, if_pos ⟨hc, by omega⟩, show n - i = n - (i + 1) + 1 by omega]
          rfl
        · rw [if_neg (by omega), if_neg (by omega), if_neg (by omega)]
    · rw [if_neg fun h => hc h.1, if_neg fun h => hc h.1, if_neg fun h => hc h.1]

/-- The values of both channels of a frame, after both have been stored. -/
theorem concealedBy_samples {x : Slot} {r : Rate} {l q : List Sample × Walk} (hl : l.1.length = framePairs r) (hq : q.1.length = framePairs r) :
    (∀ n (h : n < l.1.length), sampleAt (x.concealedBy r l q).audio r .left n = l.1[n])
    ∧ ∀ n (h : n < q.1.length), sampleAt (x.concealedBy r l q).audio r .right n = q.1[n] := by
  refine ⟨fun n h => ?_, fun n h => ?_⟩
  · show sampleAt (putChannel r .right 0 q.1 (putChannel r .left 0 l.1 x.audio)) r .left n = _
    rw [sampleAt_putChannel (by omega) _ _ _ (by omega), if_neg fun h => absurd h.1 (by decide),
      sampleAt_putChannel (by omega) _ _ _ (by omega), if_pos ⟨rfl, by omega⟩, Nat.sub_zero, List.getD_eq_getElem _ _ h]
  · show sampleAt (putChannel r .right 0 q.1 (putChannel r .left 0 l.1 x.audio)) r .right n = _
    rw [sampleAt_putChannel (by omega) _ _ _ (by omega), if_pos ⟨rfl, by omega⟩, Nat.sub_zero, List.getD_eq_getElem _ _ h]

/-! ### The notices (R75) -/

theorem postDropouts_eq (c : Chan) (addr : Option Nat) (n : Nat) (s : State) :
    postDropouts c addr n s = Nat.iterate (post .dropout c.num addr none) n s := by
  induction n generalizing s with
  | zero => rfl
  | succ n ih => exact ih _

theorem posts_frame (k : NoticeKind) (i : Nat) (a : Option Nat) (n : Nat) (s : State) :
    { Nat.iterate (post k i a none) n s with notices := s.notices } = s := by
  induction n generalizing s with
  | zero => rfl
  | succ n ih =>
    have h := ih (post k i a none s)
    exact (congrArg (fun t : State => { t with notices := s.notices }) h :)

theorem posts_congr {s t : State} (hroutes : t.routes = s.routes) (hnotices : t.notices = s.notices) (k : NoticeKind) (i : Nat)
    (a : Option Nat) (n : Nat) : (Nat.iterate (post k i a none) n t).notices = (Nat.iterate (post k i a none) n s).notices := by
  induction n generalizing s t with
  | zero => exact hnotices
  | succ n ih => exact ih hroutes (post_notices_congr hroutes hnotices ..)

/-- The dropouts of both channels. -/
def dropouts (addr : Option Nat) (l q : List Sample × Walk) (s : State) : State :=
  Nat.iterate (post .dropout 1 addr none) q.2.notices (Nat.iterate (post .dropout 0 addr none) l.2.notices s)

theorem dropouts_frame (addr : Option Nat) (l q : List Sample × Walk) (s : State) :
    { dropouts addr l q s with notices := s.notices } = s := by
  have hright := posts_frame .dropout 1 addr q.2.notices (Nat.iterate (post .dropout 0 addr none) l.2.notices s)
  have hleft := posts_frame .dropout 0 addr l.2.notices s
  exact (congrArg (fun t : State => { t with notices := s.notices }) hright :).trans hleft

theorem dropouts_congr {s t : State} (hroutes : t.routes = s.routes) (hnotices : t.notices = s.notices) (addr : Option Nat)
    (l q : List Sample × Walk) : (dropouts addr l q t).notices = (dropouts addr l q s).notices := by
  refine posts_congr ?_ (posts_congr hroutes hnotices ..) ..
  have ht : _ = t.routes := (congrArg State.routes (posts_frame .dropout 0 addr l.2.notices t) :)
  have hs : _ = s.routes := (congrArg State.routes (posts_frame .dropout 0 addr l.2.notices s) :)
  exact ht.trans (hroutes.trans hs.symm)

/-! ### The list goes on (R66, R67) -/

/-- The state with the records of the channels and without the job at the front. -/
def walked (addr : Option Nat) (l q : List Sample × Walk) (rest : List ConcealJob) (s : State) : State :=
  dropouts addr l q { s with conceal := { s.conceal with left := l.2.rec', right := q.2.rec', list := rest, op := none } }

/-- A record where the PRE-READ channel may have become IDLE. -/
def recordAfter (again : Bool) (r : ConcealRec) : ConcealRec := if again then r.restart else r

/-- The Concealment Unit's record after a completion. -/
def listGoesOn (again : Bool) (c : Conceal) : Conceal :=
  { c with
    op := if c.list = [] then none else some c.params
    left := recordAfter again c.left
    right := recordAfter again c.right }

/-- The channel is IDLE and no frame waits. -/
def idleAgain (s : State) : Bool := decide (s.pre.closing = [] ∧ s.pre.assembly = none ∧ s.conceal.list = [])

theorem channelState_idle (c : Capture) : channelState c = .idle ↔ c.closing = [] ∧ c.assembly = none := by
  rw [channelState]
  by_cases hc : c.closing = []
  · rw [if_neg (not_not.mpr hc)]
    cases c.assembly with
    | none => exact ⟨fun _ => ⟨hc, rfl⟩, fun _ => rfl⟩
    | some f => exact ⟨nofun, fun h => absurd h.2 nofun⟩
  · rw [if_pos hc]
    exact ⟨nofun, fun h => absurd h.1 hc⟩

theorem beginConceal_eq {s : State} (h : s.conceal.op = none) : beginConceal s =
    { s with conceal := { s.conceal with op := if s.conceal.list = [] then none else some s.conceal.params } } := by
  cases hlist : s.conceal.list with
  | nil =>
    have hsame : beginConceal s = s := by simp only [beginConceal, h, hlist]
    rw [hsame, if_pos rfl, ← h]
  | cons x l =>
    simp only [beginConceal, h, hlist]
    rw [if_neg (by nofun)]

theorem concealIdle_eq (s : State) : concealIdle s = { s with conceal := { s.conceal with
    left := recordAfter (idleAgain s) s.conceal.left
    right := recordAfter (idleAgain s) s.conceal.right } } := by
  have hagain : idleAgain s = true ↔ channelState s.pre = .idle ∧ s.conceal.list = [] := by
    rw [idleAgain, decide_eq_true_eq, channelState_idle, and_assoc]
  rw [concealIdle]
  cases h : idleAgain s with
  | true => rw [if_pos (hagain.mp h)]; rfl
  | false => rw [if_neg fun hc => absurd (hagain.mpr hc) (by rw [h]; decide)]; rfl

theorem listGoesOn_eq {s : State} (h : s.conceal.op = none) :
    concealIdle (beginConceal s) = { s with conceal := listGoesOn (idleAgain s) s.conceal } := by
  rw [beginConceal_eq h, concealIdle_eq]
  rfl

/-- The end of a completion: one frame less for the waiting coding operations, the window, and the next operation. -/
def finished (u : State) : State := concealIdle (beginConceal (jogSync (countConcealed u)))

section
variable {s : State} {P : ConcealParams} {job : ConcealJob} {rest : List ConcealJob}

theorem concealComplete_slot (hlist : s.conceal.list = job :: rest) (hop : s.conceal.op = some P) {i : SlotId} (hslot : job.slot = some i) :
    let x := s.slots[i]
    let plain := decide ((x.header.map (·.splice)).getD .none = .none)
    let l := concealChannel P plain x.addr s.conceal.left (slotPositions x job.rate .left)
    let q := concealChannel P plain x.addr s.conceal.right (slotPositions x job.rate .right)
    concealComplete s = finished (modifySlot i (fun y => y.concealedBy job.rate l q) (walked x.addr l q rest s)) := by
  intro x plain l q
  simp only [concealComplete, hop, hlist, hslot, postDropouts_eq]
  rfl

theorem concealComplete_absent (hlist : s.conceal.list = job :: rest) (hop : s.conceal.op = some P) (hslot : job.slot = none) :
    let l := concealChannel P false none s.conceal.left (List.replicate (framePairs job.rate) (true, 0))
    let q := concealChannel P false none s.conceal.right (List.replicate (framePairs job.rate) (true, 0))
    concealComplete s = finished (walked none l q rest s) := by
  intro l q
  simp only [concealComplete, hop, hlist, hslot, postDropouts_eq]
  rfl

end

/-- What a completion leaves, from a state `u` whose list is `rest`: the window's slots settled, and the rest of `s`. -/
structure Completed (s : State) (slot : Option SlotId) (rest : List ConcealJob) (l q : ConcealRec) (notices : PerPort NoticePort) (t : State) :
    Prop where
  conceal : t.conceal = listGoesOn (decide (s.pre.closing = [] ∧ s.pre.assembly = none ∧ rest = []))
    { s.conceal with left := l, right := q, list := rest, op := none }
  notices : t.notices = notices
  coding : t.coding = s.coding.map fun op => { op with wait := op.wait - 1 }
  pins : windowPins t
  scrub : scrubFollows s t
  settled : ∀ k, slot ≠ some k → pinSettled s t k

/-- A settled pin, from and to states with the same slots, order and fetches. -/
theorem pinSettled_congr {s u v t : State} {i : SlotId} (h : pinSettled u v i) (hslot : u.slots[i] = s.slots[i]) (hfetch : u.fetch = s.fetch)
    (horder : u.order = s.order) (hslots : t.slots = v.slots) (horder' : t.order = v.order) : pinSettled s t i := by
  unfold pinSettled at h ⊢
  rw [hslots, horder', ← hslot, ← hfetch, ← horder]
  exact h

/-- The state `u` in which the channels have been walked, and the slot stored. -/
structure Walked (s : State) (slot : Option SlotId) (rest : List ConcealJob) (l q : ConcealRec) (notices : PerPort NoticePort) (u : State) :
    Prop where
  conceal : u.conceal = { s.conceal with left := l, right := q, list := rest, op := none }
  notices : u.notices = notices
  others : ∀ k, slot ≠ some k → u.slots[k] = s.slots[k]
  frame : { u with conceal := s.conceal, notices := s.notices, slots := s.slots } = s

theorem walked_walked (s : State) (addr : Option Nat) (l q : List Sample × Walk) (rest : List ConcealJob) :
    Walked s none rest l.2.rec' q.2.rec' (dropouts addr l q s).notices (walked addr l q rest s) := by
  have hframe := dropouts_frame addr l q
    { s with conceal := { s.conceal with left := l.2.rec', right := q.2.rec', list := rest, op := none } }
  have hnotices := dropouts_congr (s := s)
    (t := { s with conceal := { s.conceal with left := l.2.rec', right := q.2.rec', list := rest, op := none } }) rfl rfl addr l q
  unfold walked
  generalize dropouts addr l q { s with conceal := { s.conceal with left := l.2.rec', right := q.2.rec', list := rest, op := none } } = u
    at hframe hnotices
  have hslots : u.slots = s.slots := (congrArg State.slots hframe :)
  exact ⟨(congrArg State.conceal hframe :), hnotices, fun k _ => by rw [hslots],
    (congrArg (fun t : State => { t with conceal := s.conceal, slots := s.slots }) hframe :)⟩

theorem Walked.store {s u : State} {rest : List ConcealJob} {l q : ConcealRec} {notices : PerPort NoticePort}
    (h : Walked s none rest l q notices u) (i : SlotId) (f : Slot → Slot) : Walked s (some i) rest l q notices (modifySlot i f u) := by
  refine ⟨h.conceal, h.notices, fun k hk => ?_, h.frame⟩
  exact (modifySlot_get_other (fun hik => hk (congrArg some hik)) ..).trans (h.others k nofun)

theorem finished_completes {s u : State} {slot : Option SlotId} {rest : List ConcealJob} {l q : ConcealRec} {notices : PerPort NoticePort}
    (h : Walked s slot rest l q notices u) :
    Completed s slot rest l q notices (finished u) ∧ (finished u).slots = (jogSync (countConcealed u)).slots := by
  have hframe := jogSync_frame (countConcealed u)
  have hpins := jogSync_windowPins (countConcealed u)
  have hscrub := jogSync_scrubFollows (countConcealed u)
  have hsettled := jogSync_settled (countConcealed u)
  unfold finished
  generalize jogSync (countConcealed u) = v at hframe hpins hscrub hsettled
  have hconceal : v.conceal = u.conceal := (congrArg State.conceal hframe :)
  have hpre : v.pre = s.pre := (congrArg State.pre hframe :).trans (congrArg State.pre h.frame :)
  have hcoding : v.coding = u.coding.map fun op => { op with wait := op.wait - 1 } := (congrArg State.coding hframe :)
  have hucoding : u.coding = s.coding := (congrArg State.coding h.frame :)
  have hnotices : v.notices = u.notices := (congrArg State.notices hframe :)
  have hjog : u.jog = s.jog := (congrArg State.jog h.frame :)
  have hop : v.conceal.op = none := by rw [hconceal, h.conceal]
  have hagain : idleAgain v = decide (s.pre.closing = [] ∧ s.pre.assembly = none ∧ rest = []) := by
    rw [idleAgain, hpre, hconceal, h.conceal]
  rw [listGoesOn_eq hop]
  refine ⟨⟨?_, hnotices.trans h.notices, by rw [← hucoding]; exact hcoding, hpins, ?_, fun k hk => ?_⟩, rfl⟩
  · rw [hagain, hconceal, h.conceal]
  · unfold scrubFollows at hscrub ⊢
    rw [← hjog]
    exact hscrub
  · exact pinSettled_congr (hsettled k) (h.others k hk) (congrArg State.fetch h.frame :) (congrArg State.order h.frame :) rfl rfl

/-- A slot that is not due takes its results and keeps them when the pins move. -/
theorem finished_slot {s u : State} {rest : List ConcealJob} {l q : ConcealRec} {notices : PerPort NoticePort} {i : SlotId}
    (h : Walked s (some i) rest l q notices u) (hdue : u.slots[i].due = false) :
    (finished u).slots[i] = { u.slots[i] with pinned := (finished u).slots[i].pinned } := by
  obtain ⟨-, hslots⟩ := finished_completes h
  rw [hslots]
  exact (jogSync_settled (countConcealed u) i).1 (.inl hdue)

section
variable {s t : State} {slot : Option SlotId} {rest : List ConcealJob} {addr : Option Nat} {l q : List Sample × Walk}

/-- What the channels' records and the notices tell of a completion. -/
theorem Completed.told (h : Completed s slot rest l.2.rec' q.2.rec' (dropouts addr l q s).notices t) :
    let again := s.pre.closing = [] ∧ s.pre.assembly = none ∧ rest = []
    let goesOn : ConcealRec → ConcealRec := fun r => if again then
      ⟨.clean, ⟨1, 1⟩, 0, none, 0, none, 0, r.bridged, r.longRuns, r.mutes⟩ else r
    t.conceal.left = goesOn l.2.rec' ∧ t.conceal.right = goesOn q.2.rec' ∧ t.notices = (dropouts addr l q s).notices := by
  intro again goesOn
  have hgoes : ∀ r, recordAfter (decide again) r = goesOn r := fun r => by
    by_cases hagain : again
    · rw [decide_eq_true hagain]
      exact (if_pos hagain).symm
    · rw [decide_eq_false hagain]
      exact (if_neg hagain).symm
  refine ⟨?_, ?_, h.notices⟩
  · rw [h.conceal]
    exact hgoes _
  · rw [h.conceal]
    exact hgoes _

theorem Completed.list {l q : ConcealRec} {notices : PerPort NoticePort} (h : Completed s slot rest l q notices t) :
    t.conceal.list = rest ∧ t.conceal.op = if rest = [] then none else some s.conceal.params := by
  rw [h.conceal]
  exact ⟨rfl, rfl⟩

end

theorem exec_concealmentComplete (s : State) : exec .concealmentComplete s = .next (concealComplete s) := rfl

/-- Settles O44. -/
theorem concealmentCompletes : Obligations.ConcealmentCompletes := by
  intro s P job rest hlist
  refine ⟨fun hop => ?_, fun hop => ?_⟩
  · rw [exec_concealmentComplete, concealComplete, hop]
  refine ⟨_, exec_concealmentComplete s, ?_⟩
  have hsettings := (concealComplete_step (Move.refl s)).settings
  cases hslot : job.slot with
  | none =>
    obtain ⟨hdone, -⟩ := finished_completes (walked_walked s none
      (concealChannel P false none s.conceal.left (List.replicate (framePairs job.rate) (true, 0)))
      (concealChannel P false none s.conceal.right (List.replicate (framePairs job.rate) (true, 0))) rest)
    rw [← concealComplete_absent hlist hop hslot] at hdone
    exact ⟨hdone.list.1, hdone.list.2, hdone.coding, hsettings, hdone.pins, hdone.scrub, hdone.settled, fun _ => hdone.told, nofun⟩
  | some i =>
    have hcomplete := concealComplete_slot hlist hop hslot
    extract_lets x plain l q at hcomplete
    have hlength : l.1.length = framePairs job.rate ∧ q.1.length = framePairs job.rate :=
      ⟨(conceal_length ..).trans (slotPositions_length ..), (conceal_length ..).trans (slotPositions_length ..)⟩
    have hwalked := walked_walked s x.addr l q rest
    have hstored := hwalked.store i fun y => y.concealedBy job.rate l q
    obtain ⟨hdone, -⟩ := finished_completes hstored
    have hget := modifySlot_get_same i (fun y => y.concealedBy job.rate l q) (walked x.addr l q rest s)
    rw [hwalked.others i nofun] at hget
    have hslots := fun hdue => finished_slot hstored (by rw [hget]; exact hdue)
    rw [← hcomplete] at hdone hslots
    refine ⟨hdone.list.1, hdone.list.2, hdone.coding, hsettings, hdone.pins, hdone.scrub, hdone.settled, nofun, ?_⟩
    rintro _ ⟨⟩
    refine ⟨hdone.told, fun hdue => ?_⟩
    have hafter := hslots hdue
    rw [hget] at hafter
    obtain ⟨hleft, hright⟩ := concealedBy_samples (x := x) hlength.1 hlength.2
    have haudio : (concealComplete s).slots[i].audio = (x.concealedBy job.rate l q).audio :=
      (congrArg Slot.audio hafter :)
    refine ⟨congrArg Slot.state hafter, congrArg Slot.concealed hafter, congrArg Slot.muted hafter, (congrArg Slot.bad hafter :),
      fun n h => ?_, fun n h => ?_⟩
    · rw [haudio]
      exact hleft n h
    · rw [haudio]
      exact hright n h

end Sys2Proof.ConcealEnd
end

section
/-! SUPPORT. The slots that a cut gives back (R30, R31, R34). -/

namespace Sys2Proof.CutSlots
open Sys2Proof.Machine Sys2Proof.StepLaws Sys2Proof.SpliceEnds Sys2Proof.StoreCommands Sys2Proof.BlockWork Sys2Proof.GateCuts
open Sys2Proof.ProgramStops

/-! ### A slot that nothing blocks (R29, R30) -/

/-- From `s` to `t` slot `i` stays as it is or is emptied, and the fetches stay. -/
structure Frees (i : SlotId) (s t : State) : Prop where
  fetch : t.fetch = s.fetch
  slot : t.slots[i] = s.slots[i] ∨ t.slots[i] = Slot.reset

variable {i : SlotId} {s t u : State}

theorem Frees.refl (i : SlotId) (s : State) : Frees i s s := ⟨rfl, .inl rfl⟩

theorem Frees.trans (h : Frees i s t) (k : Frees i t u) : Frees i s u := by
  refine ⟨k.fetch.trans h.fetch, ?_⟩
  rcases k.slot with k | k
  · rw [k]
    exact h.slot
  · exact .inr k

/-- Only the slots and the fetches count. -/
theorem Frees.of_eq (hslots : t.slots = s.slots) (hfetch : t.fetch = s.fetch) : Frees i s t := ⟨hfetch, .inl (by rw [hslots])⟩

theorem Frees.stays_reset (h : Frees i s t) (hs : s.slots[i] = Slot.reset) : t.slots[i] = Slot.reset := by
  rcases h.slot with h | h
  · rw [h, hs]
  · exact h

theorem beingFetched_congr (h : t.fetch = s.fetch) (i : SlotId) : beingFetched t i = beingFetched s i := by
  unfold beingFetched
  rw [h]

theorem Frees.unblocked (h : Frees i s t) (hs : blocked s i = false) : blocked t i = false := by
  obtain ⟨hheld, hpinned, hfetched⟩ := (blocked_eq_false_iff s i).mp hs
  rw [blocked, beingFetched_congr h.fetch, hfetched]
  rcases h.slot with h | h
  · rw [h, hheld, hpinned]
    rfl
  · rw [h]
    rfl

/-- What each step of a list does to the slot, over the list. -/
theorem foldl_frees {α : Type} {f : State → α → State} (hf : ∀ v a, blocked v i = false → Frees i v (f v a)) (l : List α)
    (hs : blocked s i = false) : Frees i s (l.foldl f s) := by
  induction l generalizing s with
  | nil => exact .refl i s
  | cons a l ih =>
    have hfirst := hf s a hs
    exact hfirst.trans (ih (hfirst.unblocked hs))

theorem foldl_resets {α : Type} {f : State → α → State} (hf : ∀ v a, blocked v i = false → Frees i v (f v a)) {l : List α} {a : α}
    (ha : a ∈ l) (hreset : ∀ v, blocked v i = false → (f v a).slots[i] = Slot.reset) (hs : blocked s i = false) :
    (l.foldl f s).slots[i] = Slot.reset := by
  induction l generalizing s with
  | nil => exact absurd ha List.not_mem_nil
  | cons b l ih =>
    have hfirst := hf s b hs
    rcases List.mem_cons.mp ha with rfl | ha
    · exact (foldl_frees hf l (hfirst.unblocked hs)).stays_reset (hreset s hs)
    · exact ih ha (hfirst.unblocked hs)

theorem releaseSlot_resets (i : SlotId) (s : State) : (releaseSlot i s).slots[i] = Slot.reset := setSlot_get_same ..

theorem releaseSlot_frees (i j : SlotId) (s : State) : Frees i s (releaseSlot j s) := by
  refine ⟨rfl, ?_⟩
  by_cases h : j = i
  · subst h
    exact .inr (releaseSlot_resets ..)
  · exact .inl (setSlot_get_other h ..)

theorem releaseOrDue_frees (j : SlotId) (hs : blocked s i = false) : Frees i s (releaseOrDue j s) := by
  unfold releaseOrDue
  split
  · next hblocked =>
    have hne : j ≠ i := fun h => absurd (h ▸ hblocked) (by rw [hs]; decide)
    exact ⟨rfl, .inl (modifySlot_get_other hne ..)⟩
  · exact releaseSlot_frees ..

theorem releaseOrDue_resets (hs : blocked s i = false) : (releaseOrDue i s).slots[i] = Slot.reset := by
  rw [releaseOrDue, if_neg (by rw [hs]; decide)]
  exact releaseSlot_resets ..

theorem releaseAll_frees (l : List SlotId) (hs : blocked s i = false) : Frees i s (releaseAll l s) :=
  foldl_frees (fun _ j hv => releaseOrDue_frees j hv) l hs

theorem releaseAll_resets {l : List SlotId} (hi : i ∈ l) (hs : blocked s i = false) : (releaseAll l s).slots[i] = Slot.reset :=
  foldl_resets (fun _ j hv => releaseOrDue_frees j hv) hi (fun _ hv => releaseOrDue_resets hv) hs

theorem abandonSlot_frees (o : Option SlotId) (s : State) : Frees i s (abandonSlot o s) := by
  cases o with
  | none => exact .refl i s
  | some j => exact releaseSlot_frees ..

theorem releaseOpt_frees (o : Option SlotId) (hs : blocked s i = false) : Frees i s (releaseOpt o s) := by
  cases o with
  | none => exact .refl i s
  | some j => exact releaseOrDue_frees j hs

theorem dropOp_frees (op : CodingOp) (hs : blocked s i = false) : Frees i s (dropOp op s) := by
  have hcoded := abandonSlot_frees (i := i) op.codedSlot s
  exact hcoded.trans (releaseOpt_frees _ (hcoded.unblocked hs))

theorem dropOp_resets {op : CodingOp} (hop : op.codedSlot = some i) (hs : blocked s i = false) : (dropOp op s).slots[i] = Slot.reset := by
  have hcoded := abandonSlot_frees (i := i) op.codedSlot s
  refine (releaseOpt_frees _ (hcoded.unblocked hs)).stays_reset ?_
  rw [hop]
  exact releaseSlot_resets ..

theorem abandonOps_frees (f : CodingOp → Bool) (hs : blocked s i = false) : Frees i s (abandonOps f s) :=
  (Frees.of_eq (s := s) (t := { s with coding := s.coding.filter fun op => !f op }) rfl rfl).trans
    (foldl_frees (fun _ op hv => dropOp_frees op hv) _ (by exact hs))

theorem abandonOps_resets {f : CodingOp → Bool} {op : CodingOp} (hop : op ∈ s.coding) (hf : f op = true)
    (hslot : op.codedSlot = some i) (hs : blocked s i = false) : (abandonOps f s).slots[i] = Slot.reset :=
  foldl_resets (fun _ op hv => dropOp_frees op hv) (List.mem_filter.mpr ⟨hop, hf⟩) (fun _ hv => dropOp_resets hslot hv) hs

theorem releaseFilling_frees (s : State) (hs : blocked s i = false) : Frees i s (releaseFilling s) :=
  (Frees.of_eq (s := s) (t := { s with coding := s.coding.map CodingOp.slotless }) rfl rfl).trans
    (foldl_frees (f := fun t (op : CodingOp) => abandonSlot op.codedSlot t) (fun _ _ _ => abandonSlot_frees ..) _ (by exact hs))

theorem releaseFilling_resets {op : CodingOp} (hop : op ∈ s.coding) (hslot : op.codedSlot = some i) (hs : blocked s i = false) :
    (releaseFilling s).slots[i] = Slot.reset :=
  foldl_resets (f := fun t (op : CodingOp) => abandonSlot op.codedSlot t) (fun _ _ _ => abandonSlot_frees ..) hop (fun v _ => by
    rw [hslot]
    exact releaseSlot_resets ..) hs

/-! ### What a cut gives back (R30) -/

theorem mem_unwritten : i ∈ unwritten s ↔ s.slots[i].state = .coded ∧ ∀ e ∈ s.judge, e.slot ≠ i := by
  simp only [unwritten, inJudge, List.mem_filter, slotIds, List.mem_finRange, true_and, Bool.and_eq_true, beq_iff_eq, Bool.not_eq_true',
    List.any_eq_false]

theorem releaseUnwritten_frees (hs : blocked s i = false) : Frees i s (releaseUnwritten s) := by
  have hall := releaseAll_frees (unwritten s) hs
  exact hall.trans (releaseFilling_frees _ (hall.unblocked hs))

/-- An unwritten frame's slot, and that of an operation, is given back. -/
structure GivesBack (i : SlotId) (s t : State) : Prop where
  frees : Frees i s t
  coded : s.slots[i].state = .coded → (∀ e ∈ s.judge, e.slot ≠ i) → t.slots[i] = Slot.reset
  filling : ∀ op ∈ s.coding, op.codedSlot = some i → t.slots[i] = Slot.reset

theorem GivesBack.after (h : GivesBack i s t) (k : Frees i t u) : GivesBack i s u :=
  ⟨h.frees.trans k, fun hstate hjudge => k.stays_reset (h.coded hstate hjudge), fun op hop hslot => k.stays_reset (h.filling op hop hslot)⟩

/-- The same from a state with the same slots, operations and judge list. -/
theorem GivesBack.of_eq {v : State} (h : GivesBack i v t) (hslots : v.slots = s.slots) (hfetch : v.fetch = s.fetch)
    (hjudge : v.judge = s.judge) (hcoding : v.coding = s.coding) : GivesBack i s t := by
  refine ⟨(Frees.of_eq hslots hfetch).trans h.frees, fun hstate hnone => h.coded ?_ ?_, fun op hop => h.filling op ?_⟩
  · rwa [hslots]
  · rwa [hjudge]
  · rwa [hcoding]

theorem releaseUnwritten_gives (hs : blocked s i = false) : GivesBack i s (releaseUnwritten s) := by
  have hall := releaseAll_frees (unwritten s) hs
  have hfill := releaseFilling_frees _ (hall.unblocked hs)
  refine ⟨releaseUnwritten_frees hs, fun hstate hjudge => hfill.stays_reset (releaseAll_resets (mem_unwritten.mpr ⟨hstate, hjudge⟩) hs),
    fun op hop hslot => releaseFilling_resets ?_ hslot (hall.unblocked hs)⟩
  rw [(releaseAll_work (unwritten s) s).coding]
  exact hop

theorem mem_partlyJudged {e : JudgeEntry} (h : e ∈ partlyJudged s) : ∃ x ∈ s.judge, x.slot = e.slot ∧ x.designated = e.designated := by
  unfold partlyJudged at h
  cases hwrite : s.gate.write with
  | none =>
    rw [hwrite] at h
    exact ⟨e, h, rfl, rfl⟩
  | some w =>
    rw [hwrite] at h
    obtain ⟨x, hx, rfl⟩ := List.mem_map.mp h
    refine ⟨x, hx, ?_⟩
    split <;> exact ⟨rfl, rfl⟩

theorem closeByCut_gives (hs : blocked s i = false) : GivesBack i s (closeByCut s) := by
  have hmark : Frees i s (closeGate (markPartial s)) := by
    rw [markPartial_eq]
    exact .of_eq rfl rfl
  have hcoding : (closeGate (markPartial s)).coding = s.coding := by
    rw [markPartial_eq]
    rfl
  have hunblocked := hmark.unblocked hs
  have hdrop := abandonOps_frees (fun op => op.tag.isSome && op.tag == s.gate.holder) hunblocked
  have hwork := abandonOps_work (fun op => op.tag.isSome && op.tag == s.gate.holder) (closeGate (markPartial s))
  have hgives := releaseUnwritten_gives (hdrop.unblocked hunblocked)
  have hjudge := hwork.judge
  refine GivesBack.after (t := releaseUnwritten (abandonOps (fun op => op.tag.isSome && op.tag == s.gate.holder)
    (closeGate (markPartial s)))) ⟨hmark.trans (hdrop.trans hgives.frees), fun hstate hnone => ?_, fun op hop hslot => ?_⟩ (.of_eq rfl rfl)
  · rcases (hmark.trans hdrop).slot with h | h
    · refine hgives.coded (by rw [h]; exact hstate) fun e he => ?_
      rw [hjudge, markPartial_eq] at he
      obtain ⟨x, hx, hslot, -⟩ := mem_partlyJudged he
      exact hslot ▸ hnone x hx
    · exact hgives.frees.stays_reset h
  · by_cases hf : (op.tag.isSome && op.tag == s.gate.holder) = true
    · exact hgives.frees.stays_reset (abandonOps_resets (by rw [hcoding]; exact hop) hf hslot hunblocked)
    · refine hgives.filling op ?_ hslot
      rw [hwork.coding]
      refine List.mem_filter.mpr ⟨by rw [hcoding]; exact hop, ?_⟩
      rw [Bool.not_eq_true', Bool.eq_false_iff]
      exact hf

/-- A cut for the transport or the lock gives back what is unwritten, whether the gate is open or not. -/
theorem cutGate_gives {c : CutCause} (hc : c = .transport ∨ c = .lock) (hs : blocked s i = false) : GivesBack i s (cutGate c s) := by
  by_cases hclosed : s.gate.state = .closed
  · rw [cutGate_releases hclosed hc]
    exact releaseUnwritten_gives hs
  · rw [cutGate_open hclosed (by rcases hc with rfl | rfl <;> rfl)]
    exact closeByCut_gives hs

/-! ### The window keeps nothing else (R31, R34) -/

/-- A slot that nothing blocks and that holds no pre-read audio is not pinned when the window moves. -/
theorem jogSync_frees (hs : blocked s i = false) (haudio : s.slots[i].isPreRead = false) : Frees i s (jogSync s) := by
  have hfetch : (jogSync s).fetch = s.fetch := by
    have hframe := jogSync_frame s
    generalize jogSync s = t at hframe
    exact (congrArg State.fetch hframe :)
  refine ⟨hfetch, ?_⟩
  obtain ⟨hheld, hpinned, hfetched⟩ := (blocked_eq_false_iff s i).mp hs
  have hunpinned : (jogSync s).slots[i].pinned = false := by
    rw [Bool.eq_false_iff]
    intro hpin
    obtain ⟨w, a, -, -, -, ⟨hpre, -⟩, -⟩ := (jogSync_pinned s i).mp hpin
    rw [haudio] at hpre
    exact absurd hpre Bool.false_ne_true
  obtain ⟨hstays, hgoes⟩ := jogSync_settled s i
  cases hdue : s.slots[i].due with
  | false =>
    refine .inl ((hstays (.inl hdue)).trans ?_)
    rw [hunpinned, ← hpinned]
  | true =>
    refine .inr (hgoes ?_).1
    rintro (h | h | h | h)
    · rw [hdue] at h; exact absurd h (by decide)
    · rw [hheld] at h; exact absurd h (by decide)
    · rw [(beingFetched_iff s i).mpr h] at hfetched; exact absurd hfetched (by decide)
    · rw [hunpinned] at h; exact absurd h (by decide)

theorem GivesBack.window (h : GivesBack i s t) (hs : blocked s i = false) (haudio : s.slots[i].isPreRead = false) :
    GivesBack i s (jogSync t) := by
  refine h.after (jogSync_frees (h.frees.unblocked hs) ?_)
  rcases h.frees.slot with h | h
  · rw [h, haudio]
  · rw [h]
    rfl

end Sys2Proof.CutSlots
end

section
/-! SUPPORT. A break of the Edit Engine: the splice that it ends, the lay that it breaks, and how the program goes on (R149, R157). -/

namespace Sys2Proof.EngineBreaks
open Sys2Proof.Machine Sys2Proof.StepLaws Sys2Proof.SpliceEnds Sys2Proof.StoreCommands Sys2Proof.BlockWork Sys2Proof.GateCuts
open Sys2Proof.GuardChanges Sys2Proof.Punches Sys2Proof.ProgramStops

variable {s t : State}

/-! ### The parts of a break (R149) -/

/-- The outcome of a splice that a break ends. -/
def brokenAs (s : State) : Outcome := if s.tl.mode = .play then .lostLock else .broken

/-- The splice in progress ends. -/
def spliceBroken (s : State) : State := endSplice (brokenAs s) none (cutPoint s) false s

/-- The lay is broken, and nothing is prepared any more. -/
def unprepared (s : State) : State := nameSource .analog (spendAny (forgot (breakLay s)))

/-- How the engine goes on. -/
def heldOver (s : State) : State :=
  if s.eng.state = .finishing then setEng .done s else if hasPending s then setEng .held s else endPass s

theorem engineBreak_punch (h : punchOpen s = true) : engineBreak s = spliceBroken s := if_pos h

theorem engineBreak_runs (h : punchOpen s = false) (hrun : s.eng.state.breakable = true) :
    engineBreak s = heldOver (unprepared (spliceBroken s)) := by
  refine (if_neg (by rw [h]; decide)).trans ?_
  exact if_pos hrun

theorem engineBreak_idle (h : punchOpen s = false) (hrun : s.eng.state.breakable = false) : engineBreak s = s := by
  refine (if_neg (by rw [h]; decide)).trans ?_
  exact if_neg (by rw [hrun]; decide)

theorem breakable_iff (st : EngState) : st.breakable = true ↔ st = .waiting ∨ st = .splicing ∨ st = .finishing := by
  cases st <;> simp [EngState.breakable]

theorem punchOpen_none (h : s.eng.splice = none) : punchOpen s = false := by rw [punchOpen, h]

theorem endSplice_none (h : s.eng.splice = none) (o : Outcome) (r : Option Reason) (out : Option Point) (atIn : Bool) :
    endSplice o r out atIn s = s := by
  rw [endSplice, h]

/-- Without a splice or a running program a break changes nothing. -/
theorem engineBreak_still (h : s.eng.splice = none) (hrun : ¬(s.eng.state = .waiting ∨ s.eng.state = .splicing ∨ s.eng.state = .finishing)) :
    engineBreak s = s :=
  engineBreak_idle (punchOpen_none h) (Bool.eq_false_iff.mpr fun hb => hrun ((breakable_iff _).mp hb))

/-! ### The result stays (R159) -/

theorem mem_withResult_last {e : Engine} {r x : SpliceResult} (h : e.results.getLast? = some r) : r ∈ (withResult x e).results := by
  obtain ⟨l, hl⟩ := List.getLast?_eq_some_iff.mp h
  refine List.mem_append_left _ ?_
  split
  · rw [hl]
    exact List.mem_append_right _ List.mem_cons_self
  · next hfull =>
    rw [hl, List.length_append, List.length_singleton] at hfull
    rw [hl, List.drop_append_of_le_length (by omega)]
    exact List.mem_append_right _ List.mem_cons_self

/-- The entry of a lay that has not started is the only one that a break ends. -/
theorem breakLay_cases (s : State) : breakLay s = s ∨ ∃ e, pendingEntry s 0 = some e ∧ e.lay = true
    ∧ breakLay s = endPending 0 e .broken none false s := by
  unfold breakLay
  split
  · next e he =>
    split
    · next hlay => exact .inr ⟨e, he, hlay, rfl⟩
    · exact .inl rfl
  · exact .inl rfl

theorem endPending_splice (i : Fin 16) (e : Entry) (o : Outcome) (r : Option Reason) (late : Bool) (s : State) :
    (endPending i e o r late s).eng.splice = s.eng.splice ∧ (endPending i e o r late s).eng.state = s.eng.state := by
  rw [endPending, addResult_eq]
  exact ⟨rfl, rfl⟩

theorem breakLay_keeps (s : State) : (breakLay s).eng.splice = s.eng.splice ∧ (breakLay s).eng.state = s.eng.state
    ∧ ∀ r, s.eng.results.getLast? = some r → r ∈ (breakLay s).eng.results := by
  rcases breakLay_cases s with h | ⟨e, -, -, h⟩
  · rw [h]
    exact ⟨rfl, rfl, fun r hr => List.mem_of_getLast? hr⟩
  · rw [h]
    refine ⟨(endPending_splice ..).1, (endPending_splice ..).2, fun r hr => ?_⟩
    rw [endPending, addResult_eq]
    exact mem_withResult_last hr

/-- An entry that is PENDING, and is no lay at the front, stays so. -/
theorem breakLay_pending {i : Fin 16} {e : Entry} (h : pendingEntry s i = some e) (hlay : ¬(i = 0 ∧ e.lay = true)) :
    pendingEntry (breakLay s) i = some e := by
  rcases breakLay_cases s with hb | ⟨e0, he0, hlay0, hb⟩
  · rwa [hb]
  · have hi : i ≠ 0 := fun hi => by
      rw [hi, he0] at h
      exact hlay ⟨hi, Option.some.inj h ▸ hlay0⟩
    have hactive : (setEntryState 0 (.ended .broken) s).eng.active[i] = s.eng.active[i] :=
      Vector.getElem_set_ne (by decide) i.isLt fun heq => hi (Fin.ext heq.symm)
    rw [hb, endPending, addResult_eq]
    unfold pendingEntry at h ⊢
    rw [← h]
    exact congrArg (fun o : Option ActiveEntry => match o with
      | some a => if a.state = EntryState.pending then some a.entry else none
      | none => none) hactive

/-! ### What was prepared (R149) -/

theorem unprepared_frame (s : State) : ∃ k b f, unprepared s = { breakLay s with
    intake := k, banks := b, eng := { (breakLay s).eng with prepared := [], layWait := none, bankFor := f } } := by
  unfold unprepared
  generalize breakLay s = u
  obtain ⟨b, f, hb⟩ := spendAny_frame (forgot u)
  obtain ⟨k, hk⟩ := nameSource_frame .analog (spendAny (forgot u))
  rw [hk, hb]
  exact ⟨k, b, f, rfl⟩

theorem unprepared_source (s : State) : (unprepared s).intake.source = .analog := nameSource_source ..

/-! ### How it goes on (R149, R154) -/

/-- From `s` to `t` the engine takes another state, or goes to its next pass. -/
structure GoesOn (s t : State) : Prop where
  results : t.eng.results = s.eng.results
  splice : t.eng.splice = s.eng.splice
  intake : t.intake = s.intake
  prepared : s.eng.prepared = [] → t.eng.prepared = []

theorem setEng_goesOn (st : EngState) (s : State) : GoesOn s (setEng st s) := by
  rw [setEng_frame]
  exact ⟨rfl, rfl, rfl, id⟩

theorem endPass_goesOn (s : State) : GoesOn s (endPass s) := by
  unfold endPass
  split
  · dsimp only
    rw [setEng_frame]
    exact ⟨rfl, rfl, rfl, fun _ => rfl⟩
  · exact setEng_goesOn ..

theorem heldOver_goesOn (s : State) : GoesOn s (heldOver s) := by
  unfold heldOver
  split
  · exact setEng_goesOn ..
  · split
    · exact setEng_goesOn ..
    · exact endPass_goesOn s

theorem endPass_state (s : State) : (endPass s).eng.state = .armed ∨ (endPass s).eng.state = .done := by
  unfold endPass
  split
  · exact .inl (setEng_state ..)
  · exact .inr (setEng_state ..)

/-- The engine's state after a break takes no second one. -/
theorem heldOver_state (s : State) : (heldOver s).eng.state.breakable = false := by
  unfold heldOver
  split
  · rw [setEng_state]
    rfl
  · split
    · rw [setEng_state]
      rfl
    · rcases endPass_state s with h | h <;> rw [h] <;> rfl

/-! ### The break as a whole (R149) -/

/-- The splice that a break ends, with its result in the list. -/
structure BreaksSplice (s : State) (sp : Splice) (t : State) : Prop where
  splice : t.eng.splice = none
  result : ∃ r ∈ t.eng.results, r = spliceResult sp (brokenAs s) none (cutPoint s) false s

theorem spliceBroken_splice (s : State) : (spliceBroken s).eng.splice = none := by
  unfold spliceBroken
  cases h : s.eng.splice with
  | none => rw [endSplice_none h, h]
  | some sp => exact (endSplice_report h ..).2.2.2.2.1

theorem engineBreak_breaks {sp : Splice} (h : s.eng.splice = some sp)
    (hbreak : punchOpen s = true ∨ s.eng.state = .waiting ∨ s.eng.state = .splicing ∨ s.eng.state = .finishing) :
    BreaksSplice s sp (engineBreak s) := by
  have hlast : (spliceBroken s).eng.results.getLast? = some (spliceResult sp (brokenAs s) none (cutPoint s) false s) := endSplice_getLast h ..
  cases hpunch : punchOpen s with
  | true =>
    rw [engineBreak_punch hpunch]
    exact ⟨spliceBroken_splice s, _, List.mem_of_getLast? hlast, rfl⟩
  | false =>
    have hrun := (breakable_iff _).mpr (hbreak.resolve_left (by rw [hpunch]; decide))
    rw [engineBreak_runs hpunch hrun]
    obtain ⟨hsplice, -, hkeeps⟩ := breakLay_keeps (spliceBroken s)
    obtain ⟨k, b, f, hframe⟩ := unprepared_frame (spliceBroken s)
    have hgoes := heldOver_goesOn (unprepared (spliceBroken s))
    refine ⟨?_, _, ?_, rfl⟩
    · rw [hgoes.splice, hframe]
      exact hsplice.trans (spliceBroken_splice s)
    · rw [hgoes.results, hframe]
      exact hkeeps _ hlast

end Sys2Proof.EngineBreaks
end

section
/-! SUPPORT. A loss of the lock: its notice, the break, and the cut (R13 to R18, R30, R104, R149). -/

namespace Sys2Proof.LockLoss
open Sys2Proof.Machine Sys2Proof.StepLaws Sys2Proof.SpliceEnds Sys2Proof.StoreCommands Sys2Proof.BlockWork Sys2Proof.GateCuts
open Sys2Proof.CutSlots Sys2Proof.EngineBreaks

variable {s : State} {u : Timeline}

/-- The state that has taken a record of the timeline, with the notice of an exit from LOCKED. -/
def moved (u : Timeline) (s : State) : State :=
  if s.tl.state = .locked ∧ u.state ≠ .locked then post .lockChange 0 (some u.position) none { s with tl := u } else { s with tl := u }

theorem moved_frame (u : Timeline) (s : State) : { moved u s with notices := s.notices } = { s with tl := u } := by
  unfold moved
  split <;> rfl

theorem moved_tl (u : Timeline) (s : State) : (moved u s).tl = u := by
  unfold moved
  split <;> rfl

theorem moved_notices (u : Timeline) (s : State) : (moved u s).notices =
    if s.tl.state = .locked ∧ u.state ≠ .locked then (post .lockChange 0 (some u.position) none s).notices else s.notices := by
  unfold moved
  split
  · exact post_notices_congr rfl rfl ..
  · rfl

/-- A timeline that has the lock, or is LAYING (R18). -/
def hadLock (t : Timeline) : Prop := t.state = .locked ∨ t.state = .coasting ∨ t.state = .laying

theorem hasLock_iff (t : Timeline) : t.state.hasLock = true ↔ hadLock t := by
  unfold hadLock
  cases t.state <;> simp [TlState.hasLock]

/-- The lock is lost from one record to the next (R18). -/
def loses (t u : Timeline) : Bool := t.state.hasLock && !u.state.hasLock

theorem loses_iff (t u : Timeline) : loses t u = true ↔ hadLock t ∧ ¬hadLock u := by
  rw [loses, Bool.and_eq_true, Bool.not_eq_true', ← Bool.not_eq_true, hasLock_iff, hasLock_iff]

section
variable (henter : u.state = .locked → s.tl.state = .locked)
include henter

/-- Without an entry to LOCKED the engine gains nothing. -/
theorem relocked_moves : relocked u s = if loses s.tl u = true then cutGate .lock (engineBreak (moved u s)) else moved u s := by
  have hentered : (u.state == .locked && s.tl.state != .locked) = false := by
    rw [Bool.eq_false_iff, Ne, Bool.and_eq_true, beq_iff_eq, bne_iff_ne]
    exact fun h => h.2 (henter h.1)
  have hexited : (s.tl.state == .locked && u.state != .locked) = true ↔ s.tl.state = .locked ∧ u.state ≠ .locked := by
    rw [Bool.and_eq_true, beq_iff_eq, bne_iff_ne]
  have hmoved : (if (u.state == .locked && s.tl.state != .locked) = true then post .lockChange 1 (some u.position) none { s with tl := u }
      else if (s.tl.state == .locked && u.state != .locked) = true then post .lockChange 0 (some u.position) none { s with tl := u }
      else { s with tl := u }) = moved u s := by
    rw [hentered, if_neg Bool.false_ne_true]
    exact if_congr hexited rfl rfl
  have hparts : relocked u s = if (u.state == .locked && s.tl.state != .locked) = true then
        engineGain (if loses s.tl u = true then cutGate .lock (engineBreak (moved u s)) else moved u s)
      else if loses s.tl u = true then cutGate .lock (engineBreak (moved u s)) else moved u s := by
    rw [← hmoved]
    rfl
  rw [hparts, hentered, if_neg Bool.false_ne_true]

theorem timelineSet_loses (hloss : loses s.tl u = true) : timelineSet u s = jogSync (cutGate .lock (engineBreak (moved u s))) := by
  rw [timelineSet_eq, relocked_moves henter, if_pos hloss]

theorem timelineSet_holds (hloss : loses s.tl u = false) : timelineSet u s = jogSync (moved u s) := by
  rw [timelineSet_eq, relocked_moves henter, if_neg (by rw [hloss]; decide)]

end

/-! ### What the cut of a loss leaves (R104) -/

theorem jogSync_rest (s : State) : (jogSync s).gate = s.gate ∧ (jogSync s).coding = s.coding ∧ (jogSync s).eng = s.eng
    ∧ (jogSync s).judge = s.judge ∧ (jogSync s).mon = s.mon ∧ (jogSync s).notices = s.notices := by
  have hframe := jogSync_frame s
  generalize jogSync s = t at hframe
  exact ⟨(congrArg State.gate hframe :), (congrArg State.coding hframe :), (congrArg State.eng hframe :), (congrArg State.judge hframe :),
    (congrArg State.mon hframe :), (congrArg State.notices hframe :)⟩

/-- The coding operations that a cut for the lock leaves, without their slots. -/
def lockSpared (s : State) : List CodingOp :=
  (s.coding.filter fun op => decide (s.gate.state = .closed) || op.begun.all fun b => b.plan.all fun q => some q.tag != s.gate.holder).map
    (fun op => { op with begun := op.begun.map fun b => { b with slot := none } })

theorem spared_tag (op : CodingOp) (h : Option SpliceTag) :
    (!(op.tag.isSome && op.tag == h)) = op.begun.all fun b => b.plan.all fun q => some q.tag != h := by
  unfold CodingOp.tag
  cases op.begun with
  | none => rfl
  | some b =>
    show (!((b.plan.map (·.tag)).isSome && b.plan.map (·.tag) == h)) = b.plan.all _
    cases b.plan <;> rfl

/-- What a cut for the lock or the transport leaves beside the slots. -/
structure Cut (s t : State) : Prop where
  gate : t.gate = s.gate.cut
  coding : t.coding = lockSpared s
  eng : t.eng = s.eng
  notices : t.notices = s.notices
  override : t.mon.override = s.mon.override
  closedMix : s.gate.state = .closed → t.mon.autoMix = s.mon.autoMix
  openMix : s.gate.state ≠ .closed → t.mon.autoMix = (s.mon.autoMix && !autoPlays s)
  tl : t.tl = s.tl

theorem cutGate_cut {c : CutCause} (hc : c = .transport ∨ c = .lock) (s : State) : Cut s (cutGate c s) := by
  by_cases hclosed : s.gate.state = .closed
  · have hgate := cutGate_gate c s
    rw [cutGate_releases hclosed hc] at hgate ⊢
    have hwork := releaseUnwritten_work s
    refine ⟨hgate, hwork.coding.trans ?_, hwork.eng, hwork.notices, (congrArg (fun t : State => t.mon.override) hwork.frame :),
      fun _ => (congrArg (fun t : State => t.mon.autoMix) hwork.frame :), fun h => absurd hclosed h, (congrArg State.tl hwork.frame :)⟩
    have hall : s.coding.filter (fun op => decide (s.gate.state = .closed) || op.begun.all fun b => b.plan.all fun q =>
        some q.tag != s.gate.holder) = s.coding := List.filter_eq_self.mpr fun op _ => by
      rw [decide_eq_true hclosed, Bool.true_or]
    rw [lockSpared, hall]
    rfl
  · have hgate := cutGate_gate c s
    rw [cutGate_open hclosed (by rcases hc with rfl | rfl <;> rfl)] at hgate ⊢
    have hframe := closeByCut_frame s
    refine ⟨hgate, (congrArg State.coding hframe :).trans ?_, (congrArg State.eng hframe :), (congrArg State.notices hframe :),
      (congrArg (fun t : State => t.mon.override) hframe :), fun h => absurd h hclosed,
      fun _ => (congrArg (fun t : State => t.mon.autoMix) hframe :), (congrArg State.tl hframe :)⟩
    refine congrArg (List.map CodingOp.slotless) (List.filter_congr fun op _ => ?_)
    rw [decide_eq_false hclosed, Bool.false_or]
    exact spared_tag ..

theorem autoPlays_iff (s : State) : autoPlays s = true ↔ s.mon.stored = .auto ∧ s.mon.override = false := by
  rw [autoPlays, Bool.and_eq_true, beq_iff_eq, Bool.not_eq_true']

/-! ### A timer's report (R15, R16, R18) -/

/-- What a timer's record tells: the notice of an exit from LOCKED, and either nothing else or the break and the cut of a loss. -/
structure Reports (s t : State) : Prop where
  notices : s.eng.splice = none → ¬(s.eng.state = .waiting ∨ s.eng.state = .splicing ∨ s.eng.state = .finishing) →
    t.notices = if s.tl.state = .locked then (post .lockChange 0 (some t.tl.position) none s).notices else s.notices
  held : ¬((s.tl.state = .locked ∨ s.tl.state = .coasting ∨ s.tl.state = .laying) ∧ t.tl.state = .unlocked) →
    t.gate = s.gate ∧ t.coding = s.coding ∧ t.eng = s.eng ∧ t.judge = s.judge
  lost : (s.tl.state = .locked ∨ s.tl.state = .coasting ∨ s.tl.state = .laying) ∧ t.tl.state = .unlocked → t.gate = s.gate.cut
    ∧ (s.gate.state = .closed → t.mon.autoMix = s.mon.autoMix)
    ∧ (s.gate.state ≠ .closed → (t.mon.autoMix = true ↔ s.mon.autoMix = true ∧ ¬(s.mon.stored = .auto ∧ t.mon.override = false)))
    ∧ (∀ i : SlotId, s.slots[i].state = .coded → (∀ e ∈ s.judge, e.slot ≠ i) → blocked s i = false → t.slots[i] = Slot.reset)
    ∧ (∀ op ∈ s.coding, ∀ b i, op.begun = some b → b.slot = some i → blocked s i = false → t.slots[i] = Slot.reset)
    ∧ t.coding = lockSpared s
    ∧ ((punchOpen s = true ∨ s.eng.state = .waiting ∨ s.eng.state = .splicing ∨ s.eng.state = .finishing) →
      ∀ sp, s.eng.splice = some sp → t.eng.splice = none
        ∧ ∃ r ∈ t.eng.results, r.tag = sp.tag ∧ r.outcome = if s.tl.mode = .play then .lostLock else .broken)

/-- An emptied slot has no pre-read audio, and neither has a CODED one. -/
theorem coded_isPreRead {i : SlotId} (h : s.slots[i].state = .coded) : s.slots[i].isPreRead = false := by
  rw [Slot.isPreRead, h]
  rfl

theorem reset_window {i : SlotId} {t : State} (h : t.slots[i] = Slot.reset) (hs : blocked t i = false) : (jogSync t).slots[i] = Slot.reset :=
  (jogSync_frees hs (by rw [h]; rfl)).stays_reset h

theorem moved_breaks (u : Timeline) (s : State) : EngWork s (engineBreak (moved u s)) := by
  have hmoved : EngWork s (moved u s) := by
    unfold moved
    split <;> exact ⟨rfl⟩
  exact hmoved.trans (engineBreak_engWork _)

theorem timelineSet_reports (hnot : u.state ≠ .locked) (hkeeps : hadLock s.tl → hadLock u ∨ u.state = .unlocked)
    (hmode : u.mode = s.tl.mode) (htl : (timelineSet u s).tl = u) : Reports s (timelineSet u s) := by
  have henter : u.state = .locked → s.tl.state = .locked := fun h => absurd h hnot
  have hmovedEng : (moved u s).eng = s.eng := (congrArg State.eng (moved_frame u s) :)
  cases hloss : loses s.tl u with
  | false =>
    have hlock : ¬(hadLock s.tl ∧ u.state = .unlocked) := fun ⟨hold, hnew⟩ => by
      have hlost := (loses_iff s.tl u).mpr ⟨hold, by unfold hadLock; rw [hnew]; decide⟩
      rw [hloss] at hlost
      exact absurd hlost Bool.false_ne_true
    obtain ⟨hgate, hcoding, heng, hjudge, hmon, hnotices⟩ := jogSync_rest (moved u s)
    rw [← timelineSet_holds henter hloss] at hgate hcoding heng hjudge hmon hnotices
    refine ⟨fun _ _ => ?_, fun _ => ⟨hgate.trans (congrArg State.gate (moved_frame u s) :), hcoding.trans
      (congrArg State.coding (moved_frame u s) :), heng.trans hmovedEng, hjudge.trans (congrArg State.judge (moved_frame u s) :)⟩,
      fun h => absurd (by rw [htl] at h; exact h) hlock⟩
    rw [hnotices, moved_notices, htl]
    exact if_congr (and_iff_left hnot) rfl rfl
  | true =>
    have hsame := timelineSet_loses henter hloss
    have hold := ((loses_iff s.tl u).mp hloss).1
    have hnew := ((loses_iff s.tl u).mp hloss).2
    have hunlocked : u.state = .unlocked := (hkeeps hold).resolve_left hnew
    have hwork := moved_breaks u s
    have hcut := cutGate_cut (.inr rfl) (engineBreak (moved u s))
    obtain ⟨hgate, hcoding, heng, hjudge, hmon, hnotices⟩ := jogSync_rest (cutGate .lock (engineBreak (moved u s)))
    rw [← hsame] at hgate hcoding heng hjudge hmon hnotices
    have hslots : ∀ i, blocked s i = false → GivesBack i s (cutGate .lock (engineBreak (moved u s))) := fun i hs =>
      (cutGate_gives (.inr rfl) ((Frees.of_eq hwork.slots (congrArg State.fetch hwork.frame :)).unblocked hs)).of_eq
        hwork.slots (congrArg State.fetch hwork.frame :) hwork.judge hwork.coding
    have hreset : ∀ i, blocked s i = false → (cutGate .lock (engineBreak (moved u s))).slots[i] = Slot.reset →
        (timelineSet u s).slots[i] = Slot.reset := fun i hs h => by
      rw [hsame]
      exact reset_window h ((hslots i hs).frees.unblocked hs)
    have hmixBefore : (engineBreak (moved u s)).mon.autoMix = s.mon.autoMix := (congrArg (fun x : State => x.mon.autoMix) hwork.frame :)
    have hstored : (engineBreak (moved u s)).mon.stored = s.mon.stored := (congrArg (fun x : State => x.mon.stored) hwork.frame :)
    refine ⟨fun hsplice hrun => ?_, fun h => absurd ⟨hold, by rw [htl]; exact hunlocked⟩ h, fun _ => ⟨?_, fun hclosed => ?_, fun hopen => ?_,
      fun i hstate hnone hs => hreset i hs ((hslots i hs).coded hstate hnone),
      fun op hop b i hbegun hb hs => hreset i hs ((hslots i hs).filling op hop ?_), ?_, fun hbreak sp hsp => ?_⟩⟩
    · have hstill : engineBreak (moved u s) = moved u s :=
        engineBreak_still (by rw [hmovedEng]; exact hsplice) (by rw [hmovedEng]; exact hrun)
      rw [hnotices, hcut.notices, hstill, moved_notices, htl]
      exact if_congr (and_iff_left hnot) rfl rfl
    · rw [hgate, hcut.gate, hwork.gate]
    · rw [hmon, hcut.closedMix (by rw [hwork.gate]; exact hclosed), hmixBefore]
    · rw [hmon, hcut.openMix (by rw [hwork.gate]; exact hopen), hcut.override, hmixBefore, ← hstored, ← autoPlays_iff, Bool.and_eq_true,
        Bool.not_eq_true', Bool.eq_false_iff]
    · rw [CodingOp.codedSlot, hbegun]
      exact hb
    · rw [hcoding, hcut.coding, lockSpared, lockSpared, hwork.coding, hwork.gate]
    · have hpunch : punchOpen (moved u s) = punchOpen s := by rw [punchOpen, punchOpen, hmovedEng]
      have hends := engineBreak_breaks (s := moved u s) (sp := sp) (by rw [hmovedEng]; exact hsp) (by rw [hpunch, hmovedEng]; exact hbreak)
      obtain ⟨r, hr, hresult⟩ := hends.result
      have houtcome : brokenAs (moved u s) = if s.tl.mode = .play then .lostLock else .broken := by
        rw [brokenAs, moved_tl, hmode]
      rw [heng, hcut.eng]
      refine ⟨hends.splice, r, hr, ?_, ?_⟩
      · rw [hresult]
        rfl
      · rw [hresult, ← houtcome]
        rfl

/-! ### The timers' records (R13 to R17) -/

/-- The record of a timer, from a record that is not LOCKED after it. -/
structure TimerRecord (t u : Timeline) : Prop where
  notLocked : u.state ≠ .locked
  keeps : hadLock t → hadLock u ∨ u.state = .unlocked
  mode : u.mode = t.mode

theorem unlock_record (t : Timeline) : TimerRecord t t.unlock := ⟨by nofun, fun _ => .inr rfl, rfl⟩

theorem extrapolate_mode {t x : Timeline} (h : t.extrapolate = some x) : x.mode = t.mode ∧ x.state = t.state := by
  unfold Timeline.extrapolate at h
  split at h
  · split at h
    · obtain rfl := Option.some.inj h
      exact ⟨rfl, rfl⟩
    · exact absurd h nofun
  · split at h
    · split at h
      · obtain rfl := Option.some.inj h
        exact ⟨rfl, rfl⟩
      · exact absurd h nofun
    · split at h
      · obtain rfl := Option.some.inj h
        exact ⟨rfl, rfl⟩
      · exact absurd h nofun
  · obtain rfl := Option.some.inj h
    exact ⟨rfl, rfl⟩

/-- Coasting for the `n`-th time, or the loss where the extrapolation leaves the tape (R13, R16). -/
def coasted (n : Nat) (t : Timeline) : Timeline :=
  match t.extrapolate with
  | some x => { x with state := .coasting, coast := n }
  | none => t.unlock

theorem coasted_record (n : Nat) (t : Timeline) : TimerRecord t (coasted n t) := by
  unfold coasted
  split
  · next x hx => exact ⟨by nofun, fun _ => .inl (.inr (.inl rfl)), (extrapolate_mode hx).1⟩
  · exact unlock_record t

theorem coastOn_locked {t : Timeline} (h : t.state = .locked) : t.coastOn = coasted 1 t := by
  cases hx : t.extrapolate <;> simp only [Timeline.coastOn, coasted, h, hx]

theorem coastOn_coasting {t : Timeline} (h : t.state = .coasting) :
    t.coastOn = if t.coastLimit < t.coast + 1 then t.unlock else coasted (t.coast + 1) t := by
  unfold Timeline.coastOn coasted
  rw [h]
  refine if_congr Iff.rfl rfl ?_
  cases hx : t.extrapolate with
  | none => rfl
  | some x =>
    have hstate : x.state = .coasting := (extrapolate_mode hx).2.trans h
    show { x with coast := t.coast + 1 } = { x with state := .coasting, coast := t.coast + 1 }
    rw [← hstate]

theorem coastOn_acquiring {t : Timeline} (h : t.state = .acquiring) : t.coastOn = t.unlock := by
  unfold Timeline.coastOn
  rw [h]

theorem coastOn_still {t : Timeline} (h : t.state = .unlocked ∨ t.state = .parked ∨ t.state = .laying) : t.coastOn = t := by
  unfold Timeline.coastOn
  rcases h with h | h | h <;> rw [h]

theorem coastOn_record {t : Timeline} (h : t.state = .locked ∨ t.state = .coasting ∨ t.state = .acquiring) : TimerRecord t t.coastOn := by
  rcases h with h | h | h
  · rw [coastOn_locked h]
    exact coasted_record 1 t
  · rw [coastOn_coasting h]
    split
    · exact unlock_record t
    · exact coasted_record _ t
  · rw [coastOn_acquiring h]
    exact unlock_record t

theorem legalAddr_true {a : Nat} (h : a < 2592000) : legalAddr a = true := decide_eq_true h

theorem legalAddr_false {a : Nat} (h : ¬a < 2592000) : legalAddr a = false := decide_eq_false h

/-- The extrapolation by a frame (R13). -/
theorem coasted_play {t : Timeline} (h : t.mode = .play) (n : Nat) : coasted n t =
    if t.position + 1 < 2592000
    then { t with state := .coasting, coast := n, position := t.position + 1, timecode := t.timecode.map Timecode.next }
    else t.unlock := by
  by_cases hlegal : t.position + 1 < 2592000
  · have hx : t.extrapolate = some { t with position := t.position + 1, timecode := t.timecode.map Timecode.next } := by
      simp only [Timeline.extrapolate, h, legalAddr_true hlegal, if_true]
    simp only [coasted, hx, if_pos hlegal]
  · have hx : t.extrapolate = none := by
      simp only [Timeline.extrapolate, h, legalAddr_false hlegal, Bool.false_eq_true, if_false]
    simp only [coasted, hx, if_neg hlegal]

/-- The extrapolation by the shuttle's speed (R16). -/
def swift (n : Nat) (t : Timeline) : Timeline := match t.dir with
  | .forward => if t.position + t.speed < 2592000
      then { t with state := .coasting, coast := n, position := t.position + t.speed, timecode := none } else t.unlock
  | .reverse => if t.speed ≤ t.position
      then { t with state := .coasting, coast := n, position := t.position - t.speed, timecode := none } else t.unlock

theorem coasted_shuttle {t : Timeline} (h : t.mode = .shuttle) (n : Nat) : coasted n t = swift n t := by
  cases hdir : t.dir with
  | forward =>
    by_cases hlegal : t.position + t.speed < 2592000
    · have hx : t.extrapolate = some { t with position := t.position + t.speed, timecode := none } := by
        simp only [Timeline.extrapolate, h, hdir, legalAddr_true hlegal, if_true]
      simp only [coasted, swift, hdir, hx, if_pos hlegal]
    · have hx : t.extrapolate = none := by
        simp only [Timeline.extrapolate, h, hdir, legalAddr_false hlegal, Bool.false_eq_true, if_false]
      simp only [coasted, swift, hdir, hx, if_neg hlegal]
  | reverse =>
    by_cases hlegal : t.speed ≤ t.position
    · have hx : t.extrapolate = some { t with position := t.position - t.speed, timecode := none } := by
        simp only [Timeline.extrapolate, h, hdir, if_pos hlegal]
      simp only [coasted, swift, hdir, hx, if_pos hlegal]
    · have hx : t.extrapolate = none := by
        simp only [Timeline.extrapolate, h, hdir, if_neg hlegal]
      simp only [coasted, swift, hdir, hx, if_neg hlegal]

/-- A timer that leaves the record as it is. -/
theorem timelineSet_still (hstate : s.tl.state ≠ .locked) : (timelineSet s.tl s).tl = s.tl ∧ Reports s (timelineSet s.tl s) := by
  have htl : (timelineSet s.tl s).tl = s.tl := by
    have hframe := jogSync_frame s
    rw [timelineSet_same rfl]
    show (jogSync s).tl = s.tl
    generalize jogSync s = t at hframe
    exact (congrArg State.tl hframe :)
  exact ⟨htl, timelineSet_reports hstate .inl rfl htl⟩

theorem TimerRecord.reports (h : TimerRecord s.tl u) (hlaying : u.state ≠ .laying) :
    (timelineSet u s).tl = u ∧ Reports s (timelineSet u s) := by
  have htl := timelineSet_tl hlaying s
  exact ⟨htl, timelineSet_reports h.notLocked h.keeps h.mode htl⟩

theorem coasted_state (n : Nat) (t : Timeline) : (coasted n t).state ≠ .laying := by
  unfold coasted
  split <;> nofun

theorem coastOn_laying {t : Timeline} (h : t.state = .locked ∨ t.state = .coasting ∨ t.state = .acquiring) : t.coastOn.state ≠ .laying := by
  rcases h with h | h | h
  · rw [coastOn_locked h]
    exact coasted_state 1 t
  · rw [coastOn_coasting h]
    split
    · nofun
    · exact coasted_state _ t
  · rw [coastOn_acquiring h]
    nofun

/-- A timer of a mode, in every state of the timeline but LAYING. -/
theorem coastOn_reports (s : State) :
    (timelineSet s.tl.coastOn s).tl = s.tl.coastOn ∧ Reports s (timelineSet s.tl.coastOn s) := by
  by_cases h : s.tl.state = .locked ∨ s.tl.state = .coasting ∨ s.tl.state = .acquiring
  · exact (coastOn_record h).reports (coastOn_laying h)
  · have hstill : s.tl.state = .unlocked ∨ s.tl.state = .parked ∨ s.tl.state = .laying := by
      revert h
      cases s.tl.state <;> decide
    rw [coastOn_still hstill]
    refine timelineSet_still fun hlocked => h (.inl hlocked)

/-- The mark timeout in LAYING: the lay is lost (R17). -/
theorem laying_reports (s : State) : (timelineSet { s.tl.unlock with generated := none, handed := none } s).tl =
      { s.tl.unlock with generated := none, handed := none }
    ∧ Reports s (timelineSet { s.tl.unlock with generated := none, handed := none } s) :=
  TimerRecord.reports ⟨by nofun, fun _ => .inr rfl, rfl⟩ (by nofun)

theorem markTimeout_play (h : s.tl.mode = .play) : markTimeout s = if s.tl.state = .laying then
    timelineSet { s.tl.unlock with generated := none, handed := none } s else timelineSet s.tl.coastOn s :=
  if_neg (not_not.mpr h)

theorem shuttleExpiry_shuttle (h : s.tl.mode = .shuttle) : shuttleExpiry s = timelineSet s.tl.coastOn s :=
  if_neg (not_not.mpr h)

/-- Settles O13. -/
theorem timersCoastTheTimeline : Obligations.TimersCoastTheTimeline := by
  intro s off on shuttled running reported
  have report : ∀ {t}, Reports s t → reported t := fun h => ⟨h.notices, h.held, h.lost⟩
  refine ⟨fun hplay => ?play, fun hshuttle => ?shuttle, fun hmode => ?notPlay, fun hmode => ?notShuttle⟩
  case notPlay => exact congrArg Host.Outcome.next (if_pos hmode)
  case notShuttle => exact congrArg Host.Outcome.next (if_pos hmode)
  case play =>
    have hsettings := (markTimeout_move s).settings
    rw [markTimeout_play hplay] at hsettings
    have hrun : exec .markTimeout s = .next _ := congrArg Host.Outcome.next (markTimeout_play hplay)
    by_cases hlaying : s.tl.state = .laying
    · rw [if_pos hlaying] at hsettings hrun
      obtain ⟨htl, hreports⟩ := laying_reports s
      refine ⟨_, hrun, hsettings, report hreports, htl.trans ?_⟩
      rw [hlaying]
      rfl
    · rw [if_neg hlaying] at hsettings hrun
      obtain ⟨htl, hreports⟩ := coastOn_reports s
      refine ⟨_, hrun, hsettings, report hreports, htl.trans ?_⟩
      cases hstate : s.tl.state with
      | locked => exact (coastOn_locked hstate).trans (coasted_play hplay 1)
      | coasting => exact (coastOn_coasting hstate).trans (if_congr Iff.rfl rfl (coasted_play hplay _))
      | acquiring => exact coastOn_acquiring hstate
      | laying => exact absurd hstate hlaying
      | unlocked => exact coastOn_still (.inl hstate)
      | parked => exact coastOn_still (.inr (.inl hstate))
  case shuttle =>
    have hsettings := (shuttleExpiry_move s).settings
    rw [shuttleExpiry_shuttle hshuttle] at hsettings
    have hrun : exec .shuttleTimerExpiry s = .next _ := congrArg Host.Outcome.next (shuttleExpiry_shuttle hshuttle)
    have hswift : ∀ n, coasted n s.tl = shuttled n := fun n => (coasted_shuttle hshuttle n).trans (by
      unfold swift
      cases hdir : s.tl.dir <;> simp only [shuttled, hdir] <;> rfl)
    obtain ⟨htl, hreports⟩ := coastOn_reports s
    refine ⟨_, hrun, hsettings, report hreports, htl.trans ?_⟩
    cases hstate : s.tl.state with
    | locked => exact (coastOn_locked hstate).trans (hswift 1)
    | coasting => exact (coastOn_coasting hstate).trans (if_congr Iff.rfl rfl (hswift _))
    | acquiring => exact coastOn_acquiring hstate
    | laying => exact coastOn_still (.inr (.inr hstate))
    | unlocked => exact coastOn_still (.inl hstate)
    | parked => exact coastOn_still (.inr (.inl hstate))

end Sys2Proof.LockLoss
end

section
/-! SUPPORT. Slots that are released, settled or filled one by one, and what such steps keep (R25 to R31, R34). -/

namespace Sys2Proof.SlotSteps
open Sys2Proof.Machine Sys2Proof.SpliceEnds Sys2Proof.StoreCommands Sys2Proof.BlockWork Sys2Proof.GateCuts Sys2Proof.CutSlots

/-- The state in which slot `j` has been taken for a frame that arrives (R27). -/
def fillSlot (j : SlotId) (role : Role) (s : State) : State :=
  { setSlot j { Slot.reset with state := .filling, role := some role, layout := s.clock.rate } (releaseSlot j s) with
    order := (releaseSlot j s).order ++ [j] }

/-- From `s` to `t` slots of `R` are released, slots of `O` are released unless something defers it, slots of `F` are filled, and the other
records may change but not the window or the fetches. -/
inductive Steps (R O F : SlotId → Prop) : State → State → Prop
  | still {s t : State} : t.slots = s.slots → t.order = s.order → t.jog = s.jog → t.fetch = s.fetch → Steps R O F s t
  | release {s : State} (j : SlotId) : R j → Steps R O F s (releaseSlot j s)
  | settle {s : State} (j : SlotId) : O j → Steps R O F s (releaseOrDue j s)
  | fill {s : State} (j : SlotId) (role : Role) : F j → role ≠ .intake → chooseSlot s = some j → Steps R O F s (fillSlot j role s)
  | trans {s t u : State} : Steps R O F s t → Steps R O F t u → Steps R O F s u

variable {R O F : SlotId → Prop} {s t u : State}

theorem Steps.refl (s : State) : Steps R O F s s := .still rfl rfl rfl rfl

/-- The same from a state with the same slots, order, window and fetches. -/
theorem Steps.ofStill (h : Steps R O F t u) (hslots : t.slots = s.slots) (horder : t.order = s.order) (hjog : t.jog = s.jog)
    (hfetch : t.fetch = s.fetch) : Steps R O F s u := .trans (.still hslots horder hjog hfetch) h

theorem Steps.ite {c : Prop} [Decidable c] (h : c → Steps R O F s t) (k : ¬c → Steps R O F s u) : Steps R O F s (if c then t else u) := by
  split
  · exact h ‹_›
  · exact k ‹_›

theorem Steps.foldl {α : Type} {f : State → α → State} {l : List α} (hf : ∀ v, ∀ a ∈ l, Steps R O F v (f v a)) (s : State) :
    Steps R O F s (l.foldl f s) := by
  induction l generalizing s with
  | nil => exact .refl s
  | cons a l ih => exact (hf s a List.mem_cons_self).trans (ih (fun v b hb => hf v b (List.mem_cons_of_mem _ hb)) _)

theorem Steps.window (h : Steps R O F s t) : t.jog = s.jog ∧ t.fetch = s.fetch := by
  induction h with
  | still _ _ hjog hfetch => exact ⟨hjog, hfetch⟩
  | release j _ => exact ⟨rfl, rfl⟩
  | settle j _ =>
    unfold releaseOrDue
    split <;> exact ⟨rfl, rfl⟩
  | fill j role _ _ _ => exact ⟨rfl, rfl⟩
  | trans _ _ ih ik => exact ⟨ik.1.trans ih.1, ik.2.trans ih.2⟩

/-! ### One slot through one step -/

theorem fillSlot_same (j : SlotId) (role : Role) (s : State) :
    (fillSlot j role s).slots[j] = { Slot.reset with state := .filling, role := some role, layout := s.clock.rate } := setSlot_get_same ..

theorem fillSlot_other {i j : SlotId} (h : j ≠ i) (role : Role) (s : State) : (fillSlot j role s).slots[i] = s.slots[i] :=
  (setSlot_get_other h ..).trans (setSlot_get_other h ..)

theorem releaseSlot_other {i j : SlotId} (h : j ≠ i) (s : State) : (releaseSlot j s).slots[i] = s.slots[i] := setSlot_get_other h ..

theorem releaseOrDue_blocked {j : SlotId} (h : blocked s j = true) :
    releaseOrDue j s = modifySlot j (fun x => { x with due := true }) s := if_pos h

theorem releaseOrDue_free {j : SlotId} (h : blocked s j = false) : releaseOrDue j s = releaseSlot j s :=
  if_neg (by rw [h]; decide)

/-- A settled slot other than `i`, or one that is emptied or marked due. -/
theorem releaseOrDue_get (i j : SlotId) (s : State) : (releaseOrDue j s).slots[i] = s.slots[i] ∨ (j = i ∧ blocked s i = false
      ∧ (releaseOrDue j s).slots[i] = Slot.reset) ∨ (j = i ∧ blocked s i = true ∧ (releaseOrDue j s).slots[i] = { s.slots[i] with due := true }) := by
  by_cases hji : j = i
  · subst hji
    cases hb : blocked s j with
    | true =>
      rw [releaseOrDue_blocked hb]
      exact .inr (.inr ⟨rfl, rfl, modifySlot_get_same ..⟩)
    | false =>
      rw [releaseOrDue_free hb]
      exact .inr (.inl ⟨rfl, rfl, releaseSlot_resets ..⟩)
  · refine .inl ?_
    cases hb : blocked s j with
    | true =>
      rw [releaseOrDue_blocked hb]
      exact modifySlot_get_other hji ..
    | false =>
      rw [releaseOrDue_free hb]
      exact releaseSlot_other hji s

/-- A slot outside the three sets stays as it is. -/
theorem Steps.untouched {i : SlotId} (h : Steps R O F s t) (hR : ¬R i) (hO : ¬O i) (hF : ¬F i) : t.slots[i] = s.slots[i] := by
  induction h with
  | still hslots _ _ _ => rw [hslots]
  | release j hj => exact releaseSlot_other (fun hji : j = i => hR (hji ▸ hj)) _
  | settle j hj =>
    rcases releaseOrDue_get i j _ with h | ⟨h, -⟩ | ⟨h, -⟩
    · exact h
    · exact absurd (h ▸ hj) hO
    · exact absurd (h ▸ hj) hO
  | fill j role hj _ _ => exact fillSlot_other (fun hji : j = i => hF (hji ▸ hj)) role _
  | trans _ _ ih ik => exact ik.trans ih

/-- Whatever a slot holds that an empty slot, a due one or one that is filled does not have, it had before. -/
theorem Steps.had {i : SlotId} {p : Slot → Prop} (h : Steps R O F s t) (hreset : ¬p Slot.reset) (hdue : ∀ x, p { x with due := true } → p x)
    (hfill : ∀ role rate, role ≠ Role.intake → ¬p { Slot.reset with state := .filling, role := some role, layout := rate })
    (ht : p t.slots[i]) : p s.slots[i] := by
  induction h with
  | still hslots _ _ _ => rwa [hslots] at ht
  | @release v j _ =>
    by_cases hji : j = i
    · subst hji
      rw [releaseSlot_resets] at ht
      exact absurd ht hreset
    · rwa [releaseSlot_other hji] at ht
  | @settle v j _ =>
    rcases releaseOrDue_get i j v with h | ⟨-, -, h⟩ | ⟨-, -, h⟩
    · rwa [h] at ht
    · rw [h] at ht
      exact absurd ht hreset
    · rw [h] at ht
      exact hdue _ ht
  | @fill v j role _ hrole _ =>
    by_cases hji : j = i
    · subst hji
      rw [fillSlot_same] at ht
      exact absurd ht (hfill role _ hrole)
    · rwa [fillSlot_other hji] at ht
  | trans _ _ ih ik => exact ih (ik ht)

/-- A slot that is chosen for a frame is empty, or nothing blocks it. -/
theorem chooseSlot_some {j : SlotId} (h : chooseSlot s = some j) :
    s.slots[j].state = .free ∨ (s.slots[j].isPreRead = true ∧ s.slots[j].due = true ∧ blocked s j = false) := by
  unfold chooseSlot at h
  split at h
  · next i hi =>
    obtain rfl := Option.some.inj h
    have hfree := List.find?_some hi
    exact .inl (beq_iff_eq.mp hfree)
  · have hfound := List.find?_some h
    rw [Bool.and_eq_true, Bool.and_eq_true, Bool.not_eq_true'] at hfound
    exact .inr ⟨hfound.1.1, hfound.1.2, hfound.2⟩

/-- A pinned slot with pre-read audio keeps its pin, unless it is released at once. -/
theorem Steps.keeps_pin {i : SlotId} (h : Steps R O F s t) (hR : ¬R i) (hstate : s.slots[i].state = .concealed)
    (hpin : s.slots[i].pinned = true) : t.slots[i].state = .concealed ∧ t.slots[i].pinned = true := by
  induction h with
  | still hslots _ _ _ => rw [hslots]; exact ⟨hstate, hpin⟩
  | release j hj => rw [releaseSlot_other fun hji : j = i => hR (hji ▸ hj)]; exact ⟨hstate, hpin⟩
  | @settle v j _ =>
    rcases releaseOrDue_get i j v with h | ⟨-, hb, -⟩ | ⟨-, -, h⟩
    · rw [h]; exact ⟨hstate, hpin⟩
    · rw [blocked, hpin, Bool.or_true, Bool.true_or] at hb
      exact absurd hb (by decide)
    · rw [h]; exact ⟨hstate, hpin⟩
  | @fill v j role _ _ hchosen =>
    have hji : j ≠ i := by
      rintro rfl
      rcases chooseSlot_some hchosen with h | ⟨-, -, h⟩
      · rw [hstate] at h
        exact absurd h (by decide)
      · rw [blocked, hpin, Bool.or_true, Bool.true_or] at h
        exact absurd h (by decide)
    rw [fillSlot_other hji]
    exact ⟨hstate, hpin⟩
  | trans _ _ ih ik =>
    obtain ⟨hstate, hpin⟩ := ih hstate hpin
    exact ik hstate hpin

/-! ### The condition of R31 and R34 -/

/-- No slot is due that nothing defers (R31). -/
def DueBlocked (s : State) : Prop := ∀ i : SlotId, s.slots[i].due = true → blocked s i = true

theorem blocked_of_slot {i : SlotId} (hslot : t.slots[i] = s.slots[i]) (hfetch : t.fetch = s.fetch) : blocked t i = blocked s i := by
  rw [blocked, blocked, hslot, beingFetched_congr hfetch]

theorem Steps.dueBlocked (h : Steps R O F s t) (hs : DueBlocked s) : DueBlocked t := by
  induction h with
  | still hslots _ _ hfetch =>
    intro i hi
    rw [hslots] at hi
    rw [blocked_of_slot (by rw [hslots]) hfetch]
    exact hs i hi
  | release j _ =>
    intro i hi
    by_cases hji : j = i
    · subst hji
      rw [releaseSlot_resets] at hi
      exact absurd hi (by decide)
    · rw [releaseSlot_other hji] at hi
      rw [blocked_of_slot (releaseSlot_other hji _) rfl]
      exact hs i hi
  | @settle v j _ =>
    intro i hi
    have hfetch : (releaseOrDue j v).fetch = v.fetch := by
      unfold releaseOrDue
      split <;> rfl
    rcases releaseOrDue_get i j v with h | ⟨-, -, h⟩ | ⟨-, hb, h⟩
    · rw [h] at hi
      rw [blocked_of_slot h hfetch]
      exact hs i hi
    · rw [h] at hi
      exact absurd hi (by decide)
    · rw [blocked, h, beingFetched_congr hfetch]
      exact hb
  | fill j role _ _ _ =>
    intro i hi
    by_cases hji : j = i
    · subst hji
      rw [fillSlot_same] at hi
      exact absurd hi Bool.false_ne_true
    · rw [fillSlot_other hji] at hi
      rw [blocked_of_slot (fillSlot_other hji role _) rfl]
      exact hs i hi
  | trans _ _ ih ik => exact ik (ih hs)

/-- A slot that matches an address as the newest does so after another slot was emptied, or emptied and put at the end. -/
theorem newestAt_renewed {i j : SlotId} {a : Nat} {l : List SlotId} (h : newestAt s a i) (hi : t.slots[i] = s.slots[i]) (hji : j ≠ i)
    (hothers : ∀ k, k ≠ j → t.slots[k] = s.slots[k]) (hj : t.slots[j].isPreRead = false) (hl : ∀ k ∈ l, k = j)
    (horder : t.order = s.order.erase j ++ l) : newestAt t a i := by
  obtain ⟨hmatch, before, after, hsplit, hafter⟩ := h
  have hnone : ∀ k ∈ after, ¬(t.slots[k].isPreRead = true ∧ t.slots[k].addr = some a) := fun k hk => by
    by_cases hkj : k = j
    · rw [hkj, hj]
      exact fun h => absurd h.1 (by decide)
    · rw [hothers k hkj]
      exact hafter k hk
  have hlast : ∀ k ∈ l, ¬(t.slots[k].isPreRead = true ∧ t.slots[k].addr = some a) := fun k hk => by
    rw [hl k hk, hj]
    exact fun h => absurd h.1 (by decide)
  refine ⟨by rw [hi]; exact hmatch, ?_⟩
  by_cases hbefore : j ∈ before
  · refine ⟨before.erase j, after ++ l, ?_, fun k hk => (List.mem_append.mp hk).elim (hnone k) (hlast k)⟩
    rw [horder, hsplit, List.erase_append_left _ hbefore, List.append_assoc, List.cons_append]
  · refine ⟨before, after.erase j ++ l, ?_, fun k hk => (List.mem_append.mp hk).elim (fun h => hnone k (List.mem_of_mem_erase h)) (hlast k)⟩
    rw [horder, hsplit, List.erase_append_right _ hbefore, List.erase_cons_tail (by simpa using Ne.symm hji), List.append_assoc,
      List.cons_append]

/-- A pin that is left was there before, and its slot is the newest still. -/
theorem Steps.pins {i : SlotId} (h : Steps R O F s t) (hpin : t.slots[i].pinned = true) :
    s.slots[i].pinned = true ∧ ∀ a, newestAt s a i → newestAt t a i := by
  induction h with
  | @still v w hslots horder _ _ =>
    rw [hslots] at hpin
    refine ⟨hpin, fun a ha => ?_⟩
    unfold newestAt at ha ⊢
    rwa [hslots, horder]
  | @release v j _ =>
    have hji : j ≠ i := by
      rintro rfl
      rw [releaseSlot_resets] at hpin
      exact absurd hpin (by decide)
    have hsame := releaseSlot_other hji v
    refine ⟨by rwa [hsame] at hpin, fun a ha => newestAt_renewed (l := []) ha hsame hji (fun k hk => releaseSlot_other (Ne.symm hk) v) ?_
      nofun (List.append_nil _).symm⟩
    rw [releaseSlot_resets]
    rfl
  | @settle v j _ =>
    cases hb : blocked v j with
    | true =>
      have hget : ∀ k : SlotId, (releaseOrDue j v).slots[k] = v.slots[k] ∨ (releaseOrDue j v).slots[k] = { v.slots[k] with due := true } := fun k => by
        rcases releaseOrDue_get k j v with h | ⟨hjk, hfree, -⟩ | ⟨-, -, h⟩
        · exact .inl h
        · rw [← hjk, hb] at hfree
          exact absurd hfree (by decide)
        · exact .inr h
      have hkept : ∀ k : SlotId, (releaseOrDue j v).slots[k].isPreRead = v.slots[k].isPreRead
          ∧ (releaseOrDue j v).slots[k].addr = v.slots[k].addr ∧ (releaseOrDue j v).slots[k].pinned = v.slots[k].pinned := fun k => by
        rcases hget k with h | h <;> rw [h] <;> exact ⟨rfl, rfl, rfl⟩
      have horder : (releaseOrDue j v).order = v.order := by rw [releaseOrDue_blocked hb]; rfl
      refine ⟨by rw [(hkept i).2.2] at hpin; exact hpin, fun a ha => ?_⟩
      unfold newestAt at ha ⊢
      simp only [(hkept _).1, (hkept _).2.1, horder]
      exact ha
    | false =>
      rw [releaseOrDue_free hb] at hpin ⊢
      have hji : j ≠ i := by
        rintro rfl
        rw [releaseSlot_resets] at hpin
        exact absurd hpin (by decide)
      have hsame := releaseSlot_other hji v
      refine ⟨by rwa [hsame] at hpin, fun a ha => newestAt_renewed (l := []) ha hsame hji (fun k hk => releaseSlot_other (Ne.symm hk) v) ?_
        nofun (List.append_nil _).symm⟩
      rw [releaseSlot_resets]
      rfl
  | @fill v j role _ _ _ =>
    have hji : j ≠ i := by
      rintro rfl
      rw [fillSlot_same] at hpin
      exact absurd hpin Bool.false_ne_true
    have hsame := fillSlot_other hji role v
    refine ⟨by rwa [hsame] at hpin, fun a ha => newestAt_renewed (l := [j]) ha hsame hji (fun k hk => fillSlot_other (Ne.symm hk) role v) ?_
      (fun k hk => List.mem_singleton.mp hk) rfl⟩
    rw [fillSlot_same]
    rfl
  | trans _ _ ih ik =>
    obtain ⟨hmid, hnew⟩ := ik hpin
    obtain ⟨hold, hnew'⟩ := ih hmid
    exact ⟨hold, fun a ha => hnew a (hnew' a ha)⟩

end Sys2Proof.SlotSteps
end

section
/-! SUPPORT. Leaving PLAY: the break, the cut, and what is abandoned (R8, R48, R88, R99, R104, R106, R149). -/

namespace Sys2Proof.LeavePlay
open Sys2Proof.Machine Sys2Proof.StepLaws Sys2Proof.SpliceEnds Sys2Proof.StoreCommands Sys2Proof.BlockWork Sys2Proof.GateCuts
open Sys2Proof.CutSlots Sys2Proof.SlotSteps Sys2Proof.EngineBreaks Sys2Proof.LockLoss Sys2Proof.ClockMonitor

variable {R O F : SlotId → Prop} {s t : State}

/-! ### The steps of a cut and of what is abandoned -/

theorem releaseAll_steps {l : List SlotId} (h : ∀ j ∈ l, O j) (s : State) : Steps R O F s (releaseAll l s) :=
  .foldl (fun _ j hj => .settle j (h j hj)) s

theorem abandonSlot_steps {o : Option SlotId} (h : ∀ j, o = some j → R j) (s : State) : Steps R O F s (abandonSlot o s) := by
  cases o with
  | none => exact .refl s
  | some j => exact .release j (h j rfl)

theorem releaseOpt_steps {o : Option SlotId} (h : ∀ j, O j) (s : State) : Steps R O F s (releaseOpt o s) := by
  cases o with
  | none => exact .refl s
  | some j => exact .settle j (h j)

/-- The CODED slots of a list of operations. -/
def CodedSlots (R : SlotId → Prop) (l : List CodingOp) : Prop := ∀ op ∈ l, ∀ j, op.codedSlot = some j → R j

theorem abandonOps_steps (hR : CodedSlots R s.coding) (hO : ∀ j, O j) (f : CodingOp → Bool) : Steps R O F s (abandonOps f s) :=
  (Steps.still (s := s) (t := { s with coding := s.coding.filter fun op => !f op }) rfl rfl rfl rfl).trans
    (.foldl (fun v op hop => (abandonSlot_steps (hR op (List.mem_of_mem_filter hop)) v).trans (releaseOpt_steps hO _)) _)

theorem releaseUnwritten_steps (hR : CodedSlots R s.coding) (hO : ∀ j, O j) : Steps R O F s (releaseUnwritten s) := by
  have hall : Steps R O F s (releaseAll (unwritten s) s) := releaseAll_steps (fun j _ => hO j) s
  have hcoding : (releaseAll (unwritten s) s).coding = s.coding := (releaseAll_work (unwritten s) s).coding
  refine hall.trans ?_
  unfold releaseUnwritten releaseFilling
  rw [hcoding]
  generalize releaseAll (unwritten s) s = u
  have hfill : Steps R O F { u with coding := s.coding.map CodingOp.slotless }
      (s.coding.foldl (fun t op => abandonSlot op.codedSlot t) { u with coding := s.coding.map CodingOp.slotless }) :=
    .foldl (fun v op hop => abandonSlot_steps (hR op hop) v) _
  exact hfill.ofStill rfl rfl rfl rfl

theorem closeByCut_steps (hR : CodedSlots R s.coding) (hO : ∀ j, O j) : Steps R O F s (closeByCut s) := by
  have hmark : Steps R O F s (closeGate (markPartial s)) := by
    rw [markPartial_eq]
    exact .still rfl rfl rfl rfl
  have hcoding : (closeGate (markPartial s)).coding = s.coding := by
    rw [markPartial_eq]
    rfl
  have hdrop := abandonOps_steps (F := F) (R := R) (O := O) (s := closeGate (markPartial s)) (by rw [hcoding]; exact hR) hO
    (fun op => op.tag.isSome && op.tag == s.gate.holder)
  have hleft := (abandonOps_work (fun op => op.tag.isSome && op.tag == s.gate.holder) (closeGate (markPartial s))).coding
  refine ((hmark.trans hdrop).trans (releaseUnwritten_steps (s := abandonOps (fun op => op.tag.isSome && op.tag == s.gate.holder)
    (closeGate (markPartial s))) ?_ hO)).trans (.still rfl rfl rfl rfl)
  rw [hleft]
  exact fun op hop => hR op (hcoding ▸ List.mem_of_mem_filter hop)

theorem cutGate_steps {c : CutCause} (hc : c = .transport ∨ c = .lock) (hR : CodedSlots R s.coding) (hO : ∀ j, O j) :
    Steps R O F s (cutGate c s) := by
  by_cases hclosed : s.gate.state = .closed
  · rw [cutGate_releases hclosed hc]
    exact releaseUnwritten_steps hR hO
  · rw [cutGate_open hclosed (by rcases hc with rfl | rfl <;> rfl)]
    exact closeByCut_steps hR hO

/-- After a cut no operation has a CODED slot. -/
theorem cutGate_slotless {c : CutCause} (hc : c = .transport ∨ c = .lock) (s : State) : CodedSlots R (cutGate c s).coding := by
  rw [(cutGate_cut hc s).coding]
  intro op hop j hj
  obtain ⟨x, -, rfl⟩ := List.mem_map.mp hop
  unfold CodingOp.codedSlot at hj
  cases hbegun : x.begun with
  | none => simp only [hbegun, Option.map_none, Option.bind_none, reduceCtorEq] at hj
  | some b => simp only [hbegun, Option.map_some, Option.bind_some, reduceCtorEq] at hj

/-! ### The judge list of a cut (R104, R106) -/

/-- The judge list after a cut: the entry of the write that an open gate ends is marked. -/
def cutJudge (s : State) : List JudgeEntry := s.judge.map fun e =>
  if s.gate.state ≠ .closed ∧ s.gate.write.map (·.slot) = some e.slot then { e with partly := true } else e

theorem cutJudge_closed (h : s.gate.state = .closed) : cutJudge s = s.judge := by
  rw [cutJudge]
  refine List.map_id'' (fun e => ?_) s.judge
  exact if_neg fun hc => hc.1 h

theorem partlyJudged_open (h : s.gate.state ≠ .closed) : partlyJudged s = cutJudge s := by
  unfold partlyJudged cutJudge
  cases hwrite : s.gate.write with
  | none =>
    refine (List.map_id'' (fun e => ?_) s.judge).symm
    exact if_neg fun hc => absurd hc.2 nofun
  | some w =>
    refine List.map_congr_left fun e _ => if_congr ?_ rfl rfl
    exact ⟨fun he => ⟨h, congrArg some he.symm⟩, fun hc => (Option.some.inj hc.2).symm⟩

theorem cutGate_judge {c : CutCause} (hc : c = .transport ∨ c = .lock) (s : State) : (cutGate c s).judge = cutJudge s := by
  by_cases hclosed : s.gate.state = .closed
  · rw [cutGate_releases hclosed hc, (releaseUnwritten_work s).judge, cutJudge_closed hclosed]
  · rw [cutGate_open hclosed (by rcases hc with rfl | rfl <;> rfl), ← partlyJudged_open hclosed]
    exact (congrArg State.judge (closeByCut_frame s) :)

/-- The judge entries of a cut, designated and slotted as they were. -/
theorem mem_cutJudge {e : JudgeEntry} (h : e ∈ cutJudge s) : ∃ x ∈ s.judge, x.slot = e.slot ∧ x.designated = e.designated := by
  obtain ⟨x, hx, rfl⟩ := List.mem_map.mp h
  refine ⟨x, hx, ?_⟩
  split <;> exact ⟨rfl, rfl⟩

theorem cutJudge_mem {x : JudgeEntry} (h : x ∈ s.judge) : ∃ e ∈ cutJudge s, e.slot = x.slot ∧ e.designated = x.designated := by
  refine ⟨_, List.mem_map.mpr ⟨x, h, rfl⟩, ?_⟩
  split <;> exact ⟨rfl, rfl⟩

theorem cutJudge_filter (s : State) : (cutJudge s).filter (·.designated) = (s.judge.filter (·.designated)).map fun e =>
    if s.gate.state ≠ .closed ∧ s.gate.write.map (·.slot) = some e.slot then { e with partly := true } else e := by
  rw [cutJudge, List.filter_map]
  refine congrArg (List.map _) (List.filter_congr fun e _ => ?_)
  rw [Function.comp_apply]
  split <;> rfl

/-! ### The frame in the intake, and the judge entries that go (R88, R106) -/

theorem abandonIntake_frame (s : State) : { abandonIntake s with slots := s.slots, order := s.order } =
    { s with intake := (abandonIntake s).intake } ∧ (abandonIntake s).intake.frame = none
      ∧ (abandonIntake s).intake.source = s.intake.source := by
  unfold abandonIntake
  cases hframe : s.intake.frame with
  | none => exact ⟨rfl, hframe, rfl⟩
  | some f =>
    cases hslot : f.slot with
    | none => exact ⟨by simp only [abandonSlot, hslot], by simp only [abandonSlot, hslot], by simp only [abandonSlot, hslot]⟩
    | some j => exact ⟨by simp only [abandonSlot, hslot]; rfl, by simp only [abandonSlot, hslot]; rfl, by simp only [abandonSlot, hslot]; rfl⟩

theorem abandonIntake_some {f : IntakeFrame} (h : s.intake.frame = some f) : abandonIntake s =
    abandonSlot f.slot { s with intake := { s.intake with frame := none, flyStart := none } } := by
  rw [abandonIntake, h]

theorem abandonIntake_none (h : s.intake.frame = none) : abandonIntake s = s := by
  rw [abandonIntake, h]

theorem abandonIntake_steps (hR : ∀ f j, s.intake.frame = some f → f.slot = some j → R j) : Steps R O F s (abandonIntake s) := by
  cases hframe : s.intake.frame with
  | none =>
    rw [abandonIntake_none hframe]
    exact .refl s
  | some f =>
    rw [abandonIntake_some hframe]
    have hslot : Steps R O F { s with intake := { s.intake with frame := none, flyStart := none } }
        (abandonSlot f.slot { s with intake := { s.intake with frame := none, flyStart := none } }) :=
      abandonSlot_steps (fun j hj => hR f j hframe hj) _
    exact hslot.ofStill rfl rfl rfl rfl

theorem abandonIntake_frees (i : SlotId) (s : State) : Frees i s (abandonIntake s) := by
  cases hframe : s.intake.frame with
  | none =>
    rw [abandonIntake_none hframe]
    exact .refl i s
  | some f =>
    rw [abandonIntake_some hframe]
    exact (Frees.of_eq (s := s) (t := { s with intake := { s.intake with frame := none, flyStart := none } }) rfl rfl).trans
      (abandonSlot_frees _ _)

theorem abandonIntake_resets {f : IntakeFrame} {i : SlotId} (h : s.intake.frame = some f) (hslot : f.slot = some i) :
    (abandonIntake s).slots[i] = Slot.reset := by
  rw [abandonIntake_some h, hslot]
  exact releaseSlot_resets ..

theorem dropUnjudged_work (s : State) : SlotWork { s with judge := s.judge.filter (·.designated) } (dropUnjudged s) := releaseAll_work ..

theorem dropUnjudged_steps (hO : ∀ j, O j) (s : State) : Steps R O F s (dropUnjudged s) :=
  (Steps.still (s := s) (t := { s with judge := s.judge.filter (·.designated) }) rfl rfl rfl rfl).trans
    (releaseAll_steps (fun j _ => hO j) _)

theorem dropUnjudged_frees {i : SlotId} (hs : blocked s i = false) : Frees i s (dropUnjudged s) :=
  (Frees.of_eq (s := s) (t := { s with judge := s.judge.filter (·.designated) }) rfl rfl).trans (releaseAll_frees _ (by exact hs))

theorem dropUnjudged_resets {i : SlotId} {e : JudgeEntry} (he : e ∈ s.judge) (hslot : e.slot = i) (hnot : e.designated = false)
    (hs : blocked s i = false) : (dropUnjudged s).slots[i] = Slot.reset := by
  refine releaseAll_resets (s := { s with judge := s.judge.filter (·.designated) }) (List.mem_map.mpr ⟨e, ?_, hslot⟩) (by exact hs)
  exact List.mem_filter.mpr ⟨he, by rw [hnot]; rfl⟩

/-! ### Leaving PLAY as a whole -/

/-- The state after the cut of a transport change. -/
def brokenOff (s : State) : State := cutGate .transport (engineBreak s)

/-- The state without coding operations and without a frame in the intake. -/
def abandoned (s : State) : State := abandonIntake (abandonOps (fun _ => true) (brokenOff s))

theorem leavePlay_eq (s : State) : leavePlay s =
    { dropUnjudged (abandoned s) with tl := (dropUnjudged (abandoned s)).tl.unreckoned } := rfl

/-- What leaving PLAY makes of the records beside the slots and the timeline. -/
structure Left (s t : State) : Prop where
  coding : t.coding = []
  frame : t.intake.frame = none
  source : t.intake.source = (engineBreak s).intake.source
  gate : t.gate = s.gate.cut
  eng : t.eng = (engineBreak s).eng
  notices : t.notices = (engineBreak s).notices
  judge : t.judge = (cutJudge s).filter (·.designated)
  outPos : t.mon.outPos = s.mon.outPos
  pre : t.pre = s.pre
  conf : t.conf = s.conf
  clock : t.clock = s.clock

theorem brokenOff_gateWork (s : State) : GateWork s (brokenOff s) :=
  (engineBreak_engWork s).gateWork.trans (cutGate_gateWork ..)

theorem brokenOff_cutWork (s : State) : CutWork (engineBreak s) (brokenOff s) := cutGate_cutWork rfl _

theorem abandonAll_frame (s : State) : SlotWork { s with coding := [] } (abandonOps (fun _ => true) s) := by
  obtain ⟨x, l, h⟩ := abandonAll_eq s
  rw [h]
  exact ⟨rfl⟩

theorem leavePlay_left (s : State) : Left s (leavePlay s) := by
  have hbreak := engineBreak_engWork s
  have hwork := (brokenOff_gateWork s).frame
  have hcutWork := (brokenOff_cutWork s).frame
  have hgate : (brokenOff s).gate = s.gate.cut := (cutGate_gate ..).trans (by rw [hbreak.gate])
  have hjudge : (brokenOff s).judge = cutJudge s := by
    refine (cutGate_judge (.inl rfl) _).trans ?_
    rw [cutJudge, cutJudge, hbreak.judge, hbreak.gate]
  rw [leavePlay_eq, abandoned]
  generalize brokenOff s = c at hwork hcutWork hgate hjudge
  have hops := (abandonAll_frame c).frame
  generalize abandonOps (fun _ => true) c = a at hops
  obtain ⟨hintake, hframe, hsource⟩ := abandonIntake_frame a
  generalize abandonIntake a = n at hintake hframe hsource
  have hdrop := (dropUnjudged_work n).frame
  generalize dropUnjudged n = d at hdrop
  have hdintake : d.intake = n.intake := (congrArg State.intake hdrop :)
  have hdeng : d.eng = (engineBreak s).eng := ((congrArg State.eng hdrop :).trans (congrArg State.eng hintake :)).trans
    ((congrArg State.eng hops :).trans (congrArg State.eng hcutWork :))
  have hdnotices : d.notices = (engineBreak s).notices := ((congrArg State.notices hdrop :).trans (congrArg State.notices hintake :)).trans
    ((congrArg State.notices hops :).trans (congrArg State.notices hcutWork :))
  have haintake : a.intake = c.intake := (congrArg State.intake hops :)
  have hcintake : c.intake = (engineBreak s).intake := (congrArg State.intake hcutWork :)
  refine ⟨?_, ?_, ?_, ?_, hdeng, hdnotices, ?_, ?_, ?_, ?_, ?_⟩
  · exact ((congrArg State.coding hdrop :).trans (congrArg State.coding hintake :)).trans (congrArg State.coding hops :)
  · show d.intake.frame = none
    rw [hdintake, hframe]
  · show d.intake.source = _
    rw [hdintake, hsource, haintake, hcintake]
  · exact (((congrArg State.gate hdrop :).trans (congrArg State.gate hintake :)).trans (congrArg State.gate hops :)).trans hgate
  · have hnjudge : n.judge = cutJudge s := ((congrArg State.judge hintake :).trans (congrArg State.judge hops :)).trans hjudge
    rw [← hnjudge]
    exact (congrArg State.judge hdrop :)
  · have hmon : d.mon = c.mon := ((congrArg State.mon hdrop :).trans (congrArg State.mon hintake :)).trans (congrArg State.mon hops :)
    show d.mon.outPos = _
    rw [hmon]
    exact (congrArg (fun x : State => x.mon.outPos) hwork :)
  · exact (((congrArg State.pre hdrop :).trans (congrArg State.pre hintake :)).trans (congrArg State.pre hops :)).trans
      (congrArg State.pre hwork :)
  · exact (((congrArg State.conf hdrop :).trans (congrArg State.conf hintake :)).trans (congrArg State.conf hops :)).trans
      (congrArg State.conf hwork :)
  · exact (((congrArg State.clock hdrop :).trans (congrArg State.clock hintake :)).trans (congrArg State.clock hops :)).trans
      (congrArg State.clock hwork :)

/-! ### The slots of leaving PLAY -/

theorem engineBreak_steps (s : State) : Steps R O F s (engineBreak s) := by
  have hwork := engineBreak_engWork s
  exact .still hwork.slots hwork.order (congrArg State.jog hwork.frame :) (congrArg State.fetch hwork.frame :)

theorem brokenOff_steps (hR : CodedSlots R s.coding) (hO : ∀ j, O j) : Steps R O F s (brokenOff s) :=
  (engineBreak_steps s).trans (cutGate_steps (.inl rfl) (by rw [(engineBreak_engWork s).coding]; exact hR) hO)

theorem brokenOff_intake (s : State) : (abandonOps (fun _ => true) (brokenOff s)).intake.frame = s.intake.frame := by
  have hops := (abandonAll_frame (brokenOff s)).frame
  have hwork := (brokenOff_gateWork s).frame
  generalize abandonOps (fun _ => true) (brokenOff s) = a at hops
  have hintake : a.intake = (brokenOff s).intake := (congrArg State.intake hops :)
  rw [hintake]
  exact (congrArg (fun x : State => x.intake.frame) hwork :)

theorem leavePlay_steps (hR : CodedSlots R s.coding) (hintake : ∀ f j, s.intake.frame = some f → f.slot = some j → R j) (hO : ∀ j, O j) :
    Steps R O F s (leavePlay s) := by
  have hops : Steps R O F (brokenOff s) (abandonOps (fun _ => true) (brokenOff s)) :=
    abandonOps_steps (cutGate_slotless (.inl rfl) _) hO _
  have hframe : Steps R O F (abandonOps (fun _ => true) (brokenOff s)) (abandoned s) :=
    abandonIntake_steps (by rw [brokenOff_intake]; exact hintake)
  have hdrop : Steps R O F (abandoned s) (dropUnjudged (abandoned s)) := dropUnjudged_steps hO _
  rw [leavePlay_eq]
  exact ((((brokenOff_steps hR hO).trans hops).trans hframe).trans hdrop).trans (.still rfl rfl rfl rfl)

theorem brokenOff_gives {i : SlotId} (hs : blocked s i = false) : GivesBack i s (brokenOff s) := by
  have hwork := engineBreak_engWork s
  have hfetch : (engineBreak s).fetch = s.fetch := (congrArg State.fetch hwork.frame :)
  exact (cutGate_gives (.inl rfl) ((Frees.of_eq hwork.slots hfetch).unblocked hs)).of_eq hwork.slots hfetch hwork.judge hwork.coding

theorem abandoned_frees {i : SlotId} (hs : blocked s i = false) : Frees i s (abandoned s) := by
  have hcut := (brokenOff_gives hs).frees
  exact (hcut.trans (abandonOps_frees _ (hcut.unblocked hs))).trans (abandonIntake_frees ..)

theorem leavePlay_frees {i : SlotId} (hs : blocked s i = false) : Frees i s (leavePlay s) := by
  have hleft := abandoned_frees hs
  rw [leavePlay_eq]
  exact (hleft.trans (dropUnjudged_frees (hleft.unblocked hs))).trans (.of_eq rfl rfl)

/-- A CODED slot that no judgement awaits is given back (R30, R106). -/
theorem leavePlay_uncodes {i : SlotId} (hstate : s.slots[i].state = .coded)
    (hjudge : ∀ e ∈ s.judge, e.slot = i → e.designated = false) (hs : blocked s i = false) : (leavePlay s).slots[i] = Slot.reset := by
  have hleft := abandoned_frees hs
  have hdrop := dropUnjudged_frees (hleft.unblocked hs)
  rw [leavePlay_eq]
  show (dropUnjudged (abandoned s)).slots[i] = _
  by_cases hawaits : ∃ e ∈ s.judge, e.slot = i
  · obtain ⟨e, he, hslot⟩ := hawaits
    have hbreak := engineBreak_engWork s
    have hjudgeOf : (abandoned s).judge = cutJudge (engineBreak s) := by
      have hcut := cutGate_judge (c := .transport) (.inl rfl) (engineBreak s)
      have hops := (abandonAll_frame (brokenOff s)).frame
      obtain ⟨hintake, -, -⟩ := abandonIntake_frame (abandonOps (fun _ => true) (brokenOff s))
      unfold abandoned
      generalize abandonOps (fun _ => true) (brokenOff s) = a at hops hintake
      exact ((congrArg State.judge hintake :).trans (congrArg State.judge hops :)).trans hcut
    obtain ⟨x, hx, hxslot, hxnot⟩ := cutJudge_mem (s := engineBreak s) (x := e) (by rw [hbreak.judge]; exact he)
    exact dropUnjudged_resets (hjudgeOf ▸ hx) (hxslot.trans hslot) (hxnot.trans (hjudge e he hslot)) (hleft.unblocked hs)
  · have hnone : ∀ e ∈ s.judge, e.slot ≠ i := fun e he hslot => hawaits ⟨e, he, hslot⟩
    have hgives := brokenOff_gives hs
    have hops := abandonOps_frees (fun _ => true) (hgives.frees.unblocked hs)
    exact hdrop.stays_reset ((hops.trans (abandonIntake_frees ..)).stays_reset (hgives.coded hstate hnone))

theorem leavePlay_intake {f : IntakeFrame} {i : SlotId} (hframe : s.intake.frame = some f) (hslot : f.slot = some i) :
    (leavePlay s).slots[i].role ≠ some .intake := by
  have hreset : (abandoned s).slots[i] = Slot.reset := abandonIntake_resets ((brokenOff_intake s).trans hframe) hslot
  have hdrop : Steps (fun _ => False) (fun _ => True) (fun _ => False) (abandoned s) (dropUnjudged (abandoned s)) :=
    dropUnjudged_steps (fun _ => trivial) _
  intro hrole
  have hbefore := hdrop.had (p := fun x => x.role = some .intake) nofun (fun _ h => h)
    (fun role _ hne h => hne (Option.some.inj h)) hrole
  rw [hreset] at hbefore
  exact absurd hbefore nofun

end Sys2Proof.LeavePlay
end

section
/-! SUPPORT. The capture channels follow a posting: a stop abandons the frames in assembly, a reading mode begins one (R30, R48, R66). -/

namespace Sys2Proof.Readers
open Sys2Proof.Machine Sys2Proof.SpliceEnds Sys2Proof.StoreCommands Sys2Proof.BlockWork Sys2Proof.GateCuts
open Sys2Proof.CutSlots Sys2Proof.SlotSteps Sys2Proof.LeavePlay Sys2Proof.SectorStorage Sys2Proof.ConcealEnd

variable {R O F : SlotId → Prop} {s t u : State} {ch : HeadStream}

/-- From `s` to `t` only the slots, the channels, the concealment record and the notices change. -/
structure FollowWork (s t : State) : Prop where
  frame : { t with slots := s.slots, order := s.order, pre := s.pre, conf := s.conf, conceal := s.conceal, notices := s.notices } = s

theorem FollowWork.refl (s : State) : FollowWork s s := ⟨rfl⟩

theorem FollowWork.trans (h : FollowWork s t) (k : FollowWork t u) : FollowWork s u :=
  ⟨(congrArg (fun x : State => { x with
    slots := s.slots, order := s.order, pre := s.pre, conf := s.conf, conceal := s.conceal, notices := s.notices }) k.frame).trans h.frame⟩

theorem SlotWork.follow (h : SlotWork s t) : FollowWork s t :=
  ⟨(congrArg (fun x : State => { x with pre := s.pre, conf := s.conf, conceal := s.conceal, notices := s.notices }) h.frame :)⟩

/-- The head stream that is not this one. -/
def otherStream : HeadStream → HeadStream
  | .preRead => .confidence
  | .confidence => .preRead

theorem capture_setCapture_other (ch : HeadStream) (c : Capture) (s : State) :
    capture (setCapture ch c s) (otherStream ch) = capture s (otherStream ch) := by
  cases ch <;> rfl

theorem setCapture_follow (ch : HeadStream) (c : Capture) (s : State) : FollowWork s (setCapture ch c s) := by
  cases ch <;> exact ⟨rfl⟩

theorem setCapture_steps (ch : HeadStream) (c : Capture) (s : State) : Steps R O F s (setCapture ch c s) := by
  cases ch <;> exact .still rfl rfl rfl rfl

theorem SlotWork.capture (h : SlotWork s t) (ch : HeadStream) : capture t ch = capture s ch := by
  cases ch with
  | preRead => exact (congrArg State.pre h.frame :)
  | confidence => exact (congrArg State.conf h.frame :)

theorem abandonSlot_work (o : Option SlotId) (s : State) : SlotWork s (abandonSlot o s) := by
  cases o <;> exact ⟨rfl⟩

/-- Other sets for the same steps. -/
theorem Steps.mono {R' O' F' : SlotId → Prop} (h : Steps R O F s t) (hR : ∀ j, R j → R' j) (hO : ∀ j, O j → O' j) (hF : ∀ j, F j → F' j) :
    Steps R' O' F' s t := by
  induction h with
  | still h1 h2 h3 h4 => exact .still h1 h2 h3 h4
  | release j hj => exact .release j (hR j hj)
  | settle j hj => exact .settle j (hO j hj)
  | fill j role hj hrole hchosen => exact .fill j role (hF j hj) hrole hchosen
  | trans _ _ ih ik => exact ih.trans ik

/-- A slot that is FILLING is not chosen for another frame. -/
theorem chooseSlot_filling {j k : SlotId} (h : chooseSlot s = some k) (hj : s.slots[j].state = .filling) : k ≠ j := by
  rintro rfl
  rcases chooseSlot_some h with hfree | ⟨hpre, -⟩
  · rw [hj] at hfree
    exact absurd hfree (by decide)
  · rw [Slot.isPreRead, hj] at hpre
    exact absurd ((Bool.and_eq_true _ _).mp hpre).1 (by decide)

/-! ### A channel that becomes IDLE (R30, R48) -/

/-- A channel's record when it becomes IDLE, if it does. -/
def idled (c : Capture) : Capture := if channelState c = .idle then { c with reference := none, headless := 0 } else c

/-- A DECODED slot of the CONFIDENCE channel. -/
def Decoded (s : State) (j : SlotId) : Prop := s.slots[j].state = .decoded ∧ s.slots[j].role = some .confidence

theorem mem_decodedSlots {j : SlotId} : j ∈ decodedSlots s ↔ Decoded s j := by
  simp only [decodedSlots, Decoded, List.mem_filter, slotIds, List.mem_finRange, true_and, Bool.and_eq_true, beq_iff_eq]

/-- What an entry to IDLE, if there is one, does. -/
structure Idles (R O F : SlotId → Prop) (ch : HeadStream) (s t : State) : Prop where
  capture : capture t ch = idled (Machine.capture s ch)
  other : Machine.capture t (otherStream ch) = Machine.capture s (otherStream ch)
  notices : t.notices = s.notices
  work : FollowWork s t
  steps : Steps R O F s t

theorem enterIdle_idles (hO : ∀ j, Decoded s j → O j) : Idles R O F ch s (enterIdle ch s) := by
  unfold enterIdle
  split
  · next hidle =>
    have hidled : { capture s ch with reference := none, headless := 0 } = idled (capture s ch) := (if_pos hidle).symm
    rw [hidled]
    cases ch with
    | preRead => exact ⟨capture_setCapture .., capture_setCapture_other .., rfl, setCapture_follow .., setCapture_steps ..⟩
    | confidence =>
      have hwork := releaseAll_work (decodedSlots (setCapture .confidence (idled (capture s .confidence)) s))
        (setCapture .confidence (idled (capture s .confidence)) s)
      have hslots : (setCapture .confidence (idled (capture s .confidence)) s).slots = s.slots := setCapture_slots ..
      refine ⟨(SlotWork.capture hwork _).trans (capture_setCapture ..), (SlotWork.capture hwork _).trans (capture_setCapture_other ..),
        hwork.notices, (setCapture_follow ..).trans (SlotWork.follow hwork), (setCapture_steps ..).trans (releaseAll_steps (fun j hj => ?_) _)⟩
      have hdecoded := mem_decodedSlots.mp hj
      rw [Decoded, hslots] at hdecoded
      exact hO j hdecoded
  · next hidle => exact ⟨(if_neg hidle).symm, rfl, rfl, .refl s, .refl s⟩

/-! ### A channel that stops (R48) -/

theorem stopReading_reads (h : reading s.tl.mode = true) (ch : HeadStream) : stopReading ch s = s := if_pos h

/-- The channel without its frame in assembly, whose slot is released. -/
def frameLeft (ch : HeadStream) (s : State) : State := abandonSlot ((capture s ch).assembly.bind (·.slot)) (setAssembly ch none s)

theorem stopReading_stops (h : reading s.tl.mode = false) (ch : HeadStream) : stopReading ch s = enterIdle ch (frameLeft ch s) :=
  if_neg (by rw [h]; decide)

/-- The slot of a channel's frame in assembly. -/
def AssemblySlot (s : State) (ch : HeadStream) (j : SlotId) : Prop := ∃ f, (capture s ch).assembly = some f ∧ f.slot = some j

theorem bind_slot {j : SlotId} : (capture s ch).assembly.bind (·.slot) = some j ↔ AssemblySlot s ch j := by
  unfold AssemblySlot
  cases (capture s ch).assembly <;> simp

/-- What the stop of a channel does. -/
structure Stops (R O F : SlotId → Prop) (ch : HeadStream) (s t : State) : Prop where
  capture : capture t ch = idled { Machine.capture s ch with assembly := none }
  other : Machine.capture t (otherStream ch) = Machine.capture s (otherStream ch)
  notices : t.notices = s.notices
  work : FollowWork s t
  steps : Steps R O F s t
  reset : ∀ j, AssemblySlot s ch j → t.slots[j] = Slot.reset

theorem stopReading_stopped (h : reading s.tl.mode = false) (hR : ∀ j, AssemblySlot s ch j → R j) (hO : ∀ j, Decoded s j → O j) :
    Stops R O F ch s (stopReading ch s) := by
  have hsteps : ∀ {O'}, Steps R O' F s (frameLeft ch s) := fun {_} =>
    (setCapture_steps ..).trans (abandonSlot_steps (fun j hj => hR j (bind_slot.mp hj)) _)
  have hwork := abandonSlot_work ((capture s ch).assembly.bind (·.slot)) (setAssembly ch none s)
  have hdecoded : ∀ j, Decoded (frameLeft ch s) j → Decoded s j := fun j hj =>
    hsteps (O' := O).had (p := fun x => x.state = .decoded ∧ x.role = some .confidence) (fun h => absurd h.1 (by decide)) (fun _ h => h)
      (fun _ _ _ h => absurd h.1 nofun) hj
  rw [stopReading_stops h]
  have hidles : Idles R (Decoded (frameLeft ch s)) F ch (frameLeft ch s) (enterIdle ch (frameLeft ch s)) := enterIdle_idles fun _ h => h
  have hidles' : Idles R O F ch (frameLeft ch s) (enterIdle ch (frameLeft ch s)) := enterIdle_idles fun j hj => hO j (hdecoded j hj)
  refine ⟨hidles.capture.trans ?_, hidles.other.trans ?_, hidles.notices.trans (hwork.notices.trans (setCapture_notices ..)),
    ((setCapture_follow ..).trans (SlotWork.follow hwork)).trans hidles.work, hsteps.trans hidles'.steps, fun j hj => ?_⟩
  · exact congrArg idled ((SlotWork.capture hwork ch).trans (capture_setAssembly ..))
  · exact (SlotWork.capture hwork _).trans (capture_setCapture_other ..)
  · have hreset : (frameLeft ch s).slots[j] = Slot.reset := by
      rw [frameLeft, bind_slot.mpr hj]
      exact releaseSlot_resets ..
    have hkept : Idles (fun _ => False) (Decoded (frameLeft ch s)) (fun _ => False) ch (frameLeft ch s) (enterIdle ch (frameLeft ch s)) :=
      enterIdle_idles fun _ h => h
    rw [hkept.steps.untouched id (fun h => absurd (h.1.symm.trans (congrArg Slot.state hreset)) (by decide)) id, hreset]

/-! ### A channel that begins to read (R48) -/

theorem startReading_stopped (h : reading s.tl.mode = false) (ch : HeadStream) : startReading ch s = s :=
  if_neg fun hc => absurd (h.symm.trans hc.2) (by decide)

theorem startReading_busy (h : (capture s ch).assembly.isSome = true ∨ (capture s ch).closing ≠ []) : startReading ch s = s := by
  refine if_neg fun hc => ?_
  obtain ⟨hclosing, hassembly⟩ := (channelState_idle _).mp hc.1
  rcases h with h | h
  · rw [hassembly] at h
    exact absurd h (by decide)
  · exact h hclosing

theorem startReading_begins (h : reading s.tl.mode = true) (hassembly : (capture s ch).assembly = none)
    (hclosing : (capture s ch).closing = []) : startReading ch s = beginFrame ch none s :=
  if_pos ⟨(channelState_idle _).mpr ⟨hclosing, hassembly⟩, h⟩

theorem modifySlot_self {i : SlotId} {f : Slot → Slot} (h : f s.slots[i] = s.slots[i]) : modifySlot i f s = s := by
  rw [modifySlot, h]
  have hset : s.slots.set i s.slots[i] = s.slots := Vector.set_getElem_self i.isLt
  exact congrArg (fun v => { s with slots := v }) hset

/-- The state in which a channel has asked for a slot. -/
def granted (role : Role) (addr : Option Nat) (s : State) : State :=
  match chooseSlot s with
  | some j => fillSlot j role s
  | none => post .storeOverrun (requester role) addr none s

theorem allocate_granted (role : Role) (addr : Option Nat) (s : State) : allocate role addr s = (chooseSlot s, granted role addr s) := by
  unfold allocate granted
  cases chooseSlot s <;> rfl

/-- A frame that has arrived with nothing yet. -/
def emptyFrame (o : Option SlotId) : CaptureFrame := ⟨none, o, noEntries, [], []⟩

theorem beginFrame_none (ch : HeadStream) (s : State) : beginFrame ch none s =
    setAssembly ch (some (emptyFrame (chooseSlot s))) (granted (chanRole ch) none s) := by
  have hbegin : beginFrame ch none s = setAssembly ch (some (emptyFrame (allocate (chanRole ch) none s).1))
      (setSlotAddr (allocate (chanRole ch) none s).1 none (allocate (chanRole ch) none s).2) := rfl
  rw [hbegin, allocate_granted]
  refine congrArg (setAssembly ch _) ?_
  unfold granted
  cases chooseSlot s with
  | none => rfl
  | some j =>
    show modifySlot j (fun x => { x with addr := none }) (fillSlot j (chanRole ch) s) = fillSlot j (chanRole ch) s
    refine modifySlot_self ?_
    rw [fillSlot_same]
    rfl

/-- What the begin of a frame does. -/
structure Begins (R O F : SlotId → Prop) (ch : HeadStream) (s t : State) : Prop where
  capture : capture t ch = { Machine.capture s ch with assembly := some (emptyFrame (chooseSlot s)) }
  other : Machine.capture t (otherStream ch) = Machine.capture s (otherStream ch)
  work : FollowWork s t
  steps : Steps R O F s t
  slot : ∀ j, chooseSlot s = some j →
    t.slots[j] = { Slot.reset with state := .filling, role := some (chanRole ch), layout := s.clock.rate }

theorem chanRole_intake (ch : HeadStream) : chanRole ch ≠ .intake := by cases ch <;> nofun

theorem granted_follow (role : Role) (s : State) : FollowWork s (granted role none s) := by
  unfold granted
  split <;> exact ⟨rfl⟩

theorem granted_capture (role : Role) (s : State) (ch : HeadStream) : capture (granted role none s) ch = capture s ch := by
  unfold granted
  split <;> cases ch <;> rfl

theorem granted_steps {role : Role} (hrole : role ≠ .intake) (hF : ∀ j, chooseSlot s = some j → F j) :
    Steps R O F s (granted role none s) := by
  unfold granted
  split
  · next j hj => exact .fill j role (hF j hj) hrole hj
  · exact .still rfl rfl rfl rfl

theorem beginFrame_begins (hF : ∀ j, chooseSlot s = some j → F j) : Begins R O F ch s (beginFrame ch none s) := by
  rw [beginFrame_none]
  refine ⟨?_, ?_, (granted_follow ..).trans (setCapture_follow ..), (granted_steps (chanRole_intake ch) hF).trans (setCapture_steps ..),
    fun j hj => ?_⟩
  · rw [capture_setAssembly, granted_capture]
  · exact (capture_setCapture_other ..).trans (granted_capture ..)
  · rw [setAssembly_slots, granted, hj]
    exact fillSlot_same ..

/-! ### Both channels follow (R48, R66) -/

theorem concealIdle_work (s : State) : FollowWork s (concealIdle s) ∧ Steps R O F s (concealIdle s)
    ∧ (∀ c, capture (concealIdle s) c = capture s c) ∧ (concealIdle s).notices = s.notices ∧ (concealIdle s).slots = s.slots := by
  rw [concealIdle_eq]
  exact ⟨⟨rfl⟩, .still rfl rfl rfl rfl, fun c => by cases c <;> rfl, rfl, rfl⟩

theorem FollowWork.tl (h : FollowWork s t) : t.tl = s.tl := (congrArg State.tl h.frame :)

/-- The channels' stop and begin, as a posting asks for them. -/
def follow (ch : HeadStream) (s : State) : State := startReading ch (stopReading ch s)

theorem readersFollow_eq (s : State) : readersFollow s = concealIdle (follow .confidence (follow .preRead s)) := rfl

theorem idled_bare (c : Capture) : (idled { c with assembly := none }).assembly = none ∧ (idled { c with assembly := none }).closing = c.closing
    ∧ (idled { c with assembly := none }).stats = c.stats ∧ (c.closing = [] →
      (idled { c with assembly := none }).reference = none ∧ (idled { c with assembly := none }).headless = 0) := by
  unfold idled
  split
  · exact ⟨rfl, rfl, rfl, fun _ => ⟨rfl, rfl⟩⟩
  · next hbusy => exact ⟨rfl, rfl, rfl, fun hclosing => absurd ((channelState_idle { c with assembly := none }).mpr ⟨hclosing, rfl⟩) hbusy⟩

section
variable (hread : reading s.tl.mode = false)
include hread

theorem follow_stops (hR : ∀ j, AssemblySlot s ch j → R j) (hO : ∀ j, Decoded s j → O j) : Stops R O F ch s (follow ch s) := by
  have hstops : Stops R O F ch s (stopReading ch s) := stopReading_stopped hread hR hO
  have htl := hstops.work.tl
  rwa [follow, startReading_stopped (by rw [htl]; exact hread)]

/-- What the stop of both channels does. -/
structure AllStop (R O F : SlotId → Prop) (s t : State) : Prop where
  capture : ∀ ch, capture t ch = idled { Machine.capture s ch with assembly := none }
  notices : t.notices = s.notices
  work : FollowWork s t
  steps : Steps R O F s t
  reset : ∀ ch j, AssemblySlot s ch j → t.slots[j] = Slot.reset

theorem readersFollow_stop (hR : ∀ ch j, AssemblySlot s ch j → R j) (hO : ∀ j, Decoded s j → O j) :
    AllStop R O F s (readersFollow s) := by
  have hpre : Stops R O F .preRead s (follow .preRead s) := follow_stops hread (hR .preRead) hO
  have hassembly : ∀ j, AssemblySlot (follow .preRead s) .confidence j ↔ AssemblySlot s .confidence j := fun j => by
    unfold AssemblySlot
    rw [show capture (follow .preRead s) .confidence = capture s .confidence from hpre.other]
  have hread' : reading (follow .preRead s).tl.mode = false := by rw [hpre.work.tl]; exact hread
  have hdecoded : ∀ j, Decoded (follow .preRead s) j → Decoded s j := fun j hj =>
    hpre.steps.had (p := fun x => x.state = .decoded ∧ x.role = some .confidence) (fun h => absurd h.1 (by decide)) (fun _ h => h)
      (fun _ _ _ h => absurd h.1 nofun) hj
  have hconf : Stops R O F .confidence (follow .preRead s) (follow .confidence (follow .preRead s)) :=
    follow_stops hread' (fun j hj => hR .confidence j ((hassembly j).mp hj)) fun j hj => hO j (hdecoded j hj)
  have hkept : Stops (AssemblySlot (follow .preRead s) .confidence) (Decoded (follow .preRead s)) (fun _ => False) .confidence
      (follow .preRead s) (follow .confidence (follow .preRead s)) := follow_stops hread' (fun _ h => h) fun _ h => h
  obtain ⟨hwork, hsteps, hcapture, hnotices, hslots⟩ := concealIdle_work (R := R) (O := O) (F := F) (follow .confidence (follow .preRead s))
  rw [readersFollow_eq]
  refine ⟨fun c => ?_, hnotices.trans (hconf.notices.trans hpre.notices), (hpre.work.trans hconf.work).trans hwork,
    (hpre.steps.trans hconf.steps).trans hsteps, fun c j hj => ?_⟩
  · rw [hcapture]
    cases c with
    | preRead => exact hconf.other.trans hpre.capture
    | confidence =>
      rw [hconf.capture, show capture (follow .preRead s) .confidence = capture s .confidence from hpre.other]
  · rw [hslots]
    cases c with
    | confidence => exact hconf.reset j ((hassembly j).mpr hj)
    | preRead =>
      have hreset := hpre.reset j hj
      by_cases hboth : AssemblySlot (follow .preRead s) .confidence j
      · exact hconf.reset j hboth
      · rw [hkept.steps.untouched hboth (fun h => absurd (h.1.symm.trans (congrArg Slot.state hreset)) (by decide)) id, hreset]

end

section
variable (hread : reading s.tl.mode = true)
include hread

theorem follow_reads (ch : HeadStream) : follow ch s = startReading ch s := by rw [follow, stopReading_reads hread]

theorem follow_busy (h : (capture s ch).assembly.isSome = true ∨ (capture s ch).closing ≠ []) : follow ch s = s := by
  rw [follow_reads hread, startReading_busy h]

theorem follow_begins (hassembly : (capture s ch).assembly = none) (hclosing : (capture s ch).closing = [])
    (hF : ∀ j, chooseSlot s = some j → F j) : Begins R O F ch s (follow ch s) := by
  rw [follow_reads hread, startReading_begins hread hassembly hclosing]
  exact beginFrame_begins hF

/-- What one channel does when a reading mode is posted. -/
structure Reads (R O : SlotId → Prop) (ch : HeadStream) (s t : State) : Prop where
  busy : (capture s ch).assembly.isSome = true ∨ (capture s ch).closing ≠ [] → capture t ch = capture s ch
  begun : (capture s ch).assembly = none → (capture s ch).closing = [] →
    (capture t ch).assembly = some (emptyFrame (chooseSlot s)) ∧ ∀ j, chooseSlot s = some j →
      t.slots[j] = { Slot.reset with state := .filling, role := some (chanRole ch), layout := s.clock.rate }
  other : capture t (otherStream ch) = capture s (otherStream ch)
  work : FollowWork s t
  steps : Steps R O (AssemblySlot t ch) s t

theorem follow_reading (ch : HeadStream) : Reads R O ch s (follow ch s) := by
  by_cases hbusy : (capture s ch).assembly.isSome = true ∨ (capture s ch).closing ≠ []
  · have hstill := follow_busy hread hbusy
    rw [hstill]
    refine ⟨fun _ => rfl, fun hassembly hclosing => ?_, rfl, .refl s, .refl s⟩
    rcases hbusy with h | h
    · rw [hassembly] at h
      exact absurd h (by decide)
    · exact absurd hclosing h
  · have hassembly : (capture s ch).assembly = none := Option.not_isSome_iff_eq_none.mp fun h => hbusy (.inl h)
    have hclosing : (capture s ch).closing = [] := not_not.mp fun h => hbusy (.inr h)
    have hsome : (capture (follow ch s) ch).assembly = some (emptyFrame (chooseSlot s)) := by
      rw [(follow_begins (R := R) (O := O) (F := fun _ => True) hread hassembly hclosing fun _ _ => trivial).capture]
    have hbegins : Begins R O (AssemblySlot (follow ch s) ch) ch s (follow ch s) :=
      follow_begins hread hassembly hclosing fun j hj => ⟨_, hsome, hj⟩
    exact ⟨fun h => absurd h hbusy, fun _ _ => ⟨hsome, hbegins.slot⟩, hbegins.other, hbegins.work, hbegins.steps⟩

/-- What both channels do when a reading mode is posted. -/
structure AllRead (R O : SlotId → Prop) (s t : State) : Prop where
  busy : ∀ ch, (capture s ch).assembly.isSome = true ∨ (capture s ch).closing ≠ [] → capture t ch = capture s ch
  begun : ∀ ch, (capture s ch).assembly = none → (capture s ch).closing = [] → ∃ f, (capture t ch).assembly = some f
    ∧ f = emptyFrame f.slot ∧ ∀ j, f.slot = some j → t.slots[j].state = .filling ∧ t.slots[j].layout = s.clock.rate
      ∧ t.slots[j].role = some (chanRole ch)
  work : FollowWork s t
  steps : Steps R O (fun j => ∃ ch, AssemblySlot t ch j) s t

theorem follow_keeps_filling {j : SlotId} (hj : s.slots[j].state = .filling) (ch : HeadStream) : (follow ch s).slots[j] = s.slots[j] := by
  by_cases hbusy : (capture s ch).assembly.isSome = true ∨ (capture s ch).closing ≠ []
  · rw [follow_busy hread hbusy]
  · have hassembly : (capture s ch).assembly = none := Option.not_isSome_iff_eq_none.mp fun h => hbusy (.inl h)
    have hclosing : (capture s ch).closing = [] := not_not.mp fun h => hbusy (.inr h)
    have hbegins : Begins (fun _ => False) (fun _ => False) (fun k => chooseSlot s = some k) ch s (follow ch s) :=
      follow_begins hread hassembly hclosing fun _ h => h
    exact hbegins.steps.untouched id id fun h => chooseSlot_filling h hj rfl

omit hread in
theorem Reads.frame (h : Reads R O ch s t) (hassembly : (capture s ch).assembly = none) (hclosing : (capture s ch).closing = []) :
    ∃ f, (capture t ch).assembly = some f ∧ f = emptyFrame f.slot ∧ ∀ j, f.slot = some j → t.slots[j].state = .filling
      ∧ t.slots[j].layout = s.clock.rate ∧ t.slots[j].role = some (chanRole ch) := by
  obtain ⟨hsome, hslot⟩ := h.begun hassembly hclosing
  refine ⟨_, hsome, rfl, fun j hj => ?_⟩
  rw [hslot j hj]
  exact ⟨rfl, rfl, rfl⟩

theorem readersFollow_read : AllRead R O s (readersFollow s) := by
  have hpre : Reads R O .preRead s (follow .preRead s) := follow_reading hread .preRead
  have hread' : reading (follow .preRead s).tl.mode = true := by rw [hpre.work.tl]; exact hread
  have hconf : Reads R O .confidence (follow .preRead s) (follow .confidence (follow .preRead s)) := follow_reading hread' .confidence
  have hkept : ∀ j : SlotId, (follow .preRead s).slots[j].state = .filling →
      (follow .confidence (follow .preRead s)).slots[j] = (follow .preRead s).slots[j] := fun j hj => follow_keeps_filling hread' hj _
  obtain ⟨hwork, hsteps, hcapture, -, hslots⟩ := concealIdle_work (R := R) (O := O) (F := fun j => ∃ ch, AssemblySlot
    (concealIdle (follow .confidence (follow .preRead s))) ch j) (follow .confidence (follow .preRead s))
  rw [readersFollow_eq]
  generalize follow .preRead s = u at hpre hread' hconf hkept hwork hsteps hcapture hslots
  generalize follow .confidence u = v at hconf hkept hwork hsteps hcapture hslots
  generalize concealIdle v = w at hwork hsteps hcapture hslots
  have hprecap : capture w .preRead = capture u .preRead := (hcapture _).trans hconf.other
  have hconfcap : capture u .confidence = capture s .confidence := hpre.other
  have hclock : u.clock = s.clock := (congrArg State.clock hpre.work.frame :)
  refine ⟨fun c hbusy => ?_, fun c hassembly hclosing => ?_, (hpre.work.trans hconf.work).trans hwork,
    ((Steps.mono hpre.steps (fun _ h => h) (fun _ h => h) fun j hj => ?_).trans
      (Steps.mono hconf.steps (fun _ h => h) (fun _ h => h) fun j hj => ?_)).trans hsteps⟩
  · cases c with
    | preRead => exact hprecap.trans (hpre.busy hbusy)
    | confidence =>
      rw [hcapture]
      rw [← hconfcap] at hbusy ⊢
      exact hconf.busy hbusy
  · cases c with
    | preRead =>
      obtain ⟨f, hf, hempty, hslot⟩ := Reads.frame hpre hassembly hclosing
      refine ⟨f, by rw [hprecap, hf], hempty, fun j hj => ?_⟩
      rw [hslots, hkept j (hslot j hj).1]
      exact hslot j hj
    | confidence =>
      rw [← hconfcap] at hassembly hclosing
      obtain ⟨f, hf, hempty, hslot⟩ := Reads.frame hconf hassembly hclosing
      refine ⟨f, by rw [hcapture, hf], hempty, fun j hj => ?_⟩
      rw [hslots, ← hclock]
      exact hslot j hj
  · obtain ⟨f, hf, hslot⟩ := hj
    exact ⟨.preRead, f, by rw [hprecap, hf], hslot⟩
  · obtain ⟨f, hf, hslot⟩ := hj
    exact ⟨.confidence, f, by rw [hcapture, hf], hslot⟩

end

end Sys2Proof.Readers
end

section
/-! SUPPORT. A posting is taken: the timeline's record, the window, and what leaves PLAY (R10, R11, R18, R34, R48). -/

namespace Sys2Proof.Postings
open Sys2Proof.Machine Sys2Proof.StepLaws Sys2Proof.SpliceEnds Sys2Proof.StoreCommands Sys2Proof.BlockWork Sys2Proof.GateCuts
open Sys2Proof.CutSlots Sys2Proof.SlotSteps Sys2Proof.EngineBreaks Sys2Proof.LockLoss Sys2Proof.LeavePlay Sys2Proof.Readers
open Sys2Proof.PostedTimeline Sys2Proof.SectorStorage Sys2Proof.ProgramStops Sys2Proof.ConcealEnd

/-! ### Which bytes make a posting (R185) -/

theorem dir_cases (dir : Byte) : (dir = 0 ∧ named dirs dir = some .forward) ∨ (dir = 1 ∧ named dirs dir = some .reverse)
    ∨ (2 ≤ dir.toNat ∧ named dirs dir = none) := by
  rcases Nat.lt_or_ge dir.toNat 2 with h | h
  · rcases Nat.lt_or_ge dir.toNat 1 with h1 | h1
    · have hdir : dir = 0 := BitVec.eq_of_toNat_eq (by show _ = 0; omega)
      subst hdir
      exact .inl ⟨rfl, rfl⟩
    · have hdir : dir = 1 := BitVec.eq_of_toNat_eq (by show _ = 1; omega)
      subst hdir
      exact .inr (.inl ⟨rfl, rfl⟩)
  · exact .inr (.inr ⟨h, List.getElem?_eq_none h⟩)

theorem mode_cases (mode : Byte) : mode = 0 ∨ mode = 4 ∨ mode = 1 ∨ mode = 2 ∨ mode = 3 ∨ 5 ≤ mode.toNat := by
  by_cases h : mode.toNat < 5
  · have hto : ∀ n, n < 5 → mode.toNat = n → mode = BitVec.ofNat 8 n := fun n hn heq =>
      BitVec.eq_of_toNat_eq (by rw [heq, BitVec.toNat_ofNat, Nat.mod_eq_of_lt (by omega)])
    rcases (by omega : mode.toNat = 0 ∨ mode.toNat = 1 ∨ mode.toNat = 2 ∨ mode.toNat = 3 ∨ mode.toNat = 4) with h | h | h | h | h
    · exact .inl (hto 0 (by decide) h)
    · exact .inr (.inr (.inl (hto 1 (by decide) h)))
    · exact .inr (.inr (.inr (.inl (hto 2 (by decide) h))))
    · exact .inr (.inr (.inr (.inr (.inl (hto 3 (by decide) h)))))
    · exact .inr (.inl (hto 4 (by decide) h))
  · exact .inr (.inr (.inr (.inr (.inr (by omega)))))

theorem postingOf_bytes (mode dir arg : Byte) : postingOf mode dir arg =
    if mode = 0 then some ⟨.stop, none, none, none⟩
    else if mode = 4 then some ⟨.spool, none, none, none⟩
    else if mode = 1 ∧ dir = 0 then some ⟨.play, none, none, none⟩
    else if mode = 2 ∧ dir.toNat < 2 ∧ 1 ≤ arg.toNat ∧ arg.toNat ≤ 8 then
      some ⟨.jog, some (if dir = 0 then .forward else .reverse), some arg.toNat, none⟩
    else if mode = 3 ∧ dir.toNat < 2 ∧ 2 ≤ arg.toNat ∧ arg.toNat ≤ 32 then
      some ⟨.shuttle, some (if dir = 0 then .forward else .reverse), none, some arg.toNat⟩
    else none := by
  rcases mode_cases mode with rfl | rfl | rfl | rfl | rfl | hmode
  · rcases dir_cases dir with ⟨rfl, -⟩ | ⟨rfl, -⟩ | ⟨-, hnone⟩
    · rfl
    · rfl
    · rw [postingOf, hnone]
      rfl
  · rcases dir_cases dir with ⟨rfl, -⟩ | ⟨rfl, -⟩ | ⟨-, hnone⟩
    · rfl
    · rfl
    · rw [postingOf, hnone]
      rfl
  · rcases dir_cases dir with ⟨rfl, -⟩ | ⟨rfl, -⟩ | ⟨htwo, hnone⟩
    · rfl
    · rfl
    · have hdir : ¬dir = 0#8 := fun h => by rw [h] at htwo; exact absurd htwo (by decide)
      have hposting : postingOf 1 dir arg = none := by rw [postingOf, hnone]; rfl
      rw [hposting]
      simp [hdir]
  · rcases dir_cases dir with ⟨rfl, hdir⟩ | ⟨rfl, hdir⟩ | ⟨htwo, hnone⟩
    · by_cases harg : 1 ≤ arg.toNat ∧ arg.toNat ≤ 8 <;> simp [postingOf, named, modes, dirs, harg]
    · by_cases harg : 1 ≤ arg.toNat ∧ arg.toNat ≤ 8 <;> simp [postingOf, named, modes, dirs, harg]
    · have hposting : postingOf 2 dir arg = none := by rw [postingOf, hnone]; rfl
      rw [hposting]
      simp [Nat.not_lt.mpr htwo]
  · rcases dir_cases dir with ⟨rfl, hdir⟩ | ⟨rfl, hdir⟩ | ⟨htwo, hnone⟩
    · by_cases harg : 2 ≤ arg.toNat ∧ arg.toNat ≤ 32 <;> simp [postingOf, named, modes, dirs, harg]
    · by_cases harg : 2 ≤ arg.toNat ∧ arg.toNat ≤ 32 <;> simp [postingOf, named, modes, dirs, harg]
    · have hposting : postingOf 3 dir arg = none := by rw [postingOf, hnone]; rfl
      rw [hposting]
      simp [Nat.not_lt.mpr htwo]
  · have hnone : named modes mode = none := List.getElem?_eq_none hmode
    have hne : ∀ n : Byte, n.toNat < 5 → mode ≠ n := fun n hn h => by rw [h] at hmode; omega
    rw [postingOf, hnone, if_neg (hne 0 (by decide)), if_neg (hne 4 (by decide)), if_neg fun h => hne 1 (by decide) h.1,
      if_neg fun h => hne 2 (by decide) h.1, if_neg fun h => hne 3 (by decide) h.1]

/-! ### The timeline's record (R10, R11) -/

section
variable (t : Timeline) (q : Posting) (d : Nat)

theorem posted_mode : (t.posted q d).mode = q.mode ∧ (t.posted q d).dir = q.dir.getD t.dir ∧ (t.posted q d).ratio = q.ratio.getD t.ratio
    ∧ (t.posted q d).speed = q.speed.getD t.speed := by
  have h := Timeline.posted_settings t q d
  exact ⟨congrArg TimelineSettings.mode h, congrArg TimelineSettings.dir h, congrArg TimelineSettings.ratio h,
    congrArg TimelineSettings.speed h⟩

theorem leaveLaying_heads : (leaveLaying t d).head = t.head ∧ (leaveLaying t d).confHead = t.confHead
    ∧ (leaveLaying t d).offered = t.offered ∧ (leaveLaying t d).state ≠ .locked ∧ (leaveLaying t d).state ≠ .laying := by
  unfold leaveLaying
  split
  · split <;> exact ⟨rfl, rfl, rfl, by nofun, by nofun⟩
  · exact ⟨rfl, rfl, rfl, by nofun, by nofun⟩

/-- A posting moves no head, does not enter LOCKED, and stays in LAYING only where it repeats the mode. -/
theorem posted_heads : (t.posted q d).head = t.head ∧ (t.posted q d).confHead = t.confHead ∧ (t.posted q d).offered = t.offered
    ∧ ((t.posted q d).state = .locked → t.state = .locked)
    ∧ ((t.posted q d).state = .laying → t.state = .laying ∧ t.mode = q.mode) := by
  by_cases hstop : q.mode = .stop ∨ q.mode = .spool
  · rw [posted_parks hstop]
    exact ⟨rfl, rfl, rfl, nofun, nofun⟩
  · by_cases hsame : t.mode = q.mode ∧ t.dir = q.dir.getD t.dir
    · rw [posted_repeats hstop hsame]
      exact ⟨rfl, rfl, rfl, id, fun h => ⟨h, hsame.1⟩⟩
    · have hposted := posted_changes (d := d) hstop hsame
      cases hstate : t.state with
      | parked =>
        simp only [hposted, hstate]
        exact ⟨rfl, rfl, rfl, nofun, nofun⟩
      | acquiring =>
        simp only [hposted, hstate]
        exact ⟨rfl, rfl, rfl, fun h => absurd (hstate.symm.trans h) nofun, fun h => absurd (hstate.symm.trans h) nofun⟩
      | laying =>
        simp only [hposted, hstate]
        obtain ⟨hhead, hconf, hoffered, hlocked, hlaying⟩ := leaveLaying_heads (t.record q) d
        exact ⟨hhead, hconf, hoffered, fun h => absurd h hlocked, fun h => absurd h hlaying⟩
      | unlocked =>
        simp only [hposted, hstate]
        exact ⟨rfl, rfl, rfl, fun h => absurd (hstate.symm.trans h) nofun, fun h => absurd (hstate.symm.trans h) nofun⟩
      | locked =>
        simp only [hposted, hstate]
        exact ⟨rfl, rfl, rfl, fun _ => trivial, fun h => absurd (hstate.symm.trans h) nofun⟩
      | coasting =>
        simp only [hposted, hstate]
        exact ⟨rfl, rfl, rfl, fun h => absurd (hstate.symm.trans h) nofun, fun h => absurd (hstate.symm.trans h) nofun⟩

end

/-- The timeline takes a posting's record. -/
theorem timelineSet_posted (q : Posting) (s : State) : (timelineSet (s.tl.posted q s.geo.d) s).tl = s.tl.posted q s.geo.d := by
  obtain ⟨-, -, -, -, hlaying⟩ := posted_heads s.tl q s.geo.d
  by_cases h : (s.tl.posted q s.geo.d).state = .laying
  · rw [timelineSet_same (h.trans (hlaying h).1.symm)]
    have hframe := jogSync_frame { s with tl := s.tl.posted q s.geo.d }
    generalize jogSync { s with tl := s.tl.posted q s.geo.d } = t at hframe
    exact (congrArg State.tl hframe :)
  · exact timelineSet_tl h s

/-! ### The state that has the record (R18, R34, R104) -/

/-- The state in which the timeline has taken the posting. -/
def relayed (q : Posting) (s : State) : State := timelineSet (s.tl.posted q s.geo.d) s

/-- The posting loses the lock. -/
def losing (q : Posting) (s : State) : Bool := loses s.tl (s.tl.posted q s.geo.d)

/-- The break of a lock loss. -/
def lockBroken (q : Posting) (s : State) : State := engineBreak (moved (s.tl.posted q s.geo.d) s)

variable {q : Posting} {s : State}

theorem relayed_loses (h : losing q s = true) : relayed q s = jogSync (cutGate .lock (lockBroken q s)) :=
  timelineSet_loses (posted_heads s.tl q s.geo.d).2.2.2.1 h

theorem relayed_holds (h : losing q s = false) : relayed q s = jogSync (moved (s.tl.posted q s.geo.d) s) :=
  timelineSet_holds (posted_heads s.tl q s.geo.d).2.2.2.1 h

theorem moved_eng (u : Timeline) (s : State) : (moved u s).eng = s.eng := (congrArg State.eng (moved_frame u s) :)

/-- What the timeline's step leaves beside the slots and the engine. -/
structure Relayed (q : Posting) (s t : State) : Prop where
  tl : t.tl = s.tl.posted q s.geo.d
  channels : SameChannels s t
  clock : t.clock = s.clock
  frame : t.intake.frame = s.intake.frame
  outPos : t.mon.outPos = s.mon.outPos
  judge : cutJudge t = cutJudge s
  entries : ∀ e ∈ t.judge, ∃ x ∈ s.judge, x.slot = e.slot ∧ x.designated = e.designated
  gate : t.gate = if losing q s then s.gate.cut else s.gate
  frees : ∀ i, s.slots[i].isPreRead = false → blocked s i = false → Frees i s t

theorem cut_cut (g : Gate) : g.cut.cut = g.cut := by
  unfold Gate.cut
  by_cases h : g.state = .closed
  · rw [if_pos h, if_pos h]
  · rw [if_neg h]
    exact if_pos rfl

theorem cut_state (g : Gate) : g.cut.state = .closed := by
  unfold Gate.cut
  by_cases h : g.state = .closed
  · rw [if_pos h, h]
  · rw [if_neg h]

theorem relayed_relayed (q : Posting) (s : State) : Relayed q s (relayed q s) := by
  have hwork := relocked_gateWork (s.tl.posted q s.geo.d) s
  have htl := timelineSet_posted q s
  have hchannels := timelineSet_channels (s.tl.posted q s.geo.d) s
  have hjog := jogSync_frame (relocked (s.tl.posted q s.geo.d) s)
  rw [← timelineSet_eq] at hjog
  have hrest : (relayed q s).clock = s.clock ∧ (relayed q s).intake.frame = s.intake.frame ∧ (relayed q s).mon.outPos = s.mon.outPos := by
    unfold relayed
    generalize relocked (s.tl.posted q s.geo.d) s = v at hwork hjog
    generalize timelineSet (s.tl.posted q s.geo.d) s = t at hjog
    have hintake : t.intake = v.intake := (congrArg State.intake hjog :)
    have hmon : t.mon = v.mon := (congrArg State.mon hjog :)
    rw [hintake, hmon]
    exact ⟨(congrArg State.clock hjog :).trans (congrArg State.clock hwork.frame :),
      (congrArg (fun x : State => x.intake.frame) hwork.frame :), (congrArg (fun x : State => x.mon.outPos) hwork.frame :)⟩
  obtain ⟨hclock, hframe, houtPos⟩ := hrest
  cases hloss : losing q s with
  | true =>
    have hbreak := moved_breaks (s.tl.posted q s.geo.d) s
    have hrun := relayed_loses hloss
    obtain ⟨hgate, -, -, hjudge, -, -⟩ := jogSync_rest (cutGate .lock (lockBroken q s))
    rw [← hrun, cutGate_gate] at hgate
    rw [← hrun, cutGate_judge (.inr rfl)] at hjudge
    have hbgate : (lockBroken q s).gate = s.gate := hbreak.gate
    have hbjudge : cutJudge (lockBroken q s) = cutJudge s := by
      rw [cutJudge, cutJudge, hbgate]
      exact congrArg (List.map _) hbreak.judge
    rw [hbgate] at hgate
    rw [hbjudge] at hjudge
    refine ⟨htl, hchannels, hclock, hframe, houtPos, ?_, fun e he => mem_cutJudge (hjudge ▸ he), by rw [hgate, hloss, if_pos rfl], fun i hpre hs => ?_⟩
    · rw [cutJudge_closed (by rw [hgate, cut_state]), hjudge]
    · have hmid : Frees i s (lockBroken q s) := .of_eq hbreak.slots (congrArg State.fetch hbreak.frame :)
      have hcut := hmid.trans (cutGate_gives (.inr rfl) (hmid.unblocked hs)).frees
      rw [hrun]
      refine hcut.trans (jogSync_frees (hcut.unblocked hs) ?_)
      rcases hcut.slot with h | h
      · rw [h, hpre]
      · rw [h]
        rfl
  | false =>
    have hmoved := moved_frame (s.tl.posted q s.geo.d) s
    have hrun := relayed_holds hloss
    obtain ⟨hgate, -, -, hjudge, -, -⟩ := jogSync_rest (moved (s.tl.posted q s.geo.d) s)
    rw [← hrun] at hgate hjudge
    have hgate : (relayed q s).gate = s.gate := hgate.trans (congrArg State.gate hmoved :)
    have hjudge : (relayed q s).judge = s.judge := hjudge.trans (congrArg State.judge hmoved :)
    refine ⟨htl, hchannels, hclock, hframe, houtPos, ?_, fun e he => ⟨e, hjudge ▸ he, rfl, rfl⟩, ?_, fun i hpre hs => ?_⟩
    · rw [cutJudge, cutJudge, hgate, hjudge]
    · rw [hgate, hloss, if_neg Bool.false_ne_true]
    · have hmid : Frees i s (moved (s.tl.posted q s.geo.d) s) := .of_eq (congrArg State.slots hmoved :) (congrArg State.fetch hmoved :)
      have hslot : (moved (s.tl.posted q s.geo.d) s).slots = s.slots := (congrArg State.slots hmoved :)
      rw [hrun]
      exact hmid.trans (jogSync_frees (hmid.unblocked hs) (by rw [hslot]; exact hpre))

/-! ### The engine of a posting that leaves PLAY (R149) -/

/-- What a break makes of a program that runs, and no punch (R149). -/
structure Rested (s t : State) : Prop where
  prepared : t.eng.prepared = []
  source : t.intake.source = .analog
  finished : s.eng.state = .finishing → t.eng.state = .done
  held : s.eng.state ≠ .finishing → (∃ i e, pendingEntry s i = some e ∧ (∀ sp, s.eng.splice = some sp → sp.index ≠ some i)
    ∧ ¬(i = 0 ∧ e.lay = true)) → t.eng.state = .held
  settled : t.eng.state.breakable = false

theorem spliceBroken_state (s : State) : (spliceBroken s).eng.state = s.eng.state := by
  unfold spliceBroken
  cases h : s.eng.splice with
  | none => rw [endSplice_none h]
  | some sp => exact endSplice_state h ..

/-- The entries beside the splice's own are PENDING still. -/
theorem spliceBroken_pending {i : Fin 16} {e : Entry} (h : pendingEntry s i = some e)
    (hother : ∀ sp, s.eng.splice = some sp → sp.index ≠ some i) : pendingEntry (spliceBroken s) i = some e := by
  unfold spliceBroken
  cases hsplice : s.eng.splice with
  | none => rwa [endSplice_none hsplice]
  | some sp =>
    obtain ⟨f, b, k, v, bank, hend⟩ := endSplice_frame hsplice (brokenAs s) none (cutPoint s) false
    have hactive : (spliceBroken s).eng.active = (closeEntry sp (brokenAs s) s).eng.active := by
      unfold spliceBroken
      rw [hend]
      rfl
    have hget : (closeEntry sp (brokenAs s) s).eng.active[i] = s.eng.active[i] := by
      unfold closeEntry
      cases hindex : sp.index with
      | none => rfl
      | some j => exact Vector.getElem_set_ne j.isLt i.isLt fun heq => hother sp hsplice (hindex.trans (congrArg some (Fin.ext heq)))
    have hsame : (spliceBroken s).eng.active[i] = s.eng.active[i] := by rw [hactive, hget]
    unfold spliceBroken at hsame
    unfold pendingEntry at h ⊢
    rw [hsame]
    exact h

theorem engineBreak_rests (hpunch : punchOpen s = false)
    (hrun : s.eng.state = .waiting ∨ s.eng.state = .splicing ∨ s.eng.state = .finishing) : Rested s (engineBreak s) := by
  rw [engineBreak_runs hpunch ((breakable_iff _).mpr hrun)]
  have hgoes := heldOver_goesOn (unprepared (spliceBroken s))
  obtain ⟨k, b, f, hframe⟩ := unprepared_frame (spliceBroken s)
  have hstate : (unprepared (spliceBroken s)).eng.state = s.eng.state := by
    rw [hframe]
    exact (breakLay_keeps _).2.1.trans (spliceBroken_state s)
  refine ⟨hgoes.prepared (by rw [hframe]), by rw [hgoes.intake]; exact unprepared_source _, fun hfinish => ?_, fun hnot hpending => ?_,
    heldOver_state _⟩
  · rw [heldOver, if_pos (hstate.trans hfinish)]
    exact setEng_state ..
  · obtain ⟨i, e, he, hother, hlay⟩ := hpending
    have hstays := breakLay_pending (spliceBroken_pending he hother) hlay
    have hleft : hasPending (unprepared (spliceBroken s)) = true := by
      refine (isSome_pendingEntry_iff _).mpr ⟨i, ?_⟩
      have hsame : pendingEntry (unprepared (spliceBroken s)) i = pendingEntry (breakLay (spliceBroken s)) i := by
        rw [hframe]
        rfl
      rw [hsame, hstays]
      rfl
    rw [heldOver, if_neg (by rw [hstate]; exact hnot), if_pos hleft]
    exact setEng_state ..

/-- The result of a splice that the transport breaks (R147, R149). -/
structure BrokeSplice (s : State) (sp : Splice) (t : State) : Prop where
  splice : t.eng.splice = none
  result : ∃ r ∈ t.eng.results, r.tag = sp.tag ∧ r.outcome = .broken ∧ r.actualIn = sp.actualIn
    ∧ (sp.rehearse = false → r.actualOut = if sp.actualIn = none then none
        else match s.gate.write with
          | some w => some ⟨w.addr, 0⟩
          | none => s.tl.head.map fun a => ⟨a, 0⟩)

theorem cutPoint_recorded {sp : Splice} (h : s.eng.splice = some sp) (hrec : sp.rehearse = false) : cutPoint s =
    if sp.actualIn = none then none
    else match s.gate.write with
      | some w => some ⟨w.addr, 0⟩
      | none => s.tl.head.map fun a => ⟨a, 0⟩ := by
  cases hin : sp.actualIn with
  | none => simp only [cutPoint, h, hin, if_true]
  | some start => cases hwrite : s.gate.write <;> simp only [cutPoint, h, hin, hrec, hwrite, Bool.false_eq_true, if_false, reduceCtorEq]

/-- The result of a break outside PLAY. -/
theorem brokenResult {m : State} {sp : Splice} (hsplice : m.eng.splice = some sp) (hmode : m.tl.mode ≠ .play) (hgate : m.gate = s.gate)
    (hhead : m.tl.head = s.tl.head) {r : SpliceResult} (hr : r = spliceResult sp (brokenAs m) none (cutPoint m) false m) :
    r.tag = sp.tag ∧ r.outcome = .broken ∧ r.actualIn = sp.actualIn ∧ (sp.rehearse = false → r.actualOut = if sp.actualIn = none then none
      else match s.gate.write with
        | some w => some ⟨w.addr, 0⟩
        | none => s.tl.head.map fun a => ⟨a, 0⟩) := by
  rw [hr]
  refine ⟨rfl, if_neg hmode, rfl, fun hrec => ?_⟩
  rw [← hgate, ← hhead]
  exact cutPoint_recorded hsplice hrec

/-- A second break leaves the result of the first. -/
theorem engineBreak_again {r : SpliceResult} (hsplice : s.eng.splice = none)
    (hr : s.eng.results.getLast? = some r ∨ (s.eng.state.breakable = false ∧ r ∈ s.eng.results)) :
    (engineBreak s).eng.splice = none ∧ r ∈ (engineBreak s).eng.results := by
  have hpunch := punchOpen_none hsplice
  cases hrun : s.eng.state.breakable with
  | false =>
    rw [engineBreak_idle hpunch hrun]
    exact ⟨hsplice, hr.elim List.mem_of_getLast? And.right⟩
  | true =>
    have hlast := hr.resolve_right fun h => absurd (h.1.symm.trans hrun) (by decide)
    have hsame : spliceBroken s = s := endSplice_none hsplice ..
    rw [engineBreak_runs hpunch hrun, hsame]
    obtain ⟨hkeeps, -, hresults⟩ := breakLay_keeps s
    obtain ⟨k, b, f, hframe⟩ := unprepared_frame s
    have hgoes := heldOver_goesOn (unprepared s)
    rw [hgoes.splice, hgoes.results, hframe]
    exact ⟨hkeeps.trans hsplice, hresults r hlast⟩

/-- The break that comes first: its result is the last, or the engine takes no second one. -/
theorem engineBreak_first {sp : Splice} (h : s.eng.splice = some sp)
    (hbreak : punchOpen s = true ∨ s.eng.state = .waiting ∨ s.eng.state = .splicing ∨ s.eng.state = .finishing) :
    ∃ r, r = spliceResult sp (brokenAs s) none (cutPoint s) false s ∧ ((engineBreak s).eng.results.getLast? = some r
      ∨ ((engineBreak s).eng.state.breakable = false ∧ r ∈ (engineBreak s).eng.results)) := by
  cases hpunch : punchOpen s with
  | true =>
    rw [engineBreak_punch hpunch]
    exact ⟨_, rfl, .inl (endSplice_getLast h ..)⟩
  | false =>
    have hrun := hbreak.resolve_left (by rw [hpunch]; decide)
    obtain ⟨r, hr, hresult⟩ := (engineBreak_breaks h hbreak).result
    exact ⟨r, hresult, .inr ⟨(engineBreak_rests hpunch hrun).settled, hr⟩⟩

/-! ### What leaves PLAY -/

/-- The posting leaves PLAY. -/
def leaving (q : Posting) (s : State) : Prop := s.tl.mode = .play ∧ q.mode ≠ .play

theorem relayed_eng_holds (h : losing q s = false) : (relayed q s).eng = s.eng := by
  obtain ⟨-, -, heng, -, -, -⟩ := jogSync_rest (moved (s.tl.posted q s.geo.d) s)
  rw [relayed_holds h, heng, moved_eng]

theorem relayed_eng_loses (h : losing q s = true) : (relayed q s).eng = (lockBroken q s).eng ∧ (relayed q s).notices = (lockBroken q s).notices := by
  obtain ⟨-, -, heng, -, -, hnotices⟩ := jogSync_rest (cutGate .lock (lockBroken q s))
  have hcut := cutGate_cut (.inr rfl) (lockBroken q s)
  rw [relayed_loses h]
  exact ⟨heng.trans hcut.eng, hnotices.trans hcut.notices⟩

theorem relayed_source_loses (h : losing q s = true) : (relayed q s).intake.source = (lockBroken q s).intake.source := by
  have hjog := jogSync_frame (cutGate .lock (lockBroken q s))
  have hcut := (cutGate_cutWork (c := .lock) rfl (lockBroken q s)).frame
  rw [relayed_loses h]
  generalize cutGate .lock (lockBroken q s) = v at hjog hcut
  generalize jogSync v = t at hjog
  have hintake : t.intake = v.intake := (congrArg State.intake hjog :)
  rw [hintake]
  exact (congrArg (fun x : State => x.intake.source) hcut :)

/-- The splice of a posting that leaves PLAY ends BROKEN (R149). -/
theorem leaves_breaks (hleaving : leaving q s) {sp : Splice} (hsplice : s.eng.splice = some sp)
    (hbreak : punchOpen s = true ∨ s.eng.state = .waiting ∨ s.eng.state = .splicing ∨ s.eng.state = .finishing) :
    BrokeSplice s sp (engineBreak (relayed q s)) := by
  obtain ⟨hmode, -, -, -⟩ := posted_mode s.tl q s.geo.d
  obtain ⟨hhead, -⟩ := posted_heads s.tl q s.geo.d
  have hrelayed := relayed_relayed q s
  have hout : (s.tl.posted q s.geo.d).mode ≠ .play := by rw [hmode]; exact hleaving.2
  cases hloss : losing q s with
  | false =>
    have heng := relayed_eng_holds hloss
    have hgate : (relayed q s).gate = s.gate := by rw [hrelayed.gate, hloss, if_neg Bool.false_ne_true]
    have hpunch : punchOpen (relayed q s) = punchOpen s := by rw [punchOpen, punchOpen, heng]
    have hsplice' : (relayed q s).eng.splice = some sp := by rw [heng]; exact hsplice
    have hends := engineBreak_breaks hsplice' (by rw [hpunch, heng]; exact hbreak)
    obtain ⟨r, hr, hresult⟩ := hends.result
    exact ⟨hends.splice, r, hr, brokenResult hsplice' (by rw [hrelayed.tl]; exact hout) hgate (by rw [hrelayed.tl]; exact hhead) hresult⟩
  | true =>
    have heng := moved_eng (s.tl.posted q s.geo.d) s
    have hmtl := moved_tl (s.tl.posted q s.geo.d) s
    have hgate : (moved (s.tl.posted q s.geo.d) s).gate = s.gate := (congrArg State.gate (moved_frame _ s) :)
    have hpunch : punchOpen (moved (s.tl.posted q s.geo.d) s) = punchOpen s := by rw [punchOpen, punchOpen, heng]
    have hsplice' : (moved (s.tl.posted q s.geo.d) s).eng.splice = some sp := by rw [heng]; exact hsplice
    have hbreak' : punchOpen (moved (s.tl.posted q s.geo.d) s) = true ∨ (moved (s.tl.posted q s.geo.d) s).eng.state = .waiting
        ∨ (moved (s.tl.posted q s.geo.d) s).eng.state = .splicing ∨ (moved (s.tl.posted q s.geo.d) s).eng.state = .finishing := by
      rw [hpunch, heng]
      exact hbreak
    obtain ⟨r, hresult, hr⟩ := engineBreak_first hsplice' hbreak'
    have hnone := (engineBreak_breaks hsplice' hbreak').splice
    have hlost := (relayed_eng_loses hloss).1
    have hagain := engineBreak_again (s := relayed q s) (r := r) (by rw [hlost]; exact hnone) (by rw [hlost]; exact hr)
    exact ⟨hagain.1, r, hagain.2, brokenResult hsplice' (by rw [hmtl]; exact hout) hgate (by rw [hmtl]; exact hhead) hresult⟩

/-- The program of a posting that leaves PLAY is held, or done (R149). -/
theorem leaves_rests (hpunch : punchOpen s = false) (hrun : s.eng.state = .waiting ∨ s.eng.state = .splicing ∨ s.eng.state = .finishing)
    (q : Posting) : Rested s (engineBreak (relayed q s)) := by
  have hsame : ∀ {m : State}, m.eng = s.eng → ∀ {t}, Rested m t → Rested s t := fun {m} heng {t} h => by
    have hpending : ∀ i, pendingEntry m i = pendingEntry s i := fun i => by rw [pendingEntry, pendingEntry, heng]
    refine ⟨h.prepared, h.source, fun hf => h.finished (by rw [heng]; exact hf), fun hnot ⟨i, e, he, hother, hlay⟩ =>
      h.held (by rw [heng]; exact hnot) ⟨i, e, (hpending i).trans he, fun sp hsp => hother sp (by rw [← heng]; exact hsp), hlay⟩, h.settled⟩
  cases hloss : losing q s with
  | false =>
    have heng := relayed_eng_holds hloss
    have hpunch' : punchOpen (relayed q s) = false := by rw [punchOpen, heng]; exact hpunch
    exact hsame heng (engineBreak_rests hpunch' (by rw [heng]; exact hrun))
  | true =>
    have heng := moved_eng (s.tl.posted q s.geo.d) s
    have hpunch' : punchOpen (moved (s.tl.posted q s.geo.d) s) = false := by rw [punchOpen, heng]; exact hpunch
    have hrun' : (moved (s.tl.posted q s.geo.d) s).eng.state = .waiting ∨ (moved (s.tl.posted q s.geo.d) s).eng.state = .splicing
        ∨ (moved (s.tl.posted q s.geo.d) s).eng.state = .finishing := by
      rw [heng]
      exact hrun
    have hfirst := engineBreak_rests hpunch' hrun'
    have hlost := (relayed_eng_loses hloss).1
    have hnone : (relayed q s).eng.splice = none := by
      rw [hlost, lockBroken, engineBreak_runs hpunch' ((breakable_iff _).mpr hrun'), (heldOver_goesOn _).splice]
      obtain ⟨k, b, f, hframe⟩ := unprepared_frame (spliceBroken (moved (s.tl.posted q s.geo.d) s))
      rw [hframe]
      exact (breakLay_keeps _).1.trans (spliceBroken_splice _)
    have hidle : engineBreak (relayed q s) = relayed q s := engineBreak_idle (punchOpen_none hnone) (by rw [hlost]; exact hfirst.settled)
    have hhere := hsame heng hfirst
    rw [hidle]
    refine ⟨by rw [hlost]; exact hhere.prepared, by rw [relayed_source_loses hloss]; exact hhere.source, fun hf => ?_, fun hnot hp => ?_, ?_⟩
    · rw [hlost]
      exact hhere.finished hf
    · rw [hlost]
      exact hhere.held hnot hp
    · rw [hlost]
      exact hhere.settled

end Sys2Proof.Postings
end

section
/-! SUPPORT. What a posting keeps of the slots, and the obligation on POST TRANSPORT (R10, R11, R31, R34, R48, R149). -/

namespace Sys2Proof.PostingTaken
open Sys2Proof.Machine Sys2Proof.StepLaws Sys2Proof.SpliceEnds Sys2Proof.StoreCommands Sys2Proof.BlockWork Sys2Proof.GateCuts
open Sys2Proof.CutSlots Sys2Proof.SlotSteps Sys2Proof.EngineBreaks Sys2Proof.LockLoss Sys2Proof.LeavePlay Sys2Proof.Readers
open Sys2Proof.PostedTimeline Sys2Proof.SectorStorage Sys2Proof.ProgramStops Sys2Proof.ConcealEnd Sys2Proof.Postings

variable {R O F : SlotId → Prop} {q : Posting} {s t : State}

/-! ### The parts of a posting -/

/-- The state after PLAY has been left, where it is. -/
def departed (q : Posting) (s : State) : State :=
  if s.tl.mode = .play ∧ q.mode ≠ .play then leavePlay (relayed q s) else relayed q s

/-- The state in which PLAY has been entered, where it is. -/
def entered (q : Posting) (s : State) : State :=
  if s.tl.mode ≠ .play ∧ q.mode = .play then enterPlay (departed q s) else departed q s

theorem takePosting_eq (q : Posting) (s : State) : takePosting q s = readersFollow (entered q s) := rfl

theorem departed_leaves (h : leaving q s) : departed q s = leavePlay (relayed q s) := if_pos h

theorem departed_stays (h : ¬leaving q s) : departed q s = relayed q s := if_neg h

/-- Entering PLAY forgets the output position only. -/
theorem entered_frame (q : Posting) (s : State) :
    { entered q s with mon := { (entered q s).mon with outPos := (departed q s).mon.outPos } } = departed q s := by
  unfold entered
  split <;> rfl

theorem entered_outPos (q : Posting) (s : State) : (entered q s).mon.outPos =
    if s.tl.mode ≠ .play ∧ q.mode = .play then none else (departed q s).mon.outPos := by
  unfold entered
  split <;> rfl

theorem departed_tl (q : Posting) (s : State) : (¬leaving q s → (departed q s).tl = s.tl.posted q s.geo.d)
    ∧ (leaving q s → (departed q s).tl = (s.tl.posted q s.geo.d).unreckoned) := by
  have htl := (relayed_relayed q s).tl
  refine ⟨fun h => by rw [departed_stays h, htl], fun h => ?_⟩
  have hlaying : (relayed q s).tl.state ≠ .laying := by
    rw [htl]
    intro hl
    have hmode := ((posted_heads s.tl q s.geo.d).2.2.2.2 hl).2
    exact h.2 (hmode.symm.trans h.1)
  rw [departed_leaves h, leavePlay_tl hlaying, htl]

theorem departed_channels (q : Posting) (s : State) : SameChannels s (departed q s) ∧ (departed q s).clock = s.clock
    ∧ (departed q s).mon.outPos = s.mon.outPos := by
  have hrelayed := relayed_relayed q s
  by_cases h : leaving q s
  · have hleft := leavePlay_left (relayed q s)
    rw [departed_leaves h]
    exact ⟨⟨hleft.pre.trans hrelayed.channels.1, hleft.conf.trans hrelayed.channels.2⟩, hleft.clock.trans hrelayed.clock,
      hleft.outPos.trans hrelayed.outPos⟩
  · rw [departed_stays h]
    exact ⟨hrelayed.channels, hrelayed.clock, hrelayed.outPos⟩

/-- Both ways in which the channels follow. -/
theorem readersFollow_steps (hR : ∀ ch j, AssemblySlot s ch j → R j) (hO : ∀ j, Decoded s j → O j) :
    FollowWork s (readersFollow s) ∧ Steps R O (fun j => ∃ ch, AssemblySlot (readersFollow s) ch j) s (readersFollow s) := by
  cases hread : reading s.tl.mode with
  | false =>
    have h : AllStop R O (fun j => ∃ ch, AssemblySlot (readersFollow s) ch j) s (readersFollow s) := readersFollow_stop hread hR hO
    exact ⟨h.work, h.steps⟩
  | true =>
    have h : AllRead R O s (readersFollow s) := readersFollow_read hread
    exact ⟨h.work, h.steps⟩

/-- What the whole posting keeps of the state with the timeline's record: the window, the fetches, and each slot step by step. -/
theorem takePosting_steps (hcoded : CodedSlots R (relayed q s).coding)
    (hintake : ∀ f j, s.intake.frame = some f → f.slot = some j → R j) (hassembly : ∀ ch j, AssemblySlot s ch j → R j) :
    Steps R (fun _ => True) (fun _ => True) (relayed q s) (takePosting q s) := by
  have hrelayed := relayed_relayed q s
  have hdeparted : Steps R (fun _ => True) (fun _ => True) (relayed q s) (departed q s) := by
    by_cases h : leaving q s
    · rw [departed_leaves h]
      exact leavePlay_steps hcoded (by rw [hrelayed.frame]; exact hintake) fun _ => trivial
    · rw [departed_stays h]
      exact .refl _
  have hframe := entered_frame q s
  have hentered : Steps R (fun _ => True) (fun _ => True) (departed q s) (entered q s) :=
    .still (congrArg State.slots hframe :) (congrArg State.order hframe :) (congrArg State.jog hframe :) (congrArg State.fetch hframe :)
  have hslots : ∀ ch j, AssemblySlot (entered q s) ch j → R j := fun ch j hj => by
    have hcapture : capture (entered q s) ch = capture s ch := by
      refine Eq.trans ?_ ((departed_channels q s).1.capture ch)
      cases ch with
      | preRead => exact (congrArg State.pre hframe :)
      | confidence => exact (congrArg State.conf hframe :)
    rw [AssemblySlot, hcapture] at hj
    exact hassembly ch j hj
  rw [takePosting_eq]
  exact (hdeparted.trans hentered).trans
    (Steps.mono (readersFollow_steps (O := fun _ => True) hslots fun _ _ => trivial).2 (fun _ h => h) (fun _ h => h) fun _ _ => trivial)

theorem takePosting_tl (q : Posting) (s : State) : (takePosting q s).tl = (departed q s).tl
    ∧ (takePosting q s).clock = (departed q s).clock := by
  have hwork := (readersFollow_steps (s := entered q s) (R := fun _ => True) (O := fun _ => True) (fun _ _ _ => trivial)
    fun _ _ => trivial).1.frame
  have hframe := entered_frame q s
  rw [takePosting_eq]
  exact ⟨(congrArg State.tl hwork :).trans (congrArg State.tl hframe :), (congrArg State.clock hwork :).trans (congrArg State.clock hframe :)⟩

/-- The records beside the timeline, the slots and the channels, from the state that PLAY has been left in. -/
theorem takePosting_rest (q : Posting) (s : State) : let t := takePosting q s
    t.gate = (departed q s).gate ∧ t.coding = (departed q s).coding ∧ t.intake = (departed q s).intake ∧ t.judge = (departed q s).judge
      ∧ t.eng = (departed q s).eng ∧ t.mon.outPos = (entered q s).mon.outPos := by
  intro t
  have hwork := (readersFollow_steps (s := entered q s) (R := fun _ => True) (O := fun _ => True) (fun _ _ _ => trivial)
    fun _ _ => trivial).1.frame
  have hframe := entered_frame q s
  have ht : t = readersFollow (entered q s) := takePosting_eq q s
  rw [ht]
  exact ⟨(congrArg State.gate hwork :).trans (congrArg State.gate hframe :), (congrArg State.coding hwork :).trans
    (congrArg State.coding hframe :), (congrArg State.intake hwork :).trans (congrArg State.intake hframe :),
    (congrArg State.judge hwork :).trans (congrArg State.judge hframe :), (congrArg State.eng hwork :).trans
    (congrArg State.eng hframe :), (congrArg (fun x : State => x.mon.outPos) hwork :)⟩

/-! ### The window (R31, R34, R35) -/

theorem relayed_window (q : Posting) (s : State) : windowPins (relayed q s) ∧ scrubFollows s (relayed q s) := timelineSet_window ..

/-- The same record of the timeline, but for its heads. -/
theorem takePosting_place (q : Posting) (s : State) : (takePosting q s).tl.mode = (relayed q s).tl.mode
    ∧ (takePosting q s).tl.state = (relayed q s).tl.state ∧ (takePosting q s).tl.position = (relayed q s).tl.position := by
  obtain ⟨hstays, hleaves⟩ := departed_tl q s
  rw [(takePosting_tl q s).1, (relayed_relayed q s).tl]
  by_cases h : leaving q s
  · rw [hleaves h]
    exact ⟨rfl, rfl, rfl⟩
  · rw [hstays h]
    exact ⟨rfl, rfl, rfl⟩

theorem takePosting_window (q : Posting) (s : State) : let t := takePosting q s
    windowFollows t ∧ scrubFollows s t ∧ (∀ i : SlotId, t.slots[i].due = true → blocked t i = true)
      ∧ ∀ i : SlotId, t.slots[i].pinned = true → windowCovers t t i := by
  intro t
  obtain ⟨⟨hfollows, hpins, hdue⟩, hscrub⟩ := relayed_window q s
  have hsteps : Steps (fun _ => True) (fun _ => True) (fun _ => True) (relayed q s) (takePosting q s) :=
    takePosting_steps (fun _ _ _ _ => trivial) (fun _ _ _ _ => trivial) fun _ _ _ => trivial
  obtain ⟨hjog, -⟩ := hsteps.window
  obtain ⟨hmode, hstate, hposition⟩ := takePosting_place q s
  have hclock : t.clock = (relayed q s).clock :=
    (takePosting_tl q s).2.trans ((departed_channels q s).2.1.trans (relayed_relayed q s).clock.symm)
  refine ⟨?_, ?_, hsteps.dueBlocked hdue, fun i hi => ?_⟩
  · unfold windowFollows at hfollows ⊢
    rw [hjog, hmode, hstate, hposition]
    exact hfollows
  · unfold scrubFollows at hscrub ⊢
    rw [hjog, hposition, hclock]
    exact hscrub
  · obtain ⟨hpin, hnew⟩ := hsteps.pins hi
    obtain ⟨w, a, hw, hlow, hhigh, hnewest⟩ := (hpins i).mp hpin
    exact ⟨w, a, by rw [hjog]; exact hw, hlow, by rw [hjog]; exact hhigh, hnew a hnewest⟩

end Sys2Proof.PostingTaken
end

section
/-! SUPPORT. The obligation on POST TRANSPORT: what a posting makes of the pins, and what it abandons (R10, R11, R31, R34, R48, R149). -/

namespace Sys2Proof.PostTransport
open Sys2Proof.Machine Sys2Proof.StepLaws Sys2Proof.SpliceEnds Sys2Proof.StoreCommands Sys2Proof.BlockWork Sys2Proof.GateCuts
open Sys2Proof.CutSlots Sys2Proof.SlotSteps Sys2Proof.EngineBreaks Sys2Proof.LockLoss Sys2Proof.LeavePlay Sys2Proof.Readers
open Sys2Proof.PostedTimeline Sys2Proof.SectorStorage Sys2Proof.ProgramStops Sys2Proof.ConcealEnd Sys2Proof.Postings
open Sys2Proof.PostingTaken

variable {R O F : SlotId → Prop} {q : Posting} {s t : State}

/-! ### The pins (R31, R34) -/

/-- The order of the slots gains only slots that are filled. -/
theorem Steps.mem_order {i : SlotId} (h : Steps R O F s t) (hi : i ∈ t.order) : i ∈ s.order ∨ F i := by
  induction h with
  | still _ horder _ _ => exact .inl (horder ▸ hi)
  | release j _ => exact .inl (List.mem_of_mem_erase hi)
  | @settle v j _ =>
    cases hb : blocked v j with
    | true =>
      rw [releaseOrDue_blocked hb] at hi
      exact .inl hi
    | false =>
      rw [releaseOrDue_free hb] at hi
      exact .inl (List.mem_of_mem_erase hi)
  | @fill v j role hj _ _ =>
    rcases List.mem_append.mp hi with h | h
    · exact .inl (List.mem_of_mem_erase h)
    · exact .inr (List.mem_singleton.mp h ▸ hj)
  | trans _ _ ih ik => exact (ik hi).elim ih .inr

theorem losing_tl (h : losing q s = true) : ¬((takePosting q s).tl.mode = .jog
    ∧ ((takePosting q s).tl.state = .locked ∨ (takePosting q s).tl.state = .coasting)) := by
  rintro ⟨-, hstate⟩
  rw [(takePosting_place q s).2.1, (relayed_relayed q s).tl] at hstate
  exact ((loses_iff ..).mp h).2 (hstate.elim .inl fun hc => .inr (.inl hc))

/-- The state that the window is synchronised in has the slots and the order of `s`. -/
theorem moved_slots (u : Timeline) (s : State) : (moved u s).slots = s.slots ∧ (moved u s).order = s.order
    ∧ (moved u s).fetch = s.fetch ∧ (moved u s).coding = s.coding := by
  have hframe := moved_frame u s
  exact ⟨(congrArg State.slots hframe :), (congrArg State.order hframe :), (congrArg State.fetch hframe :), (congrArg State.coding hframe :)⟩

/-- Without a lock loss the posting settles the pins, slot by slot. -/
theorem relayed_settled (h : losing q s = false) (i : SlotId) : pinSettled s (relayed q s) i := by
  obtain ⟨hslots, horder, hfetch, -⟩ := moved_slots (s.tl.posted q s.geo.d) s
  rw [relayed_holds h]
  exact pinSettled_congr (jogSync_settled _ i) (by rw [hslots]) hfetch horder rfl rfl

theorem relayed_covers (h : losing q s = false) {i : SlotId} (hcovers : windowCovers (relayed q s) s i) :
    (relayed q s).slots[i].pinned = true := by
  obtain ⟨hslots, horder, -, -⟩ := moved_slots (s.tl.posted q s.geo.d) s
  rw [relayed_holds h] at hcovers ⊢
  refine (jogSync_pinned _ i).mpr ?_
  unfold windowCovers newestAt at hcovers ⊢
  rwa [hslots, horder]

theorem relayed_coding (h : losing q s = false) : (relayed q s).coding = s.coding := by
  rw [relayed_holds h]
  exact (jogSync_rest _).2.1.trans (moved_slots ..).2.2.2

/-- A slot that the new window covers is pinned, unless it is abandoned. -/
theorem takePosting_covers {i : SlotId} (hcovers : windowCovers (takePosting q s) s i)
    (hintake : ∀ f, s.intake.frame = some f → f.slot ≠ some i) (hcoding : ∀ op ∈ s.coding, ∀ b, op.begun = some b → b.slot ≠ some i)
    (hassembly : ∀ ch f, (capture s ch).assembly = some f → f.slot ≠ some i) : (takePosting q s).slots[i].pinned = true := by
  obtain ⟨w, a, hw, hlow, hhigh, hnewest⟩ := hcovers
  cases hloss : losing q s with
  | true =>
    have hwindow : windowFollows (takePosting q s) := (takePosting_window q s).1
    rw [windowFollows, if_neg (losing_tl hloss)] at hwindow
    exact absurd (hwindow.symm.trans hw) nofun
  | false =>
    have hsteps : Steps (· ≠ i) (fun _ => True) (fun _ => True) (relayed q s) (takePosting q s) := by
      refine takePosting_steps (fun op hop j hj hji => ?_) (fun f j hf hj hji => hintake f hf (hji ▸ hj))
        fun ch j ⟨f, hf, hj⟩ hji => hassembly ch f hf (hji ▸ hj)
      rw [relayed_coding hloss] at hop
      unfold CodingOp.codedSlot at hj
      cases hbegun : op.begun with
      | none => rw [hbegun] at hj; exact absurd hj nofun
      | some b => rw [hbegun] at hj; exact hcoding op hop b hbegun (hji ▸ hj)
    obtain ⟨hjog, -⟩ := hsteps.window
    have hpinned := relayed_covers hloss ⟨w, a, hjog ▸ hw, hlow, hjog ▸ hhigh, hnewest⟩
    have hslot := (relayed_settled hloss i).1 (.inr (.inr (.inr hpinned)))
    have hpre := hnewest.1.1
    rw [Slot.isPreRead, Bool.and_eq_true, beq_iff_eq] at hpre
    exact (hsteps.keeps_pin (fun h => h rfl) (by rw [hslot]; exact hpre.1) hpinned).2

/-- A slot that stays without a move of the channels is settled as the window asks. -/
theorem takePosting_settled (hstays : ¬leaving q s) (hloss : losing q s = false) {i : SlotId}
    (hassembly : ∀ ch f, (capture s ch).assembly = some f ∨ (capture (takePosting q s) ch).assembly = some f → f.slot ≠ some i)
    (hdecoded : s.slots[i].state = .decoded → s.slots[i].role ≠ some .confidence) : pinSettled s (takePosting q s) i := by
  have hsettled := relayed_settled hloss i
  have hframe := entered_frame q s
  rw [departed_stays hstays] at hframe
  have hslots : (entered q s).slots = (relayed q s).slots := (congrArg State.slots hframe :)
  have horder : (entered q s).order = (relayed q s).order := (congrArg State.order hframe :)
  have hcapture : ∀ ch, capture (entered q s) ch = capture s ch := fun ch => by
    refine Eq.trans ?_ ((relayed_relayed q s).channels.capture ch)
    cases ch with
    | preRead => exact (congrArg State.pre hframe :)
    | confidence => exact (congrArg State.conf hframe :)
  have hold : ¬Decoded (entered q s) i := by
    rintro ⟨hstate, hrole⟩
    rw [hslots] at hstate hrole
    by_cases hkept : s.slots[i].due = false ∨ s.slots[i].isHeld = true ∨ (∃ p f, s.fetch.get p = .inFlight f ∧ f.slot = i)
        ∨ (relayed q s).slots[i].pinned = true
    · rw [hsettled.1 hkept] at hstate hrole
      exact hdecoded hstate hrole
    · rw [(hsettled.2 hkept).1] at hstate
      exact absurd hstate nofun
  have hsteps : Steps (fun j => ∃ ch, AssemblySlot (entered q s) ch j) (Decoded (entered q s))
      (fun j => ∃ ch, AssemblySlot (takePosting q s) ch j) (entered q s) (takePosting q s) :=
    (readersFollow_steps (fun ch j hj => ⟨ch, hj⟩) fun j hj => hj).2
  have hfilled : ¬∃ ch, AssemblySlot (takePosting q s) ch i := fun ⟨ch, f, hf, hslot⟩ => hassembly ch f (.inr hf) hslot
  have hslot : (takePosting q s).slots[i] = (relayed q s).slots[i] := by
    rw [hsteps.untouched (fun ⟨ch, f, hf, hslot⟩ => hassembly ch f (.inl (hcapture ch ▸ hf)) hslot) hold hfilled, hslots]
  unfold pinSettled at hsettled ⊢
  rw [hslot]
  refine ⟨hsettled.1, fun hgoes => ⟨(hsettled.2 hgoes).1, fun hnodup hmem => ?_⟩⟩
  have hbefore := (Steps.mem_order hsteps hmem).resolve_right hfilled
  rw [horder] at hbefore
  exact (hsettled.2 hgoes).2 hnodup hbefore

/-! ### What a posting that leaves PLAY abandons (R30, R88, R99, R106, R149) -/

/-- What a posting that leaves PLAY leaves of the Coding Path, the judge list and the engine. -/
structure Abandons (s t : State) : Prop where
  coding : t.coding = []
  frame : t.intake.frame = none
  judge : t.judge = (s.judge.filter (·.designated)).map fun e =>
    if s.gate.state ≠ .closed ∧ s.gate.write.map (·.slot) = some e.slot then { e with partly := true } else e
  coded : ∀ i : SlotId, s.slots[i].state = .coded → (∀ e ∈ s.judge, e.slot = i → e.designated = false) → blocked s i = false →
    t.slots[i].state ≠ .coded
  intake : ∀ f i, s.intake.frame = some f → f.slot = some i → t.slots[i].role ≠ some .intake
  splice : (punchOpen s = true ∨ s.eng.state = .waiting ∨ s.eng.state = .splicing ∨ s.eng.state = .finishing) →
    ∀ sp, s.eng.splice = some sp → BrokeSplice s sp t
  program : punchOpen s = false → (s.eng.state = .waiting ∨ s.eng.state = .splicing ∨ s.eng.state = .finishing) → Rested s t

/-- The slots from the state that PLAY has been left in. -/
theorem departed_steps (q : Posting) (s : State) :
    Steps (fun _ => True) (fun _ => True) (fun _ => True) (departed q s) (takePosting q s) := by
  have hframe := entered_frame q s
  have hfollow : Steps (fun _ => True) (fun _ => True) (fun _ => True) (entered q s) (takePosting q s) :=
    Steps.mono (readersFollow_steps (fun _ _ _ => trivial) fun _ _ => trivial).2 (fun _ h => h) (fun _ h => h) fun _ _ => trivial
  exact hfollow.ofStill (congrArg State.slots hframe :) (congrArg State.order hframe :) (congrArg State.jog hframe :) (congrArg State.fetch hframe :)

theorem takePosting_abandons (h : leaving q s) : Abandons s (takePosting q s) := by
  have hrelayed := relayed_relayed q s
  have hleft := leavePlay_left (relayed q s)
  have hsteps := departed_steps q s
  obtain ⟨-, hcoding, hintake, hjudge, heng, -⟩ := takePosting_rest q s
  rw [departed_leaves h] at hsteps hcoding hintake hjudge heng
  refine ⟨hcoding.trans hleft.coding, by rw [hintake, hleft.frame], ?_, fun i hstate hawaits hfree hcoded => ?_, fun f i hf hslot hrole => ?_,
    fun hbreak sp hsp => ?_, fun hpunch hrun => ?_⟩
  · rw [hjudge, hleft.judge, hrelayed.judge]
    exact cutJudge_filter s
  · have hpre := coded_isPreRead hstate
    have hbefore := hsteps.had (p := fun x => x.state = .coded) nofun (fun _ hx => hx) (fun _ _ _ => nofun) hcoded
    have hfrees := hrelayed.frees i hpre hfree
    have hunblocked := hfrees.unblocked hfree
    rcases hfrees.slot with hslot | hslot
    · rw [leavePlay_uncodes (by rw [hslot]; exact hstate) (fun e he heq => ?_) hunblocked] at hbefore
      · exact absurd hbefore nofun
      · obtain ⟨x, hx, hxslot, hxdes⟩ := hrelayed.entries e he
        exact hxdes ▸ hawaits x hx (hxslot.trans heq)
    · rw [(leavePlay_frees hunblocked).stays_reset hslot] at hbefore
      exact absurd hbefore nofun
  · have hbefore := hsteps.had (p := fun x => x.role = some .intake) nofun (fun _ hx => hx) (fun role _ hne hx => hne (Option.some.inj hx)) hrole
    exact leavePlay_intake (hrelayed.frame.trans hf) hslot hbefore
  · obtain ⟨hnone, hresult⟩ := leaves_breaks h hsp hbreak
    exact ⟨by rw [heng, hleft.eng, hnone], by rw [heng, hleft.eng]; exact hresult⟩
  · obtain ⟨hprepared, hsource, hfinished, hheld, hsettled⟩ := leaves_rests hpunch hrun q
    have heng' : (takePosting q s).eng = (engineBreak (relayed q s)).eng := heng.trans hleft.eng
    refine ⟨by rw [heng']; exact hprepared, by rw [hintake, hleft.source]; exact hsource, fun hf => by rw [heng']; exact hfinished hf,
      fun hnot hp => by rw [heng']; exact hheld hnot hp, by rw [heng']; exact hsettled⟩

/-! ### The channels (R48) -/

theorem entered_mode (q : Posting) (s : State) : (entered q s).tl.mode = q.mode := by
  have hframe := entered_frame q s
  have hplace := (takePosting_place q s).1
  rw [(takePosting_tl q s).1, (relayed_relayed q s).tl, (posted_mode ..).1] at hplace
  exact (congrArg (fun x : State => x.tl.mode) hframe :).trans hplace

theorem reading_iff (m : Mode) : reading m = false ↔ m = .stop ∨ m = .spool := by cases m <;> simp [reading]

theorem entered_capture (q : Posting) (s : State) (ch : HeadStream) : capture (entered q s) ch = capture s ch := by
  have hframe := entered_frame q s
  refine Eq.trans ?_ ((departed_channels q s).1.capture ch)
  cases ch with
  | preRead => exact (congrArg State.pre hframe :)
  | confidence => exact (congrArg State.conf hframe :)

theorem takePosting_stops (h : q.mode = .stop ∨ q.mode = .spool) (ch : HeadStream) : let t := takePosting q s
    (capture t ch).assembly = none ∧ (capture t ch).closing = (capture s ch).closing ∧ (capture t ch).stats = (capture s ch).stats
      ∧ ((capture s ch).closing = [] → (capture t ch).reference = none ∧ (capture t ch).headless = 0)
      ∧ ∀ f i, (capture s ch).assembly = some f → f.slot = some i → t.slots[i] = Slot.reset := by
  have hread : reading (entered q s).tl.mode = false := by rw [entered_mode]; exact (reading_iff _).mpr h
  have hall : AllStop (fun _ => True) (fun _ => True) (fun _ => False) (entered q s) (takePosting q s) :=
    readersFollow_stop hread (fun _ _ _ => trivial) fun _ _ => trivial
  obtain ⟨hassembly, hclosing, hstats, hidle⟩ := idled_bare (capture s ch)
  have hcapture := hall.capture ch
  rw [entered_capture] at hcapture
  intro t
  rw [show capture t ch = _ from hcapture]
  exact ⟨hassembly, hclosing, hstats, hidle, fun f i hf hslot => hall.reset ch i ⟨f, by rw [entered_capture]; exact hf, hslot⟩⟩

theorem takePosting_reads (hstop : q.mode ≠ .stop) (hspool : q.mode ≠ .spool) (ch : HeadStream) : let t := takePosting q s
    ((capture s ch).assembly.isSome = true ∨ (capture s ch).closing ≠ [] → capture t ch = capture s ch)
      ∧ ((capture s ch).assembly = none → (capture s ch).closing = [] → ∃ f, (capture t ch).assembly = some f
        ∧ f.addr = none ∧ (∀ k, k < 10 → entryAt f.entries k = .missing) ∧ f.p = [] ∧ f.q = []
        ∧ ∀ i, f.slot = some i → t.slots[i].state = .filling ∧ t.slots[i].layout = s.clock.rate ∧ t.slots[i].role = some (chanRole ch)) := by
  have hread : reading (entered q s).tl.mode = true := by
    rw [entered_mode]
    exact Bool.eq_true_of_not_eq_false fun h => ((reading_iff _).mp h).elim hstop hspool
  have hall : AllRead (fun _ => True) (fun _ => True) (entered q s) (takePosting q s) := readersFollow_read hread
  have hbusy := hall.busy ch
  have hbegun := hall.begun ch
  rw [entered_capture] at hbusy hbegun
  refine ⟨hbusy, fun hassembly hclosing => ?_⟩
  obtain ⟨f, hf, hempty, hslot⟩ := hbegun hassembly hclosing
  have hclock : (entered q s).clock = s.clock := (congrArg State.clock (entered_frame q s) :).trans (departed_channels q s).2.1
  rw [hclock] at hslot
  refine ⟨f, hf, by rw [hempty]; rfl, fun k hk => ?_, by rw [hempty]; rfl, by rw [hempty]; rfl, hslot⟩
  rw [hempty]
  interval_cases k <;> rfl

/-! ### The notices of a stop (R18) -/

theorem takePosting_notices (h : q.mode = .stop ∨ q.mode = .spool) (hlocked : s.tl.state = .locked) (hsplice : s.eng.splice = none)
    (hrun : ¬(s.eng.state = .waiting ∨ s.eng.state = .splicing ∨ s.eng.state = .finishing)) :
    (takePosting q s).notices = (post .lockChange 0 (some s.tl.position) none s).notices := by
  have hparks := posted_parks (t := s.tl) (d := s.geo.d) h
  have hloss : losing q s = true := (loses_iff ..).mpr ⟨.inl hlocked, by rw [hparks]; nofun⟩
  have hstill : lockBroken q s = moved (s.tl.posted q s.geo.d) s :=
    engineBreak_still (by rw [moved_eng]; exact hsplice) (by rw [moved_eng]; exact hrun)
  obtain ⟨heng, hnotices⟩ := relayed_eng_loses hloss
  have hposition : (s.tl.posted q s.geo.d).position = s.tl.position := by
    rw [hparks]
    exact park_position_still (t := s.tl.record q) (by rw [show (s.tl.record q).state = s.tl.state from rfl, hlocked]; nofun)
  have hrelayed : (relayed q s).notices = (post .lockChange 0 (some s.tl.position) none s).notices := by
    rw [hnotices, hstill, moved_notices, if_pos ⟨hlocked, by rw [hparks]; nofun⟩, hposition]
  have hdeparted : (departed q s).notices = (relayed q s).notices := by
    by_cases hleaving : leaving q s
    · rw [departed_leaves hleaving, (leavePlay_left _).notices, engineBreak_still]
      · rw [heng, hstill, moved_eng, hsplice]
      · rw [heng, hstill, moved_eng]
        exact hrun
    · rw [departed_stays hleaving]
  have hread : reading (entered q s).tl.mode = false := by rw [entered_mode]; exact (reading_iff _).mpr h
  have hall : AllStop (fun _ => True) (fun _ => True) (fun _ => False) (entered q s) (takePosting q s) :=
    readersFollow_stop hread (fun _ _ _ => trivial) fun _ _ => trivial
  exact (hall.notices.trans (congrArg State.notices (entered_frame q s) :)).trans (hdeparted.trans hrelayed)

/-! ### The timeline's record and the gate (R11, R104) -/

theorem takePosting_record (q : Posting) (s : State) : let t := takePosting q s
    { t.tl with head := s.tl.head, confHead := s.tl.confHead, offered := s.tl.offered } = s.tl.posted q s.geo.d
      ∧ (¬leaving q s → t.tl = s.tl.posted q s.geo.d)
      ∧ (leaving q s → t.tl.head = none ∧ t.tl.confHead = none ∧ t.tl.offered = none)
      ∧ t.tl.mode = q.mode ∧ t.tl.dir = q.dir.getD s.tl.dir ∧ t.tl.ratio = q.ratio.getD s.tl.ratio
      ∧ t.tl.speed = q.speed.getD s.tl.speed := by
  obtain ⟨hstays, hleaves⟩ := departed_tl q s
  obtain ⟨hhead, hconf, hoffered, -, -⟩ := posted_heads s.tl q s.geo.d
  intro t
  rw [show t.tl = (departed q s).tl from (takePosting_tl q s).1]
  have hsettings := posted_mode s.tl q s.geo.d
  by_cases h : leaving q s
  · rw [hleaves h, ← hhead, ← hconf, ← hoffered]
    exact ⟨rfl, fun hnot => absurd h hnot, fun _ => ⟨rfl, rfl, rfl⟩, hsettings⟩
  · rw [hstays h, ← hhead, ← hconf, ← hoffered]
    exact ⟨rfl, fun _ => rfl, fun hl => absurd hl h, hsettings⟩

theorem takePosting_gate (q : Posting) (s : State) : (leaving q s ∨ losing q s = true → (takePosting q s).gate = s.gate.cut)
    ∧ (¬leaving q s → losing q s = false → (takePosting q s).gate = s.gate) := by
  have hgate := (takePosting_rest q s).1
  have hrelayed := (relayed_relayed q s).gate
  by_cases h : leaving q s
  · rw [departed_leaves h, (leavePlay_left _).gate, hrelayed] at hgate
    refine ⟨fun _ => hgate.trans ?_, fun hnot => absurd h hnot⟩
    split
    · exact cut_cut _
    · rfl
  · rw [departed_stays h, hrelayed] at hgate
    exact ⟨fun hl => hgate.trans (if_pos (hl.resolve_left h)), fun _ hl => hgate.trans (if_neg (by rw [hl]; decide))⟩

theorem takePosting_settings (q : Posting) (s : State) :
    { settingsOf (takePosting q s) with timeline := s.tl.settings } = settingsOf s := by
  have h := (takePosting_after q s).settings
  rw [h]
  rfl

theorem takePosting_outPos (q : Posting) (s : State) :
    (takePosting q s).mon.outPos = if s.tl.mode ≠ .play ∧ q.mode = .play then none else s.mon.outPos := by
  obtain ⟨-, -, -, -, -, houtPos⟩ := takePosting_rest q s
  rw [houtPos, entered_outPos, (departed_channels q s).2.2]

/-! ### The command -/

theorem postTransport_permitted (p : Port) : permitted p 0x10 = true := by cases p <;> rfl

/-- Settles O10: the timeline's step, the leave of PLAY and the channels' step each keep what the next one needs. -/
theorem postTransport : Obligations.PostTransport := by
  refine ⟨⟨postingOf_bytes, fun p mode dir arg s hnone => ?refused⟩, fun p mode dir arg q s hq => ?taken⟩
  case refused =>
    refine command_runs (postTransport_permitted p) ?_
    rw [postBody, hnone]
  case taken =>
    intro u leaves loss running
    have hlossIff : losing q s = true ↔ loss := loses_iff ..
    have hnoLoss : ¬loss → losing q s = false := fun h => Bool.eq_false_iff.mpr fun hl => h (hlossIff.mp hl)
    obtain ⟨hrecord, hstays, hleaves, hmode, hdir, hratio, hspeed⟩ := takePosting_record q s
    obtain ⟨hfollows, hscrub, hdue, hpinned⟩ := takePosting_window q s
    obtain ⟨hcuts, hkeeps⟩ := takePosting_gate q s
    refine ⟨takePosting q s, command_runs (postTransport_permitted p) (by rw [postBody, hq]), hrecord, hmode, hdir, hratio, hspeed,
      takePosting_settings q s, hfollows, hscrub, hdue, hpinned, fun i hcovers hintake hcoding hassembly =>
        takePosting_covers hcovers hintake hcoding hassembly, fun hnot hno i hassembly hdecoded =>
        takePosting_settled hnot (hnoLoss hno) hassembly hdecoded, hstays, hleaves, fun h => hcuts (h.imp_right hlossIff.mpr),
      fun hnot hno => hkeeps hnot (hnoLoss hno), fun h => ?left, takePosting_outPos q s, fun h ch => takePosting_stops h ch,
      fun hstop hspool ch => ?reads, fun h hlocked hsplice hrun => takePosting_notices h hlocked hsplice hrun⟩
    case left =>
      obtain ⟨hcoding, hframe, hjudge, hcoded, hintake, hsplice, hprogram⟩ := takePosting_abandons h
      refine ⟨hcoding, hframe, hjudge, hcoded, hintake, fun hbreak sp hsp => ?_, fun hpunch hrun => ?_⟩
      · obtain ⟨hnone, hresult⟩ := hsplice hbreak sp hsp
        exact ⟨hnone, hresult⟩
      · obtain ⟨hprepared, hsource, hfinished, hheld, -⟩ := hprogram hpunch hrun
        exact ⟨hprepared, hsource, hfinished, hheld⟩
    case reads =>
      obtain ⟨hbusy, hbegun⟩ := takePosting_reads hstop hspool ch
      refine ⟨hbusy, fun hassembly hclosing => ?_⟩
      obtain ⟨f, hf, haddr, hentries, hp, hq, hslot⟩ := hbegun hassembly hclosing
      refine ⟨f, hf, haddr, hentries, hp, hq, fun i hi => ?_⟩
      cases ch <;> exact hslot i hi

end Sys2Proof.PostTransport
end

section
/-! SUPPORT. The parts of a close: its stages, the inherited header, the timeline's answer, and a cue's fire (R12, R13, R55 to R60, R167, R168). -/

namespace Sys2Proof.CloseParts
open Sys2Proof.Machine Sys2Proof.LockLoss Sys2Proof.TableRows

/-! ### The stages (R55 to R60) -/

/-- The sector entries that a close keeps: what is set aside and what is rebuilt applied (R55, R56). -/
def keptEntries (cf : ClosingFrame) (m : Memory) : Vector SectorEntry 10 :=
  (applyRebuild (recover (setAside cf.frame.entries) m cf.frame.p cf.frame.q) m (setAside cf.frame.entries)).2

theorem closeStages_header (s : State) (c : Capture) (cf : ClosingFrame) (m : Memory) : (closeStages s c cf m).header =
    (chosenHeader (keptEntries cf m)).getD (inherited s c cf (min 31 (c.headless + 1))) := by
  unfold keptEntries closeStages saturate
  dsimp only

theorem closeStages_valid (s : State) (c : Capture) (cf : ClosingFrame) (m : Memory) :
    (closeStages s c cf m).valid = (chosenHeader (keptEntries cf m)).isSome := by
  unfold keptEntries closeStages
  dsimp only

theorem closeStages_bad (s : State) (c : Capture) (cf : ClosingFrame) (m : Memory) : (closeStages s c cf m).bad =
    if (closeStages s c cf m).header.rate = s.clock.rate
    then ⟨badPositions (keptEntries cf m) s.clock.rate .left, badPositions (keptEntries cf m) s.clock.rate .right⟩
    else ⟨List.range (framePairs s.clock.rate), List.range (framePairs s.clock.rate)⟩ := by
  rw [closeStages_header]
  unfold keptEntries closeStages saturate
  dsimp only

theorem mem_badPositions (e : Vector SectorEntry 10) (r : Rate) (c : Chan) (n : Nat) :
    n ∈ badPositions e r c ↔ n < framePairs r ∧ (entryAt e (sectorOf r c n)).isGood = false := by
  rw [badPositions, List.mem_filter, List.mem_range, Bool.not_eq_true']

/-- Which positions a close leaves bad (R57, R60). -/
theorem closeStages_mem_bad (s : State) (c : Capture) (cf : ClosingFrame) (m : Memory) (ch : Chan) (n : Nat) :
    ((closeStages s c cf m).header.rate = s.clock.rate → (n ∈ (closeStages s c cf m).bad.get ch ↔
      n < framePairs s.clock.rate ∧ (entryAt (keptEntries cf m) (sectorOf s.clock.rate ch n)).isGood = false))
    ∧ ((closeStages s c cf m).header.rate ≠ s.clock.rate →
      (n ∈ (closeStages s c cf m).bad.get ch ↔ n < framePairs s.clock.rate)) := by
  rw [closeStages_bad]
  refine ⟨fun h => ?_, fun h => ?_⟩
  · rw [if_pos h]
    cases ch <;> exact mem_badPositions ..
  · rw [if_neg h]
    cases ch <;> exact List.mem_range

/-- Which header a close chooses (R58, R59). -/
theorem closeStages_chosen (s : State) (c : Capture) (cf : ClosingFrame) (m : Memory) :
    (∀ h, chosenHeader (keptEntries cf m) = some h → (closeStages s c cf m).header = h ∧ (closeStages s c cf m).valid = true)
    ∧ (chosenHeader (keptEntries cf m) = none → (closeStages s c cf m).valid = false
      ∧ (closeStages s c cf m).header = inherited s c cf (min 31 (c.headless + 1))) := by
  rw [closeStages_header, closeStages_valid]
  refine ⟨fun h hh => ?_, fun hnone => ?_⟩
  · rw [hh]
    exact ⟨rfl, rfl⟩
  · rw [hnone]
    exact ⟨rfl, rfl⟩

/-! ### The inherited header (R59) -/

theorem inherited_none {s : State} {c : Capture} {cf : ClosingFrame} {run : Nat} (h : c.reference = none) :
    inherited s c cf run = ⟨none, none, s.clock.rate, .never, 0, .none, false⟩ := by
  simp only [inherited, h]
  split <;> rfl

theorem inherited_some {s : State} {c : Capture} {cf : ClosingFrame} {r : Header} (h : c.reference = some r) (run : Nat) :
    inherited s c cf run = if s.tl.coastLimit < run
      then { r with addr := r.addr.bind (travelAddr cf.mode cf.dir), tc := none, mark := .never }
      else { r with addr := r.addr.bind (travelAddr cf.mode cf.dir), tc := r.tc.map (travelTimecode cf.mode cf.dir) } := by
  simp only [inherited, h]

/-- The address moves with the travel (R59). -/
theorem travelAddr_bind (m : Mode) (d : Dir) (o : Option Nat) : o.bind (travelAddr m d) = match m, d with
    | .jog, _ => o
    | .shuttle, .reverse => o.bind fun a => if a = 0 then none else some (a - 1)
    | _, _ => o.bind fun a => if a + 1 < 2592000 then some (a + 1) else none := by
  have hon : ∀ a : Nat, (if legalAddr (a + 1) = true then some (a + 1) else none)
      = if a + 1 < 2592000 then some (a + 1) else none := fun a => if_congr (by exact decide_eq_true_iff) rfl rfl
  cases m <;> cases d <;> cases o <;> simp only [travelAddr, Option.bind_none, Option.bind_some, hon]

theorem travelTimecode_map (m : Mode) (d : Dir) (o : Option Timecode) : o.map (travelTimecode m d) = match m, d with
    | .jog, _ => o
    | .shuttle, .reverse => o.map Timecode.prev
    | _, _ => o.map Timecode.next := by
  cases m <;> cases d <;> cases o <;> rfl

/-! ### The timeline's answer to a close (R12, R13, R16, R17) -/

section
variable {tl : Timeline}

/-- JOG coasts in place, PLAY by a frame. -/
theorem coasted_moves (h : tl.mode = .play ∨ tl.mode = .jog) (n : Nat) : coasted n tl =
    if tl.mode = .jog then { tl with state := .coasting, coast := n }
    else if tl.position + 1 < 2592000
    then { tl with state := .coasting, coast := n, position := tl.position + 1, timecode := tl.timecode.map Timecode.next }
    else tl.unlock := by
  rcases h with h | h
  · rw [if_neg (by rw [h]; decide), coasted_play h]
  · rw [if_pos h]
    have hx : tl.extrapolate = some tl := by
      unfold Timeline.extrapolate
      rw [h]
    rw [coasted, hx]

theorem afterClose_none (h : tl.mode = .play ∨ tl.mode = .jog) :
    tl.afterClose none = if tl.state = .laying then tl else tl.coastOn := by
  rcases h with h | h <;> simp only [Timeline.afterClose, h, Option.bind_none]

theorem afterClose_headed (h : tl.mode = .play ∨ tl.mode = .jog) {x : Header} {a : Nat} (ha : x.addr = some a) :
    tl.afterClose (some x) = tl.closeHeaded x a := by
  rcases h with h | h <;> simp only [Timeline.afterClose, h, Option.bind_some, ha, Option.map_some]

theorem afterClose_shuttle (h : tl.mode = .shuttle) :
    tl.afterClose none = tl ∧ ∀ (x : Header) (a : Nat), x.addr = some a → tl.afterClose (some x) = tl.shuttleHeaded x a := by
  refine ⟨?_, fun x a ha => ?_⟩
  · simp only [Timeline.afterClose, h, Option.bind_none]
  · simp only [Timeline.afterClose, h, Option.bind_some, ha, Option.map_some]

/-- A parked or LAYING timeline, and STOP and SPOOL, take no close. -/
theorem afterClose_still (h : tl.mode = .stop ∨ tl.mode = .spool ∨ (tl.mode = .play ∨ tl.mode = .jog) ∧ (tl.state = .parked ∨ tl.state = .laying))
    (v : Option Header) : tl.afterClose v = tl := by
  have hmoves : (tl.mode = .play ∨ tl.mode = .jog) → (tl.state = .parked ∨ tl.state = .laying) → tl.afterClose v = tl := fun hm hs => by
    have hclosed : ∀ x a, tl.closeHeaded x a = tl := fun x a => by
      rcases hs with hs | hs <;> simp only [Timeline.closeHeaded, hs]
    have hnone : (if tl.state = .laying then tl else tl.coastOn) = tl := by
      split
      · rfl
      · exact coastOn_still (hs.elim (fun h => .inr (.inl h)) fun h => .inr (.inr h))
    cases v with
    | none => exact (afterClose_none hm).trans hnone
    | some x =>
      cases ha : x.addr with
      | none =>
        have hsame : tl.afterClose (some x) = tl.afterClose none := by
          simp only [Timeline.afterClose, Option.bind_some, Option.bind_none, ha, Option.map_none]
        rw [hsame, afterClose_none hm, hnone]
      | some a => exact (afterClose_headed hm ha).trans (hclosed x a)
  rcases h with h | h | ⟨hm, hs⟩
  · simp only [Timeline.afterClose, h]
  · simp only [Timeline.afterClose, h]
  · exact hmoves hm hs

theorem expectedAfter_iff (m : Mode) (d : Dir) (ref a : Nat) : expectedAfter m d ref a = true ↔ match m, d with
    | .jog, .forward => a = ref ∨ a = ref + 1
    | .jog, .reverse => a = ref ∨ a + 1 = ref
    | _, _ => a = ref + 1 := by
  cases m <;> cases d <;> simp [expectedAfter]

/-- A close with a valid header, by the state (R12, R13). -/
theorem closeHeaded_states (h : Header) (a : Nat) :
    let restart : Timeline := { tl with state := .acquiring, candidate := some a, run := 1, coast := 0, tapeRate := some h.rate }
    let locked : Timeline := { tl with
      state := .locked, position := a, timecode := h.tc, tapeRate := some h.rate, coast := 0, candidate := none, run := 0 }
    (tl.state = .unlocked → tl.closeHeaded h a = restart)
    ∧ (tl.state = .acquiring → tl.closeHeaded h a = if expectedAfter tl.mode tl.dir (tl.candidate.getD tl.position) a
        then if 3 ≤ tl.run + 1 then locked else { tl with candidate := some a, run := tl.run + 1, tapeRate := some h.rate } else restart)
    ∧ (tl.state = .locked ∨ tl.state = .coasting → tl.closeHeaded h a =
        if expectedAfter tl.mode tl.dir tl.position a then locked else restart) := by
  refine ⟨fun hs => ?_, fun hs => ?_, fun hs => ?_⟩
  · simp only [Timeline.closeHeaded, hs]
  · simp only [Timeline.closeHeaded, hs]
  · rcases hs with hs | hs <;> simp only [Timeline.closeHeaded, hs]

theorem coastOn_enters : tl.coastOn = tl ∨ tl.coastOn.state ≠ .laying := by
  by_cases h : tl.state = .locked ∨ tl.state = .coasting ∨ tl.state = .acquiring
  · exact .inr (coastOn_laying h)
  · refine .inl (coastOn_still ?_)
    revert h
    cases tl.state <;> decide

theorem closeHeaded_enters (h : Header) (a : Nat) : tl.closeHeaded h a = tl ∨ (tl.closeHeaded h a).state ≠ .laying := by
  obtain ⟨hunlocked, hacquiring, hplaced⟩ := closeHeaded_states (tl := tl) h a
  cases hs : tl.state with
  | parked => exact .inl (by simp only [Timeline.closeHeaded, hs])
  | laying => exact .inl (by simp only [Timeline.closeHeaded, hs])
  | unlocked => exact .inr (by rw [hunlocked hs]; nofun)
  | acquiring =>
    rw [hacquiring hs]
    split
    · split
      · exact .inr nofun
      · exact .inr fun h => absurd (hs.symm.trans h) nofun
    · exact .inr nofun
  | locked =>
    rw [hplaced (.inl hs)]
    split <;> exact .inr nofun
  | coasting =>
    rw [hplaced (.inr hs)]
    split <;> exact .inr nofun

/-- A close never enters LAYING. -/
theorem afterClose_enters (v : Option Header) : tl.afterClose v = tl ∨ (tl.afterClose v).state ≠ .laying := by
  unfold Timeline.afterClose
  split
  · exact closeHeaded_enters ..
  · exact closeHeaded_enters ..
  · exact .inr nofun
  · split
    · exact .inl rfl
    · exact coastOn_enters
  · split
    · exact .inl rfl
    · exact coastOn_enters
  · exact .inl rfl

end

/-! ### A cue that fires (R167, R168) -/

theorem startRehearse_acts {s : State} (h : s.eng.version < 65536) :
    ActsAs (.startProgram .deck 1 1 (BitVec.ofNat 16 s.eng.version)) s (startProgram .rehearse 1 none s) := by
  have hversion : (BitVec.ofNat 16 s.eng.version).toNat = s.eng.version := by
    rw [BitVec.toNat_ofNat, Nat.mod_eq_of_lt h]
  have hcurrent : startProgram .rehearse 1 (some s.eng.version) s = startProgram .rehearse 1 none s := by simp [startProgram]
  refine ⟨(startBody 1 1 s.eng.version s).2, ?_, ?_, congrArg Settings.framers (startProgram_step (Move.refl s) ..).settings⟩
  · show (if (startProgram .rehearse 1 (some s.eng.version) s).2 = .accepted then (_ : Reply) else _).code = _
    rw [hcurrent]
    split
    · next haccepted => exact haccepted.symm
    · rfl
  · show Host.Outcome.next (command .deck 0x53 true (startBody 1 (1 : Byte).toNat (BitVec.ofNat 16 s.eng.version).toNat) s) = _
    rw [command_permitted (permitted_deck _), hversion, ← hcurrent]
    rfl

/-- The Deck Port's command that a cue's action stands for (R168). -/
def cueCommand (s : State) : CueAction → Instr
  | .startRecord => .startProgram .deck 0 1 (BitVec.ofNat 16 s.eng.version)
  | .startRehearse => .startProgram .deck 1 1 (BitVec.ofNat 16 s.eng.version)
  | .stopAtEnd => .stopProgramAtEnd .deck
  | .punchToggle => if punchOpen s then .punchOut .deck else .punchIn .deck
  | .notify | .stopNow => .stopProgramNow .deck

theorem cueAction_acts {s : State} (hversion : s.eng.version < 65536) {a : CueAction} (h : a ≠ .notify) :
    ActsAs (cueCommand s a) s (cueAction a s) := by
  cases a with
  | notify => exact absurd rfl h
  | startRecord => exact startRecord_acts hversion
  | startRehearse => exact startRehearse_acts hversion
  | stopAtEnd => exact stopAtEnd_acts s
  | stopNow => exact stopNow_acts s
  | punchToggle =>
    show ActsAs (if punchOpen s then .punchOut .deck else .punchIn .deck) s (if punchOpen s then punchOut s else punchIn s)
    split
    · exact punchOut_acts s
    · exact punchIn_acts s

theorem fireCue_eq (i : Fin 24) (v : Timecode) (addr : Option Nat) (s : State) : fireCue i v addr s =
    post .cueFired i.val addr (refusalCode (cueAction s.cues[i].action s).2) (setCue i
      { (cueAction s.cues[i].action s).1.cues[i] with
        lastFiring := some ⟨v, addr, (cueAction s.cues[i].action s).2⟩
        armed := (cueAction s.cues[i].action s).1.cues[i].armed && (cueAction s.cues[i].action s).1.cues[i].rep == .rep }
      (cueAction s.cues[i].action s).1) := rfl

theorem fireCue_commands {s : State} {i : Fin 24} (hversion : s.eng.version < 65536) (h : s.cues[i].action ≠ .notify) (v : Timecode)
    (addr : Option Nat) : ∃ d x, exec (cueCommand s s.cues[i].action) s = .next (answer .deck d x) ∧ x.framers = s.framers
      ∧ fireCue i v addr s = post .cueFired i.val addr (if d.code = .done ∨ d.code = .accepted then none else some d.code)
        (setCue i { x.cues[i] with lastFiring := some ⟨v, addr, d.code⟩, armed := x.cues[i].armed && x.cues[i].rep == .rep } x) := by
  obtain ⟨d, hcode, hrun, hframers⟩ := cueAction_acts hversion h
  exact ⟨d, _, hrun, hframers, by rw [fireCue_eq, hcode, refusalCode_eq]⟩

end Sys2Proof.CloseParts
end

section
/-! SUPPORT. A frame that arrives keeps its slot through a cut, a stop, a start and a punch, and so do the channels (R99, R151 to R156, R168). -/

namespace Sys2Proof.CueActs
open Sys2Proof.Machine Sys2Proof.StepLaws Sys2Proof.SpliceEnds Sys2Proof.StoreCommands Sys2Proof.BlockWork Sys2Proof.GateCuts
open Sys2Proof.CutSlots Sys2Proof.SlotSteps Sys2Proof.LeavePlay Sys2Proof.ProgramStops Sys2Proof.EngineBreaks

variable {i : SlotId} {s t u : State}

/-! ### A slot that no operation has -/

/-- An operation with another slot in the intake and another CODED slot. -/
def OpAway (i : SlotId) (op : CodingOp) : Prop := op.intake.slot ≠ some i ∧ op.codedSlot ≠ some i

/-- A slot that is FILLING, for no operation of the Coding Path. -/
def Away (i : SlotId) (s : State) : Prop := s.slots[i].state = .filling ∧ ∀ op ∈ s.coding, OpAway i op

/-- From `s` to `t` slots other than `i` are released. -/
def OtherSteps (i : SlotId) (s t : State) : Prop := Steps (· ≠ i) (· ≠ i) (fun _ => False) s t

/-- A slot that no operation has stays as it is. -/
def Spares (i : SlotId) (s t : State) : Prop := Away i s → OtherSteps i s t ∧ ∀ op ∈ t.coding, OpAway i op

theorem OtherSteps.slot (h : OtherSteps i s t) : t.slots[i] = s.slots[i] := h.untouched (fun h => h rfl) (fun h => h rfl) id

theorem Spares.away (h : Spares i s t) (hs : Away i s) : Away i t := by
  obtain ⟨hsteps, hcoding⟩ := h hs
  exact ⟨by rw [hsteps.slot]; exact hs.1, hcoding⟩

theorem Spares.trans (h : Spares i s t) (k : Spares i t u) : Spares i s u := fun hs => by
  obtain ⟨hsteps, hcoding⟩ := k (h.away hs)
  exact ⟨(h hs).1.trans hsteps, hcoding⟩

theorem Spares.ofStill (hslots : t.slots = s.slots) (horder : t.order = s.order) (hjog : t.jog = s.jog) (hfetch : t.fetch = s.fetch)
    (hcoding : t.coding = s.coding) : Spares i s t := fun hs => ⟨.still hslots horder hjog hfetch, by rw [hcoding]; exact hs.2⟩

theorem EngWork.spares (h : EngWork s t) : Spares i s t :=
  .ofStill h.slots h.order (congrArg State.jog h.frame :) (congrArg State.fetch h.frame :) h.coding

/-! ### A cut of the gate -/

theorem releaseOpt_other {o : Option SlotId} (h : o ≠ some i) (s : State) : OtherSteps i s (releaseOpt o s) := by
  cases o with
  | none => exact .refl s
  | some j => exact .settle j fun hji => h (congrArg some hji)

theorem abandonSlot_other {o : Option SlotId} (h : o ≠ some i) (s : State) : OtherSteps i s (abandonSlot o s) :=
  abandonSlot_steps (fun j hj => fun hji : j = i => h (hj.trans (congrArg some hji))) s

theorem abandonOps_spares (f : CodingOp → Bool) (s : State) : Spares i s (abandonOps f s) := fun hs => by
  have hdrop : ∀ v, ∀ op ∈ s.coding.filter f, OtherSteps i v (dropOp op v) := fun v op hop => by
    obtain ⟨hintake, hcoded⟩ := hs.2 op (List.mem_of_mem_filter hop)
    exact (abandonSlot_other hcoded v).trans (releaseOpt_other hintake _)
  refine ⟨(Steps.still (s := s) (t := { s with coding := s.coding.filter fun op => !f op }) rfl rfl rfl rfl).trans (.foldl hdrop _), ?_⟩
  rw [(abandonOps_work f s).coding]
  exact fun op hop => hs.2 op (List.mem_of_mem_filter hop)

theorem opAway_slotless (i : SlotId) {op : CodingOp} (h : OpAway i op) : OpAway i op.slotless := by
  refine ⟨h.1, ?_⟩
  unfold CodingOp.slotless CodingOp.codedSlot
  cases op.begun <;> nofun

theorem releaseUnwritten_spares (s : State) : Spares i s (releaseUnwritten s) := fun hs => by
  have hall : OtherSteps i s (releaseAll (unwritten s) s) := releaseAll_steps (fun j hj hji => by
    have hstate := (mem_unwritten.mp hj).1
    rw [hji, hs.1] at hstate
    exact absurd hstate nofun) s
  have hcoding : (releaseAll (unwritten s) s).coding = s.coding := (releaseAll_work (unwritten s) s).coding
  have hleft := (releaseFilling_work (releaseAll (unwritten s) s)).coding
  refine ⟨hall.trans ?_, ?_⟩
  · unfold releaseUnwritten releaseFilling
    rw [hcoding]
    generalize releaseAll (unwritten s) s = v
    exact (Steps.foldl (fun w op hop => abandonSlot_other (hs.2 op hop).2 w) _).ofStill rfl rfl rfl rfl
  · unfold releaseUnwritten
    rw [hleft, hcoding]
    intro op hop
    obtain ⟨x, hx, rfl⟩ := List.mem_map.mp hop
    exact opAway_slotless i (hs.2 x hx)

theorem closeByCut_spares (s : State) : Spares i s (closeByCut s) := by
  have hmark : Spares i s (closeGate (markPartial s)) := by
    rw [markPartial_eq]
    exact .ofStill rfl rfl rfl rfl rfl
  exact ((hmark.trans (abandonOps_spares (fun op => op.tag.isSome && op.tag == s.gate.holder) _)).trans (releaseUnwritten_spares _)).trans
    (.ofStill rfl rfl rfl rfl rfl)

theorem cutGate_spares {c : CutCause} (hc : CutCause.plain c = true) (s : State) : Spares i s (cutGate c s) := by
  by_cases hclosed : s.gate.state = .closed
  · unfold cutGate
    rw [if_pos hclosed]
    cases c with
    | transport | lock => exact releaseUnwritten_spares s
    | stop | reset => exact .ofStill rfl rfl rfl rfl rfl
    | clock | fault | guarded | store => exact nomatch hc
  · rw [cutGate_open hclosed hc]
    exact closeByCut_spares s

/-! ### What a cue's action changes (R168) -/

/-- From `s` to `t` the engine, the gate, the Coding Path, the banks and the monitor work; every other block's record stays. -/
structure CueWork (s t : State) : Prop where
  frame : { t with
    fresh := s.fresh, notices := s.notices, tl := s.tl, banks := s.banks, eng := s.eng, slots := s.slots, order := s.order
    coding := s.coding, gate := s.gate, judge := s.judge, intake := s.intake, mon := s.mon } = s

theorem CueWork.trans (h : CueWork s t) (k : CueWork t u) : CueWork s u :=
  ⟨(congrArg (fun x : State => { x with
    fresh := s.fresh, notices := s.notices, tl := s.tl, banks := s.banks, eng := s.eng, slots := s.slots, order := s.order
    coding := s.coding, gate := s.gate, judge := s.judge, intake := s.intake, mon := s.mon }) k.frame).trans h.frame⟩

theorem GateWork.cueWork (h : GateWork s t) : CueWork s t :=
  ⟨(congrArg (fun x : State => { x with intake := s.intake, mon := s.mon }) h.frame :)⟩

/-- An action that leaves slot `i`, where no operation has it. -/
structure Acts (i : SlotId) (s t : State) : Prop where
  work : CueWork s t
  spares : Spares i s t

theorem Acts.refl (i : SlotId) (s : State) : Acts i s s := ⟨⟨rfl⟩, .ofStill rfl rfl rfl rfl rfl⟩

theorem Acts.trans (h : Acts i s t) (k : Acts i t u) : Acts i s u := ⟨h.work.trans k.work, h.spares.trans k.spares⟩

theorem Acts.ite {c : Prop} [Decidable c] (h : c → Acts i s t) (k : ¬c → Acts i s u) : Acts i s (if c then t else u) := by
  split
  · exact h ‹_›
  · exact k ‹_›

theorem EngWork.acts (h : EngWork s t) : Acts i s t := ⟨GateWork.cueWork h.gateWork, EngWork.spares h⟩

/-! ### The stops (R151, R152) -/

theorem stopSplice_acts (i : SlotId) (s : State) : Acts i s (stopSplice s) := by
  have hcut : Acts i s (cutGate .stop s) := ⟨GateWork.cueWork (cutGate_gateWork ..), cutGate_spares rfl s⟩
  have hops : Acts i (cutGate .stop s) (abandonOps (fun op => op.tag.isSome && op.tag == s.eng.splice.map (·.tag)) (cutGate .stop s)) :=
    ⟨GateWork.cueWork (abandonOps_cutWork ..).gateWork, abandonOps_spares _ _⟩
  exact (hcut.trans hops).trans (EngWork.acts (endSplice_engWork ..))

theorem skipPending_engWork (s : State) : EngWork s (skipPending s) := by
  have hframe := (skipPending_skips s).frame
  generalize skipPending s = t at hframe
  exact ⟨(congrArg (fun x : State => { x with
    fresh := s.fresh, tl := s.tl, banks := s.banks
    intake := { x.intake with source := s.intake.source, fifo := s.intake.fifo, priming := s.intake.priming }
    mon := { x.mon with override := s.mon.override } }) hframe :)⟩

theorem endLay_engWork (s : State) : EngWork s (endLay s) := by
  unfold endLay
  exact .ite (fun _ => ⟨rfl⟩) fun _ => .refl s

theorem forgot_engWork (s : State) : EngWork s (forgot s) := ⟨rfl⟩

theorem dropProgram_engWork (s : State) : EngWork s (dropProgram s) := by
  have hskip := skipPending_engWork s
  rw [dropProgram_eq]
  generalize skipPending s = t at hskip
  exact ((hskip.trans (forgot_engWork t)).trans (spendAny_engWork _)).trans ((nameSource_engWork ..).trans (endLay_engWork _))

theorem dropAhead_engWork (s : State) : EngWork s (dropAhead s) := by
  have h1 := skipPending_engWork s
  unfold dropAhead
  generalize skipPending s = s1 at h1
  extract_lets _ s2 s3
  have h2 : EngWork s s2 := .ite (fun _ => h1.trans (spendAny_engWork _)) fun _ => h1
  have h3 : EngWork s s3 := .ite (fun _ => h2) fun _ => h2.trans (nameSource_engWork ..)
  clear_value s3
  exact h3.trans (forgot_engWork s3)

theorem opAway_final {op : CodingOp} (h : OpAway i op) :
    OpAway i { op with begun := op.begun.map fun b => { b with finalReq := true } } := by
  refine ⟨h.1, ?_⟩
  have hslot := h.2
  unfold CodingOp.codedSlot at hslot ⊢
  cases hbegun : op.begun with
  | none => nofun
  | some b =>
    rw [hbegun] at hslot
    exact hslot

theorem requestFinal_acts (i : SlotId) (s : State) : Acts i s (requestFinal s) := by
  have hengine : ∀ e : Engine, Acts i s { s with eng := e } := fun _ => ⟨⟨rfl⟩, .ofStill rfl rfl rfl rfl rfl⟩
  unfold requestFinal
  split
  · exact .refl i s
  · refine .ite (fun _ => .refl i s) fun _ => ?_
    split
    · next op rest hcoding =>
      refine .ite (fun _ => ⟨⟨rfl⟩, fun hs => ⟨.still rfl rfl rfl rfl, fun x hx => ?_⟩⟩) fun _ => hengine _
      have haway := hs.2
      rw [hcoding] at haway
      rcases List.mem_cons.mp hx with rfl | hx
      · exact opAway_final (haway op List.mem_cons_self)
      · exact haway x (List.mem_cons_of_mem _ hx)
    · exact hengine _

theorem stopNow_acts (i : SlotId) (s : State) : Acts i s (stopNow s).1 := by
  have hdrop : ∀ v, Acts i v (setEng .aborted (dropProgram v)) := fun v =>
    EngWork.acts ((dropProgram_engWork v).trans (setEng_engWork ..))
  cases hpunch : punchOpen s with
  | true =>
    rw [stopNow_punch hpunch]
    exact stopSplice_acts i s
  | false =>
    rw [stopNow_program hpunch]
    cases s.eng.state with
    | idle | done | aborted =>
      dsimp only
      exact .refl i s
    | armed | waiting | held =>
      dsimp only
      exact hdrop s
    | splicing | finishing =>
      dsimp only
      exact (stopSplice_acts i s).trans (hdrop _)

theorem stopAtEnd_acts (i : SlotId) (s : State) : Acts i s (stopAtEnd s).1 := by
  have hdrop : Acts i s (setEng .done (dropProgram s)) := EngWork.acts ((dropProgram_engWork s).trans (setEng_engWork ..))
  have hahead : Acts i s (setEng .finishing (dropAhead s)) := EngWork.acts ((dropAhead_engWork s).trans (setEng_engWork ..))
  cases hpunch : punchOpen s with
  | true =>
    unfold stopAtEnd
    rw [if_pos hpunch]
    exact requestFinal_acts i s
  | false =>
    rw [stopAtEnd_program hpunch]
    cases s.eng.state with
    | idle | done | aborted | finishing =>
      dsimp only
      exact .refl i s
    | armed | waiting | held =>
      dsimp only
      exact hdrop
    | splicing =>
      dsimp only
      exact hahead

/-! ### The starts and the punch (R135, R155, R156) -/

theorem acceptStart_engWork (m : RunMode) (passes : Nat) (s : State) : EngWork s (acceptStart m passes s) := by
  have hengine : ∀ (e : Engine) (v : State), EngWork v { v with eng := e } := fun _ _ => ⟨rfl⟩
  unfold acceptStart
  extract_lets take e s1 target _ s2
  have h2 : EngWork s s2 := (hengine _ s).trans (hengine _ _)
  clear_value s2
  split
  · exact h2
  · exact .ite (fun _ => (h2.trans (hengine _ s2)).trans ((nameSource_engWork ..).trans (setEng_engWork ..))) fun _ =>
      .ite (fun _ => h2.trans (setEng_engWork ..)) fun _ => h2.trans ((post_engWork ..).trans (setEng_engWork ..))

theorem startProgram_acts (i : SlotId) (m : RunMode) (passes : Nat) (version : Option Nat) (s : State) :
    Acts i s (startProgram m passes version s).1 := by
  unfold startProgram
  simp only [apply_ite Prod.fst]
  exact .ite (fun _ => .refl i s) fun _ => .ite (fun _ => .refl i s) fun _ => .ite (fun _ => .refl i s) fun _ =>
    .ite (fun _ => .refl i s) fun _ => .ite (fun _ => .refl i s) fun _ => EngWork.acts (acceptStart_engWork m passes s)

/-- The state in which a punch has its schedule's answer. -/
theorem schedule_acts (i : SlotId) (tag : SpliceTag) (first : Option Nat) (s : State) : Acts i s (schedule tag first s).2 := by
  unfold schedule
  split
  · exact .refl i s
  · exact ⟨⟨rfl⟩, .ofStill rfl rfl rfl rfl rfl⟩

theorem askBank_frame (s : State) : ∃ b, (askBank s).2 = { s with banks := b } := by
  obtain ⟨b, hb⟩ := spendPlaying_frame s
  unfold askBank
  rw [hb]
  dsimp only
  split
  · exact ⟨b, rfl⟩
  · split
    · exact ⟨b, rfl⟩
    · exact ⟨_, rfl⟩

theorem withdraw_acts (i : SlotId) (tag : SpliceTag) (s : State) : Acts i s (withdraw tag s) := by
  unfold withdraw
  exact .ite (fun _ => ⟨⟨rfl⟩, .ofStill rfl rfl rfl rfl rfl⟩) fun _ => .refl i s

theorem punchBank_acts (i : SlotId) (tag : SpliceTag) (s : State) : Acts i s (punchBank tag s) := by
  have hbank : ∀ b : Banks, Acts i s { s with intake := { s.intake with flyStart := none }, banks := b } := fun _ =>
    ⟨⟨rfl⟩, .ofStill rfl rfl rfl rfl rfl⟩
  have hends : ∀ (o : Outcome) (r : Option Reason) (kind : NoticeKind) (n : Nat) (v : State), Acts i v (endSplice o r none true
      (post kind n none none (withdraw tag v))) := fun o r kind n v =>
    (withdraw_acts i tag v).trans (EngWork.acts ((post_engWork ..).trans (endSplice_engWork ..)))
  obtain ⟨b, hb⟩ := askBank_frame { s with intake := { s.intake with flyStart := none } }
  unfold punchBank
  cases hask : askBank { s with intake := { s.intake with flyStart := none } } with
  | mk a v =>
    rw [hask] at hb
    obtain rfl : v = _ := hb
    cases a with
    | granted n => exact (hbank b).trans ⟨⟨rfl⟩, .ofStill rfl rfl rfl rfl rfl⟩
    | unavailable => exact (hbank b).trans (hends ..)
    | mismatch => exact (hbank b).trans (hends ..)

theorem postScheduleRefusal_engWork (c : ScheduleRefusal) (addr : Option Nat) (s : State) : EngWork s (postScheduleRefusal c addr s) := by
  cases c with
  | clock => exact post_engWork ..
  | busy | transport | lock => exact .refl s

theorem openPunch_acts (i : SlotId) (s : State) : Acts i s (openPunch s) := by
  unfold openPunch
  extract_lets take fade sp _ s1
  have h1 : Acts i s s1 := EngWork.acts ((nameSource_engWork ..).after ⟨rfl⟩)
  have h2 := h1.trans (schedule_acts i sp.tag none s1)
  clear_value s1
  cases hschedule : schedule sp.tag none s1 with
  | mk c v =>
    rw [hschedule] at h2
    cases c with
    | some c => exact h2.trans (EngWork.acts ((postScheduleRefusal_engWork ..).trans (endSplice_engWork ..)))
    | none => exact .ite (fun _ => h2.trans (punchBank_acts ..)) fun _ => h2

theorem punchToggle_acts (i : SlotId) (s : State) : Acts i s (punchToggle s).1 := by
  unfold punchToggle punchOut punchIn
  split
  · exact requestFinal_acts i s
  · split
    · exact .refl i s
    · split
      · exact .refl i s
      · exact openPunch_acts i s

theorem cueAction_acts (i : SlotId) (a : CueAction) (s : State) : Acts i s (cueAction a s).1 := by
  cases a with
  | notify => exact .refl i s
  | startRecord | startRehearse => exact startProgram_acts ..
  | stopAtEnd => exact stopAtEnd_acts i s
  | stopNow => exact stopNow_acts i s
  | punchToggle => exact punchToggle_acts i s

end Sys2Proof.CueActs
end

section
/-! SUPPORT. A matching pass: which entries fire, and what their fires leave (R165 to R168). -/

namespace Sys2Proof.CueFires
open Sys2Proof.Machine Sys2Proof.StepLaws Sys2Proof.SpliceEnds Sys2Proof.BlockWork Sys2Proof.SlotSteps Sys2Proof.CueActs Sys2Proof.CloseParts

variable {i : SlotId} {s t u : State} {v : Timecode} {addr : Option Nat}

/-- From `s` to `t` cues fire: with the cue table, what a cue's action may change. -/
structure MatchWork (s t : State) : Prop where
  frame : { t with
    fresh := s.fresh, notices := s.notices, tl := s.tl, banks := s.banks, eng := s.eng, slots := s.slots, order := s.order
    coding := s.coding, gate := s.gate, judge := s.judge, intake := s.intake, mon := s.mon, cues := s.cues } = s

theorem MatchWork.trans (h : MatchWork s t) (k : MatchWork t u) : MatchWork s u :=
  ⟨(congrArg (fun x : State => { x with
    fresh := s.fresh, notices := s.notices, tl := s.tl, banks := s.banks, eng := s.eng, slots := s.slots, order := s.order
    coding := s.coding, gate := s.gate, judge := s.judge, intake := s.intake, mon := s.mon, cues := s.cues }) k.frame).trans h.frame⟩

theorem CueWork.matchWork (h : CueWork s t) : MatchWork s t := ⟨(congrArg (fun x : State => { x with cues := s.cues }) h.frame :)⟩

/-- An entry that has fired. -/
def firedCue (c : Cue) (f : Firing) : Cue := { c with lastFiring := some f, armed := c.armed && c.rep == .rep }

/-- What the fires of a list of entries do. -/
structure Fires (i : SlotId) (v : Timecode) (addr : Option Nat) (l : List (Fin 24)) (s t : State) : Prop where
  work : MatchWork s t
  spares : Spares i s t
  tl : s.tl.state ≠ .laying → t.tl = s.tl
  stays : ∀ j : Fin 24, j ∉ l → t.cues[j] = s.cues[j]
  fired : ∀ j ∈ l, ∃ r, (s.cues[j].action = .notify → r = .done) ∧ t.cues[j] = firedCue s.cues[j] ⟨v, addr, r⟩

theorem setCue_same (j : Fin 24) (c : Cue) (s : State) : (setCue j c s).cues[j] = c := Vector.getElem_set_self j.isLt

theorem setCue_other {j k : Fin 24} (h : k ≠ j) (c : Cue) (s : State) : (setCue j c s).cues[k] = s.cues[k] :=
  Vector.getElem_set_ne j.isLt k.isLt fun heq => h (Fin.ext heq.symm)

theorem cueAction_cues (a : CueAction) (s : State) : (cueAction a s).1.cues = s.cues := by
  have hframe := (cueAction_acts 0 a s).work.frame
  generalize (cueAction a s).1 = t at hframe
  exact (congrArg State.cues hframe :)

theorem fireCue_cues (j : Fin 24) (v : Timecode) (addr : Option Nat) (s : State) :
    (fireCue j v addr s).cues[j] = firedCue s.cues[j] ⟨v, addr, (cueAction s.cues[j].action s).2⟩
      ∧ ∀ k : Fin 24, k ≠ j → (fireCue j v addr s).cues[k] = s.cues[k] := by
  have hcues := cueAction_cues s.cues[j].action s
  rw [fireCue_eq]
  generalize (cueAction s.cues[j].action s).2 = r
  generalize (cueAction s.cues[j].action s).1 = x at hcues
  refine ⟨?_, fun k hk => ?_⟩
  · show (setCue j _ x).cues[j] = _
    rw [setCue_same, hcues]
    rfl
  · show (setCue j _ x).cues[k] = _
    rw [setCue_other hk, hcues]

theorem fireCue_calm (j : Fin 24) (v : Timecode) (addr : Option Nat) (s : State) (h : s.tl.state ≠ .laying) :
    (fireCue j v addr s).tl = s.tl := by
  have hcalm : ∀ a, (cueAction a s).1.tl = s.tl := fun a => by
    cases a with
    | notify => rfl
    | startRecord | startRehearse => exact (startProgram_move ..).still h
    | stopAtEnd => exact (stopAtEnd_move s).still h
    | stopNow => exact (stopNow_move s).still h
    | punchToggle => exact (punchToggle_move s).still h
  exact hcalm _

theorem fireCue_fires (i : SlotId) (j : Fin 24) (v : Timecode) (addr : Option Nat) (s : State) :
    Fires i v addr [j] s (fireCue j v addr s) := by
  have hacts := cueAction_acts i s.cues[j].action s
  obtain ⟨hfired, hstays⟩ := fireCue_cues j v addr s
  refine ⟨?_, ?_, fireCue_calm j v addr s, fun k hk => hstays k (fun h => hk (List.mem_singleton.mpr h)), fun k hk => ?_⟩
  · rw [fireCue_eq]
    exact (CueWork.matchWork hacts.work).trans ⟨rfl⟩
  · rw [fireCue_eq]
    exact hacts.spares.trans (.ofStill rfl rfl rfl rfl rfl)
  · obtain rfl := List.mem_singleton.mp hk
    refine ⟨_, fun hnotify => ?_, hfired⟩
    rw [hnotify]
    rfl

theorem foldl_fires (i : SlotId) {l : List (Fin 24)} (hl : l.Nodup) (s : State) :
    Fires i v addr l s (l.foldl (fun u j => fireCue j v addr u) s) := by
  induction l generalizing s with
  | nil => exact ⟨⟨rfl⟩, .ofStill rfl rfl rfl rfl rfl, fun _ => rfl, fun _ _ => rfl, nofun⟩
  | cons j l ih =>
    obtain ⟨hj, hrest⟩ := List.nodup_cons.mp hl
    have hfirst := fireCue_fires i j v addr s
    have hthen := ih hrest (fireCue j v addr s)
    refine ⟨hfirst.work.trans hthen.work, hfirst.spares.trans hthen.spares, fun h => ?_, fun k hk => ?_, fun k hk => ?_⟩
    · have htl := hfirst.tl h
      exact (hthen.tl (by rw [htl]; exact h)).trans htl
    · rw [List.mem_cons, not_or] at hk
      exact (hthen.stays k hk.2).trans (hfirst.stays k fun h => hk.1 (List.mem_singleton.mp h))
    · by_cases hkl : k ∈ l
      · have hkeeps := hfirst.stays k fun h => hj (List.mem_singleton.mp h ▸ hkl)
        obtain ⟨r, hr, hcue⟩ := hthen.fired k hkl
        rw [hkeeps] at hr hcue
        exact ⟨r, hr, hcue⟩
      · obtain rfl := (List.mem_cons.mp hk).resolve_right hkl
        obtain ⟨r, hr, hcue⟩ := hfirst.fired k List.mem_cons_self
        exact ⟨r, hr, (hthen.stays k hkl).trans hcue⟩

/-- The entries that match a timecode, in increasing number. -/
def hits (v : Timecode) (l : List (Fin 24)) (s : State) : List (Fin 24) := l.filter fun j => s.cues[j].matches v

/-- A fire changes no other entry, so a pass fires what matches at its begin. -/
theorem foldl_hits {l : List (Fin 24)} (hl : l.Nodup) (s : State) :
    l.foldl (fun u j => if u.cues[j].matches v then fireCue j v addr u else u) s = (hits v l s).foldl (fun u j => fireCue j v addr u) s := by
  induction l generalizing s with
  | nil => rfl
  | cons j l ih =>
    obtain ⟨hj, hrest⟩ := List.nodup_cons.mp hl
    unfold hits
    cases hmatch : s.cues[j].matches v with
    | false =>
      rw [List.foldl_cons, hmatch, if_neg Bool.false_ne_true, List.filter_cons_of_neg (by rw [hmatch]; exact Bool.false_ne_true)]
      exact ih hrest s
    | true =>
      have hsame : hits v l (fireCue j v addr s) = hits v l s := List.filter_congr fun k hk => by
        rw [(fireCue_cues j v addr s).2 k fun h => hj (h ▸ hk)]
      rw [List.foldl_cons, hmatch, if_pos rfl, List.filter_cons_of_pos (by exact hmatch), List.foldl_cons, ih hrest,
        hsame]
      rfl

theorem matchPass_hits (v : Timecode) (addr : Option Nat) (s : State) :
    matchPass v addr s = (hits v (List.finRange 24) s).foldl (fun u j => fireCue j v addr u) s := foldl_hits (List.nodup_finRange 24) s

theorem mem_hits {j : Fin 24} : j ∈ hits v (List.finRange 24) s ↔ s.cues[j].matches v = true := by
  rw [hits, List.mem_filter]
  exact and_iff_right (List.mem_finRange j)

theorem matchPass_fires (i : SlotId) (v : Timecode) (addr : Option Nat) (s : State) :
    Fires i v addr (hits v (List.finRange 24) s) s (matchPass v addr s) := by
  rw [matchPass_hits]
  exact foldl_fires i ((List.nodup_finRange 24).filter _) s

theorem matchPass_none (h : ∀ j : Fin 24, ¬s.cues[j].matches v = true) : matchPass v addr s = s := by
  have hnil : hits v (List.finRange 24) s = [] := List.filter_eq_nil_iff.mpr fun j _ => h j
  rw [matchPass_hits, hnil]
  rfl

theorem matchPass_one {j : Fin 24} (h : ∀ k : Fin 24, s.cues[k].matches v = true ↔ k = j) : matchPass v addr s = fireCue j v addr s := by
  have hone : hits v (List.finRange 24) s = [j] := by
    have hsame : hits v (List.finRange 24) s = (List.finRange 24).filter (· == j) := List.filter_congr fun k _ =>
      Bool.eq_iff_iff.mpr ((h k).trans beq_iff_eq.symm)
    rw [hsame]
    exact (List.filter_beq j).trans (by rw [List.count_eq_one_of_mem (List.nodup_finRange 24) (List.mem_finRange j)]; rfl)
  rw [matchPass_hits, hone]
  rfl

theorem partMatches_iff (o : Option Nat) (n : Nat) : partMatches o n = true ↔ ∀ m, o = some m → m = n := by
  cases o <;> simp [partMatches]

theorem matches_iff (c : Cue) (v : Timecode) : c.matches v = true ↔ c.present = true ∧ c.armed = true
    ∧ (∀ n, c.hh = some n → n = v.hh) ∧ (∀ n, c.mm = some n → n = v.mm) ∧ (∀ n, c.ss = some n → n = v.ss)
    ∧ ∀ n, c.ff = some n → n = v.ff := by
  unfold Cue.matches
  simp only [Bool.and_eq_true, partMatches_iff, and_assoc]

end Sys2Proof.CueFires
end

section
/-! SUPPORT. The timeline's step at a close: the lock gained or lost, the engine with it, and the slots (R12, R13, R18, R34, R138, R150). -/

namespace Sys2Proof.CloseTimeline
open Sys2Proof.Machine Sys2Proof.StepLaws Sys2Proof.SpliceEnds Sys2Proof.StoreCommands Sys2Proof.BlockWork Sys2Proof.GateCuts
open Sys2Proof.CutSlots Sys2Proof.SlotSteps Sys2Proof.EngineBreaks Sys2Proof.LockLoss Sys2Proof.CueActs Sys2Proof.ConcealEnd
open Sys2Proof.SectorStorage Sys2Proof.CloseParts

variable {i : SlotId} {s t : State} {u : Timeline}

/-! ### The three ways (R18, R138, R150) -/

/-- The lock is gained. -/
abbrev Enters (u : Timeline) (s : State) : Prop := u.state = .locked ∧ s.tl.state ≠ .locked

/-- The state that has taken a record with the lock, and its notice. -/
def gained (u : Timeline) (s : State) : State := post .lockChange 1 (some u.position) none { s with tl := u }

theorem relocked_enters (h : Enters u s) : relocked u s = engineGain (gained u s) := by
  have hentered : (u.state == .locked && s.tl.state != .locked) = true := by
    rw [Bool.and_eq_true, beq_iff_eq, bne_iff_ne]
    exact h
  have hkept : (s.tl.state.hasLock && !u.state.hasLock) = false := by
    rw [h.1, Bool.and_eq_false_iff]
    exact .inr rfl
  unfold relocked
  simp only [hentered, hkept, if_true, Bool.false_eq_true, if_false]
  rfl

/-- A record that does not gain the lock. -/
theorem relocked_stays (h : ¬Enters u s) : relocked u s = if loses s.tl u = true then cutGate .lock (engineBreak (moved u s)) else moved u s :=
  relocked_moves fun hu => not_not.mp fun hs => h ⟨hu, hs⟩

theorem timelineSet_engine (u : Timeline) (s : State) : (timelineSet u s).eng = (relocked u s).eng
    ∧ (timelineSet u s).notices = (relocked u s).notices := by
  obtain ⟨-, -, heng, -, -, hnotices⟩ := jogSync_rest (relocked u s)
  rw [timelineSet_eq]
  exact ⟨heng, hnotices⟩

/-- The engine of a record that does not gain the lock: that of a break, or as it was. -/
theorem timelineSet_unlocked (h : ¬Enters u s) :
    ((timelineSet u s).eng = (engineBreak (moved u s)).eng ∧ (timelineSet u s).notices = (engineBreak (moved u s)).notices)
    ∨ ((timelineSet u s).eng = s.eng ∧ (timelineSet u s).notices = (moved u s).notices) := by
  obtain ⟨heng, hnotices⟩ := timelineSet_engine u s
  rw [relocked_stays h] at heng hnotices
  cases hloss : loses s.tl u with
  | true =>
    have hcut := cutGate_cut (.inr rfl) (engineBreak (moved u s))
    rw [hloss, if_pos rfl] at heng hnotices
    exact .inl ⟨heng.trans hcut.eng, hnotices.trans hcut.notices⟩
  | false =>
    rw [hloss, if_neg Bool.false_ne_true] at heng hnotices
    exact .inr ⟨heng.trans (congrArg State.eng (moved_frame u s) :), hnotices⟩

theorem engineBreak_state (h : s.eng.state.breakable = false) : (engineBreak s).eng.state = s.eng.state := by
  cases hpunch : punchOpen s with
  | true =>
    rw [engineBreak_punch hpunch]
    exact Postings.spliceBroken_state s
  | false => rw [engineBreak_idle hpunch h]

/-- An engine that takes no break keeps its state at a record that does not gain the lock. -/
theorem timelineSet_unbroken (h : ¬Enters u s) (hstate : s.eng.state.breakable = false) :
    (timelineSet u s).eng.state = s.eng.state := by
  have hmoved : (moved u s).eng = s.eng := (congrArg State.eng (moved_frame u s) :)
  rcases timelineSet_unlocked h with ⟨heng, -⟩ | ⟨heng, -⟩
  · rw [heng, engineBreak_state (by rw [hmoved]; exact hstate), hmoved]
  · rw [heng]

theorem engineGain_still (hheld : s.eng.state ≠ .held) (harmed : s.eng.state ≠ .armed) : engineGain s = s := by
  unfold engineGain
  split
  · rfl
  · cases hstate : s.eng.state with
    | held => exact absurd hstate hheld
    | armed => exact absurd hstate harmed
    | idle | waiting | splicing | finishing | done | aborted => rfl

/-- The notices of a record while no program runs (R18). -/
theorem timelineSet_notices (hstate : s.eng.state = .idle ∨ s.eng.state = .done ∨ s.eng.state = .aborted) (hsplice : s.eng.splice = none) :
    (timelineSet u s).notices = if Enters u s then (post .lockChange 1 (some u.position) none s).notices
      else if s.tl.state = .locked ∧ u.state ≠ .locked then (post .lockChange 0 (some u.position) none s).notices else s.notices := by
  by_cases h : Enters u s
  · have heng : (gained u s).eng = s.eng := rfl
    have hstill : engineGain (gained u s) = gained u s := by
      refine engineGain_still ?_ ?_
      · rw [heng]
        rcases hstate with h | h | h <;> rw [h] <;> nofun
      · rw [heng]
        rcases hstate with h | h | h <;> rw [h] <;> nofun
    rw [if_pos h, (timelineSet_engine u s).2, relocked_enters h, hstill]
    exact post_notices_congr rfl rfl ..
  · have hmoved : (moved u s).eng = s.eng := (congrArg State.eng (moved_frame u s) :)
    have hidle : ¬(s.eng.state = .waiting ∨ s.eng.state = .splicing ∨ s.eng.state = .finishing) := by
      rcases hstate with h | h | h <;> rw [h] <;> decide
    have hstill : engineBreak (moved u s) = moved u s := engineBreak_still (by rw [hmoved]; exact hsplice) (by rw [hmoved]; exact hidle)
    rw [if_neg h, ← moved_notices]
    rcases timelineSet_unlocked h with ⟨-, hnotices⟩ | ⟨-, hnotices⟩
    · rw [hnotices, hstill]
    · exact hnotices

/-- A program in HELD goes on when PLAY gains the lock (R150). -/
theorem timelineSet_held (hmode : u.mode = s.tl.mode) (hstate : s.eng.state = .held) :
    (timelineSet u s).eng.state = if s.tl.mode = .play ∧ Enters u s then .waiting else .held := by
  by_cases h : Enters u s
  · have hplay : (gained u s).tl.mode = s.tl.mode := hmode
    have hheld : (gained u s).eng.state = .held := hstate
    rw [(timelineSet_engine u s).1, relocked_enters h]
    by_cases hm : s.tl.mode = .play
    · rw [if_pos ⟨hm, h⟩]
      have hgain : engineGain (gained u s) = setEng .waiting (gained u s) := by
        rw [engineGain, if_neg (by rw [hplay]; exact not_not.mpr hm), hheld]
      rw [hgain]
      exact ProgramStops.setEng_state ..
    · rw [if_neg fun hc => hm hc.1, engineGain, if_pos (by rw [hplay]; exact hm), hheld]
  · rw [if_neg fun hc => h hc.2, timelineSet_unbroken h (by rw [hstate]; rfl), hstate]

/-- An ARMED program waits when PLAY gains the lock early enough (R138). -/
theorem timelineSet_armed (hmode : u.mode = s.tl.mode) (hstate : s.eng.state = .armed) {k : Fin 16} {e : Entry}
    (hfirst : firstPending s = some (k, e)) : (timelineSet u s).eng.state =
      if s.tl.mode = .play ∧ Enters u s ∧ u.position + 5 ≤ e.inPoint.addr + s.geo.d then .waiting else .armed := by
  by_cases h : Enters u s
  · have hplay : (gained u s).tl.mode = s.tl.mode := hmode
    have harmed : (gained u s).eng.state = .armed := hstate
    have hpending : firstPending (gained u s) = some (k, e) := hfirst
    rw [(timelineSet_engine u s).1, relocked_enters h]
    by_cases hm : s.tl.mode = .play
    · have hgain : engineGain (gained u s) = if u.position + 5 ≤ e.inPoint.addr + s.geo.d then setEng .waiting (gained u s)
          else gained u s := by
        rw [engineGain, if_neg (by rw [hplay]; exact not_not.mpr hm), harmed, hpending]
        rfl
      rw [hgain]
      by_cases hearly : u.position + 5 ≤ e.inPoint.addr + s.geo.d
      · rw [if_pos hearly, if_pos ⟨hm, h, hearly⟩]
        exact ProgramStops.setEng_state ..
      · rw [if_neg hearly, if_neg fun hc => hearly hc.2.2, harmed]
    · rw [if_neg fun hc => hm hc.1, engineGain, if_pos (by rw [hplay]; exact hm), harmed]
  · rw [if_neg fun hc => h hc.2.1, timelineSet_unbroken h (by rw [hstate]; rfl), hstate]

/-! ### The record, the slots and the window (R12, R34) -/

theorem afterClose_mode (tl : Timeline) (v : Option Header) : (tl.afterClose v).mode = tl.mode :=
  congrArg TimelineSettings.mode (Timeline.afterClose_follows tl v).settings

theorem timelineClose_tl (v : Option Header) (s : State) : (timelineClose v s).tl = s.tl.afterClose v := by
  unfold timelineClose
  rcases afterClose_enters (tl := s.tl) v with h | h
  · have hframe := jogSync_frame s
    rw [h, timelineSet_same rfl]
    show (jogSync s).tl = s.tl
    generalize jogSync s = t at hframe
    exact (congrArg State.tl hframe :)
  · exact timelineSet_tl h s

theorem relocked_spares (u : Timeline) (s : State) : Spares i s (relocked u s) := by
  by_cases h : Enters u s
  · rw [relocked_enters h]
    have hgained : EngWork s (gained u s) := ⟨rfl⟩
    exact EngWork.spares (hgained.trans (engineGain_engWork _))
  · rw [relocked_stays h]
    have hmoved : Spares i s (moved u s) := by
      obtain ⟨hslots, horder, hfetch, hcoding⟩ : (moved u s).slots = s.slots ∧ (moved u s).order = s.order ∧ (moved u s).fetch = s.fetch
          ∧ (moved u s).coding = s.coding := by
        have hframe := moved_frame u s
        exact ⟨(congrArg State.slots hframe :), (congrArg State.order hframe :), (congrArg State.fetch hframe :),
          (congrArg State.coding hframe :)⟩
      exact .ofStill hslots horder (congrArg State.jog (moved_frame u s) :) hfetch hcoding
    split
    · exact (EngWork.spares (moved_breaks u s)).trans (cutGate_spares rfl _)
    · exact hmoved

/-- A slot that arrives, and is not due, keeps all but its pin. -/
theorem timelineSet_spares (u : Timeline) (hs : Away i s) (hdue : s.slots[i].due = false) :
    (timelineSet u s).slots[i] = { s.slots[i] with pinned := (timelineSet u s).slots[i].pinned } ∧ Away i (timelineSet u s) := by
  have hspares := relocked_spares (i := i) u s
  have hslot := (hspares hs).1.slot
  have haway := hspares.away hs
  rw [timelineSet_eq]
  have hsettled := (jogSync_settled (relocked u s) i).1 (.inl (by rw [hslot]; exact hdue))
  have hcoding := (jogSync_rest (relocked u s)).2.1
  refine ⟨by rw [hslot] at hsettled; exact hsettled, by rw [hsettled]; exact haway.1, ?_⟩
  rw [hcoding]
  exact haway.2

/-- A record with the lock settles the pins, slot by slot. -/
theorem timelineSet_settled (h : u.state = .locked ∨ u.state = .coasting) (k : SlotId) : pinSettled s (timelineSet u s) k := by
  have hwork : EngWork s (relocked u s) := by
    by_cases hin : Enters u s
    · rw [relocked_enters hin]
      have hgained : EngWork s (gained u s) := ⟨rfl⟩
      exact hgained.trans (engineGain_engWork _)
    · have hloss : loses s.tl u = false := Bool.eq_false_iff.mpr fun hl =>
        ((loses_iff ..).mp hl).2 (h.elim .inl fun hc => .inr (.inl hc))
      rw [relocked_stays hin, hloss, if_neg Bool.false_ne_true]
      unfold moved
      split <;> exact ⟨rfl⟩
  have hsettled := jogSync_settled (relocked u s) k
  rw [timelineSet_eq]
  generalize relocked u s = v at hwork hsettled
  exact pinSettled_congr hsettled (by rw [hwork.slots]) (congrArg State.fetch hwork.frame :) hwork.order rfl rfl

/-- What the timeline's step leaves beside the engine, the gate, the Coding Path and the slots. -/
theorem timelineSet_keeps (u : Timeline) (s : State) : SameChannels s (timelineSet u s) ∧ (timelineSet u s).cues = s.cues
    ∧ (timelineSet u s).conceal = s.conceal ∧ (timelineSet u s).clock = s.clock ∧ (timelineSet u s).routes = s.routes := by
  have hwork := (relocked_gateWork u s).frame
  have hchannels := timelineSet_channels u s
  have hjog := jogSync_frame (relocked u s)
  rw [← timelineSet_eq] at hjog
  generalize relocked u s = v at hwork hjog
  generalize timelineSet u s = t at hjog hchannels
  exact ⟨hchannels, (congrArg State.cues hjog :).trans (congrArg State.cues hwork :), (congrArg State.conceal hjog :).trans
    (congrArg State.conceal hwork :), (congrArg State.clock hjog :).trans (congrArg State.clock hwork :), (congrArg State.routes hjog :).trans
    (congrArg State.routes hwork :)⟩

end Sys2Proof.CloseTimeline
end

section
/-! SUPPORT. A PRE-READ frame that closes: the timeline, the cues and the concealment list take it in turn (R49, R61, R67, R165). -/

namespace Sys2Proof.CloseHanded
open Sys2Proof.Machine Sys2Proof.StepLaws Sys2Proof.SpliceEnds Sys2Proof.StoreCommands Sys2Proof.BlockWork Sys2Proof.SlotSteps
open Sys2Proof.LockLoss Sys2Proof.CueActs Sys2Proof.CueFires Sys2Proof.ConcealEnd Sys2Proof.SectorStorage Sys2Proof.CloseParts
open Sys2Proof.CloseTimeline Sys2Proof.Readers

variable {i : SlotId} {s t m w : State} {cf : ClosingFrame}

/-! ### The cues (R165, R166) -/

/-- Entry `c` fires for a frame with timecode `tc` while the timeline is `tl` (R165, R166). -/
def Hit (tl : Timeline) (c : Cue) (tc : Option Timecode) : Prop :=
  (tl.mode = .play ∧ (tl.state = .locked ∨ tl.state = .coasting)) ∧ c.present = true ∧ c.armed = true ∧ ∃ v, tc = some v
    ∧ (∀ n, c.hh = some n → n = v.hh) ∧ (∀ n, c.mm = some n → n = v.mm)
    ∧ (∀ n, c.ss = some n → n = v.ss) ∧ (∀ n, c.ff = some n → n = v.ff)

theorem placed_iff (x : TlState) : x.placed = true ↔ x = .locked ∨ x = .coasting := by cases x <;> simp [TlState.placed]

theorem hit_matches {tl : Timeline} (h : tl.mode = .play ∧ (tl.state = .locked ∨ tl.state = .coasting)) (c : Cue) (v : Timecode) :
    Hit tl c (some v) ↔ c.matches v = true := by
  rw [matches_iff]
  constructor
  · rintro ⟨-, hpresent, harmed, x, hx, hparts⟩
    obtain rfl := Option.some.inj hx
    exact ⟨hpresent, harmed, hparts⟩
  · rintro ⟨hpresent, harmed, hparts⟩
    exact ⟨h, hpresent, harmed, v, rfl, hparts⟩

theorem firedCue_armed {c : Cue} (h : c.armed = true) (f : Firing) :
    firedCue c f = { c with lastFiring := some f, armed := decide (c.rep = .rep) } := by
  rw [firedCue, h, Bool.true_and]
  cases c.rep <;> rfl

/-- What the Cue Unit makes of a closed frame. -/
structure Cued (i : SlotId) (x : Header) (m w : State) : Prop where
  work : MatchWork m w
  spares : Spares i m w
  tl : w.tl = m.tl
  stays : ∀ j : Fin 24, ¬Hit m.tl m.cues[j] x.tc → w.cues[j] = m.cues[j]
  fired : ∀ j : Fin 24, Hit m.tl m.cues[j] x.tc → ∃ v r, x.tc = some v ∧ (m.cues[j].action = .notify → r = .done)
    ∧ w.cues[j] = { m.cues[j] with lastFiring := some ⟨v, x.addr, r⟩, armed := decide (m.cues[j].rep = .rep) }
  missed : (∀ j : Fin 24, ¬Hit m.tl m.cues[j] x.tc) → w = m
  one : ∀ j : Fin 24, (∀ k : Fin 24, Hit m.tl m.cues[k] x.tc ↔ k = j) → ∃ v, x.tc = some v ∧ w = fireCue j v x.addr m

theorem Cued.still {x : Header} (h : ∀ j : Fin 24, ¬Hit m.tl m.cues[j] x.tc) : Cued i x m m :=
  ⟨⟨rfl⟩, .ofStill rfl rfl rfl rfl rfl, rfl, fun _ _ => rfl, fun j hj => absurd hj (h j), fun _ => rfl,
    fun j hone => absurd ((hone j).mpr rfl) (h j)⟩

theorem cueFrame_cued (i : SlotId) (x : Header) (m : State) : Cued i x m (cueFrame (some x) m) := by
  by_cases hpasses : m.tl.mode = .play ∧ m.tl.state.placed = true
  · have hplaced : m.tl.mode = .play ∧ (m.tl.state = .locked ∨ m.tl.state = .coasting) := ⟨hpasses.1, (placed_iff _).mp hpasses.2⟩
    have hlaying : m.tl.state ≠ .laying := by
      rcases hplaced.2 with h | h <;> rw [h] <;> nofun
    cases htc : x.tc with
    | none =>
      have hsame : cueFrame (some x) m = m := by simp only [cueFrame, if_pos hpasses, htc]
      rw [hsame]
      refine .still fun j hj => ?_
      obtain ⟨-, -, -, v, hv, -⟩ := hj
      exact absurd (htc.symm.trans hv) nofun
    | some v =>
      have hsame : cueFrame (some x) m = matchPass v x.addr m := by simp only [cueFrame, if_pos hpasses, htc]
      have hfires := matchPass_fires i v x.addr m
      have hhit : ∀ j : Fin 24, Hit m.tl m.cues[j] x.tc ↔ m.cues[j].matches v = true := fun j => by
        rw [htc]
        exact hit_matches hplaced _ v
      rw [hsame]
      refine ⟨hfires.work, hfires.spares, hfires.tl hlaying, fun j hj => ?_, fun j hj => ?_, fun hnone => ?_, fun j hone => ⟨v, htc, ?_⟩⟩
      · exact hfires.stays j fun hmem => hj ((hhit j).mpr (mem_hits.mp hmem))
      · obtain ⟨r, hr, hcue⟩ := hfires.fired j (mem_hits.mpr ((hhit j).mp hj))
        exact ⟨v, r, htc, hr, hcue.trans (firedCue_armed hj.2.2.1 _)⟩
      · exact matchPass_none fun j hj => hnone j ((hhit j).mpr hj)
      · exact matchPass_one fun k => (hhit k).symm.trans (hone k)
  · have hsame : cueFrame (some x) m = m := if_neg hpasses
    rw [hsame]
    exact .still fun j hj => hpasses ⟨hj.1.1, (placed_iff _).mpr hj.1.2⟩

/-- The window's condition outlasts the cues: they fire in PLAY, where nothing is pinned. -/
theorem Cued.window {x : Header} (h : Cued i x m w) (haway : Away i m) (hpins : windowPins m) (hscrub : scrubFollows s m) :
    windowPins w ∧ scrubFollows s w := by
  by_cases hnone : ∀ j : Fin 24, ¬Hit m.tl m.cues[j] x.tc
  · rw [h.missed hnone]
    exact ⟨hpins, hscrub⟩
  · obtain ⟨j, hj⟩ := not_forall_not.mp hnone
    have hplay := hj.1.1
    have hsteps := (h.spares haway).1
    obtain ⟨hjog, -⟩ := hsteps.window
    have hclock : w.clock = m.clock := (congrArg State.clock h.work.frame :)
    obtain ⟨hfollows, hpinned, hdue⟩ := hpins
    have hwindow : m.jog.window = none := by
      rw [windowFollows, if_neg fun hc => absurd (hplay.symm.trans hc.1 : Mode.play = Mode.jog) nofun] at hfollows
      exact hfollows
    refine ⟨⟨?_, fun k => ⟨fun hk => ?_, fun ⟨p, a, hp, _⟩ => ?_⟩, hsteps.dueBlocked hdue⟩, ?_⟩
    · unfold windowFollows at hfollows ⊢
      rw [hjog, h.tl]
      exact hfollows
    · obtain ⟨p, a, hp, -⟩ := (hpinned k).mp (hsteps.pins hk).1
      exact absurd (hwindow.symm.trans hp) nofun
    · rw [hjog, hwindow] at hp
      exact absurd hp nofun
    · unfold scrubFollows at hscrub ⊢
      rw [hjog, h.tl, hclock]
      exact hscrub

/-! ### The concealment list (R67) -/

theorem joinConceal_eq (o : Option SlotId) (s : State) : joinConceal o s = { s with conceal := { s.conceal with
    list := s.conceal.list ++ [⟨o, s.clock.rate⟩], op := some (s.conceal.op.getD s.conceal.params) } } := by
  unfold joinConceal beginConceal
  cases hop : s.conceal.op with
  | none =>
    cases hlist : s.conceal.list with
    | nil => rfl
    | cons x l => rfl
  | some P =>
    cases hlist : s.conceal.list with
    | nil => simp only [hop, Option.getD_some]
    | cons x l => simp only [hop, Option.getD_some]

/-! ### The whole close of a PRE-READ frame (R49, R61) -/

theorem firstPending_some {k : Fin 16} {e : Entry} (hk : pendingEntry s k = some e) (hfirst : ∀ l, l < k → pendingEntry s l = none) :
    firstPending s = some (k, e) := by
  refine List.findSome?_eq_some_iff.mpr ⟨(List.finRange 16).take k, k, (List.finRange 16).drop (k + 1), ?_, by rw [hk]; rfl, fun x hx => ?_⟩
  · have hlen : k.val < (List.finRange 16).length := by rw [List.length_finRange]; exact k.isLt
    have hdrop := List.drop_eq_getElem_cons hlen
    rw [List.getElem_finRange] at hdrop
    exact (List.take_append_drop k.val _).symm.trans (congrArg (_ ++ ·) hdrop)
  · obtain ⟨n, hn, rfl⟩ := List.mem_take_iff_getElem.mp hx
    rw [List.getElem_finRange, hfirst _ (by
      show n < k.val
      omega)]
    rfl

/-- Handing the frame of slot `i` on to the timeline, from a state whose channel has let it go. -/
def handed (valid : Option Header) (x : Header) (i : SlotId) (s : State) : State :=
  joinConceal (some i) (cueFrame (some x) (timelineClose valid s))

/-- What the units make of a closed PRE-READ frame of slot `i` with header `x`. -/
structure Handed (valid : Option Header) (x : Header) (i : SlotId) (s t : State) : Prop where
  pre : t.pre = s.pre
  slot : t.slots[i] = { s.slots[i] with pinned := t.slots[i].pinned }
  tl : t.tl = s.tl.afterClose valid
  pins : windowPins t
  scrub : scrubFollows s t
  settled : s.tl.mode = .jog → t.tl.state = .locked ∨ t.tl.state = .coasting → ∀ k, pinSettled s t k
  list : t.conceal.list = s.conceal.list ++ [⟨some i, s.clock.rate⟩]
  op : t.conceal.op = some (s.conceal.op.getD s.conceal.params)
  stays : ∀ j : Fin 24, ¬Hit t.tl s.cues[j] x.tc → t.cues[j] = s.cues[j]
  fired : ∀ j : Fin 24, Hit t.tl s.cues[j] x.tc → ∃ v r, x.tc = some v ∧ (s.cues[j].action = .notify → r = .done)
    ∧ t.cues[j] = { s.cues[j] with lastFiring := some ⟨v, x.addr, r⟩, armed := decide (s.cues[j].rep = .rep) }
  notified : ∀ j : Fin 24, t.tl.state = s.tl.state → (∀ k : Fin 24, Hit t.tl s.cues[k] x.tc ↔ k = j) → s.cues[j].action = .notify →
    t.notices = (post .cueFired j.val x.addr none s).notices
  missed : (∀ j : Fin 24, ¬Hit t.tl s.cues[j] x.tc) →
    t.eng = (timelineClose valid s).eng ∧ t.notices = (timelineClose valid s).notices

theorem handed_handed (valid : Option Header) (x : Header) (haway : Away i s) (hdue : s.slots[i].due = false) :
    Handed valid x i s (handed valid x i s) := by
  have htl := timelineClose_tl valid s
  obtain ⟨⟨hpre, -⟩, hcues, hconceal, hclock, hroutes⟩ := timelineSet_keeps (s.tl.afterClose valid) s
  obtain ⟨hslot, hthere⟩ := timelineSet_spares (s.tl.afterClose valid) haway hdue
  obtain ⟨hpins, hscrub⟩ := timelineSet_window (s.tl.afterClose valid) s
  have hsettled := timelineSet_settled (u := s.tl.afterClose valid) (s := s)
  have hsame : (s.tl.afterClose valid).state = s.tl.state → (timelineClose valid s).notices = s.notices := fun hstate => by
    rw [timelineClose, timelineSet_same hstate]
    exact (jogSync_rest _).2.2.2.2.2
  change (timelineClose valid s).pre = _ at hpre
  change (timelineClose valid s).cues = _ at hcues
  change (timelineClose valid s).conceal = _ at hconceal
  change (timelineClose valid s).clock = _ at hclock
  change (timelineClose valid s).routes = _ at hroutes
  change (timelineClose valid s).slots[i] = { s.slots[i] with pinned := (timelineClose valid s).slots[i].pinned } at hslot
  change Away i (timelineClose valid s) at hthere
  change windowPins (timelineClose valid s) at hpins
  change scrubFollows s (timelineClose valid s) at hscrub
  change _ → ∀ k, pinSettled s (timelineClose valid s) k at hsettled
  have hcued := cueFrame_cued i x (timelineClose valid s)
  rw [handed, joinConceal_eq]
  generalize hm : timelineClose valid s = m at *
  obtain ⟨hwpins, hwscrub⟩ := hcued.window hthere hpins hscrub
  have hwslot := (hcued.spares hthere).1.slot
  generalize cueFrame (some x) m = w at *
  have hwork := hcued.work.frame
  have hwpre : w.pre = m.pre := (congrArg State.pre hwork :)
  have hwconceal : w.conceal = m.conceal := (congrArg State.conceal hwork :)
  have hwclock : w.clock = m.clock := (congrArg State.clock hwork :)
  have hwtl := hcued.tl.trans htl
  refine ⟨hwpre.trans hpre, ?_, hwtl, hwpins, hwscrub, fun hjog hstate => ?_, ?_, ?_, fun j hj => ?_, fun j hj => ?_, fun j hstate hone hnotify => ?_,
    fun hnone => ?_⟩
  · show w.slots[i] = { s.slots[i] with pinned := w.slots[i].pinned }
    rw [hwslot]
    exact hslot
  · have hnone : ∀ j : Fin 24, ¬Hit m.tl m.cues[j] x.tc := fun j hj => by
      have hplay := hj.1.1
      rw [htl, afterClose_mode, hjog] at hplay
      exact absurd hplay nofun
    have hstill := hcued.missed hnone
    subst hstill
    exact hsettled (by rw [← hwtl]; exact hstate)
  · show w.conceal.list ++ [⟨some i, w.clock.rate⟩] = _
    rw [hwconceal, hwclock, hconceal, hclock]
  · show some (w.conceal.op.getD w.conceal.params) = _
    rw [hwconceal, hconceal]
  · rw [← hcues]
    refine hcued.stays j ?_
    rw [hcues, ← hcued.tl]
    exact hj
  · rw [← hcues]
    refine hcued.fired j ?_
    rw [hcues, ← hcued.tl]
    exact hj
  · obtain ⟨v, -, hfire⟩ := hcued.one j (by rw [hcues, ← hcued.tl]; exact hone)
    rw [← hcues] at hnotify
    have hposted : w.notices = (post .cueFired j.val x.addr none m).notices := by
      rw [hfire, fireCue_eq, hnotify]
      exact post_notices_congr rfl rfl ..
    exact hposted.trans (post_notices_congr hroutes (hsame (by rw [← hwtl]; exact hstate)) ..)
  · have hstill := hcued.missed (by rw [hcues, ← hcued.tl]; exact hnone)
    rw [hm]
    exact ⟨(congrArg State.eng hstill :), (congrArg State.notices hstill :)⟩

end Sys2Proof.CloseHanded
end

section
/-! SUPPORT. A CONFIDENCE frame that closes: the slots it gives back and its judgement (R30, R62, R106 to R108, R148). -/

namespace Sys2Proof.CloseJudged
open Sys2Proof.Machine Sys2Proof.StepLaws Sys2Proof.SpliceEnds Sys2Proof.StoreCommands Sys2Proof.BlockWork Sys2Proof.CutSlots
open Sys2Proof.SlotSteps Sys2Proof.SectorStorage Sys2Proof.Readers Sys2Proof.ConcealEnd

variable {i k : SlotId} {s t u : State} {e : JudgeEntry} {x : Option Slot}

/-! ### A slot that is given back (R30, R31) -/

/-- Slot `k` is given back from `s` to `t`: at once, or when nothing blocks it any more. -/
def Freed (s t : State) (k : SlotId) : Prop :=
  t.slots[k] = if blocked s k = true then { s.slots[k] with due := true } else Slot.reset

theorem releaseOrDue_freed (k : SlotId) (s : State) : Freed s (releaseOrDue k s) k := by
  unfold Freed
  cases hb : blocked s k with
  | true =>
    rw [releaseOrDue_blocked hb, if_pos rfl]
    exact modifySlot_get_same ..
  | false =>
    rw [releaseOrDue_free hb, if_neg Bool.false_ne_true]
    exact releaseSlot_resets ..

theorem releaseOrDue_other (h : i ≠ k) (s : State) : (releaseOrDue i s).slots[k] = s.slots[k] := by
  rcases releaseOrDue_get k i s with h | ⟨hik, -⟩ | ⟨hik, -⟩
  · exact h
  · exact absurd hik ‹_›
  · exact absurd hik ‹_›

/-- From and to states that agree on the slot and on the fetches. -/
theorem Freed.congr {v w : State} (h : Freed u v k) (hslot : u.slots[k] = s.slots[k]) (hfetch : u.fetch = s.fetch)
    (hslot' : w.slots[k] = v.slots[k]) : Freed s w k := by
  unfold Freed at h ⊢
  rw [hslot', ← blocked_of_slot hslot hfetch, ← hslot]
  exact h

/-- A slot that is given back once more stays given back. -/
theorem Freed.again (h : Freed s t k) (hfetch : t.fetch = s.fetch) : Freed s (releaseOrDue k t) k := by
  have hagain := releaseOrDue_freed k t
  unfold Freed at h hagain ⊢
  rw [hagain]
  cases hb : blocked s k with
  | true =>
    rw [hb, if_pos rfl] at h
    have hblocked : blocked t k = true := by
      rw [blocked, h, beingFetched_congr hfetch]
      exact hb
    rw [hblocked, if_pos rfl, if_pos rfl, h]
  | false =>
    rw [hb, if_neg Bool.false_ne_true] at h
    have hfree : blocked t k = false := by
      rw [blocked, h, beingFetched_congr hfetch]
      exact ((blocked_eq_false_iff s k).mp hb).2.2
    rw [hfree, if_neg Bool.false_ne_true, if_neg Bool.false_ne_true]

theorem releaseAll_freed {l : List SlotId} (hl : l.Nodup) (s : State) : (∀ k ∈ l, Freed s (releaseAll l s) k)
    ∧ ∀ k, k ∉ l → (releaseAll l s).slots[k] = s.slots[k] := by
  induction l generalizing s with
  | nil => exact ⟨nofun, fun _ _ => rfl⟩
  | cons j l ih =>
    obtain ⟨hj, hrest⟩ := List.nodup_cons.mp hl
    obtain ⟨hfreed, hkept⟩ := ih hrest (releaseOrDue j s)
    have hfetch : (releaseOrDue j s).fetch = s.fetch := (congrArg State.fetch (releaseOrDue_work j s).frame :)
    refine ⟨fun k hk => ?_, fun k hk => ?_⟩
    · by_cases hkl : k ∈ l
      · exact (hfreed k hkl).congr (releaseOrDue_other (fun hjk : j = k => hj (hjk ▸ hkl)) s) hfetch rfl
      · obtain rfl := (List.mem_cons.mp hk).resolve_right hkl
        exact (releaseOrDue_freed k s).congr rfl rfl (hkept k hkl)
    · rw [List.mem_cons, not_or] at hk
      exact (hkept k hk.2).trans (releaseOrDue_other (fun hjk : j = k => hk.1 hjk.symm) s)

theorem decodedSlots_nodup (s : State) : (decodedSlots s).Nodup := (List.nodup_finRange _).filter _

/-! ### One judgement (R107, R108, R148) -/

theorem countFault_frame (tag : SpliceTag) (s : State) : { countFault tag s with eng := s.eng } = s := by
  unfold countFault
  split
  · split <;> rfl
  · rfl

/-- A counted fault, while the splice runs and when it has ended (R148). -/
theorem countFault_eng (tag : SpliceTag) (s : State) :
    (∀ sp, s.eng.splice = some sp → sp.tag = tag →
      (countFault tag s).eng = { s.eng with splice := some { sp with faults := min 255 (sp.faults + 1) } })
    ∧ ((∀ sp, s.eng.splice = some sp → sp.tag ≠ tag) → (countFault tag s).eng = { s.eng with results := s.eng.results.map fun r =>
        if r.tag = tag then { r with faults := min 255 (r.faults + 1) } else r }) := by
  unfold countFault
  refine ⟨fun sp hsp htag => ?_, fun hother => ?_⟩
  · simp only [hsp, if_pos htag]
    rfl
  · cases hsp : s.eng.splice with
    | none => rfl
    | some sp =>
      simp only [if_neg (hother sp hsp)]
      rfl

theorem countFault_congr (tag : SpliceTag) (h : t.eng = s.eng) : (countFault tag t).eng = (countFault tag s).eng := by
  unfold countFault
  rw [h]
  cases s.eng.splice with
  | none => rfl
  | some sp =>
    dsimp only
    split <;> rfl

/-- What a judgement leaves. -/
structure Judged (e : JudgeEntry) (x : Option Slot) (s t : State) : Prop where
  frame : { t with
    judge := s.judge, gate := s.gate, slots := s.slots, order := s.order, notices := s.notices, eng := s.eng } = s
  judge : t.judge = s.judge.erase e
  gate : t.gate = countRun e (faultSubject e x).isSome s.gate
  slots : t.slots = (releaseOrDue e.slot s).slots
  clean : faultSubject e x = none → t.notices = s.notices
  fault : ∀ n, faultSubject e x = some n → t.notices = (post .writeFault n (some e.addr) none s).notices
  spared : faultSubject e x = none ∨ e.partly = true → t.eng = s.eng
  counted : faultSubject e x ≠ none → e.partly = false → t.eng = (countFault e.tag s).eng

/-- The state without the entry, whose gate has counted it, and whose slot is given back. -/
def struck (e : JudgeEntry) (x : Option Slot) (s : State) : State :=
  releaseOrDue e.slot { s with judge := s.judge.erase e, gate := countRun e (faultSubject e x).isSome s.gate }

theorem struck_frame (e : JudgeEntry) (x : Option Slot) (s : State) : { struck e x s with slots := s.slots, order := s.order } =
    { s with judge := s.judge.erase e, gate := countRun e (faultSubject e x).isSome s.gate } := (releaseOrDue_work ..).frame

theorem struck_slots (e : JudgeEntry) (x : Option Slot) (s : State) : (struck e x s).slots = (releaseOrDue e.slot s).slots := by
  unfold struck
  cases hb : blocked s e.slot with
  | true => rw [releaseOrDue_blocked hb, releaseOrDue_blocked (by exact hb)]; rfl
  | false => rw [releaseOrDue_free hb, releaseOrDue_free (by exact hb)]; rfl

theorem judgeEntry_clean (h : faultSubject e x = none) (s : State) : judgeEntry e x s = struck e x s := by
  simp only [judgeEntry, struck, h]

theorem judgeEntry_fault {n : Nat} (h : faultSubject e x = some n) (s : State) : judgeEntry e x s =
    post .writeFault n (some e.addr) none (if e.partly then struck e x s else countFault e.tag (struck e x s)) := by
  simp only [judgeEntry, struck, h]

theorem judgeEntry_judged (e : JudgeEntry) (x : Option Slot) (s : State) : Judged e x s (judgeEntry e x s) := by
  have hframe := struck_frame e x s
  have hslots := struck_slots e x s
  cases hf : faultSubject e x with
  | none =>
    rw [hf] at hframe
    rw [judgeEntry_clean hf]
    generalize struck e x s = v at hframe hslots
    exact ⟨(congrArg (fun y : State => { y with judge := s.judge, gate := s.gate, notices := s.notices, eng := s.eng }) hframe :),
      (congrArg State.judge hframe :), by rw [hf]; exact (congrArg State.gate hframe :), hslots,
      fun _ => (congrArg State.notices hframe :), fun n hn => absurd (hf.symm.trans hn) nofun, fun _ => (congrArg State.eng hframe :),
      fun hn => absurd hf hn⟩
  | some n =>
    rw [hf] at hframe
    rw [judgeEntry_fault hf]
    generalize struck e x s = v at hframe hslots
    have heng : v.eng = s.eng := (congrArg State.eng hframe :)
    have hcount := countFault_frame e.tag v
    have hposted : ∀ w : State, { w with eng := v.eng } = v → (e.partly = true → w.eng = s.eng) →
        (e.partly = false → w.eng = (countFault e.tag s).eng) → Judged e x s (post .writeFault n (some e.addr) none w) := fun w hw hpart hwhole => by
      have hwslots : w.slots = v.slots := (congrArg State.slots hw :)
      refine ⟨?_, ?_, ?_, ?_, fun h => absurd (hf.symm.trans h) nofun, fun m hm => ?_, fun h => ?_, fun _ h => hwhole h⟩
      · exact (congrArg (fun y : State => { y with
          judge := s.judge, gate := s.gate, slots := s.slots, order := s.order, notices := s.notices, eng := s.eng }) hw :).trans
          (congrArg (fun y : State => { y with judge := s.judge, gate := s.gate, notices := s.notices, eng := s.eng }) hframe :)
      · exact (congrArg State.judge hw :).trans (congrArg State.judge hframe :)
      · rw [hf]
        exact (congrArg State.gate hw :).trans (congrArg State.gate hframe :)
      · exact hwslots.trans hslots
      · obtain rfl := Option.some.inj (hf.symm.trans hm)
        exact post_notices_congr ((congrArg State.routes hw :).trans (congrArg State.routes hframe :))
          ((congrArg State.notices hw :).trans (congrArg State.notices hframe :)) ..
      · exact hpart (h.resolve_left fun hn => absurd (hf.symm.trans hn) nofun)
    cases hpartly : e.partly with
    | true => exact hposted v rfl (fun _ => heng) fun h => absurd (hpartly.symm.trans h) nofun
    | false =>
      refine hposted (countFault e.tag v) hcount (fun h => absurd (hpartly.symm.trans h) nofun) fun _ => ?_
      exact countFault_congr e.tag heng

/-! ### The designated entries of a close (R106) -/

theorem judgeClose_none {n : Nat} (h : n = 0 ∨ ∀ e ∈ s.judge, e.designated = false) (x : Option Slot) : judgeClose n x s = s := by
  have hnil : (s.judge.filter (·.designated)).take n = [] := by
    rcases h with rfl | h
    · exact List.take_zero
    · rw [List.filter_eq_nil_iff.mpr fun e he => by rw [h e he]; exact Bool.false_ne_true, List.take_nil]
  rw [judgeClose, hnil]
  rfl

theorem judgeClose_one {rest : List JudgeEntry} (h : s.judge = e :: rest) (hdes : e.designated = true) (x : Option Slot) :
    judgeClose 1 x s = judgeEntry e x s ∧ s.judge.erase e = rest := by
  have hone : (s.judge.filter (·.designated)).take 1 = [e] := by
    rw [h, List.filter_cons_of_pos hdes]
    rfl
  rw [judgeClose, hone, h]
  exact ⟨rfl, List.erase_cons_head ..⟩

theorem stoppable_iff (x : GateState) : x.stoppable = true ↔ x = .scheduled ∨ x = .opened := by cases x <;> simp [GateState.stoppable]

theorem countRun_eq (e : JudgeEntry) (f : Option Nat) (g : Gate) : countRun e f.isSome g =
    if g.state = .closed ∨ e.opening ≠ g.opening then g
    else if f = none then { g with run := 0 }
    else { g with
      run := min 255 (g.run + 1)
      pendingStop := g.pendingStop || decide ((0 < g.faultLimit ∧ g.faultLimit ≤ min 255 (g.run + 1))
        ∧ (g.state = .scheduled ∨ g.state = .opened)) } := by
  have hstop : ∀ p : Prop, ∀ _ : Decidable p, (decide p && g.state.stoppable) = decide (p ∧ (g.state = .scheduled ∨ g.state = .opened)) :=
    fun p _ => by rw [Bool.decide_and, Bool.eq_iff_iff.mpr ((stoppable_iff _).trans decide_eq_true_iff.symm)]
  unfold countRun saturate
  cases f with
  | none => rfl
  | some n =>
    refine if_congr Iff.rfl rfl ?_
    simp only [Option.isSome_some, Bool.true_eq_false, if_false, reduceCtorEq, hstop]

end Sys2Proof.CloseJudged
end

section
/-! SUPPORT. The obligation on CLOSE_OPERATION_COMPLETE (R12, R30, R49, R55 to R63, R67, R106 to R108, R165 to R168). -/

namespace Sys2Proof.CloseCompletes
open Sys2Proof.Machine Sys2Proof.StepLaws Sys2Proof.SpliceEnds Sys2Proof.StoreCommands Sys2Proof.BlockWork Sys2Proof.CutSlots
open Sys2Proof.SlotSteps Sys2Proof.SectorStorage Sys2Proof.Readers Sys2Proof.ConcealEnd Sys2Proof.LockLoss Sys2Proof.CueActs
open Sys2Proof.CueFires Sys2Proof.CloseParts Sys2Proof.CloseTimeline Sys2Proof.CloseHanded Sys2Proof.CloseJudged

variable {i k : SlotId} {s t : State} {cf : ClosingFrame} {ch : HeadStream} {d : Closed}

/-! ### The frame leaves the channel's list (R49) -/

/-- The state in which the frame of slot `i` has left its channel's list, closed as `d`. -/
def letGo (ch : HeadStream) (i : SlotId) (d : Closed) (s : State) : State :=
  setCapture ch ((capture s ch).closedSlot d) (modifySlot i (fun x => x.closed d s.clock.rate) s)

/-- The state in which an absent frame has left its channel's list. -/
def letGoAbsent (ch : HeadStream) (cf : ClosingFrame) (s : State) : State :=
  setCapture ch ((capture s ch).closedAbsent (inherited s (capture s ch) cf (min 31 ((capture s ch).headless + 1)))) s

theorem letGo_slots (ch : HeadStream) (d : Closed) (s : State) : (letGo ch i d s).slots[i] = s.slots[i].closed d s.clock.rate
    ∧ ∀ k : SlotId, k ≠ i → (letGo ch i d s).slots[k] = s.slots[k] := by
  unfold letGo
  rw [setCapture_slots]
  exact ⟨modifySlot_get_same .., fun k hk => modifySlot_get_other (fun h : i = k => hk h.symm) ..⟩

/-- A channel whose list is empty and that has a frame in assembly stays as the close leaves it. -/
theorem closeComplete_front (hclosing : (capture s ch).closing = [cf]) (hempty : (capture (completeFront ch cf s) ch).closing = [])
    (hbusy : (capture (completeFront ch cf s) ch).assembly.isSome = true) :
    closeComplete ch s = concealIdle (completeFront ch cf s) := by
  have hafter := afterClose_assembling hbusy
  have hnone : (capture (concealIdle (completeFront ch cf s)) ch).closing = [] := by
    rw [(concealIdle_channels _).capture]
    exact hempty
  simp only [closeComplete, hclosing, hafter]
  exact settleCloses_none hnone

theorem concealIdle_busy (h : s.pre.assembly.isSome = true) : concealIdle s = s := by
  refine if_neg fun hc => ?_
  obtain ⟨-, hassembly⟩ := (channelState_idle _).mp hc.1
  rw [hassembly] at h
  exact absurd h (by decide)

/-- The channel's record after a close with a slot. -/
theorem closedSlot_eq {c : Capture} (hclosing : c.closing = [cf]) (d : Closed) : c.closedSlot d = { c with
    closing := [], reference := some d.header, headless := if d.valid then 0 else min 31 (c.headless + 1)
    stats := ⟨min 4294967295 (c.stats.closed + 1), min 4294967295 (c.stats.failed + d.setAside + d.unreached),
      min 4294967295 (c.stats.rebuilt + d.rebuilt),
      min 4294967295 (c.stats.unrecoverable + if d.bad.left = [] ∧ d.bad.right = [] then 0 else 1),
      min 4294967295 (c.stats.mixed + if d.setAside = 0 then 0 else 1)⟩ } := by
  rw [Capture.closedSlot, hclosing]
  rfl

theorem closedAbsent_eq {c : Capture} (hclosing : c.closing = [cf]) (h : Header) : c.closedAbsent h = { c with
    closing := [], reference := some h, headless := min 31 (c.headless + 1)
    stats := { c.stats with
      closed := min 4294967295 (c.stats.closed + 1), unrecoverable := min 4294967295 (c.stats.unrecoverable + 1) } } := by
  rw [Capture.closedAbsent, hclosing]
  rfl

/-! ### PRE-READ (R61) -/

theorem completeFront_pre (hslot : cf.frame.slot = some i) (hd : d = closeStages s s.pre cf s.slots[i].audio) :
    completeFront .preRead cf s = handed (if d.valid then some d.header else none) d.header i (letGo .preRead i d s) := by
  simp only [completeFront, hslot]
  rw [hd]
  rfl

theorem closesPre (hslot : cf.frame.slot = some i) (hfilling : s.slots[i].state = .filling) (hdue : s.slots[i].due = false)
    (hd : d = closeStages s s.pre cf s.slots[i].audio) (hclosing : s.pre.closing = [cf]) (hassembly : s.pre.assembly.isSome = true)
    (haway : ∀ op ∈ s.coding, op.intake.slot ≠ some i ∧ ∀ b, op.begun = some b → b.slot ≠ some i) :
    exec (.closeOperationComplete .preRead) s =
        .next (handed (if d.valid then some d.header else none) d.header i (letGo .preRead i d s))
      ∧ Handed (if d.valid then some d.header else none) d.header i (letGo .preRead i d s)
        (handed (if d.valid then some d.header else none) d.header i (letGo .preRead i d s)) := by
  have hsame := (letGo_slots (i := i) .preRead d s).1
  have hthere : Away i (letGo .preRead i d s) := by
    refine ⟨by rw [hsame]; exact hfilling, fun op hop => ?_⟩
    obtain ⟨hintake, hcoded⟩ := haway op hop
    refine ⟨hintake, fun h => ?_⟩
    unfold CodingOp.codedSlot at h
    cases hbegun : op.begun with
    | none => rw [hbegun] at h; exact absurd h nofun
    | some b => rw [hbegun] at h; exact hcoded b hbegun h
  have hhanded := handed_handed (if d.valid then some d.header else none) d.header hthere (by rw [hsame]; exact hdue)
  refine ⟨congrArg Host.Outcome.next ?_, hhanded⟩
  have hpre : (completeFront .preRead cf s).pre = s.pre.closedSlot d := by
    rw [completeFront_pre hslot hd]
    exact hhanded.pre
  have hbusy : (completeFront .preRead cf s).pre.assembly.isSome = true := by
    rw [hpre]
    exact hassembly
  have hempty : (completeFront .preRead cf s).pre.closing = [] := by
    rw [hpre, closedSlot_eq hclosing]
  have hclose := closeComplete_front (ch := .preRead) (s := s) hclosing hempty hbusy
  rw [hclose, concealIdle_busy hbusy, completeFront_pre hslot hd]

/-- What a program and the notices make of a close that fires no cue (R18, R138, R150). -/
structure GoesOn (s t : State) : Prop where
  notices : s.eng.state = .idle ∨ s.eng.state = .done ∨ s.eng.state = .aborted → s.eng.splice = none → t.notices =
    if s.tl.state ≠ .locked ∧ t.tl.state = .locked then (post .lockChange 1 (some t.tl.position) none s).notices
    else if s.tl.state = .locked ∧ t.tl.state ≠ .locked then (post .lockChange 0 (some t.tl.position) none s).notices else s.notices
  held : s.eng.state = .held → t.eng.state =
    if s.tl.mode = .play ∧ s.tl.state ≠ .locked ∧ t.tl.state = .locked then .waiting else .held
  armed : s.eng.state = .armed → ∀ k e, pendingEntry s k = some e → (∀ l, l < k → pendingEntry s l = none) → t.eng.state =
    if s.tl.mode = .play ∧ (s.tl.state ≠ .locked ∧ t.tl.state = .locked) ∧ t.tl.position + 5 ≤ e.inPoint.addr + s.geo.d
    then .waiting else .armed

theorem timelineClose_goesOn {valid : Option Header} (htl : t.tl = s.tl.afterClose valid) (heng : t.eng = (timelineClose valid s).eng)
    (hnotices : t.notices = (timelineClose valid s).notices) : GoesOn s t := by
  have hmode := afterClose_mode s.tl valid
  unfold timelineClose at heng hnotices
  generalize s.tl.afterClose valid = u at htl heng hnotices hmode
  refine ⟨fun hstate hsplice => ?_, fun hstate => ?_, fun hstate k e hk hfirst => ?_⟩
  · rw [hnotices, htl]
    exact (timelineSet_notices hstate hsplice).trans (if_congr and_comm rfl rfl)
  · rw [heng, htl]
    exact (timelineSet_held hmode hstate).trans (if_congr (and_congr_right fun _ => and_comm) rfl rfl)
  · rw [heng, htl]
    refine (timelineSet_armed hmode hstate (firstPending_some hk hfirst)).trans (if_congr ?_ rfl rfl)
    exact and_congr_right fun _ => and_congr_left fun _ => and_comm

/-- The same from a state that differs in the channel and the slots. -/
theorem GoesOn.congr {v : State} (h : GoesOn v t) (htl : v.tl = s.tl) (heng : v.eng = s.eng) (hgeo : v.geo = s.geo)
    (hroutes : v.routes = s.routes) (hnotices : v.notices = s.notices) : GoesOn s t := by
  have hpost : ∀ n, (post .lockChange n (some t.tl.position) none v).notices = (post .lockChange n (some t.tl.position) none s).notices :=
    fun n => post_notices_congr hroutes hnotices ..
  have hpending : ∀ k, pendingEntry v k = pendingEntry s k := fun k => by rw [pendingEntry, pendingEntry, heng]
  obtain ⟨hnot, hheld, harmed⟩ := h
  rw [heng, htl, hpost, hpost, hnotices] at hnot
  rw [heng, htl] at hheld harmed
  rw [hgeo] at harmed
  simp only [hpending] at harmed
  exact ⟨hnot, hheld, harmed⟩

/-! ### An absent PRE-READ frame (R50, R67) -/

theorem completeFront_preAbsent (hslot : cf.frame.slot = none) :
    completeFront .preRead cf s = joinConceal none (timelineClose none (letGoAbsent .preRead cf s)) := by
  simp only [completeFront, hslot, handPreRead, cueFrame, ite_self]
  rfl

/-- What a close of an absent PRE-READ frame leaves. -/
structure Missing (cf : ClosingFrame) (s t : State) : Prop where
  pre : t.pre = s.pre.closedAbsent (inherited s s.pre cf (min 31 (s.pre.headless + 1)))
  tl : t.tl = s.tl.afterClose none
  cues : t.cues = s.cues
  pins : windowPins t
  scrub : scrubFollows s t
  settled : t.tl.state = .locked ∨ t.tl.state = .coasting → ∀ k, pinSettled s t k
  list : t.conceal.list = s.conceal.list ++ [⟨none, s.clock.rate⟩]

theorem joined_missing (cf : ClosingFrame) (s : State) :
    Missing cf s (joinConceal none (timelineClose none (letGoAbsent .preRead cf s))) := by
  have htl := timelineClose_tl none (letGoAbsent .preRead cf s)
  obtain ⟨⟨hpre, -⟩, hcues, hconceal, hclock, -⟩ := timelineSet_keeps ((letGoAbsent .preRead cf s).tl.afterClose none) (letGoAbsent .preRead cf s)
  obtain ⟨hpins, hscrub⟩ := timelineSet_window ((letGoAbsent .preRead cf s).tl.afterClose none) (letGoAbsent .preRead cf s)
  have hsettled := timelineSet_settled (u := (letGoAbsent .preRead cf s).tl.afterClose none) (s := letGoAbsent .preRead cf s)
  rw [joinConceal_eq]
  unfold timelineClose at htl ⊢
  generalize timelineSet ((letGoAbsent .preRead cf s).tl.afterClose none) (letGoAbsent .preRead cf s) = m at *
  refine ⟨hpre, htl, hcues, hpins, hscrub, fun hstate => hsettled (by rw [← htl]; exact hstate), ?_⟩
  show m.conceal.list ++ [⟨none, m.clock.rate⟩] = _
  rw [hconceal, hclock]
  rfl

theorem closesPreAbsent (hslot : cf.frame.slot = none) (hclosing : s.pre.closing = [cf]) (hassembly : s.pre.assembly.isSome = true) :
    ∃ t, exec (.closeOperationComplete .preRead) s = .next t ∧ Missing cf s t := by
  have hmissing := joined_missing cf s
  rw [← completeFront_preAbsent hslot] at hmissing
  have hbusy : (completeFront .preRead cf s).pre.assembly.isSome = true := by
    rw [hmissing.pre]
    exact hassembly
  have hempty : (completeFront .preRead cf s).pre.closing = [] := by
    rw [hmissing.pre, closedAbsent_eq hclosing]
  refine ⟨_, congrArg Host.Outcome.next ((closeComplete_front (ch := .preRead) (s := s) hclosing hempty hbusy).trans (concealIdle_busy hbusy)),
    hmissing⟩

/-! ### CONFIDENCE (R30, R62, R106, R107) -/

theorem concealIdle_frame (s : State) : { concealIdle s with conceal := s.conceal } = s := by
  rw [concealIdle_eq]

/-- The state in which slot `i` is DECODED and the older DECODED slots are given back. -/
def decode (i : SlotId) (s : State) : State :=
  releaseAll (decodedSlots s) (modifySlot i (fun x => { x with state := .decoded }) s)

/-- What the close of a CONFIDENCE frame leaves before its judgement. -/
structure Decodes (i : SlotId) (d : Closed) (s t : State) : Prop where
  conf : t.conf = s.conf.closedSlot d
  frame : { t with slots := s.slots, order := s.order, conf := s.conf } = s
  slot : t.slots[i] = { s.slots[i].closed d s.clock.rate with state := .decoded }
  older : ∀ j, j ≠ i → Decoded s j → Freed s t j
  others : ∀ j, j ≠ i → ¬Decoded s j → t.slots[j] = s.slots[j]

theorem decode_decodes (hfilling : s.slots[i].state = .filling) (d : Closed) : Decodes i d s (decode i (letGo .confidence i d s)) := by
  obtain ⟨hslot, hothers⟩ := letGo_slots (i := i) .confidence d s
  have hdecoded : ∀ j, j ∈ decodedSlots (letGo .confidence i d s) ↔ j ≠ i ∧ Decoded s j := fun j => by
    rw [mem_decodedSlots, Decoded, Decoded]
    by_cases hj : j = i
    · subst hj
      rw [hslot]
      exact ⟨fun h => absurd (hfilling.symm.trans h.1) nofun, fun h => absurd rfl h.1⟩
    · rw [hothers j hj]
      exact ⟨fun h => ⟨hj, h⟩, fun h => h.2⟩
  have hsame : (modifySlot i (fun x => { x with state := .decoded }) (letGo .confidence i d s)).slots[i]
      = { s.slots[i].closed d s.clock.rate with state := .decoded } := by
    rw [← hslot]
    exact modifySlot_get_same ..
  have hrest : ∀ j, j ≠ i → (modifySlot i (fun x => { x with state := .decoded }) (letGo .confidence i d s)).slots[j] = s.slots[j] :=
    fun j hj => (modifySlot_get_other (fun h : i = j => hj h.symm) ..).trans (hothers j hj)
  obtain ⟨hfreed, hkept⟩ := releaseAll_freed (decodedSlots_nodup (letGo .confidence i d s))
    (modifySlot i (fun x => { x with state := .decoded }) (letGo .confidence i d s))
  have hwork := (releaseAll_work (decodedSlots (letGo .confidence i d s))
    (modifySlot i (fun x => { x with state := .decoded }) (letGo .confidence i d s))).frame
  unfold decode
  generalize releaseAll (decodedSlots (letGo .confidence i d s))
    (modifySlot i (fun x => { x with state := .decoded }) (letGo .confidence i d s)) = t at *
  refine ⟨(congrArg State.conf hwork :), (congrArg (fun x : State => { x with slots := s.slots, order := s.order, conf := s.conf }) hwork :),
    ?_, fun j hj hold => ?_, fun j hj hnot => ?_⟩
  · rw [hkept i fun h => ((hdecoded i).mp h).1 rfl, hsame]
  · exact (hfreed j ((hdecoded j).mpr ⟨hj, hold⟩)).congr (hrest j hj) rfl rfl
  · rw [hkept j fun h => hnot ((hdecoded j).mp h).2, hrest j hj]

theorem completeFront_conf (hslot : cf.frame.slot = some i) (hd : d = closeStages s s.conf cf s.slots[i].audio) :
    completeFront .confidence cf s =
      judgeClose cf.designated (some (decode i (letGo .confidence i d s)).slots[i]) (decode i (letGo .confidence i d s)) := by
  simp only [completeFront, hslot]
  rw [hd]
  rfl

theorem completeFront_confAbsent (hslot : cf.frame.slot = none) :
    completeFront .confidence cf s = judgeClose cf.designated none (letGoAbsent .confidence cf s) := by
  simp only [completeFront, hslot]
  rfl

/-- A CONFIDENCE frame closes where `t` is what its judgement leaves. -/
theorem closesConf {c : Capture} (hfront : completeFront .confidence cf s = t) (hconf : t.conf = c) (hclosing : s.conf.closing = [cf])
    (hempty : c.closing = []) (hbusy : c.assembly.isSome = true) : exec (.closeOperationComplete .confidence) s = .next (concealIdle t) := by
  subst hfront
  subst hconf
  exact congrArg Host.Outcome.next (closeComplete_front (ch := .confidence) (s := s) hclosing hempty hbusy)

theorem closeComplete_settings (h : exec (.closeOperationComplete ch) s = .next t) : settingsOf t = settingsOf s := by
  have hsettings := (closeComplete_step (Move.refl s) ch).settings
  rw [← Host.Outcome.next.inj h]
  exact hsettings

/-- The subject of the fault of a closed frame (R107). -/
def faultOf (d : Closed) (e : JudgeEntry) : Option Nat :=
  if d.bad.left ≠ [] ∨ d.bad.right ≠ [] then some 1 else if d.valid = false then some 2
  else if d.header.take ≠ e.take then some 3 else none

theorem faultSubject_closed (e : JudgeEntry) (x : Slot) (d : Closed) (r : Rate) :
    faultSubject e (some { x.closed d r with state := .decoded }) = faultOf d e := by
  unfold faultSubject faultOf
  refine if_congr Iff.rfl rfl (if_congr (Bool.not_eq_true' _).to_iff rfl (if_congr ?_ rfl rfl))
  exact not_congr ⟨fun h => Option.some.inj h, fun h => congrArg some h⟩

/-- The judgement of a frame, from the state `v` in which it is DECODED. -/
theorem judged_after {v : State} {e : JudgeEntry} {rest : List JudgeEntry} {x : Option Slot}
    (hframe : { v with slots := s.slots, order := s.order, conf := s.conf } = s)
    (hjudge : s.judge = e :: rest) (hdes : e.designated = true) (hslot : v.slots[e.slot] = s.slots[e.slot] ∨ Freed s v e.slot) :
    let t := concealIdle (judgeClose 1 x v)
    t.conf = v.conf ∧ t.judge = rest ∧ Freed s t e.slot
      ∧ (faultSubject e x = none → t.notices = s.notices)
      ∧ (∀ n, faultSubject e x = some n → t.notices = (post .writeFault n (some e.addr) none s).notices)
      ∧ t.gate = countRun e (faultSubject e x).isSome s.gate
      ∧ (faultSubject e x = none ∨ e.partly = true → t.eng = s.eng)
      ∧ (faultSubject e x ≠ none → e.partly = false → t.eng = (countFault e.tag s).eng) := by
  have hvjudge : v.judge = s.judge := (congrArg State.judge hframe :)
  have hvfetch : v.fetch = s.fetch := (congrArg State.fetch hframe :)
  have hveng : v.eng = s.eng := (congrArg State.eng hframe :)
  have hvgate : v.gate = s.gate := (congrArg State.gate hframe :)
  obtain ⟨hone, herase⟩ := judgeClose_one (hvjudge.trans hjudge) hdes x
  have hjudged := judgeEntry_judged e x v
  rw [← hone] at hjudged
  have hidle := concealIdle_frame (judgeClose 1 x v)
  generalize judgeClose 1 x v = w at hjudged hidle
  generalize concealIdle w = t at hidle
  have hslots : t.slots = w.slots := (congrArg State.slots hidle :)
  have hnotices : t.notices = w.notices := (congrArg State.notices hidle :)
  have heng : t.eng = w.eng := (congrArg State.eng hidle :)
  refine ⟨(congrArg State.conf hidle :).trans (congrArg State.conf hjudged.frame :), ?_, ?_, fun h => ?_, fun n h => ?_, ?_, fun h => ?_,
    fun h hp => ?_⟩
  · exact (congrArg State.judge hidle :).trans (hjudged.judge.trans herase)
  · have hfreed : Freed s (releaseOrDue e.slot v) e.slot := by
      rcases hslot with h | h
      · exact (releaseOrDue_freed e.slot v).congr h hvfetch rfl
      · exact h.again hvfetch
    exact hfreed.congr rfl rfl (by rw [hslots, hjudged.slots])
  · exact hnotices.trans ((hjudged.clean h).trans (congrArg State.notices hframe :))
  · exact hnotices.trans ((hjudged.fault n h).trans (post_notices_congr (congrArg State.routes hframe :) (congrArg State.notices hframe :) ..))
  · rw [← hvgate]
    exact (congrArg State.gate hidle :).trans hjudged.gate
  · exact heng.trans ((hjudged.spared h).trans hveng)
  · refine heng.trans ((hjudged.counted h hp).trans ?_)
    exact countFault_congr e.tag hveng

/-- A CONFIDENCE frame that no entry is designated for. -/
theorem closesConf_unjudged (hslot : cf.frame.slot = some i) (hfilling : s.slots[i].state = .filling)
    (hd : d = closeStages s s.conf cf s.slots[i].audio) (hclosing : s.conf.closing = [cf]) (hassembly : s.conf.assembly.isSome = true)
    (hnone : cf.designated = 0 ∨ ∀ e ∈ s.judge, e.designated = false) : ∃ t, exec (.closeOperationComplete .confidence) s = .next t
      ∧ t.conf = s.conf.closedSlot d ∧ t.slots[i] = { s.slots[i].closed d s.clock.rate with state := .decoded }
      ∧ (∀ j, j ≠ i → (Decoded s j → Freed s t j) ∧ (¬Decoded s j → t.slots[j] = s.slots[j]))
      ∧ t.judge = s.judge ∧ t.gate = s.gate ∧ t.notices = s.notices ∧ t.tl = s.tl := by
  have hdecodes := decode_decodes hfilling d
  have hfront := completeFront_conf hslot hd
  generalize decode i (letGo .confidence i d s) = v at hdecodes hfront
  obtain ⟨hconf, hframe, hslots, hold, hothers⟩ := hdecodes
  have hjudge : v.judge = s.judge := (congrArg State.judge hframe :)
  rw [judgeClose_none (by rw [hjudge]; exact hnone)] at hfront
  have hidle := concealIdle_frame v
  have hrun := closesConf hfront hconf hclosing (by rw [closedSlot_eq hclosing]) hassembly
  generalize concealIdle v = t at hidle hrun
  have hsame : t.slots = v.slots := (congrArg State.slots hidle :)
  refine ⟨t, hrun, (congrArg State.conf hidle :).trans hconf, by rw [hsame]; exact hslots, fun j hj => ⟨fun ho => ?_, fun hn => by
    rw [hsame]; exact hothers j hj hn⟩, (congrArg State.judge hidle :).trans hjudge, (congrArg State.gate hidle :).trans
    (congrArg State.gate hframe :), (congrArg State.notices hidle :).trans (congrArg State.notices hframe :),
    (congrArg State.tl hidle :).trans (congrArg State.tl hframe :)⟩
  exact (hold j hj ho).congr rfl rfl (by rw [hsame])

theorem judgeClose_conf {v : State} {x : Option Slot} {n : Nat} (h : (concealIdle (judgeClose n x v)).conf = v.conf) :
    (judgeClose n x v).conf = v.conf := (concealIdle_channels _).2.symm.trans h

/-! ### The obligation -/

/-- Settles O42: a close is its channel's step, and then the timeline, the cues and the list, or the older slots and the judgement. -/
theorem closeOperationCompletes : Obligations.CloseOperationCompletes := by
  unfold Obligations.CloseOperationCompletes
  intro top freed
  refine ⟨fun s cf i hslot hfilling hdue => ?slot, fun s cf hslot => ⟨fun hclosing hassembly => ?absentPre,
    fun e rest hclosing hassembly hdes hjudge hdesignated => ?absentConf⟩, fun s c cf run => ?inherits, fun tl => ?timeline,
    fun w j v addr => ?cue, fun s ch hclosing => ?idle⟩
  case slot =>
    intro S shut
    refine ⟨fun d hd hclosing hassembly haway => ?pre, fun d hd hclosing hassembly => ?conf, fun c m ch n => ?stages⟩
    case pre =>
      obtain ⟨hrun, hh⟩ := closesPre hslot hfilling hdue hd hclosing hassembly haway
      obtain ⟨hleft, hothers⟩ := letGo_slots (i := i) .preRead d s
      generalize handed (if d.valid = true then some d.header else none) d.header i (letGo .preRead i d s) = t at hrun hh
      have hkept : t.slots[i] = { s.slots[i].closed d s.clock.rate with pinned := t.slots[i].pinned } := by
        rw [← hleft]
        exact hh.slot
      refine ⟨t, hrun, hh.pre.trans (closedSlot_eq hclosing d), by rw [hkept]; rfl, by rw [hkept]; rfl, hh.tl, hh.pins, hh.scrub,
        fun hjog hstate k hk => pinSettled_congr (hh.settled hjog hstate k) (hothers k hk) rfl rfl rfl rfl, hh.list, hh.op, ?_⟩
      intro tc passes hit entered exited
      refine ⟨fun j => ⟨hh.stays j, hh.fired j⟩, fun j hstate hone hnotify =>
        (hh.notified j hstate hone hnotify).trans (post_notices_congr rfl rfl ..), fun hnone => ?_⟩
      obtain ⟨heng, hnotices⟩ := hh.missed hnone
      obtain ⟨hidle, hheld, harmed⟩ := (timelineClose_goesOn hh.tl heng hnotices).congr (s := s) rfl rfl rfl rfl rfl
      exact ⟨hidle, hheld, harmed⟩
    case conf =>
      intro older
      refine ⟨fun hnone => ?unjudged, fun e rest hdes hjudge hdesignated hne => ?judged⟩
      case unjudged =>
        obtain ⟨t, hrun, hconf, hthis, hothers, hjudge, hgate, hnotices, htl⟩ :=
          closesConf_unjudged hslot hfilling hd hclosing hassembly hnone
        exact ⟨t, hrun, hconf.trans (closedSlot_eq hclosing d), hthis, hothers, hjudge, hgate, hnotices, htl, closeComplete_settings hrun⟩
      case judged =>
        intro fault run
        have hdecodes := decode_decodes hfilling d
        have hfront := completeFront_conf hslot hd
        generalize decode i (letGo .confidence i d s) = v at hdecodes hfront
        have hsubject : faultSubject e (some v.slots[i]) = fault := by
          rw [hdecodes.slot]
          exact faultSubject_closed e s.slots[i] d s.clock.rate
        have hgiven : v.slots[e.slot] = s.slots[e.slot] ∨ Freed s v e.slot := by
          by_cases hold : Decoded s e.slot
          · exact .inr (hdecodes.older e.slot hne hold)
          · exact .inl (hdecodes.others e.slot hne hold)
        obtain ⟨hconf, hrest, hfreed, hclean, hfault, hgate, hspared, hcounted⟩ :=
          judged_after (x := some v.slots[i]) hdecodes.frame hjudge hdesignated hgiven
        rw [hsubject] at hclean hfault hgate hspared hcounted
        rw [hdes] at hfront
        clear_value fault
        have hclosed := hdecodes.conf.trans (closedSlot_eq hclosing d)
        have hrun := closesConf hfront ((judgeClose_conf hconf).trans hclosed) hclosing rfl hassembly
        refine ⟨_, hrun, hconf.trans hclosed, hrest, hfreed, ?_, hgate.trans (countRun_eq e fault s.gate), hspared, fun hn hp =>
          ⟨fun sp hsp htag => (hcounted hn hp).trans ((countFault_eng e.tag s).1 sp hsp htag),
            fun hother => (hcounted hn hp).trans ((countFault_eng e.tag s).2 hother)⟩⟩
        cases fault with
        | none => exact hclean rfl
        | some n => exact hfault n rfl
    case stages =>
      obtain ⟨hhere, helsewhere⟩ := closeStages_mem_bad s c cf m ch n
      exact ⟨hhere, helsewhere, closeStages_chosen s c cf m⟩
  case absentPre =>
    obtain ⟨t, hrun, hmissing⟩ := closesPreAbsent hslot hclosing hassembly
    refine ⟨t, hrun, hmissing.pre.trans (closedAbsent_eq hclosing _), hmissing.tl, hmissing.cues, hmissing.pins, hmissing.scrub,
      fun _ => hmissing.settled, hmissing.list⟩
  case absentConf =>
    have hframe : { letGoAbsent .confidence cf s with slots := s.slots, order := s.order, conf := s.conf } = s := rfl
    obtain ⟨hconf, hrest, hfreed, -, hfault, -, -, -⟩ := judged_after (x := none) hframe hjudge hdesignated (.inl rfl)
    have hfront := completeFront_confAbsent (s := s) hslot
    rw [hdes] at hfront
    have hclosed := closedAbsent_eq hclosing (inherited s s.conf cf (min 31 (s.conf.headless + 1)))
    have hrun := closesConf hfront ((judgeClose_conf hconf).trans hclosed) hclosing rfl hassembly
    exact ⟨_, hrun, hconf.trans hclosed, hrest, hfreed, hfault 2 rfl⟩
  case inherits =>
    intro h
    refine ⟨inherited_none, fun r hr => ?_⟩
    have hsome : h = _ := inherited_some (s := s) (cf := cf) hr run
    have haddr := travelAddr_bind cf.mode cf.dir r.addr
    have htc := travelTimecode_map cf.mode cf.dir r.tc
    by_cases hlong : s.tl.coastLimit < run
    · rw [if_pos hlong] at hsome
      rw [hsome]
      exact ⟨rfl, haddr, fun _ => ⟨rfl, rfl⟩, fun hshort => absurd hlong (Nat.not_lt.mpr hshort)⟩
    · rw [if_neg hlong] at hsome
      rw [hsome]
      exact ⟨rfl, haddr, fun hl => absurd hl hlong, fun _ => ⟨rfl, htc⟩⟩
  case timeline =>
    intro u moves off on
    refine ⟨fun h v => afterClose_still h v, fun hmoves => ?_, fun h => (afterClose_shuttle h).1, fun h a ha => ?_⟩
    · have hnone := afterClose_none hmoves
      have hon : ∀ n, coasted n tl = on n := coasted_moves hmoves
      have hcoast : tl.state ≠ .laying → u none = tl.coastOn := fun h => hnone.trans (if_neg h)
      refine ⟨fun h => ?_, fun h => ?_, fun h => ?_, fun h => ?_⟩
      · rw [hcoast (by rw [h]; nofun), coastOn_locked h, hon]
      · rw [hcoast (by rw [h]; nofun), coastOn_coasting h, hon]
        rfl
      · rw [hcoast (by rw [h]; nofun), coastOn_acquiring h]
        rfl
      · rw [hcoast (by rw [h]; nofun), coastOn_still (.inl h)]
    · intro expected locked restart ref
      refine ⟨fun hm => (afterClose_shuttle hm).2 h a ha, fun hmoves => ?_⟩
      have hheaded : u (some h) = tl.closeHeaded h a := afterClose_headed hmoves ha
      have hexpected : ∀ r, expectedAfter tl.mode tl.dir r a = true ↔ expected r := fun r => expectedAfter_iff tl.mode tl.dir r a
      obtain ⟨hunlocked, hacquiring, hplaced⟩ := closeHeaded_states (tl := tl) h a
      rw [hheaded]
      refine ⟨hunlocked, fun hs => ?_, fun hs => ?_⟩
      · rw [hacquiring hs]
        refine ⟨fun hno => if_neg (mt (hexpected ref).mp hno), fun hyes hrun => ?_, fun hyes hrun => ?_⟩
        · exact (if_pos ((hexpected ref).mpr hyes)).trans (if_pos (by omega))
        · exact (if_pos ((hexpected ref).mpr hyes)).trans (if_neg (by omega))
      · rw [hplaced hs]
        exact ⟨fun hyes => if_pos ((hexpected _).mpr hyes), fun hno => if_neg (mt (hexpected _).mp hno)⟩
  case cue =>
    intro c haction hversion
    obtain ⟨r, x, hrun, hframers, hfire⟩ := fireCue_commands (i := j) hversion haction v addr
    refine ⟨r, x, ?_, hframers, hfire⟩
    rw [← hrun]
    unfold cueCommand
    cases hact : w.cues[j].action with
    | notify => exact absurd hact haction
    | startRecord | startRehearse | stopAtEnd | stopNow | punchToggle => rfl
  case idle =>
    refine congrArg Host.Outcome.next ?_
    simp only [closeComplete, hclosing]

end Sys2Proof.CloseCompletes
end

section
/-! SUPPORT. Which slot a request takes, and what an allocation makes of it (R25, R27, R28). -/

namespace Sys2Proof.SlotChoice
open Sys2Proof.Machine Sys2Proof.SlotSteps

variable {i : SlotId} {s : State}

/-- A slot that a request may reclaim (R27). -/
def Spare (s : State) (i : SlotId) : Prop :=
  s.slots[i].state = .concealed ∧ s.slots[i].role = some .preRead ∧ s.slots[i].due = true ∧ blocked s i = false

theorem spare_iff : (s.slots[i].isPreRead && s.slots[i].due && !blocked s i) = true ↔ Spare s i := by
  rw [Bool.and_eq_true, Bool.and_eq_true, Slot.isPreRead, Bool.and_eq_true, beq_iff_eq, beq_iff_eq, Bool.not_eq_true', Spare, and_assoc,
    and_assoc]

theorem chooseSlot_free (hi : s.slots[i].state = .free) (hlower : ∀ j, j < i → s.slots[j].state ≠ .free) : chooseSlot s = some i := by
  have hfind : slotIds.find? (fun j => s.slots[j].state == .free) = some i := by
    refine List.find?_eq_some_iff_append.mpr ⟨beq_iff_eq.mpr hi, slotIds.take i.val, slotIds.drop (i.val + 1), ?_, fun x hx => ?_⟩
    · have hlen : i.val < slotIds.length := by rw [slotIds, List.length_finRange]; exact i.isLt
      have hdrop := List.drop_eq_getElem_cons hlen
      have hget : slotIds[i.val] = i := List.getElem_finRange ..
      rw [hget] at hdrop
      exact (List.take_append_drop i.val _).symm.trans (congrArg (_ ++ ·) hdrop)
    · obtain ⟨n, hn, rfl⟩ := List.mem_take_iff_getElem.mp hx
      have hget : (slotIds[n]'(by omega)).val = n := congrArg Fin.val (List.getElem_finRange ..)
      rw [Bool.not_eq_true', beq_eq_false_iff_ne]
      exact hlower _ (Fin.lt_def.mpr (by omega))
  unfold chooseSlot
  rw [hfind]

theorem chooseSlot_full (h : ∀ i : SlotId, s.slots[i].state ≠ .free) :
    chooseSlot s = s.order.find? fun i => s.slots[i].isPreRead && s.slots[i].due && !blocked s i := by
  have hnone : slotIds.find? (fun j => s.slots[j].state == .free) = none := List.find?_eq_none.mpr fun j _ => by
    rw [beq_iff_eq]
    exact h j
  unfold chooseSlot
  rw [hnone]

theorem chooseSlot_oldest (h : ∀ i : SlotId, s.slots[i].state ≠ .free) {before after : List SlotId} (hsplit : s.order = before ++ i :: after)
    (hi : Spare s i) (hbefore : ∀ j ∈ before, ¬Spare s j) : chooseSlot s = some i := by
  rw [chooseSlot_full h]
  refine List.find?_eq_some_iff_append.mpr ⟨spare_iff.mpr hi, before, after, hsplit, fun j hj => ?_⟩
  rw [Bool.not_eq_true', Bool.eq_false_iff]
  exact fun hs => hbefore j hj (spare_iff.mp hs)

theorem chooseSlot_none (h : ∀ i : SlotId, s.slots[i].state ≠ .free) (hnone : ∀ i ∈ s.order, ¬Spare s i) : chooseSlot s = none := by
  rw [chooseSlot_full h]
  exact List.find?_eq_none.mpr fun j hj hs => hnone j hj (spare_iff.mp hs)

/-- A slot that is taken joins the end of the order (R27). -/
theorem fillSlot_eq (i : SlotId) (role : Role) (s : State) : fillSlot i role s = { s with
    slots := s.slots.set i { Slot.reset with state := .filling, role := some role, layout := s.clock.rate }
    order := s.order.erase i ++ [i] } := by
  unfold fillSlot setSlot releaseSlot setSlot
  simp only [Vector.set_set]

theorem allocate_some {role : Role} (h : chooseSlot s = some i) (addr : Option Nat) :
    allocate role addr s = (some i, fillSlot i role s) := by
  unfold allocate
  rw [h]
  rfl

theorem allocate_none (h : chooseSlot s = none) (role : Role) (addr : Option Nat) :
    allocate role addr s = (none, post .storeOverrun (requester role) addr none s) := by
  unfold allocate
  rw [h]

end Sys2Proof.SlotChoice
end

section
/-! SUPPORT. The plan of a frame of a splice, and its gains (R94, R143). -/

namespace Sys2Proof.SplicePlans
open Sys2Proof.Machine

variable {S : Nat} {sp : Splice} {start : Point} {a : Nat}

/-- The splice's position at the begin of frame `a`, from the start point on (R143). -/
def trueOrigin (S : Nat) (start : Point) (a : Nat) : Int := ((a : Int) - start.addr) * S - start.offset

/-- The origin of the plan: far into the splice only the fades' distance counts (R143). -/
def planOrigin (S : Nat) (sp : Splice) (T : Int) : Int := min T (max (sp.fadeIn : Int) S)

theorem splicePlan_spanned {n : Nat} (h : sp.span = some n) (S : Nat) (start : Point) (a : Nat) :
    let T := trueOrigin S start a
    let O := planOrigin S sp T
    (splicePlan S sp start a).final = decide ((n : Int) ≤ T + S)
      ∧ (splicePlan S sp start a).span = (min (n - (T - O)) (O + S + sp.fadeOut)).toNat := by
  simp only [splicePlan, h]
  exact ⟨rfl, rfl⟩

theorem splicePlan_endless (h : sp.span = none) (S : Nat) (start : Point) (a : Nat) :
    (splicePlan S sp start a).final = false
      ∧ (splicePlan S sp start a).span = (planOrigin S sp (trueOrigin S start a) + S + sp.fadeOut).toNat := by
  simp only [splicePlan, h]
  exact ⟨trivial, rfl⟩

theorem splicePlan_mark (S : Nat) (sp : Splice) (start : Point) (a : Nat) : (splicePlan S sp start a).mark =
    if a = start.addr then (if (splicePlan S sp start a).final then .inOut else .inPoint)
    else if (splicePlan S sp start a).final then .outPoint else .none := by
  have hmark : (splicePlan S sp start a).mark = planMark (decide (a = start.addr)) (splicePlan S sp start a).final := rfl
  rw [hmark]
  by_cases ha : a = start.addr
  · rw [if_pos ha, decide_eq_true ha]
    cases (splicePlan S sp start a).final <;> rfl
  · rw [if_neg ha, decide_eq_false ha]
    cases (splicePlan S sp start a).final <;> rfl

theorem splicePlan_timecode (S : Nat) (sp : Splice) (start : Point) (a : Nat) :
    (sp.method = .insert ∨ sp.timecode = none → (splicePlan S sp start a).timecode = none)
    ∧ ∀ v f, sp.method = .assemble → sp.timecode = some v → sp.inFrame = some f →
      (splicePlan S sp start a).timecode = some (Nat.iterate Timecode.next (a - f) v) := by
  refine ⟨fun h => ?_, fun v f hmethod htc hframe => ?_⟩
  · rcases h with h | h
    · simp only [splicePlan, h]
    · cases hmethod : sp.method <;> simp only [splicePlan, h, hmethod]
  · simp only [splicePlan, hmethod, htc, hframe]
    rfl

/-! ### The gains of a plan are the splice's own (R94) -/

theorem gainAt_some (h : Shape) (i : Nat) : gainAt (some h) i =
    if h.origin + i < 0 ∨ h.span ≤ h.origin + i then ⟨0, 1⟩
    else Frac.least (if h.origin + i < h.fadeIn then ⟨(h.origin + i).toNat + 1, h.fadeIn + 1⟩ else ⟨1, 1⟩)
      (if h.span - h.fadeOut ≤ h.origin + i then ⟨(h.span - (h.origin + i)).toNat, h.fadeOut + 1⟩ else ⟨1, 1⟩) := rfl

/-- A clipped origin and a clipped span leave the gains of the frame. -/
theorem gainAt_clipped {i : Nat} (hi : i < S) (T : Int) (n fadeIn fadeOut : Nat) :
    let O : Int := min T (max (fadeIn : Int) S)
    gainAt (some ⟨O, ((min ((n : Int) - (T - O)) (O + S + fadeOut)).toNat : Int), fadeIn, fadeOut⟩) i
      = gainAt (some ⟨T, n, fadeIn, fadeOut⟩) i := by
  intro O
  have hO : O = min T (max (fadeIn : Int) S) := rfl
  clear_value O
  generalize hx : ((min ((n : Int) - (T - O)) (O + S + fadeOut)).toNat : Int) = x
  rw [Int.toNat_eq_max] at hx
  have hzero : (O + i < 0 ∨ x ≤ O + i) ↔ (T + i < 0 ∨ (n : Int) ≤ T + i) := by omega
  have hfin : (if O + i < fadeIn then (⟨(O + i).toNat + 1, fadeIn + 1⟩ : Frac) else ⟨1, 1⟩)
      = if T + i < fadeIn then ⟨(T + i).toNat + 1, fadeIn + 1⟩ else ⟨1, 1⟩ := by
    by_cases h : O + i < fadeIn
    · have hsame : O = T := by omega
      rw [hsame]
    · rw [if_neg h, if_neg (by omega)]
  rw [gainAt_some, gainAt_some]
  refine (if_congr hzero rfl rfl).trans ?_
  by_cases hgone : T + i < 0 ∨ (n : Int) ≤ T + i
  · rw [if_pos hgone]
    exact (if_pos hgone).symm
  · have hfout : (if x - fadeOut ≤ O + i then (⟨(x - (O + i)).toNat, fadeOut + 1⟩ : Frac) else ⟨1, 1⟩)
        = if (n : Int) - fadeOut ≤ T + i then ⟨((n : Int) - (T + i)).toNat, fadeOut + 1⟩ else ⟨1, 1⟩ := by
      by_cases h : x - fadeOut ≤ O + i
      · rw [if_pos h, if_pos (by omega), show x - (O + i) = (n : Int) - (T + i) by omega]
      · rw [if_neg h, if_neg (by omega)]
    rw [if_neg hgone]
    refine Eq.trans ?_ (if_neg hgone).symm
    exact congrArg₂ Frac.least hfin hfout

end Sys2Proof.SplicePlans
end

section
/-! SUPPORT. What a coding operation codes: its pairs, its header and its end (R93 to R97, R121). -/

namespace Sys2Proof.CodedFrames
open Sys2Proof.Machine Sys2Proof.SplicePlans

variable {s : State} {op : CodingOp} {b : BegunOp} {p : SplicePlan}

/-! ### The pieces -/

theorem combine_free (m : CopyMark) : combine m .free = m ∧ combine .free m = m := by
  refine ⟨if_neg (Nat.not_lt_zero _), ?_⟩
  cases m with
  | free => rfl
  | never => rfl
  | counted r =>
    refine if_pos ?_
    have := r.isLt
    show 0 < 4 - r.val
    omega

theorem frameMark_cases (m : CopyMark) (tape : Option CopyMark) : frameMark m tape true true = combine m (tape.getD .free)
    ∧ frameMark m tape true false = m ∧ frameMark m tape false true = tape.getD .free :=
  ⟨rfl, (combine_free m).1, (combine_free _).2⟩

theorem mixSample_zero (t v : Sample) : mixSample t v zeroGain = t := by
  have hsum : t.toInt * ((1 : Nat) - (0 : Nat) : Int) + v.toInt * (0 : Nat) = t.toInt := by
    rw [Int.natCast_zero, Int.natCast_one, Int.sub_zero, Int.mul_one, Int.mul_zero, Int.add_zero]
  unfold mixSample zeroGain
  dsimp only
  rw [hsum, Int.natCast_one, Int.tdiv_one, BitVec.ofInt_toInt]

theorem mixPair_zero (t v : SamplePair) : mixPair t v zeroGain = t := by
  unfold mixPair
  rw [mixSample_zero, mixSample_zero]

theorem framePairs_pos (r : Rate) : 0 < framePairs r := by cases r <;> decide

/-! ### The coded frame, piece by piece -/

/-- The plan that carries new audio into the frame (R93). -/
def livePlan (b : BegunOp) : Option SplicePlan := b.plan.filter fun _ => !b.verdict.tapeOnly

/-- The plan that stands for the frame's header (R93). -/
def keptPlan (b : BegunOp) : Option SplicePlan := b.plan.filter fun _ => !b.verdict.atIn

/-- The end of the frame's new audio, when it has one of its own (R93, R95). -/
def endOf (op : CodingOp) (b : BegunOp) : Option Nat :=
  (livePlan b).bind fun p => earlyEnd (framePairs b.rate) p b.verdict b.finalReq (op.intake.starve.map (·.1))

/-- How the frame is mixed (R94, R95). -/
def mixOf (op : CodingOp) (b : BegunOp) : Option Shape := (livePlan b).map fun p => shapeOf (framePairs b.rate) p (endOf op b)

/-- The pre-read slot's contents. -/
def tapeSlot (s : State) (op : CodingOp) (b : BegunOp) : Option Slot := (preSlotOf s op b).map fun i => s.slots[i]

/-- Some gain of the frame has a property. -/
def someGain (op : CodingOp) (b : BegunOp) (f : Frac → Bool) : Bool :=
  ((List.range (framePairs b.rate)).map (gainAt (mixOf op b))).any f

theorem codeFrame_pairs (s : State) (op : CodingOp) (b : BegunOp) : (codeFrame s op b).pairs = (List.range (framePairs b.rate)).map fun i =>
    mixPair (slotPair s (preSlotOf s op b) i) (slotPair s op.intake.slot i) (gainAt (mixOf op b) i) := rfl

theorem codeFrame_early (s : State) (op : CodingOp) (b : BegunOp) : (codeFrame s op b).early = endOf op b := rfl

theorem codeFrame_header (s : State) (op : CodingOp) (b : BegunOp) : (codeFrame s op b).header =
    { addr := some op.addr, tc := codedTimecode s op.addr (keptPlan b) (tapeSlot s op b), rate := b.rate,
      mark := frameMark b.newMark ((tapeSlot s op b).bind fun y => y.header.map (·.mark)) (someGain op b fun g => decide (0 < g.num))
        (someGain op b fun g => decide (g.num < g.den)),
      take := match keptPlan b with
        | some p => p.take
        | none => ((tapeSlot s op b).bind fun y => y.header.map (·.take)).getD 0
      splice := match b.plan with
        | some p => codedMark p b.verdict (endOf op b).isSome
        | none => .none
      rework := (someGain op b (fun g => decide (g.num < g.den)) && (tapeSlot s op b).all fun y => y.concealed)
        || (someGain op b (fun g => decide (0 < g.num)) && op.intake.failed) } := rfl

theorem codeFrame_tag (s : State) (op : CodingOp) (b : BegunOp) : (codeFrame s op b).tag = (keptPlan b).map (·.tag) := rfl

/-- The final frame's condition (R96). -/
def refusedIn : Verdict → Bool
  | .refusedIn _ => true
  | _ => false

theorem codeFrame_final (s : State) (op : CodingOp) (b : BegunOp) : (codeFrame s op b).final =
    (keptPlan b).any fun p => p.final || (endOf op b).isSome || b.finalReq || refusedIn b.verdict := by
  have hfinal : (codeFrame s op b).final = match keptPlan b with
      | some p => p.final || (endOf op b).isSome || b.finalReq || (match b.verdict with
          | .refusedIn _ => true
          | _ => false)
      | none => false := rfl
  rw [hfinal]
  cases keptPlan b with
  | none => rfl
  | some p =>
    dsimp only [Option.any_some]
    cases b.verdict <;> rfl

theorem codeFrame_starved (s : State) (op : CodingOp) (b : BegunOp) : (codeFrame s op b).starved = match endOf op b, op.intake.starve with
    | some e, some x => decide (e = min x.1 (framePairs b.rate)) && decide (b.verdict = .permit)
    | _, _ => false := by
  have hstarved : (codeFrame s op b).starved = match endOf op b, op.intake.starve.map (·.1) with
    | some e, some e' => decide (e = min e' (framePairs b.rate)) && decide (b.verdict = .permit)
    | _, _ => false := rfl
  rw [hstarved]
  cases op.intake.starve <;> cases endOf op b <;> rfl

theorem someGain_iff (op : CodingOp) (b : BegunOp) (f : Frac → Bool) :
    someGain op b f = true ↔ ∃ i, i < framePairs b.rate ∧ f (gainAt (mixOf op b) i) = true := by
  rw [someGain, List.any_eq_true]
  constructor
  · rintro ⟨g, hg, hf⟩
    obtain ⟨i, hi, rfl⟩ := List.mem_map.mp hg
    exact ⟨i, List.mem_range.mp hi, hf⟩
  · rintro ⟨i, hi, hf⟩
    exact ⟨_, List.mem_map.mpr ⟨i, List.mem_range.mpr hi, rfl⟩, hf⟩

/-! ### A frame of tape audio only (R93) -/

theorem gainAt_none (i : Nat) : gainAt none i = zeroGain := rfl

/-- A frame whose plan carries no new audio. -/
structure TapeOnly (s : State) (op : CodingOp) (b : BegunOp) : Prop where
  pairs : (codeFrame s op b).pairs = (List.range (framePairs b.rate)).map (slotPair s (preSlotOf s op b))
  early : (codeFrame s op b).early = none
  mark : (codeFrame s op b).header.mark = ((tapeSlot s op b).bind fun y => y.header.map (·.mark)).getD .free
  rework : (codeFrame s op b).header.rework = (tapeSlot s op b).all fun y => y.concealed

theorem codeFrame_tapeOnly (h : livePlan b = none) (s : State) (op : CodingOp) : TapeOnly s op b := by
  have hmix : mixOf op b = none := by rw [mixOf, h]; rfl
  have hnew : (someGain op b fun g => decide (0 < g.num)) = false := Bool.eq_false_iff.mpr fun hg => by
    obtain ⟨i, -, hi⟩ := (someGain_iff ..).mp hg
    rw [hmix, gainAt_none] at hi
    exact absurd hi (by decide)
  have hold : (someGain op b fun g => decide (g.num < g.den)) = true := (someGain_iff ..).mpr ⟨0, framePairs_pos _, by
    rw [hmix, gainAt_none]
    decide⟩
  have hheader := codeFrame_header s op b
  rw [hnew, hold] at hheader
  refine ⟨?_, ?_, ?_, ?_⟩
  · rw [codeFrame_pairs, hmix]
    exact List.map_congr_left fun i _ => mixPair_zero ..
  · rw [codeFrame_early, endOf, h]
    rfl
  · rw [hheader]
    exact (frameMark_cases ..).2.2
  · rw [hheader]
    simp only [Bool.true_and, Bool.false_and, Bool.or_false]

theorem livePlan_tapeOnly (h : b.verdict.tapeOnly = true) : livePlan b = none := by
  rw [livePlan, h]
  cases b.plan <;> rfl

theorem livePlan_live (hp : b.plan = some p) (h : b.verdict.tapeOnly = false) : livePlan b = some p := by
  rw [livePlan, hp, h]
  rfl

theorem keptPlan_kept (hp : b.plan = some p) (h : b.verdict.atIn = false) : keptPlan b = some p := by
  rw [keptPlan, hp, h]
  rfl

theorem keptPlan_atIn (h : b.verdict.atIn = true) : keptPlan b = none := by
  rw [keptPlan, h]
  cases b.plan <;> rfl

/-! ### The timecode (R96) -/

/-- The timecode that follows the last coded frame's. -/
def followed (s : State) (a : Nat) : Option Timecode :=
  match s.lastCoded with
  | some (d, v) => if d + 1 = a then v.map Timecode.next else none
  | none => none

theorem codedTimecode_tape (s : State) (a : Nat) (x : Option Slot) : codedTimecode s a none x = match x with
    | some y => y.header.bind (·.tc)
    | none => followed s a := by
  cases x <;> rfl

theorem codedTimecode_plan (s : State) (a : Nat) (p : SplicePlan) (x : Option Slot) :
    codedTimecode s a (some p) x = if p.method = .assemble then p.timecode else match x with
      | some y => y.header.bind (·.tc)
      | none => followed s a := by
  cases x <;> rfl

/-! ### A frame with new audio (R93 to R95) -/

theorem earlyEnd_cases (S : Nat) (p : SplicePlan) (v : Verdict) (finalReq : Bool) (starve : Option (Nat × BankId)) :
    let atEnd : Option Nat := if v = .guardAhead ∨ finalReq = true then (if p.final then none else some S) else none
    earlyEnd S p v finalReq (starve.map (·.1)) = match starve with
      | none => atEnd
      | some (e, _) => if p.final = false ∨ p.origin + (min e S : Nat) < p.span then some (min e S) else atEnd := by
  intro atEnd
  have hend : (if (v = .guardAhead ∨ finalReq = true) ∧ p.final = false then some S else none) = atEnd := by
    by_cases hasked : v = .guardAhead ∨ finalReq = true
    · rw [show atEnd = if p.final then none else some S from if_pos hasked]
      cases p.final with
      | false => exact if_pos ⟨hasked, rfl⟩
      | true => exact if_neg fun h => absurd h.2 (by decide)
    · rw [show atEnd = none from if_neg hasked]
      exact if_neg fun h => hasked h.1
  unfold earlyEnd
  rw [hend]
  cases starve <;> rfl

theorem shapeOf_parts (S : Nat) (p : SplicePlan) (early : Option Nat) :
    let n : Int := (early.map fun e => p.origin + (e : Int)).getD p.span
    shapeOf S p early = ⟨p.origin, n, p.fadeIn, (early.map fun _ => min (min p.fadeOut S) n.toNat).getD p.fadeOut⟩ := by
  cases early <;> rfl

theorem verdict_cases (v : Verdict) :
    (v.tapeOnly = true ↔ ((∃ r, v = .refusedAtIn r) ∨ v = .guardedAtIn) ∨ (∃ r, v = .refusedIn r) ∨ v = .guardedHere)
    ∧ (v.tapeOnly = false ↔ v = .permit ∨ v = .guardAhead) ∧ (v.atIn = true ↔ (∃ r, v = .refusedAtIn r) ∨ v = .guardedAtIn) := by
  cases v <;> simp [Verdict.tapeOnly, Verdict.atIn]

end Sys2Proof.CodedFrames
end

section
/-! SUPPORT. The coded frame under each verdict (R93 to R97, R102, R121). -/

namespace Sys2Proof.CodedVerdicts
open Sys2Proof.Machine Sys2Proof.SplicePlans Sys2Proof.CodedFrames

variable {s : State} {op : CodingOp} {b : BegunOp} {p : SplicePlan}

/-- The mark of the tape audio; free without a pre-read slot. -/
def tapeMarkOf (s : State) (op : CodingOp) (b : BegunOp) : CopyMark :=
  ((tapeSlot s op b).bind fun y => y.header.map (·.mark)).getD .free

theorem codeFrame_mark (s : State) (op : CodingOp) (b : BegunOp) :
    let new := ∃ i, i < framePairs b.rate ∧ 0 < (gainAt (mixOf op b) i).num
    let old := ∃ i, i < framePairs b.rate ∧ (gainAt (mixOf op b) i).num < (gainAt (mixOf op b) i).den
    (new → old → (codeFrame s op b).header.mark = combine b.newMark (tapeMarkOf s op b))
    ∧ (new → ¬old → (codeFrame s op b).header.mark = b.newMark) ∧ (¬new → old → (codeFrame s op b).header.mark = tapeMarkOf s op b)
    ∧ ((codeFrame s op b).header.rework = true ↔
      (old ∧ ∀ y, tapeSlot s op b = some y → y.concealed = true) ∨ (new ∧ op.intake.failed = true)) := by
  intro new old
  have hnew : (someGain op b fun g => decide (0 < g.num)) = true ↔ new := by simp only [someGain_iff, decide_eq_true_eq, new]
  have hold : (someGain op b fun g => decide (g.num < g.den)) = true ↔ old := by simp only [someGain_iff, decide_eq_true_eq, old]
  clear_value new old
  rw [codeFrame_header]
  dsimp only
  obtain ⟨hboth, hfresh, htape⟩ := frameMark_cases b.newMark ((tapeSlot s op b).bind fun y => y.header.map (·.mark))
  refine ⟨fun n o => ?_, fun n o => ?_, fun n o => ?_, ?_⟩
  · rw [hnew.mpr n, hold.mpr o]
    exact hboth
  · rw [hnew.mpr n, Bool.eq_false_iff.mpr fun h => o (hold.mp h)]
    exact hfresh
  · rw [hold.mpr o, Bool.eq_false_iff.mpr fun h => n (hnew.mp h)]
    exact htape
  · rw [Bool.or_eq_true, Bool.and_eq_true, Bool.and_eq_true, hnew, hold]
    cases tapeSlot s op b <;> simp

/-- A verdict at the in-point leaves a frame of the tape's own (R93). -/
theorem codeFrame_atIn (h : b.verdict.atIn = true) (hp : b.plan = some p) : (codeFrame s op b).header.splice = .none
    ∧ (codeFrame s op b).tag = none ∧ (codeFrame s op b).final = false
    ∧ (codeFrame s op b).header.tc = codedTimecode s op.addr none (tapeSlot s op b)
    ∧ (codeFrame s op b).header.take = ((tapeSlot s op b).bind fun y => y.header.map (·.take)).getD 0 := by
  rw [codeFrame_header, codeFrame_tag, codeFrame_final, keptPlan_atIn h, hp]
  exact ⟨if_pos h, rfl, rfl, rfl, rfl⟩

/-- Every other verdict leaves a frame of the splice (R93, R96). -/
theorem codeFrame_kept (h : b.verdict.atIn = false) (hp : b.plan = some p) : (codeFrame s op b).header.take = p.take
    ∧ (codeFrame s op b).tag = some p.tag ∧ (codeFrame s op b).header.tc = codedTimecode s op.addr (some p) (tapeSlot s op b)
    ∧ ((codeFrame s op b).final = true ↔
      p.final = true ∨ (codeFrame s op b).early ≠ none ∨ b.finalReq = true ∨ ∃ r, b.verdict = .refusedIn r) := by
  have hrefused : refusedIn b.verdict = true ↔ ∃ r, b.verdict = .refusedIn r := by cases b.verdict <;> simp [refusedIn]
  rw [codeFrame_header, codeFrame_tag, codeFrame_final, codeFrame_early, keptPlan_kept hp h]
  refine ⟨rfl, rfl, rfl, ?_⟩
  rw [Option.any_some, Bool.or_eq_true, Bool.or_eq_true, Bool.or_eq_true, hrefused, Option.isSome_iff_ne_none, or_assoc, or_assoc]

/-- The splice mark of a frame with new audio (R93, R102). -/
theorem codeFrame_splice (hp : b.plan = some p) : (codeFrame s op b).header.splice = codedMark p b.verdict (endOf op b).isSome := by
  rw [codeFrame_header, hp]

theorem codedMark_live {v : Verdict} (h : v.tapeOnly = false) (early : Option Nat) : codedMark p v early.isSome =
    if early = none then p.mark else if p.first.isSome then .inOut else .outPoint := by
  have hatIn : v.atIn = false := by
    cases v with
    | permit => rfl
    | guardAhead => rfl
    | refusedAtIn r => cases h
    | guardedAtIn => cases h
    | refusedIn r => cases h
    | guardedHere => cases h
  rw [codedMark, hatIn, h]
  cases early with
  | none => rfl
  | some e => cases p.first <;> rfl

theorem codedMark_inside {v : Verdict} (hatIn : v.atIn = false) (h : v.tapeOnly = true) (ended : Bool) : codedMark p v ended = .broken := by
  rw [codedMark, hatIn, h]
  rfl

/-- The gains of a frame with new audio (R94, R95). -/
theorem gainAt_live (h : livePlan b = some p) (i : Nat) :
    let N : Int := ((endOf op b).map fun e => p.origin + (e : Int)).getD p.span
    let L : Nat := ((endOf op b).map fun _ => min (min p.fadeOut (framePairs b.rate)) N.toNat).getD p.fadeOut
    gainAt (mixOf op b) i = gainAt (some ⟨p.origin, N, p.fadeIn, L⟩) i := by
  intro N L
  rw [mixOf, h]
  exact congrArg (fun x => gainAt (some x) i) (shapeOf_parts (framePairs b.rate) p (endOf op b))

theorem endOf_live (h : livePlan b = some p) :
    endOf op b = earlyEnd (framePairs b.rate) p b.verdict b.finalReq (op.intake.starve.map (·.1)) := by rw [endOf, h]; rfl

theorem atIn_tapeOnly {v : Verdict} (h : v.atIn = true) : v.tapeOnly = true :=
  (verdict_cases v).1.mpr (.inl ((verdict_cases v).2.2.mp h))

end Sys2Proof.CodedVerdicts
end

section
/-! SUPPORT. A coding operation completes: the slot it stores, the mix it offers and the report to the engine (R98, R145). -/

namespace Sys2Proof.CodingEnds
open Sys2Proof.Machine Sys2Proof.SpliceEnds Sys2Proof.StoreCommands Sys2Proof.BlockWork Sys2Proof.SlotSteps Sys2Proof.FramePlaces
open Sys2Proof.CodedFrames Sys2Proof.CodedVerdicts

variable {s t : State} {op : CodingOp} {b : BegunOp} {p : SplicePlan} {i : SlotId} {rest : List CodingOp}

/-! ### The pairs in the slot (R1) -/

theorem pairAt_putPairs {r : Rate} {n : Nat} (hn : n < framePairs r) (l : List SamplePair) (k : Nat) (m : Memory)
    (hlen : k + l.length ≤ framePairs r) :
    pairAt (putPairs m r k l) r n = if k ≤ n then l.getD (n - k) (pairAt m r n) else pairAt m r n := by
  induction l generalizing k m with
  | nil => cases n - k <;> exact (ite_self _).symm
  | cons x l ih =>
    rw [List.length_cons] at hlen
    rw [putPairs, ih (k + 1) _ (by omega), pairAt_putPair (by omega) hn]
    rcases Nat.lt_trichotomy n k with h | rfl | h
    · rw [if_neg (by omega), if_neg (by omega), if_neg (by omega)]
    · rw [if_neg (by omega), if_pos rfl, if_pos (Nat.le_refl _), Nat.sub_self]
      rfl
    · rw [if_pos (by omega), if_neg (by omega), if_pos (by omega), show n - k = n - (k + 1) + 1 by omega]
      rfl

theorem codeFrame_length (s : State) (op : CodingOp) (b : BegunOp) : (codeFrame s op b).pairs.length = framePairs b.rate := by
  rw [codeFrame_pairs, List.length_map, List.length_range]

/-! ### The state before the report (R98) -/

/-- The state in which the operation has stored its frame and offered its mix. -/
def stored (s : State) (op : CodingOp) (b : BegunOp) (rest : List CodingOp) : State :=
  let c := codeFrame s op b
  let t := releaseOpt op.intake.slot (storeCoded b.slot op.addr b.rate c { s with coding := rest, lastCoded := some (op.addr, c.header.tc) })
  bumpFresh { t with mon := { t.mon with next := some ⟨op.addr, c.pairs, (b.plan.map (·.rehearse)).getD false, c.header.mark⟩ } }

theorem completeCoding_begun (hcoding : s.coding = op :: rest) (hbegun : op.begun = some b) : completeCoding s = match b.plan with
    | none => stored s op b rest
    | some p => reportCoded (framePairs b.rate) op.addr p b.verdict (codeFrame s op b) op.intake.starve
        (recordFinal p op.addr (codeFrame s op b).final (stored s op b rest)) := by
  unfold completeCoding
  rw [hcoding]
  dsimp only
  rw [hbegun]
  rfl

theorem completeCoding_waits (hcoding : s.coding = op :: rest) (hbegun : op.begun = none) : completeCoding s = s := by
  unfold completeCoding
  rw [hcoding]
  dsimp only
  rw [hbegun]

/-- All that the state before the report changes. -/
theorem stored_frame (s : State) (op : CodingOp) (b : BegunOp) (rest : List CodingOp) :
    { stored s op b rest with slots := s.slots, order := s.order } = { s with
      fresh := s.fresh + 1, coding := rest, lastCoded := some (op.addr, (codeFrame s op b).header.tc)
      mon := { s.mon with
        next := some ⟨op.addr, (codeFrame s op b).pairs, (b.plan.map (·.rehearse)).getD false, (codeFrame s op b).header.mark⟩ } } := by
  unfold stored
  generalize codeFrame s op b = c
  have hstore : SlotWork { s with coding := rest, lastCoded := some (op.addr, c.header.tc) }
      (storeCoded b.slot op.addr b.rate c { s with coding := rest, lastCoded := some (op.addr, c.header.tc) }) := by
    unfold storeCoded
    split
    · exact .refl _
    · exact ⟨rfl⟩
  have hwork := hstore.trans (releaseOpt_work op.intake.slot _)
  exact congrArg (fun x : State => bumpFresh { x with mon := { x.mon with
    next := some ⟨op.addr, c.pairs, (b.plan.map (·.rehearse)).getD false, c.header.mark⟩ } }) hwork.frame

/-- The CODED slot as the operation stores it. -/
def codedSlot (x : Slot) (a : Nat) (r : Rate) (c : Coded) : Slot :=
  { x with state := .coded, addr := some a, header := some c.header, tag := c.tag, layout := r, audio := putPairs x.audio r 0 c.pairs }

theorem stored_slot (hslot : b.slot = some i) (hother : op.intake.slot ≠ some i) :
    (stored s op b rest).slots[i] = codedSlot s.slots[i] op.addr b.rate (codeFrame s op b) := by
  have hstore : ∀ v : State, (storeCoded b.slot op.addr b.rate (codeFrame s op b) v).slots[i]
      = codedSlot v.slots[i] op.addr b.rate (codeFrame s op b) := fun v => by
    rw [hslot]
    exact modifySlot_get_same ..
  have hrelease : ∀ v : State, (releaseOpt op.intake.slot v).slots[i] = v.slots[i] := fun v => by
    cases hin : op.intake.slot with
    | none => rfl
    | some k =>
      have hki : k ≠ i := fun h => hother (by rw [hin, h])
      rcases releaseOrDue_get i k v with h | ⟨h, -⟩ | ⟨h, -⟩
      · exact h
      · exact absurd h hki
      · exact absurd h hki
  exact (hrelease _).trans (hstore _)

theorem codedSlot_pair (x : Slot) (a : Nat) {n : Nat} (hn : n < framePairs b.rate) (h : n < (codeFrame s op b).pairs.length) :
    pairAt (codedSlot x a b.rate (codeFrame s op b)).audio b.rate n = (codeFrame s op b).pairs[n] := by
  have hput := pairAt_putPairs hn (codeFrame s op b).pairs 0 x.audio (by rw [codeFrame_length]; omega)
  rw [if_pos (Nat.zero_le n), Nat.sub_zero] at hput
  exact hput.trans (List.getD_eq_getElem _ _ h)

/-! ### The report (R145) -/

theorem postStarved_engWork (c : Coded) (x : Option (Nat × BankId)) (a : Nat) (s : State) : EngWork s (postStarved c x a s) := by
  unfold postStarved
  split
  · exact post_engWork ..
  · exact .refl s

theorem postStarved_starved {c : Coded} (h : c.starved = true) (x : Nat) (n : BankId) (a : Nat) (s : State) :
    postStarved c (some (x, n)) a s = post .flyStarved n.num (some a) none s := by
  unfold postStarved
  rw [h]

theorem postStarved_eng (c : Coded) (x : Option (Nat × BankId)) (a : Nat) (s : State) : (postStarved c x a s).eng = s.eng := by
  unfold postStarved
  split <;> rfl

theorem reportCoded_engWork (S a : Nat) (p : SplicePlan) (v : Verdict) (c : Coded) (x : Option (Nat × BankId)) (s : State) :
    EngWork s (reportCoded S a p v c x s) := by
  unfold reportCoded
  cases s.eng.splice with
  | none => exact .refl s
  | some sp =>
    refine .ite (fun _ => .refl s) fun _ => ?_
    have hafter : EngWork s { s with eng := { s.eng with splice := some (sp.afterCoded S a v c) } } := ⟨rfl⟩
    cases v with
    | refusedAtIn r => exact finishSplice_engWork ..
    | guardedAtIn => exact finishSplice_engWork ..
    | permit => exact hafter.trans (postStarved_engWork ..)
    | guardAhead => exact hafter.trans (postStarved_engWork ..)
    | refusedIn r => exact hafter.trans (postStarved_engWork ..)
    | guardedHere => exact hafter.trans (postStarved_engWork ..)

theorem recordFinal_eq (p : SplicePlan) (a : Nat) (final : Bool) (s : State) : recordFinal p a final s = { s with
    gate := if final = true ∧ s.gate.holder = some p.tag ∧ s.gate.final = none then { s.gate with final := some a } else s.gate } := by
  unfold recordFinal
  split <;> rfl

/-- The state that the report finds. -/
structure Recorded (s : State) (op : CodingOp) (b : BegunOp) (rest : List CodingOp) (p : SplicePlan) (v : State) : Prop where
  coding : v.coding = rest
  slots : ∀ i, b.slot = some i → op.intake.slot ≠ some i → v.slots[i] = codedSlot s.slots[i] op.addr b.rate (codeFrame s op b)
  next : v.mon.next = some ⟨op.addr, (codeFrame s op b).pairs, p.rehearse, (codeFrame s op b).header.mark⟩
  lastCoded : v.lastCoded = some (op.addr, (codeFrame s op b).header.tc)
  gate : v.gate = if (codeFrame s op b).final = true ∧ s.gate.holder = some p.tag ∧ s.gate.final = none
    then { s.gate with final := some op.addr } else s.gate
  eng : v.eng = s.eng
  routes : v.routes = s.routes
  notices : v.notices = s.notices

theorem recordFinal_recorded (hplan : b.plan = some p) :
    Recorded s op b rest p (recordFinal p op.addr (codeFrame s op b).final (stored s op b rest)) := by
  have hframe := stored_frame s op b rest
  have hslots := fun i => stored_slot (s := s) (op := op) (b := b) (rest := rest) (i := i)
  rw [hplan] at hframe
  generalize stored s op b rest = u at hframe hslots
  have hgate : u.gate = s.gate := (congrArg State.gate hframe :)
  rw [recordFinal_eq, hgate]
  exact ⟨(congrArg State.coding hframe :), hslots, (congrArg (fun x : State => x.mon.next) hframe :), (congrArg State.lastCoded hframe :),
    rfl, (congrArg State.eng hframe :), (congrArg State.routes hframe :), (congrArg State.notices hframe :)⟩

/-- The report of a frame that is not refused at its in-point. -/
theorem reportCoded_inside {sp : Splice} (hsplice : s.eng.splice = some sp) (htag : sp.tag = p.tag) {v : Verdict} (hv : v.atIn = false)
    (S a : Nat) (c : Coded) (x : Option (Nat × BankId)) : reportCoded S a p v c x s =
      postStarved c x a { s with eng := { s.eng with splice := some (sp.afterCoded S a v c) } } := by
  unfold reportCoded
  rw [hsplice]
  refine (if_neg fun h => h htag).trans ?_
  cases v with
  | refusedAtIn r => cases hv
  | guardedAtIn => cases hv
  | permit => rfl
  | guardAhead => rfl
  | refusedIn r => rfl
  | guardedHere => rfl

/-- The splice is over, and its result at the in-point is added. -/
structure EndedAtIn (sp : Splice) (o : Outcome) (r : Option Reason) (t : State) : Prop where
  splice : t.eng.splice = none
  result : ∃ x ∈ t.eng.results, x.tag = sp.tag ∧ x.outcome = o ∧ x.reason = r ∧ x.actualIn = none ∧ x.actualOut = none

theorem endPass_splice (s : State) : (endPass s).eng.splice = s.eng.splice := by
  unfold endPass
  split
  · rw [setEng_frame]
    rfl
  · rw [setEng_frame]

theorem finishSplice_splice (o : Outcome) (r : Option Reason) (out : Option Point) (atIn : Bool) (s : State) :
    (finishSplice o r out atIn s).eng.splice = none := by
  cases hsplice : s.eng.splice with
  | none => rw [GateCuts.finishSplice_none hsplice, hsplice]
  | some sp =>
    have hend : (endSplice o r out atIn s).eng.splice = none := by
      obtain ⟨f, b, k, v, bank, h⟩ := endSplice_frame hsplice o r out atIn
      rw [h]
      rfl
    rw [finishSplice_eq hsplice, ← hend]
    generalize endSplice o r out atIn s = u
    unfold afterSplice
    split
    · rfl
    · split
      · rw [setEng_frame]
      · split
        · rw [setEng_frame]
        · exact endPass_splice u

theorem finishSplice_atIn {sp : Splice} (hsplice : s.eng.splice = some sp) (o : Outcome) (r : Option Reason) (out : Option Point) :
    EndedAtIn sp o r (finishSplice o r out true s) :=
  ⟨finishSplice_splice .., _, List.mem_of_getLast? (finishSplice_getLast hsplice o r out true), rfl, rfl, rfl, rfl, rfl⟩

theorem reportCoded_atIn {sp : Splice} (hsplice : s.eng.splice = some sp) (htag : sp.tag = p.tag) (S a : Nat) (c : Coded)
    (x : Option (Nat × BankId)) :
    (∀ r, EndedAtIn sp .refused (some r) (reportCoded S a p (.refusedAtIn r) c x s))
    ∧ EndedAtIn sp .guarded (some .guarded) (reportCoded S a p .guardedAtIn c x s) := by
  have hsame : ¬sp.tag ≠ p.tag := fun h => h htag
  unfold reportCoded
  rw [hsplice]
  dsimp only
  simp only [if_neg hsame]
  exact ⟨fun r => finishSplice_atIn hsplice .refused (some r) none, finishSplice_atIn hsplice .guarded (some .guarded) none⟩

/-! ### The tally of a splice that is not rehearsed (R145) -/

theorem afterCoded_record {sp : Splice} (h : sp.rehearse = false) (S a : Nat) (c : Coded) :
    (∀ r, sp.afterCoded S a (.refusedIn r) c = { sp with final := some a, reason := some (.refused, some r), early := some ⟨a, 0⟩ })
    ∧ sp.afterCoded S a .guardedHere c = { sp with final := some a, reason := some (.guarded, some .guarded), early := some ⟨a, 0⟩ }
    ∧ (c.final = false → sp.afterCoded S a .permit c = sp)
    ∧ ∀ x, c.final = true → c.early = some x → c.starved = true → x < S → sp.afterCoded S a .permit c =
      { sp with final := some a, reason := some (.starved, none), early := some ⟨a, x⟩ } := by
  unfold Splice.afterCoded
  simp only [h, if_neg Bool.false_ne_true]
  refine ⟨fun r => trivial, trivial, fun hf => ?_, fun x hf he hs hx => ?_⟩
  · rw [hf]
    rfl
  · have hpoint : endPoint S a x = ⟨a, x⟩ := if_neg (Nat.not_le.mpr hx)
    rw [hf, he, hs, Option.map_some, hpoint]
    rfl

/-- What the report leaves of a splice that is not rehearsed (R145). -/
theorem reportCoded_record {sp : Splice} (hsplice : s.eng.splice = some sp) (htag : sp.tag = p.tag) (hrehearse : sp.rehearse = false)
    (S a : Nat) (v : Verdict) (c : Coded) (starve : Option (Nat × BankId)) : let t := reportCoded S a p v c starve s
    (∀ r, v = .refusedAtIn r → EndedAtIn sp .refused (some r) t) ∧ (v = .guardedAtIn → EndedAtIn sp .guarded (some .guarded) t)
    ∧ (∀ r, v = .refusedIn r → t.eng.splice = some { sp with final := some a, reason := some (.refused, some r), early := some ⟨a, 0⟩ })
    ∧ (v = .guardedHere → t.eng.splice = some { sp with
        final := some a, reason := some (.guarded, some .guarded), early := some ⟨a, 0⟩ })
    ∧ (v = .permit → c.final = false → t.eng.splice = some sp)
    ∧ ∀ x n, v = .permit → c.final = true → c.early = some x → c.starved = true → starve = some (x, n) → x < S →
      t.eng.splice = some { sp with final := some a, reason := some (.starved, none), early := some ⟨a, x⟩ }
        ∧ t.notices = (post .flyStarved n.num (some a) none s).notices := by
  intro t
  obtain ⟨hrefused, hguarded⟩ := reportCoded_atIn hsplice htag S a c starve
  obtain ⟨hin, hhere, hgoes, hstarved⟩ := afterCoded_record hrehearse S a c
  have hreport : v.atIn = false → t = postStarved c starve a { s with eng := { s.eng with splice := some (sp.afterCoded S a v c) } } :=
    fun hv => reportCoded_inside hsplice htag hv S a c starve
  have hsplices : v.atIn = false → t.eng.splice = some (sp.afterCoded S a v c) := fun hv => by rw [hreport hv, postStarved_eng]
  refine ⟨fun r hv => ?_, fun hv => ?_, fun r hv => ?_, fun hv => ?_, fun hv hfinal => ?_, fun x n hv hfinal hearly hs hstarve hx => ?_⟩
  · subst hv
    exact hrefused r
  · subst hv
    exact hguarded
  · subst hv
    rw [hsplices rfl, hin]
  · subst hv
    rw [hsplices rfl, hhere]
  · subst hv
    rw [hsplices rfl, hgoes hfinal]
  · subst hv
    rw [hsplices rfl, hstarved x hfinal hearly hs hx]
    refine ⟨rfl, ?_⟩
    rw [hreport rfl, hstarve, postStarved_starved hs]
    exact post_notices_congr rfl rfl ..

/-! ### A frame of the tape (R93, R96) -/

/-- A frame without a plan codes its pre-read slot's frame again. -/
theorem codeFrame_tape {k : SlotId} {h : Header} (hplan : b.plan = none) (hpre : b.pre = some k) (hread : s.slots[k].isPreRead = true)
    (haddr : s.slots[k].addr = some op.addr) (hlayout : s.slots[k].layout = b.rate) (hheader : s.slots[k].header = some h) :
    (codeFrame s op b).pairs = (List.range (framePairs b.rate)).map (pairAt s.slots[k].audio b.rate)
      ∧ (codeFrame s op b).header = ⟨some op.addr, h.tc, b.rate, h.mark, h.take, .none, s.slots[k].concealed⟩ := by
  have hslot : preSlotOf s op b = some k := by
    rw [preSlotOf, hpre, Option.filter_some, hread, haddr]
    exact if_pos (beq_self_eq_true _)
  have hkept : keptPlan b = none := by rw [keptPlan, hplan]; rfl
  have hlive : livePlan b = none := by rw [livePlan, hplan]; rfl
  have htape := codeFrame_tapeOnly hlive s op
  have htapeSlot : tapeSlot s op b = some s.slots[k] := by rw [tapeSlot, hslot]; rfl
  have hmark := htape.mark
  have hrework := htape.rework
  rw [htapeSlot, Option.bind_some, hheader] at hmark
  rw [htapeSlot] at hrework
  constructor
  · rw [htape.pairs, hslot]
    refine List.map_congr_left fun n hn => ?_
    have hsample : ∀ c : Chan, sampleOrFree s s.slots[k].audio s.slots[k].layout c n = sampleAt s.slots[k].audio b.rate c n := fun c => by
      rw [hlayout]
      exact if_pos (List.mem_range.mp hn)
    show (⟨_, _⟩ : SamplePair) = ⟨_, _⟩
    rw [hsample, hsample]
  · have hheaders := codeFrame_header s op b
    rw [hkept, hplan, htapeSlot, codedTimecode_tape, Option.bind_some, hheader] at hheaders
    generalize codeFrame s op b = c at hmark hrework hheaders
    rw [hheaders] at hmark hrework ⊢
    dsimp only at hmark hrework
    rw [hmark, hrework]
    simp only [Option.bind_some, hheader]
    rfl

end Sys2Proof.CodingEnds
end

section
/-! SUPPORT. A coding operation begins: its plan, its slot and its verdict (R91 to R93, R101, R143, R144). -/

namespace Sys2Proof.CodingBegins
open Sys2Proof.Machine Sys2Proof.SpliceEnds Sys2Proof.StoreCommands Sys2Proof.BlockWork Sys2Proof.SlotSteps Sys2Proof.SlotChoice
open Sys2Proof.CodedFrames Sys2Proof.CodingEnds

variable {s t u : State} {op : CodingOp} {p : Prepared} {e : Entry} {i : SlotId} {rest : List CodingOp} {plan : Option SplicePlan}

/-! ### The operation at the front -/

/-- The operation at the front waits for its inputs or for a gate. -/
def Waits (op : CodingOp) (s : State) : Prop := op.begun.isSome = true ∨ op.wait ≠ 0 ∨ waitsForGate op s = true

theorem beginCoding_waits (hcoding : s.coding = op :: rest) (h : Waits op s) : beginCoding s = s := by
  unfold beginCoding
  rw [hcoding]
  exact if_pos h

theorem not_waits (hbegun : op.begun = none) (hwait : op.wait = 0) (h : s.eng.splice = none ∨ s.eng.prepared = []) : ¬Waits op s := by
  rintro (hb | hw | hg)
  · rw [hbegun] at hb
    exact Bool.false_ne_true hb
  · exact hw hwait
  · unfold waitsForGate at hg
    rcases h with h | h <;> rw [h] at hg
    · exact Bool.false_ne_true hg
    · exact Bool.false_ne_true ((Bool.and_false _).symm.trans hg)

/-- What the engine's answer leaves of the records that a slot request reads. -/
structure Apart (s u : State) : Prop where
  slots : u.slots = s.slots
  order : u.order = s.order
  fetch : u.fetch = s.fetch
  coding : u.coding = s.coding
  clock : u.clock = s.clock

theorem Apart.refl (s : State) : Apart s s := ⟨rfl, rfl, rfl, rfl, rfl⟩

theorem apart_of_engWork (h : EngWork s u) : Apart s u :=
  ⟨h.slots, h.order, (congrArg State.fetch h.frame :), h.coding, (congrArg State.clock h.frame :)⟩

theorem Apart.chooseSlot (h : Apart s u) : chooseSlot u = chooseSlot s := by
  obtain ⟨hslots, horder, hfetch, -, -⟩ := h
  have hblocked : ∀ j : SlotId, blocked u j = blocked s j := fun j => blocked_of_slot (by rw [hslots]) hfetch
  unfold Machine.chooseSlot
  simp only [hslots, horder, hblocked]

/-- The operation at the front takes a slot. -/
theorem beginCoding_slot (hcoding : s.coding = op :: rest) (h : ¬Waits op s) (hplan : formPlan op.addr s = (plan, u)) (k : Apart s u)
    (hi : Machine.chooseSlot s = some i) : beginCoding s = startOp op plan i (fillSlot i .coded u) := by
  unfold beginCoding
  rw [hcoding]
  refine (if_neg h).trans ?_
  rw [hplan]
  dsimp only
  rw [allocate_some (k.chooseSlot.trans hi)]

theorem beginCoding_none (hcoding : s.coding = op :: rest) (h : ¬Waits op s) (hplan : formPlan op.addr s = (plan, u)) (k : Apart s u)
    (hi : Machine.chooseSlot s = none) : beginCoding s = codingFailed op plan (post .storeOverrun 3 (some op.addr) none u) := by
  unfold beginCoding
  rw [hcoding]
  refine (if_neg h).trans ?_
  rw [hplan]
  dsimp only
  rw [allocate_none (k.chooseSlot.trans hi)]
  rfl

/-! ### The operation has its slot (R93) -/

theorem postVerdict_frame (v : Verdict) (p : SplicePlan) (a : Nat) (s : State) : { postVerdict v p a s with notices := s.notices } = s := by
  unfold postVerdict
  split
  · rfl
  · split <;> rfl

/-- The record of an operation that has begun under a plan. -/
def begunUnder (s : State) (op : CodingOp) (i : SlotId) (p : SplicePlan) : BegunOp :=
  ⟨some i, some p, lookup s op.addr, verdictFor s.guard s.sources s.clock.rate op.addr p op.intake.tags,
    newAudioMark s.sources s.clock.rate op.intake.tags, (s.eng.splice.map (·.finalReq)).getD false, s.clock.rate⟩

theorem startOp_under (op : CodingOp) (p : SplicePlan) (i : SlotId) (s : State) : let t := startOp op (some p) i s
    t.coding = { op with begun := some (begunUnder s op i p) } :: s.coding.drop 1 ∧ t.slots = s.slots
    ∧ t.eng = { s.eng with splice := s.eng.splice.map fun sp => { sp with finalReq := false } }
    ∧ ((begunUnder s op i p).verdict.atIn = false → t.gate = s.gate) := by
  intro t
  let s2 : State := { s with
    coding := { op with begun := some (begunUnder s op i p) } :: s.coding.drop 1
    eng := { s.eng with splice := s.eng.splice.map fun sp => { sp with finalReq := false } } }
  have hframe := postVerdict_frame (begunUnder s op i p).verdict p op.addr s2
  have ht : t = if (begunUnder s op i p).verdict.atIn = true then withdraw p.tag (postVerdict (begunUnder s op i p).verdict p op.addr s2)
    else postVerdict (begunUnder s op i p).verdict p op.addr s2 := rfl
  generalize postVerdict (begunUnder s op i p).verdict p op.addr s2 = s3 at hframe ht
  have hwithdraw : { t with gate := s3.gate } = s3 := by
    rw [ht]
    split
    · unfold withdraw closeGate
      split <;> rfl
    · rfl
  refine ⟨?_, ?_, ?_, fun h => ?_⟩
  · exact (congrArg State.coding hwithdraw :).trans (congrArg State.coding hframe :)
  · exact (congrArg State.slots hwithdraw :).trans (congrArg State.slots hframe :)
  · exact (congrArg State.eng hwithdraw :).trans (congrArg State.eng hframe :)
  · rw [ht, h]
    exact (congrArg State.gate hframe :)

/-- The slots once the operation has its own. -/
theorem fillSlot_slotted (k : Apart s u) (i : SlotId) : (∀ j, j ≠ i → (fillSlot i .coded u).slots[j] = s.slots[j])
    ∧ (fillSlot i .coded u).slots[i] = { Slot.reset with state := .filling, role := some .coded, layout := s.clock.rate } := by
  refine ⟨fun j hj => (fillSlot_other (fun h : i = j => hj h.symm) ..).trans (by rw [k.slots]), (fillSlot_same ..).trans ?_⟩
  rw [k.clock]

/-! ### No slot is left (R28, R91) -/

theorem codingFailed_tape (op : CodingOp) (s : State) : let t := codingFailed op none s
    t.coding = s.coding.drop 1 ∧ t.notices = s.notices ∧ ∀ k : SlotId, op.intake.slot = some k →
      t.slots[k] = if blocked s k = true then { s.slots[k] with due := true } else Slot.reset := by
  intro t
  have ht : t = releaseOpt op.intake.slot { s with coding := s.coding.drop 1 } := rfl
  have hwork := releaseOpt_work op.intake.slot { s with coding := s.coding.drop 1 }
  refine ⟨hwork.coding, hwork.notices, fun k hk => ?_⟩
  have hblocked : blocked { s with coding := s.coding.drop 1 } k = blocked s k := rfl
  rw [ht, hk]
  show (releaseOrDue k { s with coding := s.coding.drop 1 }).slots[k] = _
  cases hb : blocked s k with
  | true =>
    rw [releaseOrDue_blocked (hblocked.trans hb)]
    exact modifySlot_get_same ..
  | false =>
    rw [releaseOrDue_free (hblocked.trans hb)]
    exact releaseSlot_get_same ..

/-! ### The plan (R143, R144) -/

theorem formPlan_idle (hsplice : s.eng.splice = none) (hprepared : s.eng.prepared = []) (a : Nat) : formPlan a s = (none, s) := by
  unfold formPlan
  rw [hsplice, hprepared]
  rfl

theorem formPlan_splice {sp : Splice} {start : Point} {a : Nat} (hsplice : s.eng.splice = some sp) (hstart : sp.start = some start)
    (hfrom : start.addr ≤ a) (hto : sp.lastPlanned.all (a ≤ ·) = true) :
    formPlan a s = (some (splicePlan (framePairs s.clock.rate) sp start a), s) := by
  unfold formPlan
  rw [hsplice]
  dsimp only
  rw [hstart]
  exact if_pos ⟨hfrom, hto⟩

theorem formPlan_entry (hsplice : s.eng.splice = none) (hprepared : s.eng.prepared = [p]) (hentry : pendingEntry s p.index = some e) :
    formPlan p.start.addr s = startEntry p e p.start.addr s := by
  have hfind : [p].find? (fun q => q.start.addr == p.start.addr) = some p := by simp
  unfold formPlan
  rw [hsplice, hprepared]
  dsimp only
  rw [hfind]
  dsimp only
  rw [hentry]

/-! ### An entry starts (R144) -/

/-- The state in which the entry's splice asks for the gate. -/
def opened (p : Prepared) (e : Entry) (s : State) : State :=
  setEng .splicing (setEntryState p.index .active
    { s with eng := { s.eng with splice := some (openSplice s p e), prepared := s.eng.prepared.filter fun q => q.index != p.index } })

theorem opened_engWork (p : Prepared) (e : Entry) (s : State) : EngWork s (opened p e s) :=
  EngWork.trans (t := setEntryState p.index .active
    { s with eng := { s.eng with splice := some (openSplice s p e), prepared := s.eng.prepared.filter fun q => q.index != p.index } })
    ⟨rfl⟩ (setEng_engWork ..)

theorem opened_eng (p : Prepared) (e : Entry) (s : State) : (opened p e s).eng.splice = some (openSplice s p e)
    ∧ (opened p e s).eng.state = .splicing ∧ (opened p e s).eng.prepared = s.eng.prepared.filter (fun q => q.index != p.index)
    ∧ (opened p e s).tl = s.tl
    ∧ (pendingEntry s p.index = some e → (opened p e s).eng.active[p.index] = some ⟨e, .active⟩) := by
  unfold opened
  rw [setEng_frame]
  refine ⟨rfl, rfl, rfl, rfl, fun h => ?_⟩
  exact (Vector.getElem_set_self p.index.isLt).trans (by rw [ProgramStops.pendingEntry_some h]; rfl)

/-- The state in which the gate is scheduled for the entry. -/
def granted (p : Prepared) (e : Entry) (a : Nat) (s : State) : State := { opened p e s with
  gate := { s.gate with
    state := .scheduled, holder := some (programTag s p.index), first := some a, opening := (s.gate.opening + 1) % 65536, run := 0 } }

/-- What an entry's splice is opened with (R143, R144). -/
structure OpensFor (p : Prepared) (e : Entry) (s : State) (sp : Splice) : Prop where
  tag : sp.tag = .program s.eng.run s.eng.pass p.index.val
  index : sp.index = some p.index
  start : sp.start = some p.start
  span : sp.span = some p.span
  outPoint : sp.outPoint = some e.outPoint
  fadeIn : sp.fadeIn = p.fadeIn
  fadeOut : sp.fadeOut = p.fadeOut
  late : sp.late = p.late
  take : sp.take = if e.lay then 0 else s.eng.runTake.getD 0
  method : sp.method = e.method
  rehearse : sp.rehearse = (s.eng.mode == some .rehearse)
  unasked : sp.finalReq = false

theorem openSplice_opens (p : Prepared) (e : Entry) (s : State) : OpensFor p e s (openSplice s p e) :=
  ⟨rfl, rfl, rfl, rfl, rfl, rfl, rfl, rfl, rfl, rfl, rfl, rfl⟩

/-- The entry's splice has started, and the gate is scheduled for it. -/
structure Grants (p : Prepared) (e : Entry) (a : Nat) (sp : Splice) (s u : State) : Prop where
  splice : u.eng.splice = some sp
  state : u.eng.state = .splicing
  prepared : u.eng.prepared = s.eng.prepared.filter (fun q => q.index != p.index)
  active : pendingEntry s p.index = some e → u.eng.active[p.index] = some ⟨e, .active⟩
  gate : u.gate = { s.gate with
    state := .scheduled, holder := some (.program s.eng.run s.eng.pass p.index.val), first := some a
    opening := (s.gate.opening + 1) % 65536, run := 0 }

theorem granted_apart (p : Prepared) (e : Entry) (a : Nat) (s : State) : Apart s (granted p e a s)
    ∧ (granted p e a s).guard = s.guard ∧ (granted p e a s).sources = s.sources := by
  have hwork := opened_engWork p e s
  obtain ⟨hslots, horder, hfetch, hcoding, hclock⟩ := apart_of_engWork hwork
  exact ⟨⟨hslots, horder, hfetch, hcoding, hclock⟩, (congrArg State.guard hwork.frame :), (congrArg State.sources hwork.frame :)⟩

theorem granted_grants (p : Prepared) (e : Entry) (a : Nat) (s : State) : Grants p e a (openSplice s p e) s (granted p e a s) := by
  obtain ⟨hsplice, hstate, hprepared, -, hactive⟩ := opened_eng p e s
  exact ⟨hsplice, hstate, hprepared, hactive, rfl⟩

/-- The answer to the entry's request, by the records of the state before (R101). -/
theorem opened_schedule (p : Prepared) (e : Entry) (a : Nat) (s : State) :
    let placed := s.tl.state = .locked ∨ s.tl.state = .coasting ∨ s.tl.state = .laying
    let answer := schedule (openSplice s p e).tag (some a) (opened p e s)
    (s.gate.state ≠ .closed → answer = (some .busy, opened p e s))
    ∧ (s.gate.state = .closed → s.tl.mode ≠ .play → answer = (some .transport, opened p e s))
    ∧ (s.gate.state = .closed → s.tl.mode = .play → s.clock.lost = true → answer = (some .clock, opened p e s))
    ∧ (s.gate.state = .closed → s.tl.mode = .play → s.clock.lost = false → ¬placed → answer = (some .lock, opened p e s))
    ∧ (s.gate.state = .closed → s.tl.mode = .play → s.clock.lost = false → placed → answer = (none, granted p e a s)) := by
  have h := schedule_cases (opened p e s) (openSplice s p e).tag (some a)
  have htl : (opened p e s).tl = s.tl := (opened_eng p e s).2.2.2.1
  have hclock : (opened p e s).clock = s.clock := (apart_of_engWork (opened_engWork p e s)).clock
  have hgate : (opened p e s).gate = s.gate := (opened_engWork p e s).gate
  unfold granted
  generalize opened p e s = v at h htl hclock hgate
  rw [← htl, ← hclock, ← hgate]
  exact h

theorem postScheduleRefusal_engWork (c : ScheduleRefusal) (a : Option Nat) (s : State) : EngWork s (postScheduleRefusal c a s) := by
  cases c <;> exact ⟨rfl⟩

theorem postScheduleRefusal_eng (c : ScheduleRefusal) (a : Option Nat) (s : State) : (postScheduleRefusal c a s).eng = s.eng := by
  cases c <;> rfl

/-- The entry of a RECORD run whose request is refused ends, and its frame is of the tape. -/
theorem startEntry_refused (hmode : s.eng.mode = some .record) {c : ScheduleRefusal} {a : Nat}
    (h : schedule (openSplice s p e).tag (some a) (opened p e s) = (some c, opened p e s)) : ∃ u, startEntry p e a s = (none, u)
      ∧ EngWork s u ∧ EndedAtIn (openSplice s p e) (scheduleOutcome c).1 (scheduleOutcome c).2 u := by
  have hrehearse : (openSplice s p e).rehearse = false := by
    show (s.eng.mode == some .rehearse) = false
    rw [hmode]
    rfl
  refine ⟨finishSplice (scheduleOutcome c).1 (scheduleOutcome c).2 none true (postScheduleRefusal c (some a) (opened p e s)), ?_,
    ((opened_engWork p e s).trans (postScheduleRefusal_engWork ..)).trans (finishSplice_engWork ..), finishSplice_atIn ?_ ..⟩
  · unfold startEntry requestGate
    dsimp only
    rw [hrehearse]
    change (match schedule (openSplice s p e).tag (some a) (opened p e s) with
      | (none, s2) => _
      | (some c, s2) => _) = _
    generalize schedule (openSplice s p e).tag (some a) (opened p e s) = answer at h
    subst h
    rfl
  · rw [postScheduleRefusal_eng]
    exact (opened_eng p e s).1

/-- The entry of a RECORD run whose request is granted. -/
theorem startEntry_granted (hmode : s.eng.mode = some .record) {a : Nat}
    (h : schedule (openSplice s p e).tag (some a) (opened p e s) = (none, u)) :
    startEntry p e a s = (some (splicePlan (framePairs s.clock.rate) (openSplice s p e) p.start a), u) := by
  have hrehearse : (openSplice s p e).rehearse = false := by
    show (s.eng.mode == some .rehearse) = false
    rw [hmode]
    rfl
  unfold startEntry requestGate
  dsimp only
  rw [hrehearse]
  change (match schedule (openSplice s p e).tag (some a) (opened p e s) with
    | (none, s2) => _
    | (some c, s2) => _) = _
  generalize schedule (openSplice s p e).tag (some a) (opened p e s) = answer at h
  subst h
  rfl

/-! ### The verdict (R120) -/

theorem verdictFor_permits {g : Guard} {x : Sources} {r : Rate} {a : Nat} {tags : List (Tag × Nat)} (hguard : guarded g a = false)
    (htags : ∀ k ∈ tags, ∃ m, decideTag x r k.1 = .permit m) (plan : SplicePlan) : (verdictFor g x r a plan tags).atIn = false := by
  have hnone : firstRefusal x r tags = none := List.findSome?_eq_none_iff.mpr fun k hk => by
    obtain ⟨m, hm⟩ := htags k hk
    rw [hm]
  unfold verdictFor
  rw [hguard, hnone]
  refine (congrArg Verdict.atIn (if_neg Bool.false_ne_true)).trans ?_
  dsimp only
  split <;> rfl

end Sys2Proof.CodingBegins
end

section
/-! SUPPORT. The obligation on the coding operation (R25 to R28, R91 to R98, R101, R143 to R145). -/

namespace Sys2Proof.CodingOperationLaw
open Sys2Proof.Machine Sys2Proof.SpliceEnds Sys2Proof.StoreCommands Sys2Proof.BlockWork Sys2Proof.SlotSteps Sys2Proof.SlotChoice
open Sys2Proof.SplicePlans Sys2Proof.CodedFrames Sys2Proof.CodedVerdicts Sys2Proof.CodingEnds Sys2Proof.CodingBegins

variable {s : State} {op : CodingOp} {rest : List CodingOp} {b : BegunOp} {p : Prepared} {e : Entry} {i : SlotId}

/-! ### An entry's operation begins (R144) -/

/-- An entry of a RECORD run whose start frame is at the front, with a slot to take. -/
structure EntryDue (s : State) (op : CodingOp) (rest : List CodingOp) (p : Prepared) (e : Entry) (i : SlotId) : Prop where
  coding : s.coding = op :: rest
  ready : ¬Waits op s
  splice : s.eng.splice = none
  prepared : s.eng.prepared = [p]
  addr : p.start.addr = op.addr
  entry : pendingEntry s p.index = some e
  slot : chooseSlot s = some i
  mode : s.eng.mode = some .record

/-- The operation has begun with slot `i`. -/
def BegunWith (s : State) (op : CodingOp) (rest : List CodingOp) (i : SlotId) (t : State) (b : BegunOp) : Prop :=
  (exec .codingOperationBegin s = .next t ∧ t.coding = { op with begun := some b } :: rest)
  ∧ (∀ j, j ≠ i → t.slots[j] = s.slots[j]) ∧ t.slots[i] = { Slot.reset with state := .filling, role := some .coded, layout := s.clock.rate }

theorem exec_begin {t : State} (h : beginCoding s = t) : exec .codingOperationBegin s = .next t := congrArg Host.Outcome.next h

theorem EntryDue.plan (h : EntryDue s op rest p e i) : formPlan op.addr s = startEntry p e op.addr s := by
  have hform := formPlan_entry h.splice h.prepared h.entry
  rw [h.addr] at hform
  exact hform

/-- The gate is refused: the entry ends, and the frame is of the tape. -/
theorem EntryDue.refused (h : EntryDue s op rest p e i) {c : ScheduleRefusal}
    (hc : schedule (openSplice s p e).tag (some op.addr) (opened p e s) = (some c, opened p e s)) : ∃ t b, BegunWith s op rest i t b
      ∧ b.plan = none ∧ t.eng.splice = none ∧ t.gate = s.gate ∧ ∃ x ∈ t.eng.results, x.tag = .program s.eng.run s.eng.pass p.index.val
        ∧ x.outcome = (scheduleOutcome c).1 ∧ x.reason = (scheduleOutcome c).2 ∧ x.actualIn = none := by
  obtain ⟨u, hstart, hu, hended⟩ := startEntry_refused h.mode hc
  have hapart := apart_of_engWork hu
  obtain ⟨x, hx, htag, houtcome, hreason, hin, -⟩ := hended.result
  have hdone := beginCoding_slot h.coding h.ready (h.plan.trans hstart) hapart h.slot
  have hrest : u.coding.drop 1 = rest := by rw [hu.coding, h.coding]; rfl
  exact ⟨_, _, ⟨⟨exec_begin hdone, congrArg (_ :: ·) hrest⟩, fillSlot_slotted hapart i⟩, rfl, hended.splice, hu.gate, x, hx, htag, houtcome,
    hreason, hin⟩

/-- The gate is granted, and no tag refuses: the frame is the splice's first. -/
theorem EntryDue.starts (h : EntryDue s op rest p e i)
    (hgrant : schedule (openSplice s p e).tag (some op.addr) (opened p e s) = (none, granted p e op.addr s))
    (hguard : guarded s.guard op.addr = false) (htags : ∀ k ∈ op.intake.tags, ∃ m, decideTag s.sources s.clock.rate k.1 = .permit m) :
    ∃ t b sp, BegunWith s op rest i t b ∧ b.plan = some (splicePlan (framePairs s.clock.rate) sp p.start op.addr)
      ∧ OpensFor p e s sp ∧ Grants p e op.addr sp s t := by
  have hstart := startEntry_granted h.mode hgrant
  have hu := granted_grants p e op.addr s
  obtain ⟨hapart, huguard, husources⟩ := granted_apart p e op.addr s
  generalize granted p e op.addr s = u at hstart hu hapart huguard husources
  have hsp := openSplice_opens p e s
  generalize openSplice s p e = sp at hstart hu hsp
  have hdone := beginCoding_slot h.coding h.ready (h.plan.trans hstart) hapart h.slot
  generalize hplan : splicePlan (framePairs s.clock.rate) sp p.start op.addr = plan at hdone
  obtain ⟨hrest, hslots, heng, hkept⟩ := startOp_under op plan i (fillSlot i .coded u)
  have hfill := fillSlot_slotted hapart i
  rw [← hslots] at hfill
  have hcoded : (fillSlot i .coded u).coding.drop 1 = rest := (congrArg (List.drop 1) hapart.coding).trans (by rw [h.coding]; rfl)
  rw [hcoded] at hrest
  have hpermit : (begunUnder (fillSlot i .coded u) op i plan).verdict.atIn = false :=
    verdictFor_permits ((congrArg (guarded · op.addr) huguard).trans hguard) (fun k hk => by
      obtain ⟨m, hm⟩ := htags k hk
      refine ⟨m, Eq.trans ?_ hm⟩
      exact congrArg₂ (fun x c => decideTag x c k.1) husources (congrArg Clock.rate hapart.clock)) _
  have hgate := (hkept hpermit).trans hu.gate
  clear hkept hpermit
  generalize startOp op (some plan) i (fillSlot i .coded u) = t at *
  have hspliced : t.eng.splice = some sp := by
    rw [heng]
    refine (congrArg (Option.map _) hu.splice).trans (congrArg some ?_)
    dsimp only
    rw [← hsp.unasked]
  refine ⟨t, _, sp, ⟨⟨exec_begin hdone, hrest⟩, hfill⟩, congrArg some hplan.symm, hsp, hspliced, ?_, ?_, ?_, hgate⟩
  · exact (congrArg Engine.state heng).trans hu.state
  · exact (congrArg Engine.prepared heng).trans hu.prepared
  · exact fun k => (congrArg (fun g : Engine => g.active[p.index]) heng).trans (hu.active k)

/-! ### The obligation -/

/-- Settles O48: the slot by `chooseSlot_oldest`, the beginning by `beginCoding_slot`, the completion by `completeCoding_begun` and
`reportCoded_record`, the plan by `gainAt_clipped`, the coded frame by the lemmas on `codeFrame`. -/
theorem codingOperations : Obligations.CodingOperations := by
  refine ⟨fun s => ?slot, fun s op rest hcoding => ?operation, fun S sp start a => ?plan, fun s op b p hp => ?frame⟩
  case slot =>
    intro spare
    refine ⟨fun i hi hlower => chooseSlot_free hi hlower, fun hfull => ⟨fun i before after hsplit hi hbefore =>
      chooseSlot_oldest hfull hsplit hi hbefore, chooseSlot_none hfull⟩, fun k a => ⟨fun i hi => ?_, fun hi => ?_⟩⟩
    · rw [allocate_some hi, fillSlot_eq]
    · rw [allocate_none hi]
      cases k <;> rfl
  case operation =>
    intro S began slotted
    have hdrop : s.coding.drop 1 = rest := by rw [hcoding]; rfl
    have hmove : settingsOf (completeCoding s) = settingsOf s := (completeCoding_step (Move.refl s)).settings
    refine ⟨fun h => exec_begin (beginCoding_waits hcoding (h.imp_right .inl)),
      fun hsplice ⟨p, hp, haddr⟩ => exec_begin (beginCoding_waits hcoding (.inr (.inr (Bool.and_eq_true_iff.mpr
        ⟨hsplice, List.any_eq_true.mpr ⟨p, hp, beq_iff_eq.mpr haddr⟩⟩)))), fun hbegun hwait => ?begins,
      fun hbegun => congrArg Host.Outcome.next (completeCoding_waits hcoding hbegun),
      fun b i k hbegun hslot hplan hpre hother hread haddr hlayout h hheader => ?tape, fun b p hbegun hplan hother => ?splice⟩
    case begins =>
      have hready := not_waits (s := s) hbegun hwait
      refine ⟨fun hprepared hsplice => ⟨fun i hi => ?taped, fun hi => ?failed⟩,
        fun sp start i hsplice hprepared hstart hfrom hto hi => ?spliced, fun p e i hsplice hprepared haddr hentry hi hmode => ?entry⟩
      case taped =>
        have hdone := beginCoding_slot hcoding (hready (.inl hsplice)) (formPlan_idle hsplice hprepared op.addr) (.refl s) hi
        exact ⟨_, ⟨exec_begin hdone, congrArg (_ :: ·) hdrop⟩, fillSlot_slotted (.refl s) i⟩
      case failed =>
        have hdone := beginCoding_none hcoding (hready (.inl hsplice)) (formPlan_idle hsplice hprepared op.addr) (.refl s) hi
        obtain ⟨hrest, hnotices, hslots⟩ := codingFailed_tape op (post .storeOverrun 3 (some op.addr) none s)
        exact ⟨_, exec_begin hdone, hrest.trans hdrop, hnotices, hslots⟩
      case spliced =>
        intro plan
        have hdone := beginCoding_slot hcoding (hready (.inr hprepared)) (formPlan_splice hsplice hstart hfrom hto) (.refl s) hi
        obtain ⟨hrest, hslots, -, -⟩ := startOp_under op plan i (fillSlot i .coded s)
        have hfill := fillSlot_slotted (.refl s) i
        rw [← hslots] at hfill
        refine ⟨_, _, ⟨exec_begin hdone, hrest.trans (congrArg (_ :: ·) hdrop)⟩, hfill, rfl, rfl, rfl, rfl, ?_, rfl⟩
        show (s.eng.splice.map (·.finalReq)).getD false = _
        rw [hsplice]
        rfl
      case entry =>
        intro tag refused
        have hdue : EntryDue s op rest p e i := ⟨hcoding, hready (.inl hsplice), hsplice, hprepared, haddr, hentry, hi, hmode⟩
        have hrefused : ∀ c, schedule (openSplice s p e).tag (some op.addr) (opened p e s) = (some c, opened p e s) →
            refused (scheduleOutcome c).1 (scheduleOutcome c).2 := fun c hc => by
          obtain ⟨t, b, ⟨hbegan, hfill⟩, hfacts⟩ := hdue.refused hc
          exact ⟨t, b, hbegan, hfill, hfacts⟩
        obtain ⟨hbusy, htransport, hclock, hlock, hgrant⟩ := opened_schedule p e op.addr s
        refine ⟨fun h => ?_, fun hg hm hl => hrefused .clock (hclock hg hm hl), fun hg hm hl => ⟨fun h => hrefused .lock (hlock hg hm hl h),
          fun h hguard htags => ?_⟩⟩
        · by_cases hg : s.gate.state = .closed
          · exact hrefused .transport (htransport hg (h.resolve_left fun k => k hg))
          · exact hrefused .busy (hbusy hg)
        · obtain ⟨t, b, sp, ⟨hbegan, hfill⟩, hplan, hsp, hgrants⟩ := hdue.starts (hgrant hg hm hl h) hguard htags
          refine ⟨t, b, sp, hbegan, hfill, hplan, hgrants.splice, hsp.tag, hsp.index, hsp.start, hsp.span, hsp.outPoint, hsp.fadeIn,
            hsp.fadeOut, hsp.late, hsp.take, hsp.method, ?_, hgrants.state, ?_, hgrants.active hentry, hgrants.gate⟩
          · rw [hsp.rehearse, hmode]
            rfl
          · refine hgrants.prepared.trans ?_
            rw [hprepared]
            simp
    case tape =>
      obtain ⟨hpairs, hcoded⟩ := codeFrame_tape (s := s) (op := op) hplan hpre hread haddr hlayout hheader
      have hdone : completeCoding s = stored s op b rest := by
        rw [completeCoding_begun hcoding hbegun, hplan]
      rw [hdone] at hmove
      have hframe := stored_frame s op b rest
      have hstored := stored_slot (s := s) (rest := rest) hslot hother
      refine ⟨stored s op b rest, congrArg Host.Outcome.next hdone, (congrArg State.coding hframe :), fun n hn => ?_, ?_, ?_, ?_, ?_, hmove⟩
      · have hlen : n < (codeFrame s op b).pairs.length := by rw [codeFrame_length]; exact hn
        rw [hstored, codedSlot_pair _ _ hn hlen]
        simp only [hpairs, List.getElem_map, List.getElem_range]
      · rw [hstored]; rfl
      · rw [hstored]; rfl
      · rw [hstored, ← hcoded]; rfl
      · refine ((congrArg (fun x : State => x.mon.next) hframe :)).trans ?_
        dsimp only
        rw [hpairs, hcoded, hplan]
        rfl
    case splice =>
      intro c F
      have hdone : completeCoding s = reportCoded F op.addr p b.verdict c op.intake.starve (recordFinal p op.addr c.final (stored s op b rest)) := by
        rw [completeCoding_begun hcoding hbegun, hplan]
      have hrecord := recordFinal_recorded (s := s) (op := op) (rest := rest) hplan
      generalize recordFinal p op.addr c.final (stored s op b rest) = v at hdone hrecord
      have hwork := reportCoded_engWork F op.addr p b.verdict c op.intake.starve v
      rw [hdone] at hmove
      refine ⟨_, congrArg Host.Outcome.next hdone, hwork.coding.trans hrecord.coding, hmove, fun i hi => ?_, ?_, ?_, ?_,
        fun sp hsplice htag hrehearse => ?_⟩
      · have hslot : (reportCoded F op.addr p b.verdict c op.intake.starve v).slots[i] = codedSlot s.slots[i] op.addr b.rate c := by
          rw [hwork.slots]
          exact hrecord.slots i hi (hother i hi)
        exact ⟨congrArg Slot.state hslot, congrArg Slot.addr hslot, congrArg Slot.header hslot, congrArg Slot.tag hslot,
          congrArg Slot.layout hslot,
          fun n h hn => (congrArg (fun x : Slot => pairAt x.audio b.rate n) hslot).trans (codedSlot_pair _ _ hn h)⟩
      · exact (congrArg (fun x : State => x.mon.next) hwork.frame :).trans hrecord.next
      · exact (congrArg State.lastCoded hwork.frame :).trans hrecord.lastCoded
      · exact hwork.gate.trans hrecord.gate
      · obtain ⟨hrefused, hguarded, hin, hhere, hgoes, hstarved⟩ := reportCoded_record ((congrArg Engine.splice hrecord.eng).trans hsplice)
          htag hrehearse F op.addr b.verdict c op.intake.starve
        refine ⟨fun r hr => ?_, fun hg => ?_, hin, hhere, fun hv _ hfinal => hgoes hv hfinal, fun x n hv hearly hs hstarve hx => ?_⟩
        · exact ⟨(hrefused r hr).splice, (hrefused r hr).result⟩
        · exact ⟨(hguarded hg).splice, (hguarded hg).result⟩
        · have hfinal : c.final = true := (codeFrame_kept (s := s) (op := op) (by rw [hv]; rfl) hplan).2.2.2.mpr
            (.inr (.inl (by rw [hearly]; exact Option.some_ne_none x)))
          obtain ⟨hspliced, hnotices⟩ := hstarved x n hv hfinal hearly hs hstarve hx
          exact ⟨hspliced, hnotices.trans (post_notices_congr hrecord.routes hrecord.notices ..)⟩
  case plan =>
    intro p T O
    obtain ⟨hnone, htimecode⟩ := splicePlan_timecode (sp := sp) S start a
    refine ⟨rfl, rfl, rfl, rfl, rfl, rfl, ?_, rfl, fun N hN => ?_, fun hN => ?_, splicePlan_mark S sp start a, hnone, htimecode⟩
    · by_cases ha : a = start.addr <;> simp only [p, splicePlan, ha, decide_true, decide_false, if_true, if_false] <;> rfl
    · obtain ⟨hfinal, hspan⟩ := splicePlan_spanned hN S start a
      refine ⟨?_, ?_, fun i hi => ?_⟩
      · exact (Bool.eq_iff_iff.mp hfinal).trans decide_eq_true_iff
      · exact (congrArg Int.ofNat hspan).trans ((Int.toNat_eq_max _).trans (max_comm ..))
      · have k := gainAt_clipped hi T N sp.fadeIn sp.fadeOut
        rw [← k]
        exact congrArg (fun n : Nat => gainAt (some ⟨O, n, sp.fadeIn, sp.fadeOut⟩) i) hspan
    · obtain ⟨hfinal, hspan⟩ := splicePlan_endless hN S start a
      exact ⟨hfinal, (congrArg Int.ofNat hspan).trans ((Int.toNat_eq_max _).trans (max_comm ..))⟩
  case frame =>
    obtain ⟨htapeOnly, hlive, hatIn⟩ := verdict_cases b.verdict
    intro c S atIn inside pre x tape fresh atEnd early N L least gain mixed tapeMark followed tapeTc
    have hinside : inside → b.verdict.tapeOnly = true ∧ b.verdict.atIn = false := by
      rintro (⟨r, hr⟩ | hr) <;> rw [hr] <;> exact ⟨rfl, rfl⟩
    refine ⟨?_, ?_, ?_, fun h => ?tape, fun h => ?atIn, fun h => ?inside, fun h => ?kept, fun h => ?live⟩
    · exact (congrArg List.length (codeFrame_pairs s op b)).trans (by rw [List.length_map, List.length_range])
    · exact congrArg Header.addr (codeFrame_header s op b)
    · exact congrArg Header.rate (codeFrame_header s op b)
    case tape =>
      have k := codeFrame_tapeOnly (livePlan_tapeOnly (htapeOnly.mpr h)) s op
      refine ⟨k.pairs, k.early, k.mark, ?_⟩
      have hrework : c.header.rework = x.all fun y => y.concealed := k.rework
      rw [hrework]
      cases x <;> simp
    case atIn =>
      obtain ⟨hsplice, htag, hfinal, htc, htake⟩ := codeFrame_atIn (s := s) (op := op) (hatIn.mpr h) hp
      exact ⟨hsplice, htag, hfinal, htc.trans (codedTimecode_tape ..), htake⟩
    case inside =>
      exact (codeFrame_splice hp).trans (codedMark_inside (hinside h).2 (hinside h).1 _)
    case kept =>
      obtain ⟨htake, htag, htc, hfinal⟩ := codeFrame_kept (s := s) (op := op) (Bool.eq_false_iff.mpr fun k => h (hatIn.mp k)) hp
      exact ⟨htake, htag, htc.trans (codedTimecode_plan ..), hfinal⟩
    case live =>
      have hplan := livePlan_live hp (hlive.mpr h)
      have hearly : endOf op b = early := (endOf_live hplan).trans (earlyEnd_cases ..)
      have hgain : gainAt (mixOf op b) = gain := funext fun i => by
        have k := gainAt_live (op := op) hplan i
        rw [hearly] at k
        exact k.trans (gainAt_some ..)
      have hmark := codeFrame_mark s op b
      have hpairs := codeFrame_pairs s op b
      rw [hgain] at hmark hpairs
      refine ⟨(codeFrame_early s op b).trans hearly, hpairs, ?_, hmark⟩
      rw [← hearly]
      exact (codeFrame_splice hp).trans (codedMark_live (hlive.mpr h) _)

end Sys2Proof.CodingOperationLaw
end

section
/-! SUPPORT. One output sample period: what the lines carry, the pointer and the block (R35, R79 to R85, R124, R125). -/

namespace Sys2Proof.OutputPeriods
open Sys2Proof.Machine

variable {s : State} {i : SlotId} {k : Nat}

/-! ### The slots (R80) -/

theorem slotPair_own (hk : k < framePairs s.clock.rate) (hlayout : s.slots[i].layout = s.clock.rate) :
    slotPair s (some i) k = pairAt s.slots[i].audio s.clock.rate k := by
  have hsample : ∀ c : Chan, sampleOrFree s s.slots[i].audio s.slots[i].layout c k = sampleAt s.slots[i].audio s.clock.rate c k := fun c => by
    rw [hlayout]
    exact if_pos hk
  show (⟨_, _⟩ : SamplePair) = ⟨_, _⟩
  rw [hsample, hsample]

theorem slotCarried_own (hk : k < framePairs s.clock.rate) (hlayout : s.slots[i].layout = s.clock.rate) :
    slotCarried s i k = ⟨pairAt s.slots[i].audio s.clock.rate k, (s.slots[i].header.map (·.mark)).getD .free⟩ := by
  rw [slotCarried, slotPair_own hk hlayout]
  rfl

theorem preCarried_some (hslot : s.mon.preSlot = some i) (hread : s.slots[i].isPreRead = true) : preCarried s k = slotCarried s i k := by
  have hfilter : (s.mon.preSlot.filter fun i => s.slots[i].isPreRead) = some i := by
    rw [hslot, Option.filter_some]
    exact if_pos hread
  unfold preCarried
  rw [hfilter]

theorem preCarried_none (h : ∀ i, s.mon.preSlot = some i → s.slots[i].isPreRead = false) : preCarried s k = quiet := by
  have hfilter : (s.mon.preSlot.filter fun i => s.slots[i].isPreRead) = none := by
    cases hslot : s.mon.preSlot with
    | none => rfl
    | some i =>
      rw [Option.filter_some, h i hslot]
      rfl
  unfold preCarried
  rw [hfilter]

theorem isDecoded_iff {x : Slot} : x.isDecoded = true ↔ x.state = .decoded ∧ x.role = some .confidence := by
  rw [Slot.isDecoded, Bool.and_eq_true, beq_iff_eq, beq_iff_eq]

theorem confCarried_some (hslot : s.mon.confSlot = some i) (hread : s.slots[i].isDecoded = true) :
    confCarried s k = ⟨maskBad s.slots[i] k (slotPair s (some i) k), s.slots[i].markOf⟩ := by
  have hfilter : (s.mon.confSlot.filter fun i => s.slots[i].isDecoded) = some i := by
    rw [hslot, Option.filter_some]
    exact if_pos hread
  unfold confCarried
  rw [hfilter]

theorem confCarried_none (h : ∀ i, s.mon.confSlot = some i → s.slots[i].isDecoded = false) : confCarried s k = quiet := by
  have hfilter : (s.mon.confSlot.filter fun i => s.slots[i].isDecoded) = none := by
    cases hslot : s.mon.confSlot with
    | none => rfl
    | some i =>
      rw [Option.filter_some, h i hslot]
      rfl
  unfold confCarried
  rw [hfilter]

theorem maskBad_eq (x : Slot) (k : Nat) (p : SamplePair) :
    maskBad x k p = ⟨if k ∈ x.bad.left then 0 else p.left, if k ∈ x.bad.right then 0 else p.right⟩ := by
  simp only [maskBad, List.contains_eq_mem, decide_eq_true_eq]

theorem mixCarried_some {m : Mix} (hmix : s.mon.current = some m) (hk : k < m.pairs.length) : mixCarried s k = ⟨m.pairs[k], m.mark⟩ := by
  unfold mixCarried
  rw [hmix]
  dsimp only
  rw [List.getD_eq_getElem _ _ hk]

theorem mixCarried_none (hmix : s.mon.current = none) : mixCarried s k = quiet := by
  unfold mixCarried
  rw [hmix]

/-! ### The position (R79) -/

theorem atPosition_outside (h : s.mon.outPos = none ∨ ∃ k, s.mon.outPos = some k ∧ framePairs s.clock.rate ≤ k) (f : State → Nat → Carried) :
    atPosition s f = quiet := by
  unfold atPosition
  rcases h with h | ⟨k, h, hk⟩ <;> rw [h]
  exact if_neg (Nat.not_lt.mpr hk)

theorem atPosition_inside (h : s.mon.outPos = some k) (hk : k < framePairs s.clock.rate) (f : State → Nat → Carried) :
    atPosition s f = f s k := by
  unfold atPosition
  rw [h]
  exact if_pos hk

/-- The source that the lines take in PLAY, when it is not the INPUT (R84, R85). -/
def framed (s : State) : State → Nat → Carried :=
  if s.mon.override = true ∨ (s.mon.stored = .auto ∧ s.mon.autoMix = true) then mixCarried
  else if s.mon.stored = .confidence then confCarried else preCarried

theorem playCarried_framed (h : s.mon.override = true ∨ s.mon.stored ≠ .input) : playCarried s = atPosition s (framed s) := by
  unfold playCarried framed
  cases hover : s.mon.override with
  | true => simp only [if_true, true_or]
  | false =>
    have hstored : s.mon.stored ≠ .input := h.resolve_left (by rw [hover]; decide)
    cases hsel : s.mon.stored with
    | input => exact absurd hsel hstored
    | preRead => simp
    | confidence => simp
    | auto => cases s.mon.autoMix <;> simp

theorem playCarried_input (hover : s.mon.override = false) (h : s.mon.stored = .input) : playCarried s = inputCarried s := by
  unfold playCarried
  rw [hover, h]
  rfl

/-! ### The scrub pointer (R35) -/

theorem pinnedSlot_none {a : Nat} (h : ∀ i : SlotId, ¬(s.slots[i].pinned = true ∧ s.slots[i].addr = some a)) : pinnedSlot s a = none :=
  List.find?_eq_none.mpr fun i _ hi => h i (by rwa [Bool.and_eq_true, beq_iff_eq] at hi)

theorem pinnedSlot_some {a : Nat} (hpin : s.slots[i].pinned = true ∧ s.slots[i].addr = some a)
    (honly : ∀ j : SlotId, s.slots[j].pinned = true ∧ s.slots[j].addr = some a → j = i) : pinnedSlot s a = some i := by
  cases h : pinnedSlot s a with
  | none =>
    refine absurd (List.find?_eq_none.mp h i (List.mem_finRange i)) ?_
    rw [Bool.and_eq_true, beq_iff_eq]
    exact not_not.mpr hpin
  | some j =>
    have hj := List.find?_some h
    rw [Bool.and_eq_true, beq_iff_eq] at hj
    rw [honly j hj]

theorem scrubCarried_window {w : Nat} (hwin : s.jog.window = some w) {o : Option SlotId}
    (h : pinnedSlot s (w + s.jog.pointer / 8 / framePairs s.clock.rate) = o) :
    scrubCarried s = (o.map fun i => slotCarried s i (s.jog.pointer / 8 % framePairs s.clock.rate)).getD quiet := by
  unfold scrubCarried
  rw [hwin]
  dsimp only
  rw [h]
  cases o <;> rfl

theorem movePointer_mod {length r p : Nat} (hr : r ≤ length) (hp : p < length) (d : Dir) :
    movePointer length r p d = match d with
      | .forward => (p + r) % length
      | .reverse => (p + (length - r)) % length := by
  cases d with
  | forward =>
    unfold movePointer
    dsimp only
    split
    · rw [Nat.mod_eq_sub_mod (by omega), Nat.mod_eq_of_lt (by omega)]
    · rw [Nat.mod_eq_of_lt (by omega)]
  | reverse =>
    unfold movePointer
    dsimp only
    split
    · rw [Nat.mod_eq_of_lt (by omega)]
      omega
    · rw [Nat.mod_eq_sub_mod (by omega), Nat.mod_eq_of_lt (by omega)]
      omega

/-! ### The period -/

theorem outputPeriod_frame (s : State) :
    { outputPeriod s with out := s.out, jog := s.jog, mon := s.mon, fresh := s.fresh } = s
    ∧ (outputPeriod s).mon = { s.mon with outPos := if s.tl.mode = .play then s.mon.outPos.map (· + 1) else s.mon.outPos }
    ∧ (outputPeriod s).out = s.out.carry (carriedNow s)
    ∧ (outputPeriod s).jog = if s.tl.mode = .jog then (moveScrub s).jog else s.jog := by
  unfold outputPeriod
  cases s.tl.mode with
  | jog =>
    simp only [moveScrub]
    cases s.jog.window <;> exact ⟨rfl, rfl, rfl, rfl⟩
  | play => exact ⟨rfl, rfl, rfl, rfl⟩
  | stop => exact ⟨rfl, rfl, rfl, rfl⟩
  | spool => exact ⟨rfl, rfl, rfl, rfl⟩
  | shuttle => exact ⟨rfl, rfl, rfl, rfl⟩

theorem carry_count (o : Outputs) (c : Carried) (h : o.blockCount < 256) :
    (o.carry c).blockCount = o.blockCount + 1 ∧ (o.carry c).blockMark = combine o.blockMark (o.carry c).mark := by
  have hfresh : decide (256 ≤ o.blockCount) = false := decide_eq_false (Nat.not_le.mpr h)
  simp only [Outputs.carry, hfresh]
  exact ⟨rfl, rfl⟩

end Sys2Proof.OutputPeriods
end

section
/-! SUPPORT. The gate as the head enters a frame: the cut, the completed splice and the write that begins (R103, R105, R145, R147). -/

namespace Sys2Proof.GateMarks
open Sys2Proof.Machine Sys2Proof.SpliceEnds Sys2Proof.StoreCommands Sys2Proof.BlockWork Sys2Proof.GateCuts
open Sys2Proof.CodingEnds (finishSplice_splice)

variable {s t v w : State} {a next : Nat} {k : SlotId} {tag : SpliceTag}

/-! ### A cut at a mark (R104, R147) -/

/-- The splice in progress is over, with a result. -/
def Ended (s : State) (o : Outcome) (r : Option Reason) (out : Option Point → Prop) (t : State) : Prop :=
  ∀ sp, s.eng.splice = some sp → t.eng.splice = none
    ∧ ∃ x ∈ t.eng.results, x.tag = sp.tag ∧ x.outcome = o ∧ x.reason = r ∧ x.actualIn = sp.actualIn ∧ out x.actualOut

theorem finishSplice_ended (o : Outcome) (r : Option Reason) (out : Option Point) (s : State) :
    Ended s o r (· = out) (finishSplice o r out false s) := fun _ hsplice =>
  ⟨finishSplice_splice .., _, List.mem_of_getLast? (finishSplice_getLast hsplice o r out false), rfl, rfl, rfl, rfl, rfl⟩

/-- The gate is cut with no write in progress, and the splice ends. -/
structure CutAs (o : Outcome) (r : Option Reason) (s t : State) : Prop where
  gate : t.gate = s.gate.cut
  judge : t.judge = s.judge
  ended : Ended s o r (fun _ => True) t
  mix : t.mon.autoMix = true ↔ s.mon.autoMix = true ∧ ¬(s.mon.stored = .auto ∧ s.mon.override = false)

/-- The end of the holder's splice after a cut by the gate. -/
theorem closeByCut_ends (hopen : v.gate.state ≠ .closed) (hwrite : v.gate.write = none) (hwork : EngWork (closeByCut v) w)
    (heng : w.eng = (closeByCut v).eng) (o : Outcome) (r : Option Reason) (out : Option Point) :
    CutAs o r v (finishSplice o r out false w) := by
  have hframe := closeByCut_frame v
  have hgate := closeByCut_gate hopen
  have hfinish := finishSplice_engWork o r out false w
  have hjudge : partlyJudged v = v.judge := by rw [partlyJudged, hwrite]
  generalize closeByCut v = u at hframe hgate hwork heng
  have hall := hwork.trans hfinish
  refine ⟨hall.gate.trans hgate, ?_, fun sp hsp => ?_, ?_⟩
  · exact hall.judge.trans ((congrArg State.judge hframe :).trans hjudge)
  · have hsame : u.eng = v.eng := (congrArg State.eng hframe :)
    have hspw : w.eng.splice = some sp := by rw [heng, hsame, hsp]
    obtain ⟨hnone, x, hx, htag, ho, hr, hin, -⟩ := finishSplice_ended o r out w sp hspw
    exact ⟨hnone, x, hx, htag, ho, hr, hin, trivial⟩
  · have hmix : (finishSplice o r out false w).mon.autoMix = (v.mon.autoMix && !autoPlays v) :=
      (congrArg (fun x : State => x.mon.autoMix) hall.frame :).trans (congrArg (fun x : State => x.mon.autoMix) hframe :)
    rw [hmix, Bool.and_eq_true, Bool.not_eq_true', ← Bool.not_eq_true, LockLoss.autoPlays_iff]

theorem cutGate_store (hopen : v.gate.state ≠ .closed) (hwrite : v.gate.write = none) : CutAs .broken none v (cutGate .store v) := by
  have h : cutGate .store v = finishSplice .broken none (cutPoint v) false (closeByCut v) := if_neg hopen
  rw [h]
  exact closeByCut_ends hopen hwrite (.refl _) rfl ..

theorem cutGate_fault (hopen : v.gate.state ≠ .closed) (hwrite : v.gate.write = none) : CutAs .writeFault none v (cutGate .fault v) := by
  have h : cutGate .fault v = finishSplice .writeFault none (cutPoint v) false (closeByCut v) := if_neg hopen
  rw [h]
  exact closeByCut_ends hopen hwrite (.refl _) rfl ..

theorem cutGate_guarded (hopen : v.gate.state ≠ .closed) (hwrite : v.gate.write = none) (a : Nat) :
    CutAs .guarded (some .guarded) v (cutGate (.guarded a) v)
    ∧ (v.eng.splice = none → (cutGate (.guarded a) v).notices = (post .recordRefused 5 (some a) none v).notices) := by
  have h : cutGate (.guarded a) v
      = finishSplice .guarded (some .guarded) (cutPoint v) false (post .recordRefused 5 (some a) none (closeByCut v)) := if_neg hopen
  rw [h]
  refine ⟨closeByCut_ends hopen hwrite (post_engWork ..) rfl .., fun hnone => ?_⟩
  have hframe := closeByCut_frame v
  generalize closeByCut v = u at hframe
  have hsame : u.eng = v.eng := (congrArg State.eng hframe :)
  have hidle : (post .recordRefused 5 (some a) none u).eng.splice = none := (congrArg Engine.splice hsame).trans hnone
  rw [finishSplice_none hidle]
  exact post_notices_congr (congrArg State.routes hframe :) (congrArg State.notices hframe :) ..

/-- A cut of a state whose write has ended is a cut of the state before. -/
theorem CutAs.before {o : Outcome} {r : Option Reason} (h : CutAs o r v t) (hopen : s.gate.state ≠ .closed)
    (hgate : v.gate = { s.gate with write := none }) (hjudge : v.judge = s.judge) (heng : v.eng = s.eng) (hmon : v.mon = s.mon) :
    CutAs o r s t := by
  refine ⟨h.gate.trans ?_, h.judge.trans hjudge, fun sp hsp => h.ended sp (by rw [heng, hsp]), by rw [h.mix, hmon]⟩
  rw [hgate, Gate.cut, Gate.cut, if_neg hopen]
  exact (if_neg hopen).symm

/-! ### The CODED slot (R103) -/

/-- A slot that holds the frame as coded for a splice. -/
def CodedAt (s : State) (tag : SpliceTag) (a : Nat) (k : SlotId) : Prop :=
  k ∈ s.order ∧ s.slots[k].state = .coded ∧ s.slots[k].addr = some a ∧ s.slots[k].tag = some tag

theorem mem_coded_iff : k ∈ s.order.filter (fun i => s.slots[i].state == .coded && s.slots[i].addr == some a && s.slots[i].tag == some tag)
    ↔ CodedAt s tag a k := by
  rw [List.mem_filter, Bool.and_eq_true, Bool.and_eq_true, beq_iff_eq, beq_iff_eq, beq_iff_eq, and_assoc]
  rfl

theorem codedSlot_none_iff : codedSlot s tag a = none ↔ ∀ k, ¬CodedAt s tag a k := by
  rw [codedSlot, newest, List.getLast?_eq_none_iff, List.eq_nil_iff_forall_not_mem]
  exact forall_congr' fun k => not_congr mem_coded_iff

theorem codedSlot_only (h : CodedAt s tag a k) (honly : ∀ l, CodedAt s tag a l → l = k) : codedSlot s tag a = some k := by
  cases hslot : codedSlot s tag a with
  | none => exact absurd h (codedSlot_none_iff.mp hslot k)
  | some l => rw [honly l (mem_coded_iff.mp (List.mem_of_getLast? hslot))]

/-- The splice of a tag ended before the frame for the reason GUARDED (R93, R145). -/
def GuardedHere (s : State) (tag : SpliceTag) (a : Nat) : Prop :=
  ∃ sp, s.eng.splice = some sp ∧ sp.tag = tag ∧ sp.early = some ⟨a, 0⟩ ∧ sp.reason = some (.guarded, some .guarded)

theorem barred_iff : barred s tag a = true ↔ guarded s.guard a = true ∨ GuardedHere s tag a := by
  rw [barred, Bool.or_eq_true]
  refine or_congr_right ?_
  unfold GuardedHere
  cases s.eng.splice with
  | none => simp
  | some sp => simp [Splice.guardedHere]

/-! ### The write that begins (R103, R106, R145) -/

/-- The splice after the start of a write of a frame with header `h`. -/
def Splice.written (sp : Splice) (h : Header) : Splice := { sp with
  mark := some ((sp.mark.map fun m => combine m h.mark).getD h.mark)
  reworked := if h.rework then min 255 (sp.reworked + 1) else sp.reworked
  actualIn := if sp.actualIn.isSome then sp.actualIn else sp.start }

theorem reportWrite_eq (h : Header) (s : State) : reportWrite tag (some h) s = { s with eng := match s.eng.splice with
    | none => s.eng
    | some sp => if sp.tag = tag then { s.eng with splice := some (Splice.written sp h) } else s.eng } := by
  unfold reportWrite
  cases hsplice : s.eng.splice with
  | none => rfl
  | some sp =>
    dsimp only
    split
    · refine congrArg (fun x : Splice => ({ s with eng := { s.eng with splice := some x } } : State)) ?_
      unfold Splice.written Splice.tally saturate
      cases sp.mark <;> cases sp.actualIn <;> rfl
    · rfl

/-- The state in which the write of a frame has begun. -/
structure Begins (tag : SpliceTag) (a : Nat) (k : SlotId) (h : Header) (s t : State) : Prop where
  slots : t.slots = s.slots
  gate : t.gate = { s.gate with state := if s.gate.final = some a then .last else .opened, write := some ⟨a, k, 0⟩ }
  judge : t.judge = s.judge ++ [⟨a, h.take, k, tag, s.gate.opening, false, s.geo.c + 1, false⟩]
  other : ∀ sp, s.eng.splice = some sp → sp.tag ≠ tag → t.eng = s.eng
  own : ∀ sp, s.eng.splice = some sp → sp.tag = tag → t.eng.splice = some (Splice.written sp h)

theorem beginWrite_begins {h : Header} (hheader : s.slots[k].header = some h) : Begins tag a k h s (beginWrite tag a k s) := by
  unfold beginWrite
  dsimp only
  rw [hheader, reportWrite_eq]
  refine ⟨rfl, rfl, rfl, fun sp hsp htag => ?_, fun sp hsp htag => ?_⟩
  · dsimp only
    rw [hsp]
    exact if_neg htag
  · dsimp only
    rw [hsp]
    exact congrArg Engine.splice (if_pos htag)

theorem Begins.enabled {h : Header} (k' : Begins tag a k h s t) : writeEnable t = true := by
  rw [writeEnable, k'.gate]
  dsimp only
  split <;> rfl

/-! ### The gate at the head (R103, R105) -/

/-- The only frame that may be written now. -/
def Expects (s : State) (a next : Nat) : Prop :=
  (s.gate.state = .scheduled ∧ s.gate.first = some next ∧ next ≤ a) ∨ (s.gate.state = .opened ∧ ∃ w, s.gate.write = some w ∧ next = w.addr + 1)

theorem Expects.opened (h : Expects s a next) : s.gate.state ≠ .closed := by
  rcases h with ⟨h, -⟩ | ⟨h, -⟩ <;> rw [h] <;> nofun

theorem gateEnter_tries (hholder : s.gate.holder = some tag) (h : Expects s a next) : gateEnter a s = tryWrite tag next a s := by
  unfold gateEnter
  rcases h with ⟨hstate, hfirst, hle⟩ | ⟨hstate, w, hw, rfl⟩
  · rw [hstate, hholder, hfirst]
    exact if_neg (Nat.not_lt.mpr hle)
  · rw [hstate, hholder, hw]

theorem gateEnter_closed (h : s.gate.state = .closed) (a : Nat) : gateEnter a s = s := by
  unfold gateEnter
  rw [h]

theorem gateEnter_waits (hstate : s.gate.state = .scheduled) (h : s.gate.first = none ∨ ∃ f, s.gate.first = some f ∧ a < f) :
    gateEnter a s = s := by
  unfold gateEnter
  rw [hstate]
  cases s.gate.holder with
  | none => rfl
  | some tag =>
    dsimp only
    rcases h with h | ⟨f, h, hlt⟩ <;> rw [h]
    exact if_pos hlt

theorem endWrite_cut {o : Outcome} {r : Option Reason} (hopen : s.gate.state ≠ .closed) (h : CutAs o r (endWrite s) t) : CutAs o r s t :=
  h.before hopen rfl rfl rfl rfl

theorem tryWrite_stops (hopen : s.gate.state ≠ .closed) (h : s.gate.pendingStop = true) : CutAs .writeFault none s (tryWrite tag next a s) := by
  have htry : tryWrite tag next a s = cutGate .fault (endWrite s) := by
    unfold tryWrite
    exact if_pos h
  rw [htry]
  exact endWrite_cut hopen (cutGate_fault hopen rfl)

theorem tryWrite_misses (hopen : s.gate.state ≠ .closed) (h : s.gate.pendingStop = false) (hmiss : (∀ k, ¬CodedAt s tag a k) ∨ a ≠ next) :
    CutAs .broken none s (tryWrite tag next a s) := by
  have hgoes : ¬s.gate.pendingStop = true := by rw [h]; exact Bool.false_ne_true
  cases hslot : codedSlot s tag a with
  | none =>
    have htry : tryWrite tag next a s = cutGate .store (endWrite (abandonUpTo a s)) := by
      unfold tryWrite
      refine (if_neg hgoes).trans ?_
      rw [hslot]
    have hwork : CutWork s (abandonUpTo a s) := abandonOps_cutWork ..
    have hdrop := (abandonOps_work (fun op => decide (op.addr ≤ a)) s)
    have hgate : (abandonUpTo a s).gate = s.gate := hdrop.gate
    have hjudge : (abandonUpTo a s).judge = s.judge := hdrop.judge
    have heng : (abandonUpTo a s).eng = s.eng := hdrop.eng
    have hmon : (abandonUpTo a s).mon = s.mon := (congrArg State.mon hdrop.frame :)
    rw [htry]
    generalize abandonUpTo a s = v at hgate hjudge heng hmon
    have hcut := cutGate_store (v := endWrite v) (by rw [endWrite, hgate]; exact hopen) rfl
    exact hcut.before hopen (by rw [endWrite, hgate]) hjudge heng hmon
  | some k =>
    have hne : a ≠ next := hmiss.resolve_left fun hnone => by
      rw [codedSlot_none_iff.mpr hnone] at hslot
      cases hslot
    have htry : tryWrite tag next a s = cutGate .store (endWrite s) := by
      unfold tryWrite
      refine (if_neg hgoes).trans ?_
      rw [hslot]
      exact if_pos hne
    rw [htry]
    exact endWrite_cut hopen (cutGate_store hopen rfl)

theorem tryWrite_found (h : s.gate.pendingStop = false) (hslot : codedSlot s tag a = some k) (hnext : a = next) :
    tryWrite tag next a s = if barred s tag a = true then cutGate (.guarded a) (endWrite s) else beginWrite tag a k s := by
  have hgoes : ¬s.gate.pendingStop = true := by rw [h]; exact Bool.false_ne_true
  unfold tryWrite
  refine (if_neg hgoes).trans ?_
  rw [hslot]
  exact if_neg (not_not.mpr hnext)

/-- The final frame is over: the splice completes (R103, R146). -/
theorem gateEnter_last (h : s.gate.state = .last) (a : Nat) : (gateEnter a s).gate = s.gate.cut ∧ (gateEnter a s).judge = s.judge
    ∧ ∀ sp, s.eng.splice = some sp → Ended s (sp.reason.elim .done Prod.fst) (sp.reason.bind Prod.snd)
      (· = if sp.early.isSome then sp.early else sp.outPoint) (gateEnter a s) := by
  have henter : gateEnter a s = completeSplice (closeGate s) := by
    unfold gateEnter
    rw [h]
  have hcut : (closeGate s).gate = s.gate.cut := (if_neg (by rw [h]; nofun)).symm
  have hwork : EngWork (closeGate s) (completeSplice (closeGate s)) := by
    unfold completeSplice
    split
    · exact .refl _
    · dsimp only
      split <;> exact finishSplice_engWork ..
  rw [henter]
  refine ⟨hwork.gate.trans hcut, hwork.judge, fun sp hsp => ?_⟩
  rw [completeSplice_eq (s := closeGate s) hsp]
  exact fun sp' hsp' => finishSplice_ended _ _ _ (closeGate s) sp' hsp'

end Sys2Proof.GateMarks
end

section
/-! SUPPORT. The slots that the head has left behind or passed (R29, R30). -/

namespace Sys2Proof.HeadReleases
open Sys2Proof.Machine Sys2Proof.StoreCommands Sys2Proof.CutSlots Sys2Proof.SlotSteps

variable {s t : State} {i j : SlotId} {l : List SlotId} {w : Nat}

/-! ### A list of releases -/

theorem releaseOrDue_fetch (j : SlotId) (s : State) : (releaseOrDue j s).fetch = s.fetch :=
  (congrArg State.fetch (BlockWork.releaseOrDue_work j s).frame :)

theorem releaseAll_other (h : i ∉ l) (s : State) : (releaseAll l s).slots[i] = s.slots[i] := by
  induction l generalizing s with
  | nil => rfl
  | cons j l ih =>
    have hji : j ≠ i := fun k => h (k ▸ List.mem_cons_self)
    exact (ih (fun k => h (List.mem_cons_of_mem _ k)) _).trans (releaseOrDue_get_other hji s)

/-- A slot whose release is deferred. -/
def Deferred (s : State) (i : SlotId) (t : State) : Prop := t.slots[i] = { s.slots[i] with due := true }

theorem releaseOrDue_defers (hs : blocked s i = true) (j : SlotId) :
    ((releaseOrDue j s).slots[i] = s.slots[i] ∨ Deferred s i (releaseOrDue j s)) ∧ blocked (releaseOrDue j s) i = true := by
  have hget : (releaseOrDue j s).slots[i] = s.slots[i] ∨ Deferred s i (releaseOrDue j s) := by
    rcases releaseOrDue_get i j s with h | ⟨-, h, -⟩ | ⟨-, -, h⟩
    · exact .inl h
    · rw [hs] at h
      cases h
    · exact .inr h
  have hfetch := releaseOrDue_fetch j s
  generalize releaseOrDue j s = t at hget hfetch
  refine ⟨hget, ?_⟩
  have hfetched : beingFetched t i = beingFetched s i := beingFetched_congr hfetch i
  unfold blocked at hs ⊢
  rw [hfetched]
  rcases hget with h | h
  · rw [h]
    exact hs
  · rw [Deferred] at h
    rw [h]
    exact hs

theorem releaseAll_deferred (hi : i ∈ l) (hs : blocked s i = true) : Deferred s i (releaseAll l s) := by
  induction l generalizing s with
  | nil => exact absurd hi List.not_mem_nil
  | cons j l ih =>
    obtain ⟨hfirst, hblocked⟩ := releaseOrDue_defers hs j
    unfold Deferred at hfirst ⊢
    show (releaseAll l (releaseOrDue j s)).slots[i] = _
    by_cases hl : i ∈ l
    · have hrest := ih hl hblocked
      rw [Deferred] at hrest
      rw [hrest]
      rcases hfirst with h | h <;> rw [h]
    · have hji : j = i := ((List.mem_cons.mp hi).resolve_right hl).symm
      subst hji
      rw [releaseAll_other hl, releaseOrDue_blocked hs]
      exact modifySlot_get_same ..

theorem releaseAll_get (hi : i ∈ l) (s : State) :
    (releaseAll l s).slots[i] = if blocked s i = true then { s.slots[i] with due := true } else Slot.reset := by
  cases hb : blocked s i with
  | true => exact releaseAll_deferred hi hb
  | false => exact releaseAll_resets hi hb

/-! ### Behind the head (R29) -/

/-- A PREREAD slot that the head has left behind, by address or by age. -/
def Behind (s : State) (i : SlotId) : Prop := s.slots[i].isPreRead = true ∧ ∃ before after, s.order = before ++ i :: after
  ∧ ((∃ w a, s.tl.head = some w ∧ s.slots[i].addr = some a ∧ a < w)
    ∨ s.geo.d - 1 ≤ (after.filter fun k => s.slots[k].isPreRead).length)

theorem mem_take_split {α : Type} {b c : List α} {x : α} (h : (b ++ x :: c).Nodup) (n : Nat) : x ∈ (b ++ x :: c).take n ↔ b.length < n := by
  constructor
  · intro hx
    by_contra hn
    rw [List.take_append_of_le_length (Nat.not_lt.mp hn)] at hx
    exact (List.nodup_append.mp h).2.2 x (List.mem_of_mem_take hx) x List.mem_cons_self rfl
  · intro hn
    obtain ⟨m, rfl⟩ : ∃ m, n = b.length + (m + 1) := ⟨n - b.length - 1, by omega⟩
    rw [List.take_length_add_append]
    exact List.mem_append_right _ List.mem_cons_self

theorem mem_aged {before after : List SlotId} (hnodup : s.order.Nodup) (hsplit : s.order = before ++ i :: after)
    (hread : s.slots[i].isPreRead = true) : let l := s.order.filter fun k => s.slots[k].isPreRead
    i ∈ l.take (l.length - (s.geo.d - 1)) ↔ s.geo.d - 1 ≤ (after.filter fun k => s.slots[k].isPreRead).length := by
  intro l
  have hl : l = before.filter (fun k => s.slots[k].isPreRead) ++ i :: after.filter (fun k => s.slots[k].isPreRead) := by
    show s.order.filter _ = _
    rw [hsplit, List.filter_append]
    exact congrArg (_ ++ ·) (List.filter_cons_of_pos (p := fun k : SlotId => s.slots[k].isPreRead) hread)
  have hl_nodup : l.Nodup := hnodup.filter _
  clear_value l
  subst hl
  rw [mem_take_split hl_nodup, List.length_append, List.length_cons]
  omega

theorem mem_behindHead (hnodup : s.order.Nodup) : i ∈ behindHead s ↔ Behind s i := by
  have haddr : (match s.tl.head, s.slots[i].addr with
      | some w, some a => decide (a < w)
      | _, _ => false) = true ↔ ∃ w a, s.tl.head = some w ∧ s.slots[i].addr = some a ∧ a < w := by
    cases s.tl.head <;> cases s.slots[i].addr <;> simp
  have hmem : i ∈ behindHead s ↔ (i ∈ s.order ∧ s.slots[i].isPreRead = true) ∧
      (i ∈ (s.order.filter fun k => s.slots[k].isPreRead).take ((s.order.filter fun k => s.slots[k].isPreRead).length - (s.geo.d - 1))
        ∨ ∃ w a, s.tl.head = some w ∧ s.slots[i].addr = some a ∧ a < w) := by
    rw [← haddr]
    exact List.mem_filter.trans (and_congr List.mem_filter (Bool.or_eq_true_iff.trans (or_congr List.contains_iff_mem Iff.rfl)))
  rw [hmem]
  constructor
  · rintro ⟨⟨hi, hread⟩, h⟩
    obtain ⟨before, after, hsplit⟩ := List.append_of_mem hi
    exact ⟨hread, before, after, hsplit, h.symm.imp_right (mem_aged hnodup hsplit hread).mp⟩
  · rintro ⟨hread, before, after, hsplit, h⟩
    exact ⟨⟨hsplit ▸ List.mem_append_right _ List.mem_cons_self, hread⟩, h.symm.imp_left (mem_aged hnodup hsplit hread).mpr⟩

theorem releaseBehind_behind (hnodup : s.order.Nodup) (h : Behind s i) :
    (releaseBehind s).slots[i] = if blocked s i = true then { s.slots[i] with due := true } else Slot.reset :=
  releaseAll_get ((mem_behindHead hnodup).mpr h) s

theorem releaseBehind_other (hnodup : s.order.Nodup) (h : ¬Behind s i) : (releaseBehind s).slots[i] = s.slots[i] :=
  releaseAll_other (fun hi => h ((mem_behindHead hnodup).mp hi)) s

/-! ### Passed by the head (R30) -/

/-- A CODED slot that the head has entered or passed without its write. -/
def Passed (s : State) (w : Nat) (i : SlotId) : Prop :=
  s.slots[i].state = .coded ∧ (∀ e ∈ s.judge, e.slot ≠ i) ∧ ∃ a, s.slots[i].addr = some a ∧ a ≤ w

theorem mem_passed : (i ∈ (unwritten s).filter fun i => match s.slots[i].addr with
    | some b => decide (b ≤ w)
    | none => false) ↔ Passed s w i := by
  rw [List.mem_filter, mem_unwritten, and_assoc]
  refine and_congr_right fun _ => and_congr_right fun _ => ?_
  cases s.slots[i].addr <;> simp

theorem releasePassed_passed (h : Passed s w i) :
    (releasePassed w s).slots[i] = if blocked s i = true then { s.slots[i] with due := true } else Slot.reset :=
  releaseAll_get (mem_passed.mpr h) s

theorem releasePassed_other (h : ¬Passed s w i) : (releasePassed w s).slots[i] = s.slots[i] :=
  releaseAll_other (fun hi => h (mem_passed.mp hi)) s

end Sys2Proof.HeadReleases
end

section
/-! SUPPORT. The frame two ahead is prepared at a mark (R140, R141, R154). -/

namespace Sys2Proof.Prepares
open Sys2Proof.Machine Sys2Proof.SpliceEnds Sys2Proof.ProgramStops

variable {s t : State} {k : Fin 16} {e : Entry} {G x : Nat}

/-! ### The scan in index order (R140) -/

theorem placeIds_split (k : Fin 16) : ∃ before after, placeIds = before ++ k :: after ∧ (∀ l ∈ before, l < k) ∧ k ∉ after := by
  have hlen : k.val < (List.finRange 16).length := by rw [List.length_finRange]; exact k.isLt
  have hdrop := List.drop_eq_getElem_cons hlen
  rw [List.getElem_finRange] at hdrop
  have hsplit : placeIds = (List.finRange 16).take k ++ k :: (List.finRange 16).drop (k + 1) :=
    (List.take_append_drop k.val _).symm.trans (congrArg (_ ++ ·) hdrop)
  refine ⟨_, _, hsplit, fun l hl => ?_, fun hk => ?_⟩
  · obtain ⟨n, hn, rfl⟩ := List.mem_take_iff_getElem.mp hl
    rw [List.getElem_finRange]
    show n < k.val
    omega
  · have hnodup : placeIds.Nodup := List.nodup_finRange 16
    rw [hsplit] at hnodup
    exact (List.nodup_cons.mp (List.nodup_append.mp hnodup).2.1).1 hk

theorem isPrepared_iff : isPrepared s k = true ↔ ∃ p ∈ s.eng.prepared, p.index = k := by
  simp [isPrepared]

/-- A place that the scan leaves: nothing PENDING there, or prepared before. -/
def Left (s : State) (k : Fin 16) : Prop := pendingEntry s k = none ∨ isPrepared s k = true

theorem prepareScan_left {before : List (Fin 16)} (h : ∀ l ∈ before, Left s l) (after : List (Fin 16)) :
    prepareScan G (before ++ after) s = prepareScan G after s := by
  induction before with
  | nil => rfl
  | cons l before ih =>
    have hrest := ih fun m hm => h m (List.mem_cons_of_mem _ hm)
    rw [List.cons_append, prepareScan]
    cases hpending : pendingEntry s l with
    | none => exact hrest
    | some f =>
      have hprepared : isPrepared s l = true := (h l List.mem_cons_self).resolve_left fun hn => by
        rw [hpending] at hn
        cases hn
      exact (if_pos hprepared).trans hrest

theorem prepareScan_none {l : List (Fin 16)} (h : ∀ k, pendingEntry s k = none) : prepareScan G l s = s := by
  have hscan := prepareScan_left (G := G) (before := l) (fun k _ => .inl (h k)) []
  rw [List.append_nil] at hscan
  exact hscan

/-- The first entry that is not prepared. -/
structure First (s : State) (k : Fin 16) (e : Entry) : Prop where
  pending : pendingEntry s k = some e
  unprepared : isPrepared s k = false
  before : ∀ l, l < k → Left s l

/-- The out-point does not lie beyond the begin of frame `G`. -/
def PastOut (G : Nat) (e : Entry) : Prop := e.outPoint.addr < G ∨ (e.outPoint.addr = G ∧ e.outPoint.offset = 0)

theorem pastOut_iff : Point.before ⟨G, 0⟩ e.outPoint = false ↔ PastOut G e := by
  unfold Point.before PastOut
  rw [decide_eq_false_iff_not]
  dsimp only
  omega

theorem prepareScan_first (h : First s k e) : ∃ after, k ∉ after ∧ prepareScan G placeIds s =
    if Point.before ⟨G, 0⟩ e.outPoint = false then prepareScan G after (skipPlace s k)
    else if e.inPoint.addr = G then prepareEntry (preparedAtIn (framePairs s.clock.rate) k e) e s
    else if e.inPoint.addr < G then prepareEntry (preparedLate (framePairs s.clock.rate) k e G) e s
    else s := by
  obtain ⟨before, after, hsplit, hbefore, hafter⟩ := placeIds_split k
  refine ⟨after, hafter, ?_⟩
  rw [hsplit, prepareScan_left fun l hl => h.before l (hbefore l hl)]
  have hskip : skipPlace s k = endPending k e .skipped none false s := by
    unfold skipPlace
    rw [h.pending]
  rw [hskip, prepareScan, h.pending]
  exact if_neg (by rw [h.unprepared]; exact Bool.false_ne_true)

/-! ### The mark (R140, R154) -/

/-- A mark in WAITING or SPLICING that is reckoned. -/
def Active (s : State) : Prop := (s.eng.state = .waiting ∨ s.eng.state = .splicing) ∧ (s.tl.state = .locked ∨ s.tl.state = .coasting)

theorem active_iff : ¬(s.tl.state.placed = false ∨ (s.eng.state ≠ .waiting ∧ s.eng.state ≠ .splicing)) ↔ Active s := by
  rw [not_or, Bool.not_eq_false, CloseHanded.placed_iff, not_and_or, not_not, not_not, Active, and_comm]

/-- An entry in progress or in preparation is planned beyond the offered frame. -/
def Beyond (s : State) (x : Nat) : Prop :=
  (∃ sp, s.eng.splice = some sp ∧ ∀ q, sp.outPoint = some q → x < (if q.offset = 0 then q.addr - 1 else q.addr))
  ∨ ∃ p ∈ s.eng.prepared, ∃ e, pendingEntry s p.index = some e
    ∧ x < (if e.outPoint.offset = 0 then e.outPoint.addr - 1 else e.outPoint.addr)

theorem committedBeyond_iff : committedBeyond s x = true ↔ Beyond s x := by
  unfold committedBeyond Beyond
  rw [Bool.or_eq_true]
  refine or_congr ?_ ?_
  · cases s.eng.splice with
    | none => simp
    | some sp =>
      dsimp only
      constructor
      · intro h
        refine ⟨sp, rfl, fun q hq => ?_⟩
        rw [hq] at h
        exact of_decide_eq_true h
      · rintro ⟨sp', hsp, h⟩
        obtain rfl := Option.some.inj hsp
        cases hout : sp.outPoint with
        | none => rfl
        | some q => exact decide_eq_true (h q hout)
  · rw [List.any_eq_true]
    refine exists_congr fun p => and_congr_right fun _ => ?_
    cases pendingEntry s p.index with
    | none => simp
    | some e =>
      dsimp only
      exact decide_eq_true_iff.trans ⟨fun h => ⟨e, rfl, h⟩, fun ⟨f, hf, h⟩ => Option.some.inj hf ▸ h⟩

/-- The lay entry is still PENDING. -/
def LayWaits (s : State) : Prop := ∃ e, pendingEntry s 0 = some e ∧ e.lay = true

theorem layPending_iff : layPending s = true ↔ LayWaits s := by
  unfold layPending LayWaits
  cases pendingEntry s 0 <;> simp

theorem prepareAt_idle (h : ¬Active s ∨ Beyond s x ∨ LayWaits s) : prepareAt x s = s := by
  unfold prepareAt
  by_cases hactive : Active s
  · refine (if_neg (active_iff.mpr hactive)).trans (if_pos ?_)
    rw [committedBeyond_iff, layPending_iff]
    exact h.resolve_left (not_not.mpr hactive)
  · exact if_pos (not_not.mp fun hn => hactive (active_iff.mp hn))

/-- What the mark makes of the scan. -/
def settled (s : State) : State := if hasPending s = false ∧ s.eng.splice.isNone = true then endPass s else s

theorem prepareAt_scan (hactive : Active s) (hbeyond : ¬Beyond s x) (hlay : ¬LayWaits s) :
    prepareAt x s = settled (prepareScan (x + 2) placeIds s) := by
  unfold prepareAt
  refine (if_neg (active_iff.mpr hactive)).trans (if_neg ?_)
  rw [committedBeyond_iff, layPending_iff]
  exact fun h => h.elim hbeyond hlay

theorem hasPending_none (h : ∀ k, pendingEntry s k = none) : hasPending s = false := by
  rw [Bool.eq_false_iff]
  intro hp
  obtain ⟨k, hk⟩ := (isSome_pendingEntry_iff s).mp hp
  rw [h k] at hk
  cases hk

theorem settled_pending (h : pendingEntry s k = some e) : settled s = s := by
  refine if_neg fun hc => ?_
  have hsome := (isSome_pendingEntry_iff s).mpr ⟨k, by rw [h]; rfl⟩
  rw [hsome] at hc
  exact absurd hc.1 (by decide)

theorem settled_over (h : ∀ k, pendingEntry s k = none) (hsplice : s.eng.splice = none) : settled s = endPass s :=
  if_pos ⟨hasPending_none h, by rw [hsplice]; rfl⟩

theorem endPass_record (hmode : s.eng.mode = some .record) : endPass s = setEng .done s :=
  endPass_last fun h => by
    rw [hmode] at h
    cases h.1

theorem prepareEntry_pending {p : Prepared} (h : pendingEntry s k = some e) (f : Entry) : pendingEntry (prepareEntry p f s) k = some e := by
  unfold prepareEntry
  obtain ⟨i, hi⟩ := nameSource_frame f.source { s with eng := { s.eng with prepared := s.eng.prepared ++ [p] } }
  rw [hi]
  exact h

/-- The last entry of a RECORD run lies behind: it is skipped. -/
theorem prepareAt_skips (h : First s k e) (hpast : PastOut (x + 2) e) (hmode : s.eng.mode = some .record)
    (honly : ∀ l, l ≠ k → pendingEntry s l = none) (hactive : Active s) (hbeyond : ¬Beyond s x) (hlay : ¬LayWaits s) :
    (prepareAt x s).eng.active[k] = some ⟨e, .ended .skipped⟩
      ∧ ∃ r ∈ (prepareAt x s).eng.results, r.tag = .program s.eng.run s.eng.pass k.val ∧ r.outcome = .skipped ∧ r.actualIn = none := by
  obtain ⟨after, -, hscan⟩ := prepareScan_first (G := x + 2) h
  have hskips := skipPlace_skips k s
  have hresult : ∃ r ∈ (skipPlace s k).eng.results, r.tag = .program s.eng.run s.eng.pass k.val ∧ r.outcome = .skipped ∧ r.actualIn = none := by
    unfold skipPlace
    rw [h.pending]
    dsimp only
    rw [endPending, addResult_eq]
    exact ⟨_, List.mem_of_getLast? (getLast?_withResult ..), rfl, rfl, rfl⟩
  have hmode' : (skipPlace s k).eng.mode = some .record := by
    have hengine := joined_frame ([k].filterMap (skipResult s)) { s.eng with active := (skipPlace s k).eng.active }
    rw [← hskips.engine] at hengine
    exact (congrArg Engine.mode hengine :).trans hmode
  have hpending : ∀ l, pendingEntry (skipPlace s k) l = none := fun l => by
    by_cases hl : l = k
    · subst hl
      unfold pendingEntry
      rw [hskips.skipped l (List.mem_singleton.mpr rfl) e h.pending]
      rfl
    · rw [hskips.entry fun hm => hl (List.mem_singleton.mp hm)]
      exact honly l hl
  have hskipped := hskips.skipped k (List.mem_singleton.mpr rfl) e h.pending
  rw [if_pos (pastOut_iff.mpr hpast)] at hscan
  rw [prepareAt_scan hactive hbeyond hlay, hscan]
  clear hscan hskips
  generalize skipPlace s k = u at *
  rw [prepareScan_none hpending]
  unfold settled
  split
  · rw [endPass_record hmode', setEng_frame]
    exact ⟨hskipped, hresult⟩
  · exact ⟨hskipped, hresult⟩

/-- The entry starts in or before the prepared frame, or has time. -/
theorem prepareAt_takes (h : First s k e) (hpast : ¬PastOut (x + 2) e) (hactive : Active s) (hbeyond : ¬Beyond s x) (hlay : ¬LayWaits s) :
    prepareAt x s = if e.inPoint.addr = x + 2 then prepareEntry (preparedAtIn (framePairs s.clock.rate) k e) e s
      else if e.inPoint.addr < x + 2 then prepareEntry (preparedLate (framePairs s.clock.rate) k e (x + 2)) e s
      else s := by
  obtain ⟨after, -, hscan⟩ := prepareScan_first (G := x + 2) h
  rw [if_neg fun hb => hpast (pastOut_iff.mp hb)] at hscan
  rw [prepareAt_scan hactive hbeyond hlay, hscan]
  split
  · exact settled_pending (prepareEntry_pending h.pending e)
  · split
    · exact settled_pending (prepareEntry_pending h.pending e)
    · exact settled_pending h.pending

end Sys2Proof.Prepares
end

section
/-! SUPPORT. The bank of an entry that was prepared before the mark (R43, R44, R141, R142). -/

namespace Sys2Proof.BankRequests
open Sys2Proof.Machine Sys2Proof.SpliceEnds Sys2Proof.ClockMonitor Sys2Proof.Punches Sys2Proof.ProgramStops

variable {s t u : State} {p : Prepared} {e : Entry}

/-! ### Whether a request is due (R142) -/

theorem bankDue_none (hentry : pendingEntry s p.index = some e) (h : p.asked = true ∨ e.source ≠ .fly) : bankDue s [p] = none := by
  unfold bankDue
  rw [List.findSome?_cons, List.findSome?_nil]
  by_cases hasked : p.asked = false ∧ s.eng.prepared.contains p = true
  · have hfly : e.source ≠ .fly := h.resolve_left (by rw [hasked.1]; exact Bool.false_ne_true)
    rw [if_pos hasked, hentry, Option.bind_some, if_neg hfly]
  · rw [if_neg hasked]

theorem bankDue_some (hprepared : s.eng.prepared = [p]) (hentry : pendingEntry s p.index = some e) (hasked : p.asked = false)
    (hfly : e.source = .fly) : bankDue s [p] = some (p, e) := by
  have hcontains : s.eng.prepared.contains p = true := by
    rw [hprepared, List.contains_iff_mem]
    exact List.mem_singleton.mpr rfl
  unfold bankDue
  rw [List.findSome?_cons, if_pos ⟨hasked, hcontains⟩, hentry, Option.bind_some, if_pos hfly]

theorem askDue_none (hentry : pendingEntry s p.index = some e) (h : p.asked = true ∨ e.source ≠ .fly) : askDue [p] s = s := by
  unfold askDue
  rw [bankDue_none hentry h]

theorem askDue_some (hprepared : s.eng.prepared = [p]) (hentry : pendingEntry s p.index = some e) (hasked : p.asked = false)
    (hfly : e.source = .fly) : askDue [p] s = askFor p e s := by
  unfold askDue
  rw [bankDue_some hprepared hentry hasked hfly]

/-! ### The request is refused (R141, R142) -/

theorem nameSource_flyStart (src : Source) (s : State) : (nameSource src s).intake.flyStart = s.intake.flyStart := by
  unfold nameSource
  dsimp only
  split_ifs <;> rfl

/-- The prepared entry has ended with nothing scheduled. -/
structure Dropped (p : Prepared) (e : Entry) (o : Outcome) (r : Option Reason) (s t : State) : Prop where
  prepared : t.eng.prepared = []
  flyStart : t.intake.flyStart = none
  bankFor : t.eng.bankFor = none
  active : t.eng.active[p.index] = some ⟨e, .ended o⟩
  source : t.intake.source = .analog
  result : ∃ x, t.eng.results.getLast? = some x ∧ x.tag = .program s.eng.run s.eng.pass p.index.val ∧ x.outcome = o ∧ x.reason = r
    ∧ x.actualIn = none ∧ x.actualOut = none

/-- An entry ends that never started. -/
structure Ends (p : Prepared) (e : Entry) (o : Outcome) (r : Option Reason) (s t : State) : Prop where
  prepared : t.eng.prepared = s.eng.prepared
  bankFor : t.eng.bankFor = s.eng.bankFor
  intake : t.intake = s.intake
  active : t.eng.active[p.index] = some ⟨e, .ended o⟩
  result : ∃ x, t.eng.results.getLast? = some x ∧ x.tag = .program s.eng.run s.eng.pass p.index.val ∧ x.outcome = o ∧ x.reason = r
    ∧ x.actualIn = none ∧ x.actualOut = none
  notices : e.notify = false → t.notices = s.notices

theorem endPending_ends (hentry : pendingEntry s p.index = some e) (o : Outcome) (r : Option Reason) (late : Bool) :
    Ends p e o r s (endPending p.index e o r late s) := by
  have hactive := setEntryState_get_same (pendingEntry_some hentry) (.ended o)
  rw [endPending, addResult_eq]
  refine ⟨rfl, rfl, rfl, hactive, ⟨_, getLast?_withResult .., rfl, rfl, rfl, rfl, rfl⟩, fun hquiet => ?_⟩
  show ended _ e.notify _ _ = _
  rw [hquiet]
  rfl

theorem dropUnbanked_dropped (hprepared : s.eng.prepared = [p]) (hentry : pendingEntry s p.index = some e) (hbank : s.eng.bankFor = none)
    (o : Outcome) (r : Option Reason) : Dropped p e o r s (dropUnbanked p e o r s)
      ∧ (e.notify = false → (dropUnbanked p e o r s).notices = s.notices) := by
  have hends := endPending_ends (p := p) (s := { s with
    intake := { s.intake with flyStart := none }, eng := { s.eng with prepared := s.eng.prepared.filter fun q => q != p } }) hentry o r p.late
  have hempty : s.eng.prepared.filter (fun q => q != p) = [] := by
    rw [hprepared]
    simp
  unfold dropUnbanked
  dsimp only
  generalize endPending p.index e o r p.late _ = v at hends
  have hname : nameAfter v = nameSource .analog v := if_pos (hends.prepared.trans hempty)
  obtain ⟨k, hk⟩ := nameSource_frame .analog v
  have hfly := nameSource_flyStart .analog v
  have hsource := nameSource_source .analog v
  rw [hname]
  generalize nameSource .analog v = t at hk hfly hsource
  have heng : t.eng = v.eng := by rw [hk]
  refine ⟨⟨?_, ?_, ?_, ?_, hsource, ?_⟩, fun hquiet => ?_⟩
  · rw [heng]
    exact hends.prepared.trans hempty
  · rw [hfly, hends.intake]
  · rw [heng]
    exact hends.bankFor.trans hbank
  · rw [heng]
    exact hends.active
  · rw [heng]
    exact hends.result
  · rw [hk]
    exact hends.notices hquiet

/-- What an answer leaves of the records that the end of an entry reads. -/
theorem Dropped.of {o : Outcome} {r : Option Reason} (h : Dropped p e o r u t) (hrun : u.eng.run = s.eng.run) (hpass : u.eng.pass = s.eng.pass) :
    Dropped p e o r s t := by
  obtain ⟨h1, h2, h3, h4, h5, x, hx, htag, hrest⟩ := h
  exact ⟨h1, h2, h3, h4, h5, x, hx, by rw [htag, hrun, hpass], hrest⟩

theorem askFor_unavailable (hprepared : s.eng.prepared = [p]) (hentry : pendingEntry s p.index = some e) (hok : s.banks.ok)
    (h : ∀ n, (s.banks.get n).state ≠ .full) : Dropped p e .starved none s (askFor p e s)
      ∧ (e.notify = false → (askFor p e s).notices = (post .flyStarved 2 (some p.start.addr) none s).notices) := by
  have hask := askBank_none (s := { s with intake := { s.intake with flyStart := some p.start.offset } }) hok h
  obtain ⟨b, hb⟩ := spendPlaying_frame { s with intake := { s.intake with flyStart := some p.start.offset } }
  rw [hb] at hask
  unfold askFor
  rw [hask]
  obtain ⟨hdropped, hnotices⟩ := dropUnbanked_dropped (s := post .flyStarved 2 (some p.start.addr) none { s with
    intake := { s.intake with flyStart := some p.start.offset }, banks := b, eng := { s.eng with bankFor := none } })
    hprepared hentry rfl .starved none
  exact ⟨hdropped.of rfl rfl, fun hquiet => (hnotices hquiet).trans (post_notices_congr rfl rfl ..)⟩

theorem askFor_mismatch (hprepared : s.eng.prepared = [p]) (hentry : pendingEntry s p.index = some e) (hok : s.banks.ok) {n : BankId}
    (hfull : (s.banks.get n).state = .full) (hfirst : n = .b0 ∨ s.banks.b0.state ≠ .full) (hrate : (s.banks.get n).rate ≠ some s.clock.rate) :
    Dropped p e .refused (some .rate) s (askFor p e s) ∧ (e.notify = false → s.eng.mode = some .record →
      (askFor p e s).notices = (post .recordRefused 3 (some p.start.addr) none s).notices) := by
  have hask := (askBank_found (s := { s with intake := { s.intake with flyStart := some p.start.offset } }) hok hfull hfirst).trans
    (if_pos hrate)
  obtain ⟨b, hb⟩ := spendPlaying_frame { s with intake := { s.intake with flyStart := some p.start.offset } }
  rw [hb] at hask
  unfold askFor
  rw [hask]
  dsimp only
  have hdrop : ∀ v : State, v.eng = { s.eng with bankFor := none } → Dropped p e .refused (some .rate) s (dropUnbanked p e .refused (some .rate) v)
      ∧ (e.notify = false → (dropUnbanked p e .refused (some .rate) v).notices = v.notices) := fun v hv => by
    have hpending : pendingEntry v p.index = some e := by
      unfold pendingEntry at hentry ⊢
      rw [hv]
      exact hentry
    obtain ⟨hdropped, hnotices⟩ := dropUnbanked_dropped (s := v) (by rw [hv]; exact hprepared) hpending (by rw [hv]) .refused (some .rate)
    exact ⟨hdropped.of (by rw [hv]) (by rw [hv]), hnotices⟩
  split
  · next hrehearse =>
    refine ⟨(hdrop _ rfl).1, fun _ hmode => ?_⟩
    have hrehearsing : (s.eng.mode == some .rehearse) = true := hrehearse
    rw [hmode] at hrehearsing
    cases hrehearsing
  · exact ⟨(hdrop _ rfl).1, fun hquiet _ => ((hdrop _ rfl).2 hquiet).trans (post_notices_congr rfl rfl ..)⟩

theorem askFor_eq {n : BankId} (h : askBank { s with intake := { s.intake with flyStart := some p.start.offset } } = (.granted n, u)) :
    askFor p e s = { u with eng := { u.eng with
      bankFor := some (programTag u p.index), prepared := u.eng.prepared.map fun q => if q = p then { q with asked := true } else q } } := by
  unfold askFor
  rw [h]

/-- The bank is granted (R43, R142). -/
theorem askFor_granted (hprepared : s.eng.prepared = [p]) (hok : s.banks.ok) {n : BankId} (hfull : (s.banks.get n).state = .full)
    (hfirst : n = .b0 ∨ s.banks.b0.state ≠ .full) (hrate : (s.banks.get n).rate = some s.clock.rate) : let t := askFor p e s
    t.intake.flyStart = some p.start.offset ∧ t.eng.bankFor = some (.program s.eng.run s.eng.pass p.index.val)
      ∧ t.eng.prepared = [{ p with asked := true }] ∧ (t.banks.get n).state = .playing ∧ (t.banks.get n).readPos = 0 := by
  have hask := (askBank_found (s := { s with intake := { s.intake with flyStart := some p.start.offset } }) hok hfull hfirst).trans
    (if_neg (not_not.mpr hrate))
  obtain ⟨b, hb⟩ := spendPlaying_frame { s with intake := { s.intake with flyStart := some p.start.offset } }
  rw [hb] at hask
  intro t
  have hasked : s.eng.prepared.map (fun q => if q = p then { q with asked := true } else q) = [{ p with asked := true }] := by
    rw [hprepared]
    exact congrArg (fun q : Prepared => [q]) (if_pos rfl)
  have ht : t = _ := askFor_eq hask
  rw [ht]
  refine ⟨rfl, rfl, hasked, ?_, ?_⟩
  · exact congrArg Bank.state (banks_get_set_same ..)
  · exact congrArg Bank.readPos (banks_get_set_same ..)

end Sys2Proof.BankRequests
end

section
/-! SUPPORT. Slot requests one after another: which slots they leave, and that none fails while slots are free (R25 to R28). -/

namespace Sys2Proof.SlotRequests
open Sys2Proof.Machine Sys2Proof.StoreCommands Sys2Proof.SlotSteps Sys2Proof.Readers

variable {s t u : State} {k j : SlotId} {role : Role} {addr : Option Nat}

/-! ### A slot through requests -/

/-- A slot that a request has just taken. -/
def filled (r : Role) (rate : Rate) : Slot := { Slot.reset with state := .filling, role := some r, layout := rate }

/-- A slot that is in use and that no request reclaims. -/
def Held (s : State) (k : SlotId) : Prop :=
  s.slots[k].state ≠ .free ∧ (s.slots[k].isPreRead = true → s.slots[k].due = true → blocked s k = true)

/-- What requests leave of slot `k`: it stays when it is in use and not to be reclaimed, and an empty one is empty or taken. -/
structure Served (k : SlotId) (s t : State) : Prop where
  stays : Held s k → t.slots[k] = s.slots[k]
  empties : s.slots[k] = Slot.reset → t.slots[k] = Slot.reset ∨ ∃ r, t.slots[k] = filled r s.clock.rate
  fetch : t.fetch = s.fetch
  clock : t.clock = s.clock

theorem Served.still (hslots : t.slots[k] = s.slots[k]) (hfetch : t.fetch = s.fetch) (hclock : t.clock = s.clock) : Served k s t :=
  ⟨fun _ => hslots, fun h => .inl (hslots.trans h), hfetch, hclock⟩

theorem Served.refl (k : SlotId) (s : State) : Served k s s := .still rfl rfl rfl

theorem Held.of_slot (h : Held s k) (hslot : t.slots[k] = s.slots[k]) (hfetch : t.fetch = s.fetch) : Held t k := by
  unfold Held at h ⊢
  rw [hslot, blocked_of_slot hslot hfetch]
  exact h

theorem filled_held {r : Role} {rate : Rate} (h : s.slots[k] = filled r rate) : Held s k := by
  unfold Held
  rw [h]
  exact ⟨nofun, nofun⟩

theorem Served.trans (h : Served k s t) (h' : Served k t u) : Served k s u := by
  refine ⟨fun hheld => ?_, fun hempty => ?_, h'.fetch.trans h.fetch, h'.clock.trans h.clock⟩
  · have hfirst := h.stays hheld
    exact (h'.stays (hheld.of_slot hfirst h.fetch)).trans hfirst
  · rcases h.empties hempty with hreset | ⟨r, hfilled⟩
    · rw [← h.clock]
      exact h'.empties hreset
    · exact .inr ⟨r, (h'.stays (filled_held hfilled)).trans hfilled⟩

theorem fillSlot_serves (hj : chooseSlot s = some j) (k : SlotId) (role : Role) : Served k s (fillSlot j role s) := by
  by_cases hjk : j = k
  · subst hjk
    refine ⟨fun ⟨hstate, hdue⟩ => ?_, fun _ => .inr ⟨role, fillSlot_same ..⟩, rfl, rfl⟩
    rcases chooseSlot_some hj with hfree | ⟨hread, hd, hb⟩
    · exact absurd hfree hstate
    · rw [hdue hread hd] at hb
      cases hb
  · exact .still (fillSlot_other hjk ..) rfl rfl

theorem granted_serves (role : Role) (addr : Option Nat) (k : SlotId) (s : State) : Served k s (granted role addr s) := by
  unfold granted
  split
  · next j hj => exact fillSlot_serves hj k role
  · exact .still rfl rfl rfl

theorem granted_frame (role : Role) (addr : Option Nat) (s : State) :
    { granted role addr s with slots := s.slots, order := s.order, notices := s.notices } = s := by
  unfold granted
  split <;> rfl

/-! ### Free slots (R27, R28) -/

theorem chooseSlot_of_free (h : 0 < freeSlots s) : ∃ j, chooseSlot s = some j ∧ s.slots[j].state = .free := by
  obtain ⟨i, hi⟩ := List.exists_mem_of_length_pos h
  have hfree : (s.slots[i].state == .free) = true := (List.mem_filter.mp hi).2
  cases hfind : slotIds.find? (fun i => s.slots[i].state == .free) with
  | none => exact absurd hfree (List.find?_eq_none.mp hfind i (List.mem_finRange i))
  | some j =>
    have hj : (s.slots[j].state == .free) = true := List.find?_some (p := fun i : SlotId => s.slots[i].state == .free) hfind
    refine ⟨j, ?_, beq_iff_eq.mp hj⟩
    unfold chooseSlot
    rw [hfind]

theorem freeSlots_fillSlot (j : SlotId) (role : Role) (s : State) : freeSlots s ≤ freeSlots (fillSlot j role s) + 1 := by
  have hnodup : slotIds.Nodup := List.nodup_finRange _
  have herase : slotIds.filter (fun i => (fillSlot j role s).slots[i].state == .free)
      = (slotIds.filter fun i => s.slots[i].state == .free).erase j := by
    rw [(hnodup.filter _).erase_eq_filter, List.filter_filter]
    refine List.filter_congr fun i _ => ?_
    by_cases hji : j = i
    · subst hji
      rw [fillSlot_same]
      simp
    · rw [fillSlot_other hji]
      simp [Ne.symm hji]
  unfold freeSlots
  rw [herase]
  have hlength := List.le_length_erase (a := j) (l := slotIds.filter fun i => s.slots[i].state == .free)
  omega

/-- A request while a slot is free posts nothing. -/
theorem granted_free {n : Nat} (h : n + 1 ≤ freeSlots s) (role : Role) (addr : Option Nat) :
    (granted role addr s).notices = s.notices ∧ n ≤ freeSlots (granted role addr s) := by
  obtain ⟨j, hj, -⟩ := chooseSlot_of_free (s := s) (by omega)
  have hgranted : granted role addr s = fillSlot j role s := by
    unfold granted
    rw [hj]
  have hcount := freeSlots_fillSlot j role s
  rw [hgranted]
  exact ⟨rfl, by omega⟩

theorem freeSlots_congr (h : t.slots = s.slots) : freeSlots t = freeSlots s := by
  unfold freeSlots
  rw [h]

/-! ### The begin of a channel's frame and of an intake frame (R49, R88) -/

/-- The state in which the channel's frame has closed at a mark and the next has begun. -/
def turned (ch : HeadStream) (f : CaptureFrame) (n : Nat) (s : State) : State :=
  setCapture ch { capture s ch with
    assembly := some (emptyFrame (chooseSlot s)), closing := [⟨f, true, s.tl.mode, s.tl.dir, n⟩] } (granted (chanRole ch) none s)

theorem closeEvent_turns {ch : HeadStream} {f : CaptureFrame} (hassembly : (capture s ch).assembly = some f)
    (hclosing : (capture s ch).closing = []) (n : Nat) : closeEvent ch true n none s = turned ch f n s := by
  have hevent : closeEvent ch true n none s = beginFrame ch none
      (setCapture ch { capture s ch with assembly := none, closing := [⟨f, true, s.tl.mode, s.tl.dir, n⟩] } s) := by
    unfold closeEvent
    dsimp only
    rw [hassembly, hclosing]
    rfl
  have hchoose : ∀ c : Capture, chooseSlot (setCapture ch c s) = chooseSlot s := fun c => by cases ch <;> rfl
  have hgranted : ∀ c : Capture, granted (chanRole ch) none (setCapture ch c s) = setCapture ch c (granted (chanRole ch) none s) := fun c => by
    unfold granted
    rw [hchoose]
    cases chooseSlot s <;> cases ch <;> rfl
  rw [hevent, beginFrame_none, hchoose, hgranted]
  unfold turned
  cases ch <;> rfl

theorem turned_serves (ch : HeadStream) (f : CaptureFrame) (n : Nat) (k : SlotId) (s : State) : Served k s (turned ch f n s) := by
  refine (granted_serves (chanRole ch) none k s).trans ?_
  unfold turned
  cases ch <;> exact .still rfl rfl rfl

theorem turned_free {m : Nat} (h : m + 1 ≤ freeSlots s) (ch : HeadStream) (f : CaptureFrame) (n : Nat) :
    (turned ch f n s).notices = s.notices ∧ m ≤ freeSlots (turned ch f n s) := by
  obtain ⟨hnotices, hfree⟩ := granted_free h (chanRole ch) none
  have hslots : (turned ch f n s).slots = (granted (chanRole ch) none s).slots := by
    unfold turned
    cases ch <;> rfl
  rw [freeSlots_congr hslots]
  refine ⟨Eq.trans ?_ hnotices, hfree⟩
  unfold turned
  cases ch <;> rfl

theorem turned_capture (ch : HeadStream) (f : CaptureFrame) (n : Nat) (s : State) : capture (turned ch f n s) ch = { capture s ch with
    assembly := some (emptyFrame (chooseSlot s)), closing := [⟨f, true, s.tl.mode, s.tl.dir, n⟩] } := by
  unfold turned
  cases ch <;> rfl

theorem turned_frame (ch : HeadStream) (f : CaptureFrame) (n : Nat) (s : State) :
    { turned ch f n s with slots := s.slots, order := s.order, notices := s.notices, pre := s.pre, conf := s.conf } = s := by
  have hframe := granted_frame (chanRole ch) none s
  unfold turned
  generalize granted (chanRole ch) none s = v at hframe
  cases ch <;> exact (congrArg (fun x : State => { x with pre := s.pre, conf := s.conf }) hframe :)

theorem turned_other (ch : HeadStream) (f : CaptureFrame) (n : Nat) (s : State) :
    capture (turned ch f n s) (otherStream ch) = capture s (otherStream ch) := by
  have hframe := granted_frame (chanRole ch) none s
  unfold turned
  generalize granted (chanRole ch) none s = v at hframe
  cases ch with
  | preRead => exact (congrArg State.conf hframe :)
  | confidence => exact (congrArg State.pre hframe :)

/-- An intake frame that has taken nothing. -/
def bareIntake (o : Option SlotId) (r : Rate) : IntakeFrame := ⟨o, 0, [], 0, none, r, none⟩

theorem beginIntake_eq (s : State) :
    beginIntake s = setIntakeFrame (some (bareIntake (chooseSlot s) s.clock.rate)) (granted .intake none s) := by
  have hframe := granted_frame .intake none s
  unfold beginIntake
  rw [allocate_granted]
  dsimp only
  generalize granted .intake none s = v at hframe
  have hclock : v.clock = s.clock := (congrArg State.clock hframe :)
  rw [hclock]
  rfl

end Sys2Proof.SlotRequests
end

section
/-! SUPPORT. The engine's work at a mark reads the engine, the banks, the intake, the clock and the state of the timeline alone (R140 to R142). -/

namespace Sys2Proof.EngineMarks
open Sys2Proof.Machine Sys2Proof.SpliceEnds

variable {N : Prop} {s t u v : State}

/-! ### What the engine's work touches -/

/-- From `s` to `t` only the notices, the engine, the banks and the named source with its FIFO and its start change, and
the splice in progress stays. -/
structure PrepWork (s t : State) : Prop where
  frame : { t with notices := s.notices, eng := s.eng, banks := s.banks, intake := { s.intake with frame := t.intake.frame } } = s
  splice : t.eng.splice = s.eng.splice

theorem PrepWork.refl (s : State) : PrepWork s s := ⟨rfl, rfl⟩

theorem PrepWork.intake (h : PrepWork s t) : t.intake.frame = s.intake.frame := (congrArg (fun x : State => x.intake.frame) h.frame :)

theorem PrepWork.trans (h : PrepWork s t) (k : PrepWork t u) : PrepWork s u := by
  refine ⟨Eq.trans ?_ h.frame, k.splice.trans h.splice⟩
  have hframe := congrArg (fun x : State => { x with
    notices := s.notices, eng := s.eng, banks := s.banks, intake := { s.intake with frame := t.intake.frame } }) k.frame
  rw [k.intake]
  exact hframe

theorem PrepWork.after (k : PrepWork t u) (h : PrepWork s t) : PrepWork s u := h.trans k

theorem PrepWork.ite {c : Prop} [Decidable c] (h : c → PrepWork s t) (k : ¬c → PrepWork s u) : PrepWork s (if c then t else u) := by
  split
  · exact h ‹_›
  · exact k ‹_›

theorem nameSource_prep (src : Source) (s : State) : PrepWork s (nameSource src s) := by
  unfold nameSource
  dsimp only
  split_ifs <;> exact ⟨rfl, rfl⟩

theorem setEng_prep (st : EngState) (s : State) : PrepWork s (setEng st s) := .ite (fun _ => .refl s) fun _ => ⟨rfl, rfl⟩

theorem endPending_prep (i : Fin 16) (e : Entry) (o : Outcome) (r : Option Reason) (late : Bool) (s : State) :
    PrepWork s (endPending i e o r late s) := by
  rw [endPending, addResult_eq]
  exact ⟨rfl, rfl⟩

theorem endPass_prep (s : State) : PrepWork s (endPass s) := by
  unfold endPass
  exact .ite (fun _ => (setEng_prep ..).after ⟨rfl, rfl⟩) fun _ => setEng_prep ..

theorem prepareScan_prep (G : Nat) (l : List (Fin 16)) (s : State) : PrepWork s (prepareScan G l s) := by
  induction l generalizing s with
  | nil => exact .refl s
  | cons i l ih =>
    have hentry : ∀ p e, PrepWork s (prepareEntry p e s) := fun p e => (nameSource_prep e.source { s with
      eng := { s.eng with prepared := s.eng.prepared ++ [p] } }).after ⟨rfl, rfl⟩
    rw [prepareScan]
    split
    · exact ih s
    · exact .ite (fun _ => ih s) fun _ => .ite (fun _ => (endPending_prep ..).trans (ih _)) fun _ =>
        .ite (fun _ => hentry ..) fun _ => .ite (fun _ => hentry ..) fun _ => .refl s

theorem prepareAt_prep (x : Nat) (s : State) : PrepWork s (prepareAt x s) := by
  unfold prepareAt
  have hscan := prepareScan_prep (x + 2) placeIds s
  exact .ite (fun _ => .refl s) fun _ => .ite (fun _ => .refl s) fun _ => .ite (fun _ => hscan.trans (endPass_prep _)) fun _ => hscan

theorem dropUnbanked_prep (p : Prepared) (e : Entry) (o : Outcome) (r : Option Reason) (s : State) :
    PrepWork s (dropUnbanked p e o r s) := by
  have hname : ∀ v, PrepWork v (nameAfter v) := fun v => .ite (fun _ => nameSource_prep ..) fun _ => .refl v
  unfold dropUnbanked
  exact (hname _).after ((endPending_prep ..).after ⟨rfl, rfl⟩)

theorem askFor_prep (p : Prepared) (e : Entry) (s : State) : PrepWork s (askFor p e s) := by
  obtain ⟨b, hb⟩ := CueActs.askBank_frame { s with intake := { s.intake with flyStart := some p.start.offset } }
  unfold askFor
  cases hask : askBank { s with intake := { s.intake with flyStart := some p.start.offset } } with
  | mk a v =>
    rw [hask] at hb
    obtain rfl : v = _ := hb
    cases a with
    | granted n => exact ⟨rfl, rfl⟩
    | unavailable =>
      dsimp only
      exact (dropUnbanked_prep ..).after ⟨rfl, rfl⟩
    | mismatch =>
      dsimp only
      exact (dropUnbanked_prep ..).after (.ite (fun _ => ⟨rfl, rfl⟩) fun _ => ⟨rfl, rfl⟩)

theorem askDue_prep (l : List Prepared) (s : State) : PrepWork s (askDue l s) := by
  unfold askDue
  split
  · exact askFor_prep ..
  · exact .refl s

/-! ### What the engine's work reads -/

/-- Two states that the engine's work cannot tell apart; their notices agree where `N` holds. -/
structure Alike (N : Prop) (s t : State) : Prop where
  eng : t.eng = s.eng
  banks : t.banks = s.banks
  intake : { t.intake with frame := s.intake.frame } = s.intake
  placed : t.tl.state = s.tl.state
  clock : t.clock = s.clock
  routes : t.routes = s.routes
  notices : N → t.notices = s.notices

theorem Alike.post (h : Alike N s t) (k : NoticeKind) (n : Nat) (a : Option Nat) (c : Option Result) :
    Alike N (post k n a c s) (post k n a c t) :=
  ⟨h.eng, h.banks, h.intake, h.placed, h.clock, h.routes, fun hn => post_notices_congr h.routes (h.notices hn) ..⟩

theorem Alike.withEng (h : Alike N s t) (e : Engine) : Alike N { s with eng := e } { t with eng := e } :=
  ⟨rfl, h.banks, h.intake, h.placed, h.clock, h.routes, h.notices⟩

theorem Alike.ite {c : Prop} [Decidable c] {s' t' : State} (h : c → Alike N s t) (k : ¬c → Alike N s' t') :
    Alike N (if c then s else s') (if c then t else t') := by
  split
  · exact h ‹_›
  · exact k ‹_›

theorem Alike.setEng (h : Alike N s t) (st : EngState) : Alike N (setEng st s) (setEng st t) := by
  unfold Machine.setEng
  rw [h.eng]
  exact .ite (fun _ => h) fun _ => (h.withEng _).post ..

theorem Alike.pending (h : Alike N s t) (i : Fin 16) : pendingEntry t i = pendingEntry s i := by
  unfold pendingEntry
  rw [h.eng]

theorem Alike.addResult (h : Alike N s t) (r : SpliceResult) (notify : Bool) (a : Option Nat) :
    Alike N (addResult r notify a s) (addResult r notify a t) := by
  rw [addResult_eq, addResult_eq, h.eng]
  exact ⟨rfl, h.banks, h.intake, h.placed, h.clock, h.routes, fun hn => ended_congr h.routes (h.notices hn) ..⟩

theorem Alike.endPending (h : Alike N s t) (i : Fin 16) (e : Entry) (o : Outcome) (r : Option Reason) (late : Bool) :
    Alike N (endPending i e o r late s) (endPending i e o r late t) := by
  have hstate : Alike N (setEntryState i (.ended o) s) (setEntryState i (.ended o) t) := by
    unfold setEntryState
    rw [h.eng]
    exact h.withEng _
  have hresult : ∀ x, Alike N (Machine.addResult x e.notify (some e.inPoint.addr) (setEntryState i (.ended o) s))
      (Machine.addResult x e.notify (some e.inPoint.addr) (setEntryState i (.ended o) t)) := fun x => hstate.addResult ..
  unfold Machine.endPending programTag rehearsing takeFor
  rw [h.eng]
  exact hresult _

theorem Alike.nameSource (h : Alike N s t) (src : Source) : Alike N (nameSource src s) (nameSource src t) := by
  have hsource : t.intake.source = s.intake.source := (congrArg Intake.source h.intake :)
  unfold Machine.nameSource
  dsimp only
  rw [hsource]
  have hset : ∀ f : Intake → Intake, (∀ k, f { k with frame := s.intake.frame } = { f k with frame := s.intake.frame }) →
      (f s.intake).frame = s.intake.frame → Alike N { s with intake := f s.intake } { t with intake := f t.intake } := fun f hf hframe => by
    refine ⟨h.eng, h.banks, ?_, h.placed, h.clock, h.routes, h.notices⟩
    show { f t.intake with frame := (f s.intake).frame } = f s.intake
    rw [hframe, ← hf, h.intake]
  exact .ite (fun _ => h) fun _ => .ite (fun _ => hset (fun k => { k with source := src, fifo := [], priming := false }) (fun _ => rfl) rfl)
    fun _ => .ite (fun _ => hset (fun k => { k with source := src, fifo := [], priming := true }) (fun _ => rfl) rfl)
      fun _ => hset (fun k => { k with source := src }) (fun _ => rfl) rfl

theorem Alike.endPass (h : Alike N s t) : Alike N (endPass s) (endPass t) := by
  unfold Machine.endPass rehearsing locateTarget
  dsimp only [Machine.post]
  rw [h.eng]
  refine .ite (fun _ => ?_) fun _ => h.setEng _
  refine Alike.setEng ?_ _
  exact ⟨rfl, h.banks, h.intake, h.placed, h.clock, h.routes, fun hn => post_notices_congr h.routes (h.notices hn) ..⟩

theorem Alike.prepareEntry (h : Alike N s t) (p : Prepared) (e : Entry) : Alike N (prepareEntry p e s) (prepareEntry p e t) := by
  unfold Machine.prepareEntry
  rw [h.eng]
  exact (h.withEng _).nameSource _

theorem Alike.prepareScan (h : Alike N s t) (G : Nat) (l : List (Fin 16)) : Alike N (prepareScan G l s) (prepareScan G l t) := by
  induction l generalizing s t with
  | nil => exact h
  | cons i l ih =>
    have hprepared : isPrepared t i = isPrepared s i := by
      unfold isPrepared
      rw [h.eng]
    rw [Machine.prepareScan, Machine.prepareScan, h.pending i, hprepared, h.clock]
    cases pendingEntry s i with
    | none => exact ih h
    | some e =>
      exact .ite (fun _ => ih h) fun _ => .ite (fun _ => ih (h.endPending ..)) fun _ => .ite (fun _ => h.prepareEntry ..) fun _ =>
        .ite (fun _ => h.prepareEntry ..) fun _ => h

theorem Alike.prepareAt (h : Alike N s t) (x : Nat) : Alike N (prepareAt x s) (prepareAt x t) := by
  have hpending : pendingEntry t = pendingEntry s := funext h.pending
  have hscan := h.prepareScan (x + 2) placeIds
  have hcommitted : committedBeyond t x = committedBeyond s x := by
    unfold committedBeyond
    rw [hpending, h.eng]
  have hlay : layPending t = layPending s := by
    unfold layPending
    rw [hpending]
  have hleft : hasPending (Machine.prepareScan (x + 2) placeIds t) = hasPending (Machine.prepareScan (x + 2) placeIds s) := by
    unfold hasPending firstPending
    rw [funext hscan.pending]
  unfold Machine.prepareAt
  rw [hcommitted, hlay, h.placed, h.eng]
  dsimp only
  rw [hleft, hscan.eng]
  exact .ite (fun _ => h) fun _ => .ite (fun _ => h) fun _ => .ite (fun _ => hscan.endPass) fun _ => hscan

theorem Alike.askBank (h : Alike N s t) : (askBank t).1 = (askBank s).1 ∧ Alike N (askBank s).2 (askBank t).2 := by
  have hspend : Alike N (spendPlaying s) (spendPlaying t) := by
    have hplaying : playing t = playing s := by
      unfold playing
      rw [h.banks]
    unfold spendPlaying
    rw [hplaying]
    cases playing s with
    | none => exact h
    | some n =>
      unfold setBank
      rw [h.banks]
      exact ⟨h.eng, rfl, h.intake, h.placed, h.clock, h.routes, h.notices⟩
  unfold Machine.askBank
  dsimp only
  rw [hspend.banks, hspend.clock]
  cases hchoice : (if (spendPlaying s).banks.b0.state = .full then some BankId.b0
      else if (spendPlaying s).banks.b1.state = .full then some BankId.b1 else none) with
  | none => exact ⟨rfl, hspend⟩
  | some n =>
    dsimp only
    split
    · exact ⟨rfl, hspend⟩
    · refine ⟨rfl, ?_⟩
      unfold setBank
      rw [hspend.banks]
      exact ⟨hspend.eng, rfl, hspend.intake, hspend.placed, hspend.clock, hspend.routes, hspend.notices⟩

theorem Alike.withStart (h : Alike N s t) (o : Option Nat) :
    Alike N { s with intake := { s.intake with flyStart := o } } { t with intake := { t.intake with flyStart := o } } := by
  refine ⟨h.eng, h.banks, ?_, h.placed, h.clock, h.routes, h.notices⟩
  exact congrArg (fun k : Intake => { k with flyStart := o }) h.intake

theorem Alike.dropUnbanked (h : Alike N s t) (p : Prepared) (e : Entry) (o : Outcome) (r : Option Reason) :
    Alike N (dropUnbanked p e o r s) (dropUnbanked p e o r t) := by
  unfold Machine.dropUnbanked
  rw [h.eng]
  have hends := ((h.withStart none).withEng { s.eng with prepared := s.eng.prepared.filter fun q => q != p }).endPending p.index e o r p.late
  dsimp only at hends ⊢
  unfold nameAfter
  rw [hends.eng]
  exact .ite (fun _ => hends.nameSource _) fun _ => hends

theorem Alike.askFor (h : Alike N s t) (p : Prepared) (e : Entry) : Alike N (askFor p e s) (askFor p e t) := by
  obtain ⟨hanswer, hask⟩ := (h.withStart (some p.start.offset)).askBank
  unfold Machine.askFor
  generalize Machine.askBank { s with intake := { s.intake with flyStart := some p.start.offset } } = q at hanswer hask
  generalize Machine.askBank { t with intake := { t.intake with flyStart := some p.start.offset } } = q' at hanswer hask
  obtain ⟨a, u⟩ := q
  obtain ⟨a', v⟩ := q'
  obtain rfl : a' = a := hanswer
  cases a' with
  | granted n =>
    dsimp only at hask ⊢
    unfold programTag
    rw [hask.eng]
    exact hask.withEng _
  | unavailable =>
    dsimp only at hask ⊢
    rw [hask.eng]
    exact ((hask.withEng _).post ..).dropUnbanked ..
  | mismatch =>
    dsimp only at hask ⊢
    rw [hask.eng]
    refine Alike.dropUnbanked ?_ ..
    exact .ite (fun _ => hask.withEng _) fun _ => (hask.withEng _).post ..

theorem Alike.askDue (h : Alike N s t) (l : List Prepared) : Alike N (askDue l s) (askDue l t) := by
  have hpending : pendingEntry t = pendingEntry s := funext h.pending
  have hdue : bankDue t l = bankDue s l := by
    unfold bankDue
    rw [hpending, h.eng]
  unfold Machine.askDue
  rw [hdue]
  cases bankDue s l with
  | none => exact h
  | some q => exact h.askFor ..

end Sys2Proof.EngineMarks
end

section
/-! SUPPORT. The intake closes its frame at a mark (R86, R88 to R90). -/

namespace Sys2Proof.IntakeCloses
open Sys2Proof.Machine Sys2Proof.SpliceEnds Sys2Proof.StoreCommands Sys2Proof.SlotSteps Sys2Proof.Readers

variable {s t : State} {f : IntakeFrame} {i k : SlotId} {o : Option Nat}

/-! ### The positions that are left (R89, R90) -/

/-- The positions that the frame has not taken, which FLY leaves. -/
def lacks (s : State) (f : IntakeFrame) : Nat := if s.intake.source = .fly then 0 else framePairs f.rate - f.taken

/-- The frame's slips once it is full. -/
def fullSlips (s : State) (f : IntakeFrame) : Nat := if lacks s f = 0 then f.slips else min 65535 (f.slips + lacks s f)

/-- The frame's tags once it is full. -/
def fullTags (s : State) (f : IntakeFrame) : List (Tag × Nat) :=
  if lacks s f = 0 then f.tags else (f.last.map fun x => addTag f.tags x.2 (lacks s f)).getD f.tags

/-- The pairs that fill the frame. -/
def fullPairs (s : State) (f : IntakeFrame) : List SamplePair := (f.last.map fun y => List.replicate (lacks s f) y.1).getD []

theorem storeIntake_nil (o : Option SlotId) (r : Rate) (n : Nat) (s : State) : storeIntake o r n [] s = s := by
  cases o with
  | none => rfl
  | some k => exact modifySlot_self (f := fun x => { x with audio := putPairs x.audio r n [] }) rfl

/-- The frame once it is full. -/
def full (s : State) (f : IntakeFrame) : IntakeFrame := { f with slips := fullSlips s f, tags := fullTags s f }

theorem fillFrame_eq (f : IntakeFrame) (s : State) : fillFrame f s = (full s f,
    storeIntake f.slot f.rate f.taken (fullPairs s f) s) := by
  by_cases hdone : framePairs f.rate - f.taken = 0 ∨ s.intake.source = .fly
  · have hlacks : lacks s f = 0 := by
      unfold lacks
      split
      · rfl
      · next hfly => exact hdone.resolve_right hfly
    have hpairs : fullPairs s f = [] := by
      unfold fullPairs
      rw [hlacks]
      cases f.last <;> rfl
    have hfill : fillFrame f s = (f, s) := if_pos hdone
    rw [hfill, hpairs, storeIntake_nil, full, fullSlips, fullTags, if_pos hlacks, if_pos hlacks]
  · rw [not_or] at hdone
    have hlacks : lacks s f = framePairs f.rate - f.taken := if_neg hdone.2
    have hne : ¬lacks s f = 0 := by rw [hlacks]; exact hdone.1
    have hfill : fillFrame f s = match f.last with
        | none => (f.slip (lacks s f), s)
        | some (p, t) => ({ f.slip (lacks s f) with tags := addTag f.tags t (lacks s f) },
          storeIntake f.slot f.rate f.taken (List.replicate (lacks s f) p) s) := by
      rw [hlacks]
      exact if_neg (not_or.mpr hdone)
    rw [hfill, full, fullSlips, fullTags, fullPairs, if_neg hne, if_neg hne]
    clear hfill hlacks hne hdone
    generalize lacks s f = n
    obtain ⟨slot, taken, tags, slips, starve, rate, last⟩ := f
    cases last with
    | none =>
      dsimp only [Option.map_none, Option.getD_none]
      rw [storeIntake_nil]
      rfl
    | some x => rfl

/-! ### The frame leaves the intake (R88) -/

/-- The state in which the frame is full and its slips are posted. -/
def slipped (o : Option Nat) (f : IntakeFrame) (s : State) : State :=
  postSlip (full s f) o (storeIntake f.slot f.rate f.taken (fullPairs s f) s)

/-- The intake without a frame. -/
def bare (s : State) : State := { s with intake := { s.intake with frame := none, flyStart := none } }

/-- What is handed on. -/
def handedOn (s : State) (f : IntakeFrame) : ClosedIntake :=
  if f.slot = none ∨ f.rate ≠ s.clock.rate then ⟨none, [], fullSlips s f, f.starve, true⟩
  else ⟨f.slot, fullTags s f, fullSlips s f, f.starve, false⟩

/-- The state in which the intake has let the frame go. -/
def letIn (o : Option Nat) (f : IntakeFrame) (s : State) : State :=
  if f.rate = s.clock.rate then
    match f.slot with
    | some i => modifySlot i (fun x => { x with state := .ready }) (bare (slipped o f s))
    | none => bare (slipped o f s)
  else abandonSlot f.slot (bare (slipped o f s))

theorem closeIntake_some (h : s.intake.frame = some f) (o : Option Nat) : closeIntake o s = (some (handedOn s f), letIn o f s) := by
  have hclose : closeIntake o s = match f.slot, decide (f.rate = s.clock.rate) with
      | some i, true => (some ⟨some i, fullTags s f, fullSlips s f, f.starve, false⟩,
        modifySlot i (fun x => { x with state := .ready }) (bare (slipped o f s)))
      | o', _ => (some ⟨none, [], fullSlips s f, f.starve, true⟩, abandonSlot o' (bare (slipped o f s))) := by
    unfold closeIntake
    rw [h]
    dsimp only
    rw [fillFrame_eq]
    rfl
  rw [hclose, handedOn, letIn]
  cases hslot : f.slot with
  | none =>
    by_cases hrate : f.rate = s.clock.rate
    · exact Prod.ext (congrArg some (if_pos (.inl rfl)).symm) (if_pos hrate).symm
    · exact Prod.ext (congrArg some (if_pos (.inl rfl)).symm) (if_neg hrate).symm
  | some i =>
    by_cases hrate : f.rate = s.clock.rate
    · have hkept : ¬(some i = none ∨ f.rate ≠ s.clock.rate) := not_or.mpr ⟨Option.some_ne_none i, not_not.mpr hrate⟩
      rw [decide_eq_true hrate, if_pos hrate]
      exact Prod.ext (congrArg some (if_neg hkept).symm) rfl
    · rw [decide_eq_false hrate, if_neg hrate]
      exact Prod.ext (congrArg some (if_pos (.inr hrate)).symm) rfl

theorem closeIntake_none (h : s.intake.frame = none) (o : Option Nat) :
    closeIntake o s = (none, { s with intake := { s.intake with flyStart := none } }) := by
  unfold closeIntake
  rw [h]

theorem storeIntake_work (o : Option SlotId) (r : Rate) (n : Nat) (l : List SamplePair) (s : State) : SlotWork s (storeIntake o r n l s) := by
  cases o <;> exact ⟨rfl⟩

theorem storeIntake_order (o : Option SlotId) (r : Rate) (n : Nat) (l : List SamplePair) (s : State) :
    (storeIntake o r n l s).order = s.order := by
  cases o <;> rfl

theorem storeIntake_other (h : f.slot ≠ some k) (r : Rate) (n : Nat) (l : List SamplePair) (s : State) :
    (storeIntake f.slot r n l s).slots[k] = s.slots[k] := by
  cases hslot : f.slot with
  | none => rfl
  | some i => exact modifySlot_get_other (fun hik : i = k => h (by rw [hslot, hik])) ..

theorem postSlip_frame (f : IntakeFrame) (o : Option Nat) (s : State) :
    { postSlip f o s with notices := s.notices, fresh := s.fresh } = s := by
  unfold postSlip
  split
  · rfl
  · split <;> rfl

/-- The notice of the slips, when there are any. -/
theorem postSlip_notices (f : IntakeFrame) (o : Option Nat) (s : State) : (f.slips = 0 → (postSlip f o s).notices = s.notices)
    ∧ (f.slips ≠ 0 → ∃ n, (postSlip f o s).notices = (post .intakeSlip n o none s).notices
      ∧ (s.intake.source = .analog → n = 0) ∧ (s.intake.source = .digital → n = 1)) := by
  unfold postSlip
  refine ⟨fun h => ?_, fun h => ?_⟩
  · rw [if_pos h]
  · rw [if_neg h]
    cases s.intake.source with
    | analog => exact ⟨0, rfl, fun _ => rfl, nofun⟩
    | digital => exact ⟨1, rfl, nofun, fun _ => rfl⟩
    | fly => exact ⟨_, rfl, nofun, nofun⟩

theorem slipped_frame (o : Option Nat) (f : IntakeFrame) (s : State) :
    { slipped o f s with slots := s.slots, order := s.order, notices := s.notices, fresh := s.fresh } = s := by
  have hstore := (storeIntake_work f.slot f.rate f.taken (fullPairs s f) s).frame
  unfold slipped
  generalize storeIntake f.slot f.rate f.taken (fullPairs s f) s = v at hstore
  have hpost := postSlip_frame (full s f) o v
  generalize postSlip (full s f) o v = w at hpost
  have hall := (congrArg (fun x : State => { x with slots := s.slots, order := s.order, notices := s.notices, fresh := s.fresh }) hpost :)
  exact hall.trans (congrArg (fun x : State => { x with notices := s.notices, fresh := s.fresh }) hstore :)

theorem slipped_slots (o : Option Nat) (f : IntakeFrame) (s : State) :
    (slipped o f s).slots = (storeIntake f.slot f.rate f.taken (fullPairs s f) s).slots ∧ (slipped o f s).order = s.order := by
  have horder := storeIntake_order f.slot f.rate f.taken (fullPairs s f) s
  unfold slipped
  generalize storeIntake f.slot f.rate f.taken (fullPairs s f) s = v at horder
  have hpost := postSlip_frame (full s f) o v
  generalize postSlip (full s f) o v = w at hpost
  exact ⟨(congrArg State.slots hpost :), (congrArg State.order hpost :).trans horder⟩

/-- What the close of the intake's frame changes. -/
structure IntakeWork (s t : State) : Prop where
  frame : { t with slots := s.slots, order := s.order, notices := s.notices, fresh := s.fresh, intake := s.intake } = s

theorem letIn_slotWork (o : Option Nat) (f : IntakeFrame) (s : State) : SlotWork (bare (slipped o f s)) (letIn o f s) := by
  unfold letIn
  generalize bare (slipped o f s) = v
  split
  · cases f.slot with
    | none => exact .refl v
    | some i => exact ⟨rfl⟩
  · exact BlockWork.abandonSlot_work ..

theorem letIn_work (o : Option Nat) (f : IntakeFrame) (s : State) : IntakeWork s (letIn o f s)
    ∧ (letIn o f s).intake = { s.intake with frame := none, flyStart := none } ∧ (letIn o f s).notices = (slipped o f s).notices := by
  have hframe := slipped_frame o f s
  have hwork := (letIn_slotWork o f s).frame
  generalize letIn o f s = t at hwork
  generalize slipped o f s = v at hwork hframe
  have hintake : v.intake = s.intake := (congrArg State.intake hframe :)
  have hbare : t.intake = (bare v).intake := (congrArg State.intake hwork :)
  refine ⟨⟨?_⟩, ?_, (congrArg State.notices hwork :)⟩
  · have h1 := (congrArg (fun x : State => { x with
      slots := s.slots, order := s.order, notices := s.notices, fresh := s.fresh, intake := s.intake }) hwork :)
    have h2 := (congrArg (fun x : State => { x with intake := s.intake }) hframe :)
    exact h1.trans h2
  · rw [hbare, bare, hintake]

end Sys2Proof.IntakeCloses
end

section
/-! SUPPORT. The stages of a frame mark up to the state in which the head has entered its frame (R8, R17, R49, R88, R103, R106). -/

namespace Sys2Proof.MarkStages
open Sys2Proof.Machine Sys2Proof.SpliceEnds Sys2Proof.StoreCommands Sys2Proof.BlockWork Sys2Proof.GateCuts Sys2Proof.IntakeCloses

variable {s t u v : State} {f g : CaptureFrame} {i j : SlotId} {w : Nat}

/-! ### What the heads' reckoning touches -/

/-- What the gate's and the engine's work touch, with the jog window. -/
structure HeadWork (s t : State) : Prop where
  frame : { t with
    fresh := s.fresh, notices := s.notices, tl := s.tl, banks := s.banks, eng := s.eng, slots := s.slots, order := s.order
    coding := s.coding, gate := s.gate, judge := s.judge, jog := s.jog
    intake := { t.intake with source := s.intake.source, fifo := s.intake.fifo, priming := s.intake.priming }
    mon := { t.mon with override := s.mon.override, autoMix := s.mon.autoMix } } = s

theorem HeadWork.refl (s : State) : HeadWork s s := ⟨rfl⟩

theorem HeadWork.trans (h : HeadWork s t) (k : HeadWork t u) : HeadWork s u :=
  ⟨(congrArg (fun x : State => { x with
    fresh := s.fresh, notices := s.notices, tl := s.tl, banks := s.banks, eng := s.eng, slots := s.slots, order := s.order
    coding := s.coding, gate := s.gate, judge := s.judge, jog := s.jog
    intake := { x.intake with source := s.intake.source, fifo := s.intake.fifo, priming := s.intake.priming }
    mon := { x.mon with override := s.mon.override, autoMix := s.mon.autoMix } }) k.frame).trans h.frame⟩

theorem HeadWork.ofGate (h : GateWork s t) : HeadWork s t := ⟨congrArg (fun x : State => { x with jog := s.jog }) h.frame⟩

theorem HeadWork.ite {c : Prop} [Decidable c] (h : c → HeadWork s t) (k : ¬c → HeadWork s u) : HeadWork s (if c then t else u) := by
  split
  · exact h ‹_›
  · exact k ‹_›

theorem jogSync_headWork (s : State) : HeadWork s (jogSync s) := by
  have hframe := jogSync_frame s
  generalize jogSync s = t at hframe
  exact ⟨congrArg (fun x : State => { x with
    fresh := s.fresh, notices := s.notices, tl := s.tl, banks := s.banks, eng := s.eng, coding := s.coding, gate := s.gate, judge := s.judge
    intake := { x.intake with source := s.intake.source, fifo := s.intake.fifo, priming := s.intake.priming }
    mon := { x.mon with override := s.mon.override, autoMix := s.mon.autoMix } }) hframe⟩

theorem timelineSet_headWork (t : Timeline) (s : State) : HeadWork s (timelineSet t s) := by
  rw [timelineSet_eq]
  exact (HeadWork.ofGate (relocked_gateWork t s)).trans (jogSync_headWork _)

theorem layTick_headWork (s : State) : HeadWork s (layTick s) := by
  have hset : ∀ e : Engine, ∀ t, HeadWork s (timelineSet t { s with eng := e }) := fun e t =>
    HeadWork.trans (t := { s with eng := e }) ⟨rfl⟩ (timelineSet_headWork ..)
  unfold layTick
  split
  · exact .refl s
  · refine .ite (fun _ => ⟨rfl⟩) fun _ => ?_
    dsimp only
    split
    · exact ⟨rfl⟩
    · exact .ite (fun _ => ⟨rfl⟩) fun _ => hset ..

theorem reckon_headWork (s : State) : HeadWork s (reckon s) := by
  have hcut : HeadWork s (cutGate .lock (endWrite s)) :=
    HeadWork.trans (t := endWrite s) ⟨rfl⟩ (.ofGate (cutGate_gateWork ..))
  unfold reckon
  refine .ite (fun _ => ⟨rfl⟩) fun _ => ?_
  split
  · exact ⟨rfl⟩
  · exact ⟨rfl⟩
  · exact .ite (fun _ => ⟨rfl⟩) fun _ => hcut.trans (timelineSet_headWork ..)
  · exact ⟨rfl⟩

/-- The state in which the mark is reckoned. -/
def marked (s : State) : State := reckon (layTick s)

theorem marked_headWork (s : State) : HeadWork s (marked s) := (layTick_headWork s).trans (reckon_headWork _)

theorem marked_mode (s : State) : (marked s).tl.mode = s.tl.mode :=
  congrArg (fun x : Settings => x.timeline.mode) (reckon_step (layTick_step (Move.refl s))).settings

/-! ### The intake's close (R88) -/

theorem intakeClose_play (h : s.tl.mode = .play) : intakeClose s = closeIntake s.tl.offered s := if_pos h

theorem intakeClose_still (h : s.tl.mode ≠ .play) : intakeClose s = (none, s) := if_neg h

theorem intakeClose_work (s : State) : IntakeWork s (intakeClose s).2 := by
  by_cases hmode : s.tl.mode = .play
  · rw [intakeClose_play hmode]
    cases hframe : s.intake.frame with
    | none =>
      rw [closeIntake_none hframe]
      exact ⟨rfl⟩
    | some x =>
      rw [closeIntake_some hframe]
      exact (letIn_work ..).1
  · rw [intakeClose_still hmode]
    exact ⟨rfl⟩

theorem intakeClose_intake (h : s.tl.mode = .play) : (intakeClose s).2.intake = { s.intake with frame := none, flyStart := none } := by
  rw [intakeClose_play h]
  cases hframe : s.intake.frame with
  | none =>
    rw [closeIntake_none hframe, ← hframe]
  | some x =>
    rw [closeIntake_some hframe]
    exact (letIn_work ..).2.1

/-- The slot that is handed on was the intake frame's. -/
theorem intakeClose_slot {n : SlotId} (h : (intakeClose s).1.bind (·.slot) = some n) : ∃ x, s.intake.frame = some x ∧ x.slot = some n := by
  by_cases hmode : s.tl.mode = .play
  · rw [intakeClose_play hmode] at h
    cases hframe : s.intake.frame with
    | none =>
      rw [closeIntake_none hframe] at h
      cases h
    | some x =>
      rw [closeIntake_some hframe] at h
      have hslot : (handedOn s x).slot = some n := h
      refine ⟨x, rfl, ?_⟩
      unfold handedOn at hslot
      split at hslot
      · cases hslot
      · exact hslot
  · rw [intakeClose_still hmode] at h
    cases h

/-! ### The judge list (R106) -/

theorem judgeMark_ticks (h : s.conf.assembly.isSome = true) : judgeMark s = tickJudge s := by
  unfold judgeMark
  exact congrArg tickJudge (if_pos h)

/-! ### The head enters its frame (R29, R30, R99, R103) -/

theorem completeSplice_engWork (s : State) : EngWork s (completeSplice s) := by
  unfold completeSplice
  split
  · exact .refl s
  · dsimp only
    split <;> exact finishSplice_engWork ..

theorem abandonUpTo_gateWork (a : Nat) (s : State) : GateWork s (abandonUpTo a s) := (abandonOps_cutWork ..).gateWork

theorem SlotWork.gateWork (h : SlotWork s t) : GateWork s t :=
  ⟨congrArg (fun x : State => { x with
    fresh := s.fresh, notices := s.notices, tl := s.tl, banks := s.banks, eng := s.eng, coding := s.coding, gate := s.gate, judge := s.judge
    intake := { x.intake with source := s.intake.source, fifo := s.intake.fifo, priming := s.intake.priming }
    mon := { x.mon with override := s.mon.override, autoMix := s.mon.autoMix } }) h.frame⟩

theorem beginWrite_gateWork (tag : SpliceTag) (a : Nat) (k : SlotId) (s : State) : GateWork s (beginWrite tag a k s) := by
  have hreport : ∀ (h : Option Header) (v : State), GateWork v (reportWrite tag h v) := fun h v => by
    unfold reportWrite
    split
    · exact (EngWork.refl v).gateWork
    · split
      · exact ⟨rfl⟩
      · exact (EngWork.refl v).gateWork
  have hafter : ∀ {u v : State}, GateWork u v → GateWork s u → GateWork s v := fun k h => h.trans k
  unfold beginWrite
  exact hafter (hreport ..) ⟨rfl⟩

theorem tryWrite_gateWork (tag : SpliceTag) (next a : Nat) (s : State) : GateWork s (tryWrite tag next a s) := by
  have hend : ∀ (c : CutCause) (v : State), GateWork v (cutGate c (endWrite v)) := fun c v =>
    GateWork.trans (t := endWrite v) ⟨rfl⟩ (cutGate_gateWork ..)
  unfold tryWrite
  refine .ite (fun _ => hend ..) fun _ => ?_
  split
  · exact (abandonUpTo_gateWork a s).trans (hend ..)
  · exact .ite (fun _ => hend ..) fun _ => .ite (fun _ => hend ..) fun _ => beginWrite_gateWork ..

theorem gateEnter_gateWork (a : Nat) (s : State) : GateWork s (gateEnter a s) := by
  have hstill : GateWork s s := (EngWork.refl s).gateWork
  unfold gateEnter
  split
  · exact hstill
  · exact GateWork.trans (t := closeGate s) ⟨rfl⟩ (completeSplice_engWork _).gateWork
  · split
    · exact hstill
    · exact .ite (fun _ => hstill) fun _ => tryWrite_gateWork ..
  · split
    · exact hstill
    · exact tryWrite_gateWork ..
  · exact hstill

theorem rehearseWrite_gateWork (sp : Splice) (next w : Nat) (s : State) : GateWork s (rehearseWrite sp next w s)
    ∧ (rehearseWrite sp next w s).gate = s.gate := by
  unfold rehearseWrite
  split
  · exact ⟨(finishSplice_engWork ..).gateWork, (finishSplice_engWork ..).gate⟩
  · split
    · exact rehearseCut_work ..
    · exact ⟨⟨rfl⟩, rfl⟩

/-- A rehearsed splice meets the mark without the gate. -/
theorem rehearseMark_gateWork (w : Nat) (s : State) : GateWork s (rehearseMark w s) ∧ (rehearseMark w s).gate = s.gate := by
  have hstill : GateWork s s := (EngWork.refl s).gateWork
  unfold rehearseMark
  split
  · exact ⟨hstill, rfl⟩
  · split
    · split
      · exact ⟨hstill, rfl⟩
      · exact rehearseWrite_gateWork ..
    · split
      · exact ⟨(completeSplice_engWork s).gateWork, (completeSplice_engWork s).gate⟩
      · exact rehearseWrite_gateWork ..
    · exact ⟨hstill, rfl⟩

theorem abandonUpTo_gate (a : Nat) (s : State) : (abandonUpTo a s).gate = s.gate := (abandonOps_work (fun op => decide (op.addr ≤ a)) s).gate

theorem releasePassed_work (a : Nat) (s : State) : SlotWork s (releasePassed a s) := releaseAll_work ..

theorem enterFrame_gateWork (w : Nat) (s : State) : GateWork s (enterFrame w s) ∧ (enterFrame w s).gate = (gateEnter w s).gate := by
  have hrehearse := rehearseMark_gateWork w (gateEnter w s)
  have hpassed := releasePassed_work w (abandonUpTo w (rehearseMark w (gateEnter w s)))
  refine ⟨(((gateEnter_gateWork w s).trans hrehearse.1).trans (abandonUpTo_gateWork ..)).trans (SlotWork.gateWork hpassed), ?_⟩
  exact hpassed.gate.trans ((abandonUpTo_gate ..).trans hrehearse.2)

theorem enterHead_none (h : s.tl.head = none) : enterHead s = s := by
  unfold enterHead
  rw [h]

theorem enterHead_some (h : s.tl.head = some w) : enterHead s = enterFrame w s := by
  unfold enterHead
  rw [h]

theorem enterHead_gateWork (s : State) : GateWork s (enterHead s) := by
  cases h : s.tl.head with
  | none =>
    rw [enterHead_none h]
    exact (EngWork.refl s).gateWork
  | some w =>
    rw [enterHead_some h]
    exact (enterFrame_gateWork w s).1

theorem releaseBehind_work (s : State) : SlotWork s (releaseBehind s) := releaseAll_work ..

/-! ### Up to the head -/

/-- The state that meets the head. -/
def met (s : State) : State := judgeMark (intakeClose (marked s)).2

/-- The state in which the head has entered its frame. -/
def entered (s : State) : State := releaseBehind (enterHead (met s))

/-- What stands of the other records when the head has entered its frame. -/
structure Stands (s v : State) : Prop where
  pre : v.pre = s.pre
  conf : v.conf = s.conf
  geo : v.geo = s.geo
  clock : v.clock = s.clock
  fetch : v.fetch = s.fetch
  conceal : v.conceal = s.conceal
  routes : v.routes = s.routes
  mon : { v.mon with override := s.mon.override, autoMix := s.mon.autoMix } = s.mon

theorem Stands.trans (h : Stands s t) (k : Stands t u) : Stands s u :=
  ⟨k.pre.trans h.pre, k.conf.trans h.conf, k.geo.trans h.geo, k.clock.trans h.clock, k.fetch.trans h.fetch, k.conceal.trans h.conceal,
    k.routes.trans h.routes, (congrArg (fun m : Monitor => { m with override := s.mon.override, autoMix := s.mon.autoMix }) k.mon).trans h.mon⟩

theorem HeadWork.stands (h : HeadWork s t) : Stands s t :=
  ⟨(congrArg State.pre h.frame :), (congrArg State.conf h.frame :), (congrArg State.geo h.frame :), (congrArg State.clock h.frame :),
    (congrArg State.fetch h.frame :), (congrArg State.conceal h.frame :), (congrArg State.routes h.frame :), (congrArg State.mon h.frame :)⟩

theorem GateWork.stands (h : GateWork s t) : Stands s t := HeadWork.stands (.ofGate h)

theorem IntakeWork.stands (h : IntakeWork s t) : Stands s t := by
  have hmon : t.mon = s.mon := (congrArg State.mon h.frame :)
  exact ⟨(congrArg State.pre h.frame :), (congrArg State.conf h.frame :), (congrArg State.geo h.frame :), (congrArg State.clock h.frame :),
    (congrArg State.fetch h.frame :), (congrArg State.conceal h.frame :), (congrArg State.routes h.frame :), by rw [hmon]⟩

theorem met_stands (hconf : s.conf.assembly = some g) : met s = tickJudge (intakeClose (marked s)).2
    ∧ Stands s (intakeClose (marked s)).2 := by
  have hstands := (HeadWork.stands (marked_headWork s)).trans (IntakeWork.stands (intakeClose_work (marked s)))
  exact ⟨judgeMark_ticks (by rw [hstands.conf, hconf]; rfl), hstands⟩

theorem entered_stands (hconf : s.conf.assembly = some g) : Stands s (entered s) := by
  obtain ⟨hmet, hstands⟩ := met_stands hconf
  have hticked : Stands s (met s) := by
    rw [hmet]
    exact hstands.trans ⟨rfl, rfl, rfl, rfl, rfl, rfl, rfl, rfl⟩
  exact (hticked.trans (GateWork.stands (enterHead_gateWork _))).trans (GateWork.stands (SlotWork.gateWork (releaseBehind_work _)))

theorem entered_gate (s : State) : ((met s).tl.head = none → (entered s).gate = (met s).gate)
    ∧ ∀ w, (met s).tl.head = some w → (entered s).gate = (gateEnter w (met s)).gate := by
  have hbehind := (releaseBehind_work (enterHead (met s))).gate
  refine ⟨fun h => ?_, fun w h => ?_⟩
  · rw [enterHead_none h] at hbehind
    rw [entered, enterHead_none h, hbehind]
  · rw [enterHead_some h] at hbehind
    rw [entered, enterHead_some h, hbehind]
    exact (enterFrame_gateWork w (met s)).2

end Sys2Proof.MarkStages
end

section
/-! SUPPORT. The stages of a frame mark after the head has entered its frame (R49, R80, R81, R84, R88, R91, R140, R142). -/

namespace Sys2Proof.MarkTurns
open Sys2Proof.Machine Sys2Proof.SpliceEnds Sys2Proof.StoreCommands Sys2Proof.BlockWork Sys2Proof.SlotSteps Sys2Proof.Readers
open Sys2Proof.SectorStorage Sys2Proof.HeadReleases Sys2Proof.SlotRequests Sys2Proof.EngineMarks Sys2Proof.MarkStages

variable {s t u v : State} {f g : CaptureFrame} {i j k : SlotId} {w x : Nat} {closed : Option ClosedIntake} {stale : Bool}

/-! ### The stages -/

/-- Both channels have closed their frames and begun the next ones. -/
def turnedBoth (f g : CaptureFrame) (n : Nat) (v : State) : State := turned .confidence g n (turned .preRead f 0 v)

/-- The intake has begun its next frame, unless the one that closed was of another rate. -/
def begun (stale : Bool) (v : State) : State := if stale then v else beginIntake v

/-- The state that the engine's work meets. -/
def offered (stale : Bool) (closed : Option ClosedIntake) (v : State) : State := offer closed (begun stale v)

/-- A frame mark with a slot in assembly in both channels. -/
structure Reads (s : State) (f g : CaptureFrame) (i j : SlotId) : Prop where
  pre : s.pre.assembly = some f
  preIdle : s.pre.closing = []
  preSlot : f.slot = some i
  conf : s.conf.assembly = some g
  confIdle : s.conf.closing = []
  confSlot : g.slot = some j

/-- The state that the monitor's choice meets. -/
def played (s : State) (f g : CaptureFrame) : State :=
  playMark (intakeStale (marked s)) (intakeClose (marked s)).1 (turnedBoth f g (dueNow (intakeClose (marked s)).2) (entered s))

/-! ### What each stage touches -/

/-- What the intake's begin, the offer and the engine's work touch. -/
structure PlayWork (s t : State) : Prop where
  frame : { t with
    slots := s.slots, order := s.order, notices := s.notices, coding := s.coding, eng := s.eng, banks := s.banks, intake := s.intake } = s

theorem PlayWork.trans (h : PlayWork s t) (k : PlayWork t u) : PlayWork s u :=
  ⟨(congrArg (fun x : State => { x with
    slots := s.slots, order := s.order, notices := s.notices, coding := s.coding, eng := s.eng, banks := s.banks, intake := s.intake })
    k.frame).trans h.frame⟩

/-- What the channels' turn leaves besides. -/
structure TurnedWork (s t : State) : Prop where
  frame : { t with slots := s.slots, order := s.order, notices := s.notices, pre := s.pre, conf := s.conf } = s

theorem turnedBoth_work (f g : CaptureFrame) (n : Nat) (s : State) : TurnedWork s (turnedBoth f g n s) := by
  have h1 := turned_frame .preRead f 0 s
  have h2 := turned_frame .confidence g n (turned .preRead f 0 s)
  unfold turnedBoth
  generalize turned .preRead f 0 s = t at h1 h2 ⊢
  generalize turned .confidence g n t = u at h2 ⊢
  exact ⟨(congrArg (fun x : State => { x with
    slots := s.slots, order := s.order, notices := s.notices, pre := s.pre, conf := s.conf }) h2).trans h1⟩

theorem turnedBoth_serves (f g : CaptureFrame) (n : Nat) (k : SlotId) (s : State) : Served k s (turnedBoth f g n s) :=
  (turned_serves .preRead f 0 k s).trans (turned_serves .confidence g n k _)

theorem turnedBoth_free {m : Nat} (h : m + 2 ≤ freeSlots s) (f g : CaptureFrame) (n : Nat) :
    (turnedBoth f g n s).notices = s.notices ∧ m ≤ freeSlots (turnedBoth f g n s) := by
  obtain ⟨h1, hfree⟩ := turned_free (m := m + 1) h .preRead f 0
  obtain ⟨h2, hleft⟩ := turned_free hfree .confidence g n
  exact ⟨h2.trans h1, hleft⟩

/-- The channels' close lists hold the frames that closed, and the next frames are in assembly. -/
theorem turnedBoth_channels (f g : CaptureFrame) (n : Nat) (s : State) :
    (turnedBoth f g n s).pre.closing = [⟨f, true, s.tl.mode, s.tl.dir, 0⟩] ∧ (turnedBoth f g n s).pre.assembly.isSome = true
    ∧ (turnedBoth f g n s).conf.closing = [⟨g, true, s.tl.mode, s.tl.dir, n⟩] ∧ (turnedBoth f g n s).conf.assembly.isSome = true := by
  have hpre := turned_capture .preRead f 0 s
  have hkept := turned_other .confidence g n (turned .preRead f 0 s)
  have hconf := turned_capture .confidence g n (turned .preRead f 0 s)
  have htl : (turned .preRead f 0 s).tl = s.tl := (congrArg State.tl (turned_frame .preRead f 0 s) :)
  rw [htl] at hconf
  have hboth : (turnedBoth f g n s).pre = (turned .preRead f 0 s).pre := hkept
  have hpre' : (turned .preRead f 0 s).pre = _ := hpre
  have hconf' : (turnedBoth f g n s).conf = _ := hconf
  rw [hboth, hpre', hconf']
  exact ⟨rfl, rfl, rfl, rfl⟩

theorem begun_eq (stale : Bool) (s : State) : begun stale s = if stale = true then s
    else setIntakeFrame (some (bareIntake (chooseSlot s) s.clock.rate)) (granted .intake none s) := by
  unfold begun
  rw [beginIntake_eq]

theorem begun_frame (stale : Bool) (s : State) :
    { begun stale s with slots := s.slots, order := s.order, notices := s.notices, intake := { s.intake with frame := (begun stale s).intake.frame } }
      = { s with intake := { s.intake with frame := (begun stale s).intake.frame } }
    ∧ { (begun stale s).intake with frame := s.intake.frame } = s.intake := by
  rw [begun_eq]
  cases stale with
  | true => exact ⟨rfl, rfl⟩
  | false =>
    have hframe := granted_frame .intake none s
    have hintake : (granted .intake none s).intake = s.intake := (congrArg State.intake hframe :)
    rw [if_neg Bool.false_ne_true]
    unfold setIntakeFrame
    generalize granted .intake none s = v at hframe hintake
    rw [hintake]
    refine ⟨?_, rfl⟩
    exact (congrArg (fun y : State => { y with intake := { s.intake with
      frame := some (bareIntake (chooseSlot s) s.clock.rate) } }) hframe :)

theorem begun_serves (stale : Bool) (k : SlotId) (s : State) : Served k s (begun stale s) := by
  rw [begun_eq]
  split
  · exact .refl k s
  · exact (granted_serves .intake none k s).trans (.still rfl rfl rfl)

theorem begun_free {m : Nat} (h : m + 1 ≤ freeSlots s) (stale : Bool) : (begun stale s).notices = s.notices := by
  rw [begun_eq]
  split
  · rfl
  · exact (granted_free h .intake none).1

theorem begun_playWork (stale : Bool) (s : State) : PlayWork s (begun stale s) := by
  have hframe := (begun_frame stale s).1
  generalize begun stale s = t at hframe
  exact ⟨congrArg (fun x : State => { x with coding := s.coding, eng := s.eng, banks := s.banks, intake := s.intake }) hframe⟩

theorem offer_some (h : s.tl.offered = some x) (closed : Option ClosedIntake) : offer closed s = { s with
    coding := s.coding ++ [⟨x, closed.getD failedIntake, s.pre.closing.length + s.conceal.list.length, none⟩] } := by
  unfold offer
  rw [h]
  rfl

theorem offer_none (h : s.tl.offered = none) (closed : Option ClosedIntake) : offer closed s = releaseOpt (closed.bind (·.slot)) s := by
  unfold offer
  rw [h]

theorem offer_serves (hk : s.tl.offered = none → closed.bind (·.slot) ≠ some k) : Served k s (offer closed s) := by
  cases h : s.tl.offered with
  | some x =>
    rw [offer_some h]
    exact .still rfl rfl rfl
  | none =>
    have hwork := releaseOpt_work (closed.bind (·.slot)) s
    rw [offer_none h]
    refine .still ?_ (congrArg State.fetch hwork.frame :) (congrArg State.clock hwork.frame :)
    cases hslot : closed.bind (·.slot) with
    | none => rfl
    | some n => exact releaseOrDue_get_other (fun hnk : n = k => hk h (by rw [hslot, hnk])) s

theorem offer_frame (closed : Option ClosedIntake) (s : State) :
    { offer closed s with slots := s.slots, order := s.order, coding := s.coding } = s := by
  cases h : s.tl.offered with
  | some x => rw [offer_some h]
  | none =>
    rw [offer_none h]
    have hwork := (releaseOpt_work (closed.bind (·.slot)) s).frame
    generalize releaseOpt (closed.bind (·.slot)) s = t at hwork
    exact congrArg (fun y : State => { y with coding := s.coding }) hwork

theorem offer_playWork (closed : Option ClosedIntake) (s : State) : PlayWork s (offer closed s) := by
  have hframe := offer_frame closed s
  generalize offer closed s = t at hframe
  exact ⟨congrArg (fun x : State => { x with notices := s.notices, eng := s.eng, banks := s.banks, intake := s.intake }) hframe⟩

theorem PrepWork.playWork (h : PrepWork s t) : PlayWork s t :=
  ⟨congrArg (fun x : State => { x with slots := s.slots, order := s.order, coding := s.coding, intake := s.intake }) h.frame⟩

theorem engineMark_prep (s : State) : PrepWork s (engineMark s) := by
  unfold engineMark
  split
  · exact (prepareAt_prep ..).trans (askDue_prep ..)
  · exact .refl s

theorem playMark_play (h : s.tl.mode = .play) (stale : Bool) (closed : Option ClosedIntake) :
    playMark stale closed s = engineMark (offered stale closed s) := if_pos h

theorem playMark_still (h : s.tl.mode ≠ .play) (stale : Bool) (closed : Option ClosedIntake) : playMark stale closed s = s := if_neg h

theorem offered_playWork (stale : Bool) (closed : Option ClosedIntake) (s : State) : PlayWork s (offered stale closed s) :=
  (begun_playWork stale s).trans (offer_playWork ..)

theorem playMark_work (stale : Bool) (closed : Option ClosedIntake) (s : State) : PlayWork s (playMark stale closed s) := by
  by_cases h : s.tl.mode = .play
  · rw [playMark_play h]
    exact (offered_playWork ..).trans (PrepWork.playWork (engineMark_prep _))
  · rw [playMark_still h]
    exact ⟨rfl⟩

theorem monitorMark_frame (o : Option SlotId) (s : State) : { monitorMark o s with mon := s.mon } = s := by
  unfold monitorMark
  split <;> rfl

/-! ### The whole mark -/

theorem entered_reads (h : Reads s f g i j) : Reads (entered s) f g i j := by
  have hstands := entered_stands h.conf
  exact ⟨by rw [hstands.pre, h.pre], by rw [hstands.pre, h.preIdle], h.preSlot, by rw [hstands.conf, h.conf], by rw [hstands.conf, h.confIdle],
    h.confSlot⟩

theorem closeEvents_turn (h : Reads s f g i j) (n : Nat) :
    closeEvent .confidence true n none (closeEvent .preRead true 0 none s) = turnedBoth f g n s := by
  have hfirst : closeEvent .preRead true 0 none s = turned .preRead f 0 s := closeEvent_turns (s := s) (ch := .preRead) h.pre h.preIdle 0
  have hkept : (turned .preRead f 0 s).conf = s.conf := turned_other .preRead f 0 s
  have hassembly : (turned .preRead f 0 s).conf.assembly = some g := by rw [hkept, h.conf]
  have hclosing : (turned .preRead f 0 s).conf.closing = [] := by rw [hkept, h.confIdle]
  rw [hfirst]
  exact closeEvent_turns (s := turned .preRead f 0 s) (ch := .confidence) hassembly hclosing n

/-- The state in which both channels have turned at the mark. -/
def turnedAt (s : State) (f g : CaptureFrame) : State := turnedBoth f g (dueNow (intakeClose (marked s)).2) (entered s)

theorem played_work (s : State) (f g : CaptureFrame) : PlayWork (turnedAt s f g) (played s f g) := playMark_work ..

/-- The mark, by the states in which the head has entered its frame and in which the monitor chooses. -/
theorem takeMark_eq (h : Reads s f g i j) : takeMark s = monitorMark (some j) (played s f g) := by
  have hv := entered_reads h
  have hslot : (entered s).conf.assembly.bind (·.slot) = some j := by rw [hv.conf]; exact hv.confSlot
  have hmark : takeMark s = settleCloses .confidence (settleCloses .preRead (monitorMark ((entered s).conf.assembly.bind (·.slot))
      (playMark (intakeStale (marked s)) (intakeClose (marked s)).1 (closeEvent .confidence true (dueNow (intakeClose (marked s)).2) none
        (closeEvent .preRead true 0 none (entered s)))))) := rfl
  rw [closeEvents_turn hv, hslot] at hmark
  have hplayed : playMark (intakeStale (marked s)) (intakeClose (marked s)).1
      (turnedBoth f g (dueNow (intakeClose (marked s)).2) (entered s)) = played s f g := rfl
  rw [hplayed] at hmark
  obtain ⟨hpre, -, hconf, -⟩ := turnedBoth_channels f g (dueNow (intakeClose (marked s)).2) (entered s)
  have hwork := (played_work s f g).frame
  have hmonitor := monitorMark_frame (some j) (played s f g)
  unfold turnedAt at hwork
  generalize monitorMark (some j) (played s f g) = t at hmark hmonitor
  generalize played s f g = u at hwork hmonitor
  generalize turnedBoth f g (dueNow (intakeClose (marked s)).2) (entered s) = x at hwork hpre hconf
  have hpreIs : capture t .preRead = x.pre := (congrArg State.pre hmonitor :).trans (congrArg State.pre hwork :)
  have hconfIs : capture t .confidence = x.conf := (congrArg State.conf hmonitor :).trans (congrArg State.conf hwork :)
  have hfirst : settleCloses .preRead t = t := settleCloses_front (by rw [hpreIs, hpre]) (by rw [h.preSlot]; rfl)
  rw [hmark, hfirst]
  exact settleCloses_front (by rw [hconfIs, hconf]) (by rw [h.confSlot]; rfl)

end Sys2Proof.MarkTurns
end

section
/-! SUPPORT. What a frame mark leaves of each record, from the state in which the head has entered its frame (R80, R81, R84, R140, R142). -/

namespace Sys2Proof.MarkOutcomes
open Sys2Proof.Machine Sys2Proof.SpliceEnds Sys2Proof.StoreCommands Sys2Proof.BlockWork Sys2Proof.SlotSteps Sys2Proof.Readers
open Sys2Proof.SlotRequests Sys2Proof.EngineMarks Sys2Proof.IntakeCloses Sys2Proof.MarkStages Sys2Proof.MarkTurns

variable {s t u v : State} {f g : CaptureFrame} {i j k : SlotId} {w x : Nat}

/-- What only a command changes stands when the head has entered its frame. -/
theorem entered_settings (s : State) : (entered s).tl.settings = s.tl.settings :=
  congrArg Settings.timeline
    (releaseBehind_step (enterHead_step (judgeMark_step (intakeClose_step (reckon_step (layTick_step (Move.refl s))))))).settings

theorem entered_mode (s : State) : (entered s).tl.mode = s.tl.mode := congrArg TimelineSettings.mode (entered_settings s)

theorem entered_dir (s : State) : (entered s).tl.dir = s.tl.dir := congrArg TimelineSettings.dir (entered_settings s)

/-- Outside PLAY a mark reckons no head. -/
theorem marked_still (h : s.tl.mode ≠ .play) : ∃ e : Engine, marked s = { s with eng := e, tl := s.tl.unreckoned } := by
  have hlay : ∃ e : Engine, layTick s = { s with eng := e } := by
    unfold layTick
    split
    · exact ⟨s.eng, rfl⟩
    · split
      · exact ⟨_, rfl⟩
      · dsimp only
        split
        · exact ⟨_, rfl⟩
        · exact ⟨_, if_pos h⟩
  obtain ⟨e, he⟩ := hlay
  refine ⟨e, ?_⟩
  unfold marked
  rw [he]
  exact if_pos h

theorem entered_still (hconf : s.conf.assembly = some g) (h : s.tl.mode ≠ .play) :
    ∃ e : Engine, entered s = releaseBehind (tickJudge { s with eng := e, tl := s.tl.unreckoned }) := by
  obtain ⟨e, he⟩ := marked_still h
  have hmode : (marked s).tl.mode ≠ .play := by rw [marked_mode]; exact h
  refine ⟨e, ?_⟩
  unfold entered
  rw [(met_stands hconf).1, intakeClose_still hmode, he]
  exact congrArg releaseBehind (enterHead_none rfl)

theorem entered_mon_still (hconf : s.conf.assembly = some g) (h : s.tl.mode ≠ .play) : (entered s).mon = s.mon := by
  obtain ⟨e, he⟩ := entered_still hconf h
  have hwork := (releaseBehind_work (tickJudge { s with eng := e, tl := s.tl.unreckoned })).frame
  rw [he]
  generalize releaseBehind (tickJudge { s with eng := e, tl := s.tl.unreckoned }) = t at hwork
  exact (congrArg State.mon hwork :)

theorem turnedAt_tl (s : State) (f g : CaptureFrame) : (turnedAt s f g).tl = (entered s).tl := by
  have hframe := (turnedBoth_work f g (dueNow (intakeClose (marked s)).2) (entered s)).frame
  unfold turnedAt
  generalize turnedBoth f g (dueNow (intakeClose (marked s)).2) (entered s) = x at hframe
  exact (congrArg State.tl hframe :)

theorem turnedAt_mode (s : State) (f g : CaptureFrame) : (turnedAt s f g).tl.mode = s.tl.mode := by
  rw [turnedAt_tl, entered_mode]

/-- The state that the engine's work meets at a mark in PLAY. -/
def offeredAt (s : State) (f g : CaptureFrame) : State :=
  offered (intakeStale (marked s)) (intakeClose (marked s)).1 (turnedAt s f g)

theorem played_play (h : s.tl.mode = .play) : played s f g = engineMark (offeredAt s f g) :=
  playMark_play ((turnedAt_mode s f g).trans h) ..

theorem played_still (h : s.tl.mode ≠ .play) : played s f g = turnedAt s f g :=
  have hmode : (turnedAt s f g).tl.mode ≠ .play := by
    rw [turnedAt_mode]
    exact h
  playMark_still hmode ..

/-- What the engine's work meets is what the head left, as far as it can tell. -/
theorem offeredAt_alike (s : State) (f g : CaptureFrame) : Alike (3 ≤ freeSlots (entered s)) (entered s) (offeredAt s f g)
    ∧ (offeredAt s f g).tl = (entered s).tl := by
  have hturned := (turnedBoth_work f g (dueNow (intakeClose (marked s)).2) (entered s)).frame
  have hfree : 3 ≤ freeSlots (entered s) → (turnedAt s f g).notices = (entered s).notices ∧ 1 ≤ freeSlots (turnedAt s f g) :=
    fun h => turnedBoth_free h f g _
  obtain ⟨hbegun, hintake⟩ := begun_frame (intakeStale (marked s)) (turnedAt s f g)
  have hbegunFree := fun h => begun_free (s := turnedAt s f g) (m := 0) h (intakeStale (marked s))
  have hoffer := offer_frame (intakeClose (marked s)).1 (begun (intakeStale (marked s)) (turnedAt s f g))
  unfold offeredAt offered
  generalize begun (intakeStale (marked s)) (turnedAt s f g) = y at hbegun hintake hbegunFree hoffer ⊢
  generalize offer (intakeClose (marked s)).1 y = z at hoffer ⊢
  unfold turnedAt at *
  generalize turnedBoth f g (dueNow (intakeClose (marked s)).2) (entered s) = x at hturned hfree hbegun hintake hbegunFree
  have htl : z.tl = (entered s).tl :=
    (congrArg State.tl hoffer :).trans ((congrArg State.tl hbegun :).trans (congrArg State.tl hturned :))
  have hxintake : x.intake = (entered s).intake := (congrArg State.intake hturned :)
  have hyintake : z.intake = y.intake := (congrArg State.intake hoffer :)
  refine ⟨⟨?_, ?_, ?_, by rw [htl], ?_, ?_, fun h => ?_⟩, htl⟩
  · exact (congrArg State.eng hoffer :).trans ((congrArg State.eng hbegun :).trans (congrArg State.eng hturned :))
  · exact (congrArg State.banks hoffer :).trans ((congrArg State.banks hbegun :).trans (congrArg State.banks hturned :))
  · rw [hyintake, ← hxintake]
    exact hintake
  · exact (congrArg State.clock hoffer :).trans ((congrArg State.clock hbegun :).trans (congrArg State.clock hturned :))
  · exact (congrArg State.routes hoffer :).trans ((congrArg State.routes hbegun :).trans (congrArg State.routes hturned :))
  · obtain ⟨hnotices, hleft⟩ := hfree h
    exact (congrArg State.notices hoffer :).trans ((hbegunFree hleft).trans hnotices)

/-! ### The engine, the banks and the intake (R140, R142) -/

/-- The engine's part of the mark. -/
structure Engined (N : Prop) (w t : State) : Prop where
  eng : t.eng = w.eng
  banks : t.banks = w.banks
  intake : t.intake = { w.intake with frame := t.intake.frame }
  notices : N → t.notices = w.notices

theorem Alike.engined {N : Prop} (h : Alike N s t) : Engined N s t :=
  ⟨h.eng, h.banks, (congrArg (fun y : Intake => { y with frame := t.intake.frame }) h.intake :), h.notices⟩

theorem Engined.trans {M N : Prop} (h : Engined M s t) (k : Engined N t u) : Engined (M ∧ N) s u := by
  refine ⟨k.eng.trans h.eng, k.banks.trans h.banks, ?_, fun hn => (k.notices hn.2).trans (h.notices hn.1)⟩
  rw [k.intake, h.intake]

/-- The monitor's choice leaves the engine's part. -/
theorem Engined.monitor {N : Prop} (h : Engined N s t) (o : Option SlotId) : Engined N s (monitorMark o t) := by
  have hframe := monitorMark_frame o t
  generalize monitorMark o t = u at hframe
  have hintake : u.intake = t.intake := (congrArg State.intake hframe :)
  refine ⟨(congrArg State.eng hframe :).trans h.eng, (congrArg State.banks hframe :).trans h.banks, ?_,
    fun hn => (congrArg State.notices hframe :).trans (h.notices hn)⟩
  rw [hintake]
  exact h.intake

theorem played_offered (hmode : s.tl.mode = .play) (hx : (entered s).tl.offered = some x) :
    Alike (3 ≤ freeSlots (entered s)) (askDue (entered s).eng.prepared (prepareAt x (entered s))) (played s f g) := by
  obtain ⟨halike, htl⟩ := offeredAt_alike s f g
  have hmark : engineMark (offeredAt s f g) = askDue (offeredAt s f g).eng.prepared (prepareAt x (offeredAt s f g)) := by
    unfold engineMark
    rw [htl, hx]
  rw [played_play hmode, hmark, halike.eng]
  exact (halike.prepareAt x).askDue _

theorem played_unoffered (h : s.tl.mode ≠ .play ∨ (entered s).tl.offered = none) : (played s f g).eng = (entered s).eng
    ∧ (played s f g).banks = (entered s).banks ∧ (3 ≤ freeSlots (entered s) → (played s f g).notices = (entered s).notices) := by
  by_cases hmode : s.tl.mode = .play
  · obtain ⟨halike, htl⟩ := offeredAt_alike s f g
    have hmark : engineMark (offeredAt s f g) = offeredAt s f g := by
      unfold engineMark
      rw [htl, h.resolve_left (not_not.mpr hmode)]
    rw [played_play hmode, hmark]
    exact ⟨halike.eng, halike.banks, halike.notices⟩
  · have hturned := (turnedBoth_work f g (dueNow (intakeClose (marked s)).2) (entered s)).frame
    have hfree : 3 ≤ freeSlots (entered s) → (turnedAt s f g).notices = (entered s).notices := fun h =>
      (turnedBoth_free (m := 1) h f g _).1
    rw [played_still hmode]
    unfold turnedAt at *
    generalize turnedBoth f g (dueNow (intakeClose (marked s)).2) (entered s) = y at hturned hfree
    exact ⟨(congrArg State.eng hturned :), (congrArg State.banks hturned :), hfree⟩

/-! ### The slots (R26, R27) -/

/-- A slot that the intake's frame does not hold is not handed on. -/
theorem handed_other (hk : ∀ y, s.intake.frame = some y → y.slot ≠ some k) : (intakeClose (marked s)).1.bind (·.slot) ≠ some k := fun h => by
  obtain ⟨y, hy, hslot⟩ := intakeClose_slot h
  have hframe : (marked s).intake.frame = s.intake.frame := (congrArg (fun z : State => z.intake.frame) (marked_headWork s).frame :)
  exact hk y (hframe ▸ hy) hslot

theorem played_serves (hclosed : (entered s).tl.offered = none → (intakeClose (marked s)).1.bind (·.slot) ≠ some k) :
    Served k (entered s) (played s f g) := by
  have hturned : Served k (entered s) (turnedAt s f g) := turnedBoth_serves ..
  by_cases hmode : s.tl.mode = .play
  · have hprep := (engineMark_prep (offeredAt s f g)).frame
    rw [played_play hmode]
    have hbegun := begun_serves (intakeStale (marked s)) k (turnedAt s f g)
    have htl : (begun (intakeStale (marked s)) (turnedAt s f g)).tl = (entered s).tl :=
      (congrArg State.tl (begun_playWork (intakeStale (marked s)) (turnedAt s f g)).frame :).trans (turnedAt_tl s f g)
    have hoffer := offer_serves (s := begun (intakeStale (marked s)) (turnedAt s f g)) (closed := (intakeClose (marked s)).1) (k := k)
      (by rw [htl]; exact hclosed)
    have hslots : (engineMark (offeredAt s f g)).slots = (offeredAt s f g).slots := (congrArg State.slots hprep :)
    exact ((hturned.trans hbegun).trans hoffer).trans
      (.still (by rw [hslots]; rfl) (congrArg State.fetch hprep :) (congrArg State.clock hprep :))
  · rw [played_still hmode]
    exact hturned

/-! ### The monitor's choice (R80, R81, R84) -/

theorem monitorMark_still (h : s.tl.mode ≠ .play) (o : Option SlotId) :
    monitorMark o s = { s with mon := { s.mon with current := none, next := none, autoMix := false } } := if_neg h

theorem monitorMark_play (h : s.tl.mode = .play) (o : Option SlotId) : monitorMark o s = { s with mon := { s.mon with
    current := nextMixFor s, next := none, outPos := some 0, preSlot := choosePre s, confSlot := o
    autoMix := (nextMixFor s).isSome && writeBegins s } } := if_pos h

theorem nextMixFor_eq (s : State) : nextMixFor s = s.mon.next.filter fun m => decide (s.tl.head = some m.addr) := by
  unfold nextMixFor
  refine congrArg (fun q => Option.filter q s.mon.next) (funext fun m => ?_)
  by_cases h : s.tl.head = some m.addr
  · rw [h, decide_eq_true rfl, beq_self_eq_true]
  · rw [decide_eq_false h]
    exact beq_false_of_ne fun h' => h h'.symm

theorem writeBegins_iff (s : State) : writeBegins s = true ↔ writeEnable s = true
    ∧ ∃ w k, s.tl.head = some w ∧ s.gate.write = some ⟨w, k, 0⟩ := by
  unfold writeBegins
  rw [Bool.and_eq_true]
  refine and_congr_right fun _ => ?_
  cases hw : s.gate.write with
  | none => simp
  | some y =>
    cases s.tl.head with
    | none => simp
    | some a =>
      obtain ⟨b, l, n⟩ := y
      dsimp only
      rw [Bool.and_eq_true, beq_iff_eq, beq_iff_eq]
      constructor
      · rintro ⟨rfl, rfl⟩
        exact ⟨b, l, rfl, rfl⟩
      · rintro ⟨w, l', hwa, hwrite⟩
        obtain rfl := Option.some.inj hwa
        injection hwrite with hwrite
        injection hwrite with h1 h2 h3
        exact ⟨h1, h3⟩

/-- With the timeline placed, the source is the newest slot of the head's frame. -/
theorem choosePre_placed (h : s.tl.state = .locked ∨ s.tl.state = .coasting) (k : SlotId) :
    choosePre s = some k ↔ ∃ w, s.tl.head = some w ∧ newestAt s w k := by
  unfold choosePre
  rw [if_pos ((CloseHanded.placed_iff _).mpr h), Option.bind_eq_some_iff]
  simp only [lookup_eq_some_iff]

/-- The element of an age among those of a list with a property. -/
theorem head?_drop_filter {α : Type} (p : α → Bool) (l : List α) (n : Nat) (a : α) :
    ((l.filter p).drop ((l.filter p).length - n)).head? = some a ↔
      p a = true ∧ ∃ before after, l = before ++ a :: after ∧ (after.filter p).length + 1 = min n (l.filter p).length := by
  constructor
  · intro h
    rw [List.head?_drop, List.getElem?_eq_some_iff] at h
    obtain ⟨hlt, hget⟩ := h
    have hsplit := List.take_append_drop ((l.filter p).length - n) (l.filter p)
    rw [List.drop_eq_getElem_cons hlt, hget] at hsplit
    obtain ⟨before, rest, hl, hbefore, hrest⟩ := List.filter_eq_append_iff.mp hsplit.symm
    obtain ⟨skipped, after, hr, hskipped, hp, hafter⟩ := List.filter_eq_cons_iff.mp hrest
    refine ⟨hp, before ++ skipped, after, ?_, ?_⟩
    · rw [hl, hr, List.append_assoc]
    · rw [hafter, List.length_drop]
      omega
  · rintro ⟨hp, before, after, hl, hlen⟩
    have hfilter : l.filter p = before.filter p ++ a :: after.filter p := by
      rw [hl, List.filter_append, List.filter_cons_of_pos hp]
    have hlength : (l.filter p).length = (before.filter p).length + ((after.filter p).length + 1) := by
      rw [hfilter, List.length_append, List.length_cons]
    have hdrop : (l.filter p).length - n = (before.filter p).length := by omega
    rw [hdrop, hfilter, List.drop_left]
    rfl

/-- Elsewhere the source is the slot of an age. -/
theorem choosePre_aged (h : ¬(s.tl.state = .locked ∨ s.tl.state = .coasting)) (k : SlotId) : choosePre s = some k ↔
    s.slots[k].isPreRead = true ∧ ∃ before after, s.order = before ++ k :: after
      ∧ (after.filter fun l => s.slots[l].isPreRead).length + 1 = min (s.geo.d - 1) (s.order.filter fun l => s.slots[l].isPreRead).length := by
  unfold choosePre
  rw [if_neg fun hp => h ((CloseHanded.placed_iff _).mp hp)]
  exact head?_drop_filter (fun l : SlotId => s.slots[l].isPreRead) s.order (s.geo.d - 1) k

/-- The monitor's records at a mark in PLAY, from the state in which it chooses. -/
theorem played_mon (h : Reads s f g i j) : (played s f g).mon = (entered s).mon ∧ (played s f g).tl = (entered s).tl
    ∧ (played s f g).gate = (entered s).gate ∧ (played s f g).geo = s.geo ∧ (played s f g).judge = (entered s).judge := by
  have hturned := (turnedBoth_work f g (dueNow (intakeClose (marked s)).2) (entered s)).frame
  have hwork := (played_work s f g).frame
  have hgeo := (entered_stands h.conf).geo
  unfold turnedAt at hwork
  generalize turnedBoth f g (dueNow (intakeClose (marked s)).2) (entered s) = y at hturned hwork
  generalize played s f g = z at hwork
  exact ⟨(congrArg State.mon hwork :).trans (congrArg State.mon hturned :), (congrArg State.tl hwork :).trans (congrArg State.tl hturned :),
    (congrArg State.gate hwork :).trans (congrArg State.gate hturned :),
    ((congrArg State.geo hwork :).trans (congrArg State.geo hturned :)).trans hgeo,
    (congrArg State.judge hwork :).trans (congrArg State.judge hturned :)⟩

end Sys2Proof.MarkOutcomes
end

section
/-! SUPPORT. With no splice in progress the head enters a frame without the engine (R103, R147). -/

namespace Sys2Proof.LoneHeads
open Sys2Proof.Machine Sys2Proof.SpliceEnds Sys2Proof.StoreCommands Sys2Proof.BlockWork Sys2Proof.GateCuts
open Sys2Proof.EngineMarks Sys2Proof.IntakeCloses Sys2Proof.MarkStages

variable {s t u : State} {g : CaptureFrame} {w a : Nat}

/-! ### The gate without a splice -/

/-- From `s` to `t` the gate works alone, and may post. -/
structure LoneWork (s t : State) : Prop where
  frame : { t with slots := s.slots, order := s.order, coding := s.coding, gate := s.gate, judge := s.judge, notices := s.notices
                   fresh := s.fresh, mon := { t.mon with autoMix := s.mon.autoMix } } = s

theorem LoneWork.refl (s : State) : LoneWork s s := ⟨rfl⟩

theorem LoneWork.trans (h : LoneWork s t) (k : LoneWork t u) : LoneWork s u :=
  ⟨(congrArg (fun x : State => { x with
    slots := s.slots, order := s.order, coding := s.coding, gate := s.gate, judge := s.judge, notices := s.notices
    fresh := s.fresh, mon := { x.mon with autoMix := s.mon.autoMix } }) k.frame).trans h.frame⟩

theorem LoneWork.ofCut (h : CutWork s t) : LoneWork s t :=
  ⟨congrArg (fun x : State => { x with notices := s.notices, fresh := s.fresh }) h.frame⟩

theorem LoneWork.ofSlots (h : SlotWork s t) : LoneWork s t := .ofCut (.ofSlots h)

theorem LoneWork.eng (h : LoneWork s t) : t.eng = s.eng := (congrArg State.eng h.frame :)

theorem LoneWork.tl (h : LoneWork s t) : t.tl = s.tl := (congrArg State.tl h.frame :)

theorem LoneWork.ite {c : Prop} [Decidable c] (h : c → LoneWork s t) (k : ¬c → LoneWork s u) : LoneWork s (if c then t else u) := by
  split
  · exact h ‹_›
  · exact k ‹_›

theorem post_lone (k : NoticeKind) (n : Nat) (a : Option Nat) (c : Option Result) (s : State) : LoneWork s (post k n a c s) := ⟨rfl⟩

theorem cutGate_lone (h : s.eng.splice = none) (c : CutCause) : LoneWork s (cutGate c s) := by
  have hclosed := LoneWork.ofCut (closeByCut_cutWork s)
  have hnone : (closeByCut s).eng.splice = none := by rw [hclosed.eng, h]
  unfold cutGate
  split
  · cases c with
    | transport | lock => exact .ofCut (releaseUnwritten_cutWork s)
    | clock | stop | reset | fault | guarded | store => exact .refl s
  · cases c with
    | transport | lock | stop | reset => exact hclosed
    | clock | store | fault =>
      dsimp only
      rw [finishSplice_none hnone]
      exact hclosed
    | guarded a =>
      have hpost : LoneWork (closeByCut s) (post .recordRefused 5 (some a) none (closeByCut s)) := post_lone ..
      dsimp only
      rw [finishSplice_none (hpost.eng ▸ hnone)]
      exact hclosed.trans hpost

theorem tryWrite_lone (h : s.eng.splice = none) (tag : SpliceTag) (next a : Nat) : LoneWork s (tryWrite tag next a s) := by
  have hend : ∀ (c : CutCause) (v : State), v.eng.splice = none → LoneWork v (cutGate c (endWrite v)) := fun c v hv =>
    LoneWork.trans (t := endWrite v) ⟨rfl⟩ (cutGate_lone (s := endWrite v) hv c)
  have habandon := LoneWork.ofCut (abandonOps_cutWork (fun op => decide (op.addr ≤ a)) s)
  unfold tryWrite
  refine .ite (fun _ => hend _ _ h) fun _ => ?_
  split
  · exact habandon.trans (hend _ _ (habandon.eng ▸ h))
  · refine .ite (fun _ => hend _ _ h) fun _ => .ite (fun _ => hend _ _ h) fun _ => ?_
    unfold beginWrite reportWrite
    dsimp only
    rw [h]
    exact ⟨rfl⟩

theorem gateEnter_lone (h : s.eng.splice = none) (a : Nat) : LoneWork s (gateEnter a s) := by
  have hcomplete : completeSplice (closeGate s) = closeGate s := by
    have hnone : (closeGate s).eng.splice = none := h
    unfold completeSplice
    rw [hnone]
  unfold gateEnter
  split
  · exact .refl s
  · rw [hcomplete]
    exact ⟨rfl⟩
  · split
    · exact .refl s
    · exact .ite (fun _ => .refl s) fun _ => tryWrite_lone h ..
  · split
    · exact .refl s
    · exact tryWrite_lone h ..
  · exact .refl s

theorem rehearseMark_none (h : s.eng.splice = none) (w : Nat) : rehearseMark w s = s := by
  unfold rehearseMark
  rw [h]

theorem enterHead_lone (h : s.eng.splice = none) : LoneWork s (enterHead s) := by
  cases hw : s.tl.head with
  | none =>
    rw [enterHead_none hw]
    exact .refl s
  | some w =>
    have hgate := gateEnter_lone h w
    have hnone : (gateEnter w s).eng.splice = none := by rw [hgate.eng, h]
    rw [enterHead_some hw]
    unfold enterFrame
    rw [rehearseMark_none hnone]
    exact (hgate.trans (.ofCut (abandonOps_cutWork ..))).trans (.ofSlots (releasePassed_work ..))

/-! ### The engine at such a mark -/

theorem intakeClose_eng (s : State) : (intakeClose s).2.eng = s.eng ∧ (intakeClose s).2.banks = s.banks ∧ (intakeClose s).2.tl = s.tl := by
  have hwork := (intakeClose_work s).frame
  exact ⟨(congrArg State.eng hwork :), (congrArg State.banks hwork :), (congrArg State.tl hwork :)⟩

/-- The head's entry, from the state in which the intake has closed its frame. -/
theorem entered_lone (hconf : s.conf.assembly = some g) (h : (marked s).eng.splice = none) :
    LoneWork (intakeClose (marked s)).2 (entered s) := by
  have hnone : (met s).eng.splice = none := by
    rw [(met_stands hconf).1]
    exact (congrArg Engine.splice (intakeClose_eng (marked s)).1).trans h
  have hmet : LoneWork (intakeClose (marked s)).2 (met s) := by
    rw [(met_stands hconf).1]
    exact ⟨rfl⟩
  exact (hmet.trans (enterHead_lone hnone)).trans (.ofSlots (releaseBehind_work _))

theorem entered_engine (hconf : s.conf.assembly = some g) (h : (marked s).eng.splice = none) :
    (entered s).eng = (marked s).eng ∧ (entered s).banks = (marked s).banks ∧ (entered s).tl = (marked s).tl := by
  have hwork := entered_lone hconf h
  obtain ⟨heng, hbanks, htl⟩ := intakeClose_eng (marked s)
  exact ⟨hwork.eng.trans heng, (congrArg State.banks hwork.frame :).trans hbanks, hwork.tl.trans htl⟩

theorem layTick_idle (h : s.eng.layWait = none) : layTick s = s := by
  unfold layTick
  rw [h]

/-- The timeline of a mark reckoned LOCKED or COASTING (R8). -/
def placedTl (s : State) : Timeline := { s.tl with
  head := reckonedWrite s.tl.position s.geo.d
  confHead := reckonedConf s.tl.position s.geo.d s.geo.c
  offered := reckonedOffer s.tl.position s.geo.d }

theorem marked_placed (hmode : s.tl.mode = .play) (hstate : s.tl.state = .locked ∨ s.tl.state = .coasting) (hlay : s.eng.layWait = none) :
    marked s = { s with tl := placedTl s } := by
  unfold marked
  rw [layTick_idle hlay]
  exact SettingRows.reckon_placed hmode hstate

theorem reckonedOffer_some {q d : Nat} (hd : d ≤ q + 3) (hlegal : q + 3 - d < 2592000) : reckonedOffer q d = some (q + 3 - d) :=
  if_pos ⟨hd, decide_eq_true hlegal⟩

/-- What the engine's work meets, of a mark at which only the timeline is reckoned. -/
theorem entered_alike (hconf : s.conf.assembly = some g) {tl : Timeline} (hmarked : marked s = { s with tl := tl })
    (hstate : tl.state = s.tl.state) (hmode : s.tl.mode = .play) (h : s.eng.splice = none) :
    Alike False { s with intake := { s.intake with flyStart := none } } (entered s) := by
  have hnone : (marked s).eng.splice = none := by rw [hmarked]; exact h
  obtain ⟨heng, hbanks, htl⟩ := entered_engine hconf hnone
  have hplay : (marked s).tl.mode = .play := by rw [marked_mode, hmode]
  have hintake := intakeClose_intake hplay
  have hlone := (congrArg State.intake (entered_lone hconf hnone).frame :)
  have hstands := entered_stands hconf
  have hin : (entered s).intake = { s.intake with frame := none, flyStart := none } := by
    rw [hmarked] at hintake hlone
    exact hlone.trans hintake
  rw [hmarked] at heng hbanks htl
  refine ⟨heng, hbanks, ?_, by rw [htl]; exact hstate, hstands.clock, hstands.routes, nofun⟩
  rw [hin]

end Sys2Proof.LoneHeads
end

section
/-! SUPPORT. The slots when the intake closes its frame (R29, R88). -/

namespace Sys2Proof.IntakeSlots
open Sys2Proof.Machine Sys2Proof.StepLaws Sys2Proof.StoreCommands Sys2Proof.IntakeCloses Sys2Proof.MarkStages Sys2Proof.GateMarks

variable {s t : State} {f : IntakeFrame} {i k : SlotId} {o : Option Nat}

/-! ### The frame's slot -/

theorem bare_slots (o : Option Nat) (f : IntakeFrame) (s : State) :
    (bare (slipped o f s)).slots = (storeIntake f.slot f.rate f.taken (fullPairs s f) s).slots ∧ (bare (slipped o f s)).order = s.order :=
  slipped_slots o f s

theorem letIn_other (h : f.slot ≠ some k) (o : Option Nat) (s : State) : (letIn o f s).slots[k] = s.slots[k] := by
  have hbare : (bare (slipped o f s)).slots[k] = s.slots[k] := by
    rw [(bare_slots o f s).1, storeIntake_other h]
  unfold letIn
  split
  · cases hslot : f.slot with
    | none => exact hbare
    | some n => exact (modifySlot_get_other (fun hnk : n = k => h (by rw [hslot, hnk])) ..).trans hbare
  · cases hslot : f.slot with
    | none => exact hbare
    | some n => exact (releaseSlot_get_other (fun hnk : n = k => h (by rw [hslot, hnk])) _).trans hbare

/-- The allocation order loses the frame's slot, or stays. -/
theorem letIn_order (o : Option Nat) (f : IntakeFrame) (s : State) :
    (letIn o f s).order = s.order ∨ ∃ n, f.slot = some n ∧ (letIn o f s).order = s.order.erase n := by
  have hbare := (bare_slots o f s).2
  unfold letIn
  split
  · cases f.slot <;> exact .inl hbare
  · cases hslot : f.slot with
    | none => exact .inl hbare
    | some n => exact .inr ⟨n, rfl, congrArg (·.erase n) hbare⟩

/-- A frame of the rate in force leaves its slot READY, and full. -/
theorem letIn_kept (hslot : f.slot = some i) (hrate : f.rate = s.clock.rate) (o : Option Nat) : (letIn o f s).slots[i] = { s.slots[i] with
    state := .ready, audio := putPairs s.slots[i].audio f.rate f.taken (fullPairs s f) } := by
  have hlet : letIn o f s = modifySlot i (fun x => { x with state := .ready }) (bare (slipped o f s)) := by
    unfold letIn
    rw [if_pos hrate, hslot]
  have hstored : (bare (slipped o f s)).slots[i] = { s.slots[i] with audio := putPairs s.slots[i].audio f.rate f.taken (fullPairs s f) } := by
    rw [(bare_slots o f s).1, hslot]
    exact modifySlot_get_same ..
  rw [hlet, modifySlot_get_same, hstored]

/-- A frame of another rate gives its slot back. -/
theorem letIn_dropped (hslot : f.slot = some i) (hrate : f.rate ≠ s.clock.rate) (o : Option Nat) : (letIn o f s).slots[i] = Slot.reset := by
  have hlet : letIn o f s = releaseSlot i (bare (slipped o f s)) := by
    unfold letIn
    rw [if_neg hrate, hslot]
    rfl
  rw [hlet, releaseSlot_get_same]

/-- The frame's slot is READY or FREE when it has closed. -/
theorem letIn_closed (hslot : f.slot = some i) (o : Option Nat) (s : State) :
    (letIn o f s).slots[i].state = .ready ∨ (letIn o f s).slots[i].state = .free := by
  by_cases hrate : f.rate = s.clock.rate
  · rw [letIn_kept hslot hrate]
    exact .inl rfl
  · rw [letIn_dropped hslot hrate]
    exact .inr rfl

theorem letIn_mem (h : f.slot ≠ some k) (o : Option Nat) (s : State) : k ∈ (letIn o f s).order ↔ k ∈ s.order := by
  rcases letIn_order o f s with horder | ⟨n, hn, horder⟩
  · rw [horder]
  · rw [horder]
    exact List.mem_erase_of_ne fun hkn => h (by rw [hn, hkn])

/-! ### CODED slots (R103) -/

/-- What waits to be written waits on, when the intake closes a frame whose slot was FILLING. -/
theorem letIn_codedAt (hfilling : ∀ n, f.slot = some n → s.slots[n].state = .filling) (o : Option Nat) (tag : SpliceTag) (a : Nat)
    (k : SlotId) : CodedAt (letIn o f s) tag a k ↔ CodedAt s tag a k := by
  unfold CodedAt
  by_cases hk : f.slot = some k
  · have hstate := hfilling k hk
    have hnot : (letIn o f s).slots[k].state ≠ .coded := by
      rcases letIn_closed hk o s with h | h <;> rw [h] <;> nofun
    exact ⟨fun ⟨_, h, _⟩ => absurd h hnot, fun ⟨_, h, _⟩ => absurd (hstate.symm.trans h) nofun⟩
  · rw [letIn_other hk, letIn_mem hk]

theorem intakeClose_codedAt (hfilling : ∀ x n, s.intake.frame = some x → x.slot = some n → s.slots[n].state = .filling)
    (tag : SpliceTag) (a : Nat) (k : SlotId) : CodedAt (intakeClose s).2 tag a k ↔ CodedAt s tag a k := by
  by_cases hmode : s.tl.mode = .play
  · rw [intakeClose_play hmode]
    cases hframe : s.intake.frame with
    | none =>
      rw [closeIntake_none hframe]
      exact Iff.rfl
    | some x =>
      rw [closeIntake_some hframe]
      exact letIn_codedAt (fun n hn => hfilling x n hframe hn) ..
  · rw [intakeClose_still hmode]

end Sys2Proof.IntakeSlots
end

section
/-! SUPPORT. What the engine's work at a mark keeps of a splice that has ended (R140, R142, R153, R154). -/

namespace Sys2Proof.MarkEngines
open Sys2Proof.Machine Sys2Proof.SpliceEnds Sys2Proof.ProgramStops Sys2Proof.Prepares Sys2Proof.EngineMarks Sys2Proof.MarkTurns

variable {s t : State} {sp : Splice} {o : Outcome} {r : Option Reason} {out : Option Point} {x : Nat}

/-! ### With nothing PENDING -/

theorem bankDue_empty (h : ∀ k, pendingEntry s k = none) (early : List Prepared) : bankDue s early = none := by
  unfold bankDue
  rw [List.findSome?_eq_none_iff]
  intro p _
  rw [h p.index]
  exact ite_self _

theorem bankDue_unprepared (h : s.eng.prepared = []) (early : List Prepared) : bankDue s early = none := by
  unfold bankDue
  rw [List.findSome?_eq_none_iff, h]
  exact fun p _ => if_neg fun hc => absurd hc.2 (by simp)

theorem askDue_still {early : List Prepared} (h : bankDue s early = none) : askDue early s = s := by
  unfold askDue
  rw [h]

/-- The engine has nothing PENDING, or rests with nothing prepared. -/
def Over (s : State) : Prop := (∀ k, pendingEntry s k = none) ∨ (s.eng.state ≠ .waiting ∧ s.eng.state ≠ .splicing ∧ s.eng.prepared = [])

theorem Over.askDue (h : Over s) (early : List Prepared) : askDue early s = s :=
  askDue_still (h.elim (bankDue_empty · early) fun hk => bankDue_unprepared hk.2.2 early)

theorem endPass_over (h : ∀ k, pendingEntry s k = none) : Over (endPass s) := by
  unfold endPass
  split
  · rw [setEng_frame]
    exact .inr ⟨nofun, nofun, rfl⟩
  · rw [setEng_frame]
    exact .inl h

theorem prepareAt_over (h : Over s) (x : Nat) : Over (prepareAt x s) ∧ (prepareAt x s).eng.results = s.eng.results := by
  by_cases hactive : Active s
  · have hnone : ∀ k, pendingEntry s k = none := h.resolve_right fun hk => hactive.1.elim hk.1 hk.2.1
    by_cases hidle : Beyond s x ∨ LayWaits s
    · rw [prepareAt_idle (.inr hidle)]
      exact ⟨h, rfl⟩
    · rw [not_or] at hidle
      rw [prepareAt_scan hactive hidle.1 hidle.2, prepareScan_none hnone]
      unfold settled
      split
      · exact ⟨endPass_over hnone, endPass_results s⟩
      · exact ⟨h, rfl⟩
  · rw [prepareAt_idle (.inl hactive)]
    exact ⟨h, rfl⟩

/-- What the engine's work at the mark leaves of a run with nothing PENDING. -/
theorem engineMark_over (h : Over s) : Over (engineMark s) ∧ (engineMark s).eng.results = s.eng.results
    ∧ (s.eng.state ≠ .waiting → s.eng.state ≠ .splicing → engineMark s = s) := by
  unfold engineMark
  split
  · next x _ =>
    obtain ⟨hover, hresults⟩ := prepareAt_over h x
    refine ⟨by rw [hover.askDue]; exact hover, by rw [hover.askDue, hresults], fun hwaiting hsplicing => ?_⟩
    have hidle : prepareAt x s = s := prepareAt_idle (.inl fun hactive => hactive.1.elim hwaiting hsplicing)
    rw [hidle, h.askDue]
  · exact ⟨h, rfl, fun _ _ => rfl⟩

/-! ### A rehearsed splice that has ended (R146, R153, R154) -/

/-- A rehearsed splice has ended, and the pass with it when nothing is PENDING. -/
structure RehearsalEnds (sp : Splice) (o : Outcome) (r : Option Reason) (out : Option Point) (s t : State) : Prop where
  splice : t.eng.splice = none
  override : t.mon.override = false
  result : (∀ l, pendingEntry s l = none) → ∃ x ∈ t.eng.results, x.tag = sp.tag ∧ x.outcome = o ∧ x.reason = r ∧ x.actualIn = sp.actualIn
    ∧ x.actualOut = out
  pass : (∀ l, pendingEntry s l = none) → sp.index.isSome = true → s.eng.state = .splicing → s.eng.mode = some .rehearse →
    (s.eng.passes.getD 1 ≤ s.eng.pass → t.eng.state = .done)
    ∧ (s.eng.pass < s.eng.passes.getD 1 → t.eng.state = .armed ∧ t.eng.pass = s.eng.pass + 1
      ∧ (∀ e, s.eng.active[(0 : Fin 16)] = some e → t.eng.locate = e.entry.inPoint.addr - s.eng.preroll)
      ∧ ∀ l : Fin 16, t.eng.active[l] = (s.eng.active[l]).map fun e => { e with state := .pending })
  rests : (∀ l, pendingEntry s l = none) → Over t

theorem Over.congr (h : Over s) (heng : t.eng = s.eng) : Over t := by
  unfold Over pendingEntry at h ⊢
  rw [heng]
  exact h

/-- The end is told by the engine and the override alone. -/
theorem RehearsalEnds.congr {s' t' : State} (h : RehearsalEnds sp o r out s t) (hbefore : s'.eng = s.eng) (hafter : t'.eng = t.eng)
    (hoverride : t'.mon.override = t.mon.override) : RehearsalEnds sp o r out s' t' := by
  obtain ⟨hsplice, hmon, hresult, hpass, hover⟩ := h
  have hpending : pendingEntry s' = pendingEntry s := funext fun l => by unfold pendingEntry; rw [hbefore]
  rw [← hpending] at hresult hpass hover
  rw [← hbefore] at hpass
  rw [← hafter] at hsplice hresult hpass
  exact ⟨hsplice, hoverride.trans hmon, hresult, hpass, fun hnone => (hover hnone).congr hafter⟩

theorem afterSplice_mon (punch lay : Bool) (s : State) : (afterSplice punch lay s).mon = s.mon := by
  have hset : ∀ st u, (setEng st u).mon = u.mon := fun st u => by rw [setEng_frame]
  unfold afterSplice endPass
  split
  · rfl
  · split
    · exact hset ..
    · split
      · exact hset ..
      · split <;> exact hset ..

/-- The override of a rehearsed splice ends with it (R85, R153). -/
theorem finishSplice_override (hsplice : s.eng.splice = some sp) (hrehearse : sp.rehearse = true) (o : Outcome) (r : Option Reason)
    (out : Option Point) : (finishSplice o r out false s).mon.override = false := by
  rw [finishSplice_eq hsplice, afterSplice_mon, endSplice_eq hsplice, addResult_eq]
  show (released sp o s).mon.override = false
  unfold released endOverride
  rw [endLayOf_eq, if_pos hrehearse]

/-- An active entry keeps its place, its points and its audio when the splice ends. -/
theorem closeEntry_active (sp : Splice) (o : Outcome) (s : State) (l : Fin 16) : (closeEntry sp o s).eng.active[l] = s.eng.active[l]
    ∨ (closeEntry sp o s).eng.active[l] = (s.eng.active[l]).map fun a => { a with state := .ended o } := by
  unfold closeEntry
  cases sp.index with
  | none => exact .inl rfl
  | some i =>
    by_cases hl : i = l
    · subst hl
      exact .inr (Vector.getElem_set_self i.isLt)
    · exact .inl (Vector.getElem_set_ne i.isLt l.isLt (Fin.val_ne_of_ne hl))

/-- The engine when the splice has ended. -/
theorem endSplice_engine (hsplice : s.eng.splice = some sp) (o : Outcome) (r : Option Reason) (out : Option Point) :
    ∃ x bank, (endSplice o r out false s).eng = withResult x { s.eng with
      splice := none, bankFor := bank, active := (closeEntry sp o s).eng.active } := by
  obtain ⟨f, b, k, v, bank, h⟩ := endSplice_frame hsplice o r out false
  rw [h]
  exact ⟨_, bank, rfl⟩

theorem pendingEntry_ended (h : ∀ l, pendingEntry s l = none) (hsplice : s.eng.splice = some sp) (o : Outcome) (r : Option Reason)
    (out : Option Point) (l : Fin 16) : pendingEntry (endSplice o r out false s) l = none := by
  obtain ⟨x, bank, heng⟩ := endSplice_engine hsplice o r out
  have hactive : (endSplice o r out false s).eng.active = (closeEntry sp o s).eng.active := by rw [heng]; rfl
  have hl := h l
  unfold pendingEntry at hl ⊢
  rw [hactive]
  rcases closeEntry_active sp o s l with hentry | hentry
  · rw [hentry]
    exact hl
  · rw [hentry]
    cases s.eng.active[l] <;> rfl

theorem finishSplice_over (h : ∀ l, pendingEntry s l = none) (hsplice : s.eng.splice = some sp) (o : Outcome) (r : Option Reason)
    (out : Option Point) : Over (finishSplice o r out false s) := by
  have hnone := pendingEntry_ended h hsplice o r out
  rw [finishSplice_eq hsplice]
  generalize endSplice o r out false s = u at hnone
  unfold afterSplice
  split
  · exact .inl hnone
  · split
    · rw [setEng_frame]
      exact .inl hnone
    · rw [if_neg (by rw [hasPending_none hnone]; exact Bool.false_ne_true)]
      exact endPass_over hnone

/-- How a rehearsed splice ends (R146, R153, R154). -/
theorem finishSplice_rehearsal (hsplice : s.eng.splice = some sp) (hrehearse : sp.rehearse = true) (o : Outcome) (r : Option Reason)
    (out : Option Point) : RehearsalEnds sp o r out s (finishSplice o r out false s) := by
  refine ⟨CodingEnds.finishSplice_splice .., finishSplice_override hsplice hrehearse o r out,
    fun _ => ⟨_, List.mem_of_getLast? (finishSplice_getLast hsplice o r out false), rfl, rfl, rfl, rfl, rfl⟩,
    fun hnone hindex hstate hmode => ?_, fun hnone => finishSplice_over hnone hsplice ..⟩
  obtain ⟨x, bank, heng⟩ := endSplice_engine hsplice o r out
  have hpending := pendingEntry_ended hnone hsplice o r out
  rw [finishSplice_eq hsplice, Option.isNone_eq_false_iff.mpr hindex]
  generalize endSplice o r out false s = u at heng hpending
  have hustate : u.eng.state = .splicing := (congrArg Engine.state heng :).trans hstate
  have humode : u.eng.mode = some .rehearse := (congrArg Engine.mode heng :).trans hmode
  have hupass : u.eng.pass = s.eng.pass := (congrArg Engine.pass heng :)
  have hupasses : u.eng.passes = s.eng.passes := (congrArg Engine.passes heng :)
  have hupreroll : u.eng.preroll = s.eng.preroll := (congrArg Engine.preroll heng :)
  have huactive : u.eng.active = (closeEntry sp o s).eng.active := (congrArg Engine.active heng :)
  rw [afterSplice_last (by rw [hustate]; nofun) (hasPending_none hpending)]
  refine ⟨fun hlast => ?_, fun hagain => ?_⟩
  · rw [endPass_last (by rw [hupass, hupasses]; exact fun h => absurd h.2 (Nat.not_lt.mpr hlast)), setEng_frame]
  · rw [endPass_again ⟨humode, by rw [hupass, hupasses]; exact hagain⟩ (by rw [hustate]; nofun)]
    refine ⟨rfl, congrArg (· + 1) hupass, fun e he => ?_, fun l => ?_⟩
    · dsimp only
      rcases closeEntry_active sp o s 0 with hentry | hentry <;> rw [he] at hentry <;> rw [← huactive] at hentry
      · rw [locateTarget_eq hentry, hupreroll]
      · rw [locateTarget_eq hentry, hupreroll]
    · have hmap : ∀ v : Vector (Option ActiveEntry) 16, (mapPlaces (fun o => o.map fun a => { a with state := .pending }) v)[l]
          = v[l].map fun a => { a with state := .pending } := fun v => mapPlaces_get ..
      dsimp only
      rw [hmap, huactive]
      rcases closeEntry_active sp o s l with hentry | hentry <;> rw [hentry]
      cases s.eng.active[l] <;> rfl

/-- The engine's work at the mark leaves the end as it is. -/
theorem RehearsalEnds.mark (h : RehearsalEnds sp o r out s t) : RehearsalEnds sp o r out s (engineMark t) := by
  have hprep := engineMark_prep t
  refine ⟨hprep.splice.trans h.splice, (congrArg (fun x : State => x.mon.override) hprep.frame :).trans h.override, fun hnone => ?_,
    fun hnone hindex hstate hmode => ?_, fun hnone => (engineMark_over (h.rests hnone)).1⟩
  · rw [(engineMark_over (h.rests hnone)).2.1]
    exact h.result hnone
  · obtain ⟨hlast, hagain⟩ := h.pass hnone hindex hstate hmode
    obtain ⟨-, -, hidle⟩ := engineMark_over (h.rests hnone)
    refine ⟨fun hl => ?_, fun hl => ?_⟩
    · have hdone := hlast hl
      rw [hidle (by rw [hdone]; nofun) (by rw [hdone]; nofun)]
      exact hdone
    · have harmed := (hagain hl).1
      rw [hidle (by rw [harmed]; nofun) (by rw [harmed]; nofun)]
      exact hagain hl

end Sys2Proof.MarkEngines
end

section
/-! SUPPORT. A rehearsed splice at a frame mark (R85, R146, R147, R153). -/

namespace Sys2Proof.RehearsalMarks
open Sys2Proof.Machine Sys2Proof.SpliceEnds Sys2Proof.BlockWork Sys2Proof.GateMarks Sys2Proof.MarkStages Sys2Proof.MarkTurns
open Sys2Proof.MarkOutcomes Sys2Proof.LoneHeads Sys2Proof.IntakeSlots Sys2Proof.MarkEngines

variable {s t u : State} {f g : CaptureFrame} {i j : SlotId} {sp : Splice} {w next : Nat} {o : Outcome} {r : Option Reason}
  {out : Option Point}

/-! ### The rehearsed splice meets the head (R153) -/

/-- How a rehearsed splice enters a frame, or ends at it. -/
structure Enters (sp : Splice) (next w : Nat) (s t : State) : Prop where
  misses : ((∀ k, ¬CodedAt s sp.tag w k) ∨ w ≠ next) → RehearsalEnds sp .broken none (some ⟨w, 0⟩) s t
  bars : (∃ k, CodedAt s sp.tag w k) → w = next → barred s sp.tag w = true → withdrawn s sp.tag = false →
    RehearsalEnds sp .guarded (some .guarded) (some ⟨w, 0⟩) s t
  goes : (∃ k, CodedAt s sp.tag w k) → w = next → barred s sp.tag w = false →
    t.eng.splice = some { sp with entered := some w } ∧ t.mon.override = (s.mon.override || sp.entered.isNone)

theorem withdrawn_false {tag : SpliceTag} (h : ∀ op ∈ s.coding, op.tag = some tag → ∀ b, op.begun = some b → b.verdict.atIn = false) :
    withdrawn s tag = false := by
  rw [withdrawn, List.any_eq_false]
  intro op hop hany
  rw [Bool.and_eq_true, beq_iff_eq, Option.any_eq_true] at hany
  obtain ⟨htag, b, hb, hatIn⟩ := hany
  rw [h op hop htag b hb] at hatIn
  exact Bool.false_ne_true hatIn

theorem rehearseWrite_enters (hsplice : s.eng.splice = some sp) (hrehearse : sp.rehearse = true) (next w : Nat) :
    Enters sp next w s (rehearseWrite sp next w s) := by
  have hfound : (∃ k, CodedAt s sp.tag w k) → w = next → ¬(codedSlot s sp.tag w = none ∨ w ≠ next) := fun ⟨k, hk⟩ hnext hn =>
    hn.elim (fun hnone => codedSlot_none_iff.mp hnone k hk) (absurd hnext)
  refine ⟨fun h => ?_, fun hcoded hnext hbarred hheld => ?_, fun hcoded hnext hbarred => ?_⟩
  · have hwrite : rehearseWrite sp next w s = finishSplice .broken none (some ⟨w, 0⟩) false s := if_pos (h.imp_left codedSlot_none_iff.mpr)
    rw [hwrite]
    exact finishSplice_rehearsal hsplice hrehearse ..
  · have hwrite : rehearseWrite sp next w s = rehearseCut .guarded (some .guarded) (some ⟨w, 0⟩) s :=
      (if_neg (hfound hcoded hnext)).trans (if_pos hbarred)
    have hcut : rehearseCut .guarded (some .guarded) (some ⟨w, 0⟩) s
        = finishSplice .guarded (some .guarded) (some ⟨w, 0⟩) false (abandonOps (fun op => op.tag == some sp.tag) s) := by
      unfold rehearseCut
      rw [hsplice]
      exact if_neg (by rw [hrehearse, hheld]; exact fun h => h.elim nofun nofun)
    have heng : (abandonOps (fun op => op.tag == some sp.tag) s).eng = s.eng := (congrArg State.eng (abandonOps_cutWork ..).frame :)
    rw [hwrite, hcut]
    exact (finishSplice_rehearsal (by rw [heng, hsplice]) hrehearse ..).congr heng.symm rfl rfl
  · have hwrite : rehearseWrite sp next w s = { s with
        eng := { s.eng with splice := some { sp with entered := some w } }
        mon := { s.mon with override := s.mon.override || sp.entered.isNone } } :=
      (if_neg (hfound hcoded hnext)).trans (if_neg (by rw [hbarred]; exact Bool.false_ne_true))
    rw [hwrite]
    exact ⟨rfl, rfl⟩

theorem rehearseMark_waits {start : Point} (hsplice : s.eng.splice = some sp) (hrehearse : sp.rehearse = true) (hstart : sp.start = some start)
    (hentered : sp.entered = none) (hw : w < start.addr) : rehearseMark w s = s := by
  unfold rehearseMark
  rw [hsplice]
  dsimp only
  rw [hrehearse, hstart, hentered]
  exact if_pos hw

theorem rehearseMark_begins {start : Point} (hsplice : s.eng.splice = some sp) (hrehearse : sp.rehearse = true)
    (hstart : sp.start = some start) (hentered : sp.entered = none) (hw : start.addr ≤ w) :
    rehearseMark w s = rehearseWrite sp start.addr w s := by
  unfold rehearseMark
  rw [hsplice]
  dsimp only
  rw [hrehearse, hstart, hentered]
  exact if_neg (Nat.not_lt.mpr hw)

theorem rehearseMark_entered {x : Nat} (hsplice : s.eng.splice = some sp) (hrehearse : sp.rehearse = true) (hentered : sp.entered = some x)
    (w : Nat) : rehearseMark w s = if sp.final = some x then completeSplice s else rehearseWrite sp (x + 1) w s := by
  unfold rehearseMark
  rw [hsplice]
  dsimp only
  rw [hrehearse, hentered]
  cases sp.start <;> rfl

/-! ### The mark in a rehearsal -/

/-- A frame mark in PLAY that is reckoned with the gate CLOSED, and puts the head over frame `w`. -/
structure Heads (s : State) (f g : CaptureFrame) (i j : SlotId) (w : Nat) : Prop where
  reads : Reads s f g i j
  mode : s.tl.mode = .play
  marked : marked s = { s with tl := placedTl s }
  head : (placedTl s).head = some w
  gate : s.gate.state = .closed

/-- What the head meets. -/
structure Meets (s m : State) : Prop where
  eng : m.eng = s.eng
  mon : m.mon = s.mon
  coding : m.coding = s.coding
  guard : m.guard = s.guard

theorem Heads.meets (h : Heads s f g i j w) : Meets s (met s) ∧ (met s).tl.head = some w ∧ (met s).gate.state = .closed := by
  have hmet := (met_stands h.reads.conf).1
  have hwork := (intakeClose_work (MarkStages.marked s)).frame
  rw [hmet]
  generalize (intakeClose (MarkStages.marked s)).2 = m at hwork
  rw [h.marked] at hwork
  have hgate : m.gate = s.gate := (congrArg State.gate hwork :)
  have htl : m.tl = placedTl s := (congrArg State.tl hwork :)
  refine ⟨⟨(congrArg State.eng hwork :), (congrArg State.mon hwork :), (congrArg State.coding hwork :), (congrArg State.guard hwork :)⟩, ?_, ?_⟩
  · exact (congrArg Timeline.head htl :).trans h.head
  · exact (congrArg Gate.state hgate :).trans h.gate

theorem Heads.codedAt (h : Heads s f g i j w)
    (hfilling : ∀ x n, s.intake.frame = some x → x.slot = some n → s.slots[n].state = .filling) (tag : SpliceTag) (k : SlotId) :
    CodedAt (met s) tag w k ↔ CodedAt s tag w k := by
  have hclose := intakeClose_codedAt (s := MarkStages.marked s) (by rw [h.marked]; exact hfilling) tag w k
  rw [(met_stands h.reads.conf).1]
  rw [h.marked] at hclose ⊢
  exact hclose

/-- The engine and the override that the engine's work meets are those of the rehearsed splice. -/
theorem Heads.offered (h : Heads s f g i j w) : (offeredAt s f g).eng = (rehearseMark w (met s)).eng
    ∧ (offeredAt s f g).mon.override = (rehearseMark w (met s)).mon.override := by
  obtain ⟨-, hhead, hgate⟩ := h.meets
  have hcut : CutWork (rehearseMark w (met s)) (entered s) := by
    unfold entered
    rw [enterHead_some hhead]
    unfold enterFrame
    rw [gateEnter_closed hgate]
    exact ((abandonOps_cutWork ..).trans (.ofSlots (releasePassed_work ..))).trans (.ofSlots (releaseBehind_work _))
  have hplay := (offered_playWork (intakeStale (MarkStages.marked s)) (intakeClose (MarkStages.marked s)).1 (turnedAt s f g)).frame
  have hturned := (turnedBoth_work f g (dueNow (intakeClose (MarkStages.marked s)).2) (entered s)).frame
  refine ⟨(offeredAt_alike s f g).1.eng.trans (congrArg State.eng hcut.frame :), ?_⟩
  have hcutMon : (entered s).mon.override = (rehearseMark w (met s)).mon.override :=
    (congrArg (fun x : State => x.mon.override) hcut.frame :)
  unfold offeredAt
  unfold turnedAt at hplay ⊢
  generalize MarkTurns.offered (intakeStale (MarkStages.marked s)) (intakeClose (MarkStages.marked s)).1
    (turnedBoth f g (dueNow (intakeClose (MarkStages.marked s)).2) (entered s)) = x at hplay
  generalize turnedBoth f g (dueNow (intakeClose (MarkStages.marked s)).2) (entered s) = y at hplay hturned
  exact ((congrArg (fun x : State => x.mon.override) hplay :).trans (congrArg (fun x : State => x.mon.override) hturned :)).trans hcutMon

theorem Heads.take (h : Heads s f g i j w) : (takeMark s).eng = (engineMark (offeredAt s f g)).eng
    ∧ (takeMark s).mon.override = (engineMark (offeredAt s f g)).mon.override := by
  have hmonitor := monitorMark_frame (some j) (played s f g)
  have hplay := monitorMark_play (s := played s f g) ((congrArg Timeline.mode (played_mon h.reads).2.1).trans ((entered_mode s).trans h.mode))
    (some j)
  rw [takeMark_eq h.reads, ← played_play h.mode]
  generalize monitorMark (some j) (played s f g) = t at hmonitor hplay
  generalize played s f g = y at hmonitor hplay
  exact ⟨(congrArg State.eng hmonitor :), (congrArg (fun x : State => x.mon.override) hplay :)⟩

/-- The mark ends the splice when the rehearsed splice meets its end. -/
theorem Heads.ends (h : Heads s f g i j w) (hends : RehearsalEnds sp o r out (met s) (rehearseMark w (met s))) :
    RehearsalEnds sp o r out s (takeMark s) := by
  obtain ⟨heng, hoverride⟩ := h.offered
  obtain ⟨hteng, htoverride⟩ := h.take
  exact (hends.congr h.meets.1.eng.symm heng hoverride).mark.congr rfl hteng htoverride

theorem Heads.goes (h : Heads s f g i j w) : (takeMark s).eng.splice = (rehearseMark w (met s)).eng.splice
    ∧ (takeMark s).mon.override = (rehearseMark w (met s)).mon.override := by
  obtain ⟨heng, hoverride⟩ := h.offered
  obtain ⟨hteng, htoverride⟩ := h.take
  have hprep := engineMark_prep (offeredAt s f g)
  have hprepMon : (engineMark (offeredAt s f g)).mon.override = (offeredAt s f g).mon.override :=
    (congrArg (fun x : State => x.mon.override) hprep.frame :)
  exact ⟨(congrArg Engine.splice hteng).trans (hprep.splice.trans (congrArg Engine.splice heng)),
    (htoverride.trans hprepMon).trans hoverride⟩

end Sys2Proof.RehearsalMarks
end

section
/-! SUPPORT. The obligation on the output lines (R35, R79 to R85, R124, R125, R146, R147, R153, R154). -/

namespace Sys2Proof.OutputLinesLaw
open Sys2Proof.Machine Sys2Proof.SpliceEnds Sys2Proof.OutputPeriods Sys2Proof.GateMarks Sys2Proof.MarkStages Sys2Proof.MarkTurns
open Sys2Proof.LoneHeads Sys2Proof.MarkEngines Sys2Proof.RehearsalMarks

/-- Settles O50: a sample period by the selection that carries it, the block's end by its count, and the mark of a rehearsal by
`Heads.ends`, `Heads.goes` and what `rehearseMark` does with the splice. -/
theorem outputLines : Obligations.OutputLines := by
  refine ⟨?periods, fun s => ⟨fun h => congrArg Host.Outcome.next (if_pos h), fun h => congrArg Host.Outcome.next (if_neg h)⟩, ?rehearsal⟩
  case periods =>
    intro s S
    obtain ⟨hframe, hmon, hout, hjog⟩ := outputPeriod_frame s
    refine ⟨outputPeriod s, rfl, hframe, hmon, fun h => hjog.trans (if_neg h), ?carried, fun w hmode hwin hp hr hlen => ?pointer, fun h => ?block⟩
    case block =>
      rw [hout]
      exact carry_count _ _ h
    case pointer =>
      have hS : 0 < S := CodedFrames.framePairs_pos _
      have hpos : 1 ≤ s.jog.length * S := Nat.mul_pos hlen hS
      have hmove : (outputPeriod s).jog.pointer = movePointer (s.jog.length * S * 8) s.tl.ratio s.jog.pointer s.tl.dir := by
        rw [hjog, if_pos hmode, moveScrub, hwin]
      rw [hmove, movePointer_mod (by omega) hp]
      refine ⟨?_, rfl⟩
      cases s.tl.dir <;> exact Nat.mod_lt _ (by omega)
    case carried =>
      intro carries silent plain from' slotMark pre mix
      have hcarries : ∀ c : Carried, carriedNow s = c → carries c.pair c.mark := fun c hc => by
        show (outputPeriod s).out.pair = _ ∧ (outputPeriod s).out.mark = _
        rw [hout, hc]
        exact ⟨rfl, rfl⟩
      have hplay : s.tl.mode = .play → carriedNow s = playCarried s := fun h => by rw [carriedNow, h]
      refine ⟨fun h => hcarries quiet ?_, fun h hinput => ?input, fun hmode hsel => ?framed, fun hmode hwin => ?nowindow,
      fun w hmode hwin => ?window⟩
      · rcases h with h | h | ⟨h, hsel⟩ <;> rw [carriedNow, h]
        exact if_neg hsel
      case input =>
        have hnow : carriedNow s = inputCarried s := by
          rcases h with h | ⟨h, hover⟩
          · rw [carriedNow, h]
            exact if_pos hinput
          · rw [hplay h, playCarried_input hover hinput]
        have hfrom : ∀ r last, inputCarried s = inputFrom r last → from' r last := fun r last h => by
          have hc := hcarries _ (hnow.trans h)
          cases last <;> exact hc
        refine ⟨fun hs => hfrom _ _ ?_, fun hs => hfrom _ _ ?_, fun hs => hcarries quiet (hnow.trans ?_)⟩ <;> rw [inputCarried, hs]
      case nowindow =>
        refine ⟨hcarries quiet ?_, ?_⟩
        · rw [carriedNow, hmode]
          show scrubCarried s = _
          rw [scrubCarried, hwin]
        · rw [hjog, if_pos hmode, moveScrub, hwin]
      case window =>
        intro k pinned
        have hnow : carriedNow s = scrubCarried s := by rw [carriedNow, hmode]
        refine ⟨fun h => hcarries quiet (hnow.trans (scrubCarried_window hwin (pinnedSlot_none h))), fun i hpin honly hlayout => ?_⟩
        exact hcarries _ (hnow.trans ((scrubCarried_window hwin (pinnedSlot_some hpin honly)).trans
          (slotCarried_own (Nat.mod_lt _ (CodedFrames.framePairs_pos _)) hlayout)))
      case framed =>
        have hnow := (hplay hmode).trans (playCarried_framed hsel)
        refine ⟨fun h => hcarries quiet (hnow.trans (atPosition_outside h _)), fun k hk hin => ?_⟩
        rw [atPosition_inside hk hin] at hnow
        refine ⟨fun hplain hpre => ?_, fun hplain hconf => ?_, fun hmix => ?_⟩
        · have hsource : framed s = preCarried := by
            rcases hpre with h | ⟨h, hauto⟩
            · simp [framed, hplain.2, h]
            · simp [framed, hplain.2, h, hauto]
          rw [hsource] at hnow
          refine ⟨fun i hi hstate hrole hlayout => ?_, fun h => hcarries quiet (hnow.trans (preCarried_none h))⟩
          have hread : s.slots[i].isPreRead = true := by rw [Slot.isPreRead, hstate, hrole]; rfl
          exact hcarries _ (hnow.trans ((preCarried_some hi hread).trans (slotCarried_own hin hlayout)))
        · have hsource : framed s = confCarried := by simp [framed, hplain.2, hconf]
          rw [hsource] at hnow
          refine ⟨fun i hi hstate hrole hlayout => ?_, fun h => hcarries quiet (hnow.trans (confCarried_none fun i hi => ?_))⟩
          · have hcar := confCarried_some (k := k) hi (isDecoded_iff.mpr ⟨hstate, hrole⟩)
            rw [slotPair_own hin hlayout, maskBad_eq] at hcar
            exact hcarries _ (hnow.trans hcar)
          · exact Bool.eq_false_iff.mpr fun hd => h i hi (isDecoded_iff.mp hd)
        · have hsource : framed s = mixCarried := if_pos hmix
          rw [hsource] at hnow
          exact ⟨fun m hm h => hcarries _ (hnow.trans (mixCarried_some hm h)), fun hm => hcarries quiet (hnow.trans (mixCarried_none hm))⟩
  case rehearsal =>
    intro s f g i j sp start hpre hpreIdle hi hconf hconfIdle hj hmode hstate hd hlay hgate hfilling hsplice hrehearse hstart w coded barred
    have hheads : Heads s f g i j w :=
      ⟨⟨hpre, hpreIdle, hi, hconf, hconfIdle, hj⟩, hmode, marked_placed hmode hstate hlay, if_pos hd, hgate⟩
    obtain ⟨hmeets, -, -⟩ := hheads.meets
    have hmsplice : (met s).eng.splice = some sp := by rw [hmeets.eng, hsplice]
    refine ⟨takeMark s, rfl, ?_⟩
    intro ends enters
    have hends : ∀ {o r out}, RehearsalEnds sp o r out (met s) (rehearseMark w (met s)) → ends o r out := fun h => by
      obtain ⟨hnone, hoverride, hresult, hpass, -⟩ := hheads.ends h
      exact ⟨hnone, hoverride, hresult, hpass⟩
    have hcoded : (∃ k, CodedAt (met s) sp.tag w k) ↔ coded := exists_congr fun k => hheads.codedAt hfilling sp.tag k
    have hbarred : Machine.barred (met s) sp.tag w = true ↔ barred := by
      rw [barred_iff, hmeets.guard]
      exact or_congr_right ⟨fun ⟨sp', h, _, h'⟩ => Option.some.inj (hmsplice.symm.trans h) ▸ h', fun h => ⟨sp, hmsplice, rfl, h⟩⟩
    have henters : ∀ next, rehearseMark w (met s) = rehearseWrite sp next w (met s) → enters next := fun next hmark => by
      obtain ⟨hmisses, hbars, hgoes⟩ := rehearseWrite_enters hmsplice hrehearse next w
      rw [← hmark] at hmisses hbars hgoes
      refine ⟨fun h => hends (hmisses (h.imp_left fun hn k hk => hn (hcoded.mp ⟨k, hk⟩))), fun hc hnext =>
        ⟨fun hb hverdicts => hends (hbars (hcoded.mpr hc) hnext (hbarred.mpr hb) (withdrawn_false (hmeets.coding ▸ hverdicts))),
          fun hb => ?_⟩⟩
      obtain ⟨hentered, hoverride⟩ := hgoes (hcoded.mpr hc) hnext (Bool.eq_false_iff.mpr fun h => hb (hbarred.mp h))
      exact ⟨hheads.goes.1.trans hentered, by rw [hheads.goes.2, hoverride, hmeets.mon]⟩
    refine ⟨fun hentered => ⟨fun hlt => ?_, fun hle => henters _ (rehearseMark_begins hmsplice hrehearse hstart hentered hle)⟩,
      fun x hentered => ⟨fun hfinal => henters _ ?_, fun hfinal => ?_⟩⟩
    · have hwaits := rehearseMark_waits hmsplice hrehearse hstart hentered hlt
      refine ⟨by rw [hheads.goes.1, hwaits, hmsplice], by rw [hheads.goes.2, hwaits, hmeets.mon]⟩
    · rw [rehearseMark_entered hmsplice hrehearse hentered, if_neg hfinal]
    · intro out
      have hmark : rehearseMark w (met s) = finishSplice (sp.reason.elim .done Prod.fst) (sp.reason.bind Prod.snd) out false (met s) := by
        rw [rehearseMark_entered hmsplice hrehearse hentered, if_pos hfinal, completeSplice_eq hmsplice]
      have hfinish := finishSplice_rehearsal hmsplice hrehearse (sp.reason.elim .done Prod.fst) (sp.reason.bind Prod.snd) out
      rw [← hmark] at hfinish
      refine ⟨fun hreason => ?_, fun o r hreason => ?_⟩
      · rw [hreason] at hfinish
        exact hends hfinish
      · rw [hreason] at hfinish
        exact hends hfinish

end Sys2Proof.OutputLinesLaw
end

section
/-! SUPPORT. The records after a frame mark, by those of the state in which the head has entered its frame (R80, R91, R140, R142). -/

namespace Sys2Proof.MarkResults
open Sys2Proof.Machine Sys2Proof.SlotRequests Sys2Proof.EngineMarks Sys2Proof.MarkStages Sys2Proof.MarkTurns Sys2Proof.MarkOutcomes

variable {s : State} {f g : CaptureFrame} {i j k : SlotId} {x : Nat}

theorem takeMark_played (h : Reads s f g i j) : { takeMark s with mon := (played s f g).mon } = played s f g := by
  rw [takeMark_eq h]
  exact monitorMark_frame ..

theorem takeMark_head (h : Reads s f g i j) : (takeMark s).tl = (entered s).tl ∧ (takeMark s).gate = (entered s).gate
    ∧ (takeMark s).judge = (entered s).judge := by
  have hplayed := takeMark_played h
  obtain ⟨-, htl, hgate, -, hjudge⟩ := played_mon h
  generalize takeMark s = t at hplayed
  generalize played s f g = y at hplayed htl hgate hjudge
  exact ⟨(congrArg State.tl hplayed :).trans htl, (congrArg State.gate hplayed :).trans hgate, (congrArg State.judge hplayed :).trans hjudge⟩

theorem takeMark_serves (h : Reads s f g i j) (hclosed : (entered s).tl.offered = none → (intakeClose (marked s)).1.bind (·.slot) ≠ some k) :
    Served k (entered s) (takeMark s) := by
  have hplayed := takeMark_played h
  have hserves := played_serves (f := f) (g := g) hclosed
  generalize takeMark s = t at hplayed
  have hslots : t.slots = (played s f g).slots := (congrArg State.slots hplayed :)
  exact hserves.trans (.still (by rw [hslots]) (congrArg State.fetch hplayed :) (congrArg State.clock hplayed :))

/-- Without an offered frame the engine's work is that of the head. -/
theorem takeMark_unoffered (h : Reads s f g i j) (hno : s.tl.mode ≠ .play ∨ (entered s).tl.offered = none) :
    (takeMark s).eng = (entered s).eng ∧ (takeMark s).banks = (entered s).banks
    ∧ (3 ≤ freeSlots (entered s) → (takeMark s).notices = (entered s).notices) := by
  obtain ⟨heng, hbanks, hnotices⟩ := played_unoffered (f := f) (g := g) hno
  have hplayed := takeMark_played h
  generalize takeMark s = t at hplayed
  exact ⟨(congrArg State.eng hplayed :).trans heng, (congrArg State.banks hplayed :).trans hbanks,
    fun h3 => (congrArg State.notices hplayed :).trans (hnotices h3)⟩

theorem takeMark_offered (h : Reads s f g i j) (hmode : s.tl.mode = .play) (hx : (entered s).tl.offered = some x) :
    Engined (3 ≤ freeSlots (entered s)) (askDue (entered s).eng.prepared (prepareAt x (entered s))) (takeMark s) := by
  rw [takeMark_eq h]
  exact (Alike.engined (played_offered hmode hx)).monitor (some j)

/-- The coding list takes the frame that `v` offers. -/
structure OffersTo (closed : Option ClosedIntake) (v t : State) : Prop where
  some : ∀ x, v.tl.offered = .some x → t.coding = v.coding ++ [⟨x, closed.getD failedIntake, v.pre.closing.length + v.conceal.list.length, .none⟩]
  none : v.tl.offered = .none → t.coding = v.coding

theorem offer_offersTo (closed : Option ClosedIntake) (v : State) : OffersTo closed v (offer closed v) := by
  refine ⟨fun x hx => ?_, fun hno => ?_⟩
  · rw [offer_some hx]
  · rw [offer_none hno]
    exact (BlockWork.releaseOpt_work (closed.bind (·.slot)) v).coding

/-- The coding list takes the offered frame at its end (R91). -/
theorem takeMark_coding (h : Reads s f g i j) :
    (s.tl.mode ≠ .play ∨ (entered s).tl.offered = none → (takeMark s).coding = (entered s).coding)
    ∧ ∀ x, s.tl.mode = .play → (entered s).tl.offered = some x → (takeMark s).coding = (entered s).coding ++
      [⟨x, (intakeClose (marked s)).1.getD failedIntake, 1 + s.conceal.list.length, none⟩] := by
  have hplayed := takeMark_played h
  have hturned := (turnedBoth_work f g (dueNow (intakeClose (marked s)).2) (entered s)).frame
  obtain ⟨hpre, -⟩ := turnedBoth_channels f g (dueNow (intakeClose (marked s)).2) (entered s)
  have hconceal := (entered_stands h.conf).conceal
  have htl := turnedAt_tl s f g
  have hstill := fun hm => played_still (s := s) (f := f) (g := g) hm
  have hplay := fun hm => played_play (s := s) (f := f) (g := g) hm
  have hprep := (engineMark_prep (offeredAt s f g)).frame
  have hbegun := (begun_frame (intakeStale (marked s)) (turnedAt s f g)).1
  generalize takeMark s = t at hplayed
  generalize played s f g = y at hplayed hstill hplay
  have hty : t.coding = y.coding := (congrArg State.coding hplayed :)
  have hoffer : OffersTo (intakeClose (marked s)).1 (begun (intakeStale (marked s)) (turnedAt s f g)) (offeredAt s f g) := offer_offersTo ..
  generalize engineMark (offeredAt s f g) = e at hprep hplay
  generalize offeredAt s f g = o at hprep hoffer
  generalize begun (intakeStale (marked s)) (turnedAt s f g) = b at hbegun hoffer
  unfold turnedAt at *
  generalize turnedBoth f g (dueNow (intakeClose (marked s)).2) (entered s) = z at *
  have hzcoding : z.coding = (entered s).coding := (congrArg State.coding hturned :)
  have hzconceal : z.conceal = s.conceal := (congrArg State.conceal hturned :).trans hconceal
  have hbcoding : b.coding = z.coding := (congrArg State.coding hbegun :)
  have hbpre : b.pre = z.pre := (congrArg State.pre hbegun :)
  have hbconceal : b.conceal = z.conceal := (congrArg State.conceal hbegun :)
  have hbtl : b.tl = (entered s).tl := (congrArg State.tl hbegun :).trans htl
  have heo : e.coding = o.coding := (congrArg State.coding hprep :)
  refine ⟨fun hno => ?_, fun x hmode hx => ?_⟩
  · by_cases hmode : s.tl.mode = .play
    · rw [hty, hplay hmode, heo, hoffer.none (by rw [hbtl]; exact hno.resolve_left (not_not.mpr hmode)), hbcoding, hzcoding]
    · rw [hty, hstill hmode, hzcoding]
  · rw [hty, hplay hmode, heo, hoffer.some x (by rw [hbtl, hx]), hbcoding, hzcoding, hbpre, hpre, hbconceal, hzconceal]
    rfl

/-! ### The monitor (R80, R81, R84) -/

theorem played_mode (h : Reads s f g i j) : (played s f g).tl.mode = s.tl.mode := by
  rw [(played_mon h).2.1, entered_mode]

theorem takeMark_mon_still (h : Reads s f g i j) (hmode : s.tl.mode ≠ .play) :
    (takeMark s).mon = { s.mon with current := none, next := none, autoMix := false } := by
  rw [takeMark_eq h, monitorMark_still (by rw [played_mode h]; exact hmode), (played_mon h).1, entered_mon_still h.conf hmode]

theorem takeMark_override (h : Reads s f g i j) (hmode : s.tl.mode = .play) : (takeMark s).mon.override = (entered s).mon.override := by
  have hplay := monitorMark_play ((played_mode h).trans hmode) (some j)
  rw [takeMark_eq h, hplay, ← (played_mon h).1]

/-- The monitor's choice at a mark in PLAY, from the records after the mark. -/
structure Chooses (s : State) (j : SlotId) (t : State) : Prop where
  mon : t.mon = { s.mon with
    override := t.mon.override, current := s.mon.next.filter fun m => decide (t.tl.head = some m.addr), next := none, outPos := some 0
    preSlot := t.mon.preSlot, confSlot := some j, autoMix := t.mon.autoMix }
  begins : t.mon.autoMix = true ↔ t.mon.current.isSome = true ∧ writeEnable t = true
    ∧ ∃ w k, t.tl.head = some w ∧ t.gate.write = some ⟨w, k, 0⟩
  placed : t.tl.state = .locked ∨ t.tl.state = .coasting → ∀ k, t.mon.preSlot = some k ↔ ∃ w, t.tl.head = some w ∧ newestAt t w k
  aged : ¬(t.tl.state = .locked ∨ t.tl.state = .coasting) → ∀ k, t.mon.preSlot = some k ↔ t.slots[k].isPreRead = true
    ∧ ∃ before after, t.order = before ++ k :: after ∧ (after.filter fun l => t.slots[l].isPreRead).length + 1
      = min (s.geo.d - 1) (t.order.filter fun l => t.slots[l].isPreRead).length

theorem takeMark_mon_play (h : Reads s f g i j) (hmode : s.tl.mode = .play) : Chooses s j (takeMark s) := by
  have hstands := (entered_stands h.conf).mon
  have hplay := monitorMark_play ((played_mode h).trans hmode) (some j)
  obtain ⟨hmon, -, -, hgeo, -⟩ := played_mon h
  rw [takeMark_eq h, hplay]
  generalize played s f g = y at hmon hgeo ⊢
  rw [← hmon] at hstands
  have hnext : y.mon.next = s.mon.next := (congrArg Monitor.next hstands :)
  refine ⟨?_, ?_, choosePre_placed, fun hp k => ?_⟩
  · dsimp only
    rw [nextMixFor_eq, hnext]
    exact (congrArg (fun m : Monitor => { m with
      override := y.mon.override, current := s.mon.next.filter fun n : Mix => decide (y.tl.head = some n.addr), next := none, outPos := some 0
      preSlot := choosePre y, confSlot := some j
      autoMix := (s.mon.next.filter fun n : Mix => decide (y.tl.head = some n.addr)).isSome && writeBegins y }) hstands :)
  · exact Bool.and_eq_true_iff.trans (and_congr_right fun _ => writeBegins_iff y)
  · rw [← hgeo]
    exact choosePre_aged hp k

end Sys2Proof.MarkResults
end

section
/-! SUPPORT. A lay at a frame mark: the wait, the entry to LAYING, the end and the end of the tape (R17, R149, R157, R158). -/

namespace Sys2Proof.LayMarks
open Sys2Proof.Machine Sys2Proof.SpliceEnds Sys2Proof.StoreCommands Sys2Proof.BlockWork Sys2Proof.GateCuts Sys2Proof.LockLoss
open Sys2Proof.EngineBreaks Sys2Proof.Prepares Sys2Proof.EngineMarks Sys2Proof.MarkStages Sys2Proof.MarkTurns Sys2Proof.LoneHeads
open Sys2Proof.MarkResults

variable {s t u : State} {f g : CaptureFrame} {i j : SlotId} {e : Entry} {n : Nat}

/-! ### The wait (R157) -/

theorem layTick_waits (h : s.eng.layWait = some n) (hn : 1 < n) :
    layTick s = { s with eng := { s.eng with layWait := some (n - 1) } } := by
  unfold layTick
  rw [h]
  exact if_pos hn

/-- A mark that is not in LAYING keeps the timeline's state. -/
theorem reckon_state (h : s.tl.state ≠ .laying) : ∃ x, reckon s = { s with tl := x } ∧ x.state = s.tl.state := by
  unfold reckon
  split
  · exact ⟨_, rfl, rfl⟩
  · split
    · exact ⟨_, rfl, rfl⟩
    · exact ⟨_, rfl, rfl⟩
    · exact absurd ‹_› h
    · exact ⟨_, rfl, rfl⟩

/-- The engine stays as the head left it, when its own work changes nothing. -/
theorem takeMark_engine (h : Reads s f g i j)
    (hidle : ∀ x, (entered s).tl.offered = some x → askDue (entered s).eng.prepared (prepareAt x (entered s)) = entered s) :
    (takeMark s).eng = (entered s).eng := by
  by_cases hno : s.tl.mode ≠ .play ∨ (entered s).tl.offered = none
  · exact (takeMark_unoffered h hno).1
  · rw [not_or, not_not] at hno
    obtain ⟨x, hx⟩ := Option.ne_none_iff_exists'.mp hno.2
    rw [(takeMark_offered h hno.1 hx).eng, hidle x hx]

/-- While the marks after the START of a lay are counted, the engine does nothing else. -/
theorem takeMark_waits (h : Reads s f g i j) (hwait : s.eng.layWait = some n) (hn : 1 < n) (hentry : pendingEntry s 0 = some e)
    (hlay : e.lay = true) (hsplice : s.eng.splice = none) (hprepared : s.eng.prepared = []) (hstate : s.tl.state ≠ .laying) :
    (takeMark s).eng = { s.eng with layWait := some (n - 1) } ∧ (takeMark s).tl.state = s.tl.state := by
  obtain ⟨x, hx, hxstate⟩ := reckon_state (s := { s with eng := { s.eng with layWait := some (n - 1) } }) hstate
  have hmarked : marked s = { s with eng := { s.eng with layWait := some (n - 1) }, tl := x } := by
    unfold marked
    rw [layTick_waits hwait hn, hx]
  obtain ⟨heng, -, htl⟩ := entered_engine h.conf (by rw [hmarked]; exact hsplice)
  rw [hmarked] at heng htl
  refine ⟨(takeMark_engine h fun y hy => ?_).trans heng, ?_⟩
  · have hwaits : LayWaits (entered s) := ⟨e, by unfold pendingEntry at hentry ⊢; rw [heng]; exact hentry, hlay⟩
    rw [prepareAt_idle (.inr (.inr hwaits)), heng]
    show askDue s.eng.prepared (entered s) = entered s
    rw [hprepared]
    rfl
  · rw [(takeMark_head h).1, htl]
    exact hxstate

/-! ### The entry to LAYING (R17, R157) -/

/-- The record of a timeline that enters LAYING. -/
def toLaying (t : Timeline) (a : Nat) : Timeline :=
  { t with state := .laying, coast := 0, run := 0, candidate := none, timecode := none, generated := some a, handed := none }

/-- The lay entry, prepared to start where it is laid. -/
def laidPrep (s : State) (e : Entry) : Prepared :=
  ⟨0, e.inPoint, false, spanOf (framePairs s.clock.rate) e.inPoint e.outPoint, e.fadeIn, e.fadeOut, true⟩

/-- The engine that lays. -/
def laying (s : State) (e : Entry) : State := { s with eng := { s.eng with layWait := none, prepared := [laidPrep s e] } }

theorem layTick_lays (h : s.eng.layWait = some n) (hn : n ≤ 1) (hentry : pendingEntry s 0 = some e) (hmode : s.tl.mode = .play) :
    layTick s = timelineSet (toLaying s.tl e.inPoint.addr) (laying s e) := by
  have hpending : pendingEntry { s with eng := { s.eng with layWait := none } } 0 = some e := hentry
  unfold layTick
  rw [h]
  refine (if_neg (Nat.not_lt.mpr hn)).trans ?_
  dsimp only
  rw [hpending]
  exact if_neg (not_not.mpr hmode)

/-- The timeline takes the record of LAYING with a notice and the jog window alone. -/
theorem timelineSet_lays (a : Nat) (v : State) : (timelineSet (toLaying v.tl a) v).tl = toLaying v.tl a
    ∧ (timelineSet (toLaying v.tl a) v).eng = v.eng ∧ (timelineSet (toLaying v.tl a) v).geo = v.geo := by
  have hloss : loses v.tl (toLaying v.tl a) = false := Bool.and_false _
  rw [timelineSet_holds (fun h => by cases h) hloss]
  have hmoved := moved_frame (toLaying v.tl a) v
  generalize moved (toLaying v.tl a) v = m at hmoved
  have hjog := jogSync_frame m
  generalize jogSync m = w at hjog
  exact ⟨(congrArg State.tl hjog :).trans (congrArg State.tl hmoved :), (congrArg State.eng hjog :).trans (congrArg State.eng hmoved :),
    (congrArg State.geo hjog :).trans (congrArg State.geo hmoved :)⟩

/-- A mark in LAYING with an address to hand on. -/
theorem reckon_hands {a : Nat} (hmode : s.tl.mode = .play) (hstate : s.tl.state = .laying) (hgen : s.tl.generated.getD 2592000 = a)
    (ha : a < 2592000) : reckon s = { s with tl := layHand a s.tl s.geo.d s.geo.c } := by
  unfold reckon
  refine (if_neg (not_not.mpr hmode)).trans ?_
  rw [hstate]
  subst hgen
  exact if_pos (decide_eq_true ha)

theorem layHand_eq (a d c : Nat) (t : Timeline) : layHand a t d c = { t with
    head := t.offered, confHead := t.offered.bind fun w => if c ≤ w then some (w - c) else none, offered := some a, handed := some a
    generated := some (a + 1), position := if a + d - 2 < 2592000 then a + d - 2 else t.position } := by
  have hpos : (if legalAddr (a + d - 2) = true then a + d - 2 else t.position) = if a + d - 2 < 2592000 then a + d - 2 else t.position :=
    if_congr decide_eq_true_iff rfl rfl
  exact congrArg (fun p => { t with
    head := t.offered, confHead := t.offered.bind fun w => if c ≤ w then some (w - c) else none, offered := some a, handed := some a
    generated := some (a + 1), position := p }) hpos

theorem askDue_asked {p : Prepared} (h : p.asked = true) (s : State) : askDue [p] s = s := by
  refine MarkEngines.askDue_still ?_
  unfold bankDue
  rw [List.findSome?_cons, List.findSome?_nil, if_neg (by rw [h]; exact fun hc => Bool.false_ne_true hc.1.symm)]

/-- The timeline enters LAYING at the in-point, and hands the in-point on (R17, R157). -/
theorem takeMark_lays (h : Reads s f g i j) (hwait : s.eng.layWait = some n) (hn : n ≤ 1) (hentry : pendingEntry s 0 = some e)
    (hsplice : s.eng.splice = none) (hmode : s.tl.mode = .play) (ha : e.inPoint.addr < 2592000) :
    (takeMark s).tl = layHand e.inPoint.addr (toLaying s.tl e.inPoint.addr) s.geo.d s.geo.c
    ∧ (takeMark s).eng = (laying s e).eng
    ∧ ((takeMark s).coding.getLast?.map fun op => (op.addr, op.begun)) = some (e.inPoint.addr, none) := by
  obtain ⟨htl, heng, hgeo⟩ := timelineSet_lays e.inPoint.addr (laying s e)
  have hlays := layTick_lays hwait hn hentry hmode
  have hset : timelineSet (toLaying (laying s e).tl e.inPoint.addr) (laying s e) = layTick s := hlays.symm
  rw [hset] at htl heng hgeo
  have hmarked : marked s = { layTick s with tl := layHand e.inPoint.addr (layTick s).tl (layTick s).geo.d (layTick s).geo.c } :=
    reckon_hands (by rw [htl]; exact hmode) (by rw [htl]; rfl) (by rw [htl]; rfl) ha
  rw [htl, hgeo] at hmarked
  have hmarkedEng : (marked s).eng = (laying s e).eng := by rw [hmarked]; exact heng
  have hmarkedTl : (marked s).tl = layHand e.inPoint.addr (toLaying s.tl e.inPoint.addr) s.geo.d s.geo.c := by rw [hmarked]; rfl
  obtain ⟨hveng, -, hvtl⟩ := entered_engine h.conf (by rw [hmarkedEng]; exact hsplice)
  have hoffered : (entered s).tl.offered = some e.inPoint.addr := by rw [hvtl, hmarkedTl]; rfl
  refine ⟨(takeMark_head h).1.trans (hvtl.trans hmarkedTl), (takeMark_engine h fun x hx => ?_).trans (hveng.trans hmarkedEng), ?_⟩
  · have hidle : ¬Active (entered s) := fun hactive => by
      have hstate : (entered s).tl.state = .laying := by rw [hvtl, hmarkedTl]; rfl
      rcases hactive.2 with hs | hs <;> rw [hstate] at hs <;> cases hs
    have hprepared : (entered s).eng.prepared = [laidPrep s e] := by rw [hveng, hmarkedEng]; rfl
    rw [prepareAt_idle (.inl hidle), hprepared]
    exact askDue_asked rfl _
  · rw [(takeMark_coding h).2 _ hmode hoffered, List.getLast?_append]
    rfl

/-! ### The end of a lay (R17, R146, R158) -/

/-- How the engine goes on when the splice of an entry has ended. -/
structure EntryEnds (k : Fin 16) (s t : State) : Prop where
  splice : t.eng.splice = none
  finishing : s.eng.state = .finishing → t.eng.state = .done
  splicing : s.eng.state = .splicing → ((∃ l, l ≠ k ∧ (pendingEntry s l).isSome = true) → t.eng.state = .held)
    ∧ ((∀ l, l ≠ k → pendingEntry s l = none) → s.eng.mode = some .record → t.eng.state = .done)

theorem EntryEnds.of_eng {k : Fin 16} {v : State} (h : EntryEnds k v t) (heng : v.eng = s.eng) : EntryEnds k s t := by
  obtain ⟨hsplice, hfinishing, hsplicing⟩ := h
  unfold pendingEntry at hsplicing
  rw [heng] at hfinishing hsplicing
  exact ⟨hsplice, hfinishing, hsplicing⟩

section
variable {sp : Splice} {k : Fin 16} {o : Outcome} {r : Option Reason} {out : Option Point}

/-- The other entries stay as they are when the splice of an entry ends, and its own is PENDING no more. -/
theorem endSplice_pending (hsplice : s.eng.splice = some sp) (hindex : sp.index = some k) (o : Outcome) (r : Option Reason)
    (out : Option Point) : pendingEntry (endSplice o r out false s) k = none
    ∧ ∀ l, l ≠ k → pendingEntry (endSplice o r out false s) l = pendingEntry s l := by
  obtain ⟨x, bank, heng⟩ := MarkEngines.endSplice_engine hsplice o r out
  have hactive : (endSplice o r out false s).eng.active = s.eng.active.set k ((s.eng.active[k]).map fun a => { a with state := .ended o }) := by
    rw [heng]
    show (closeEntry sp o s).eng.active = _
    unfold closeEntry
    rw [hindex]
    rfl
  unfold pendingEntry
  rw [hactive]
  refine ⟨?_, fun l hl => ?_⟩
  · have hget : (s.eng.active.set k ((s.eng.active[k]).map fun a => { a with state := .ended o }))[k]
        = (s.eng.active[k]).map fun a => { a with state := .ended o } := Vector.getElem_set_self k.isLt
    rw [hget]
    cases s.eng.active[k] <;> rfl
  · have hget : (s.eng.active.set k ((s.eng.active[k]).map fun a => { a with state := .ended o }))[l] = s.eng.active[l] :=
      Vector.getElem_set_ne k.isLt l.isLt fun h => hl (Fin.ext h.symm)
    rw [hget]

theorem finishSplice_lay (hsplice : s.eng.splice = some sp) (hlay : sp.lay = true) (hindex : sp.index = some k) (o : Outcome)
    (r : Option Reason) (out : Option Point) : EntryEnds k s (finishSplice o r out false s) := by
  obtain ⟨x, bank, heng⟩ := MarkEngines.endSplice_engine hsplice o r out
  obtain ⟨hown, hothers⟩ := endSplice_pending hsplice hindex o r out
  have hnone := CodingEnds.finishSplice_splice o r out false s
  have hpunch : sp.index.isNone = false := by rw [hindex]; rfl
  rw [finishSplice_eq hsplice, hpunch, hlay] at hnone ⊢
  generalize endSplice o r out false s = v at heng hown hothers hnone
  have hvstate : v.eng.state = s.eng.state := (congrArg Engine.state heng :)
  have hvmode : v.eng.mode = s.eng.mode := (congrArg Engine.mode heng :)
  refine ⟨hnone, fun hstate => ?_, fun hstate => ?_⟩
  · rw [afterSplice_finishing (hvstate.trans hstate)]
    exact ProgramStops.setEng_state ..
  · have hgoes : v.eng.state ≠ .finishing := by rw [hvstate, hstate]; nofun
    refine ⟨fun ⟨l, hl, hpending⟩ => ?_, fun hlast hmode => ?_⟩
    · rw [afterSplice_pending hgoes ((isSome_pendingEntry_iff v).mpr ⟨l, by rw [hothers l hl]; exact hpending⟩)]
      exact ProgramStops.setEng_state ..
    · have hempty : ∀ l, pendingEntry v l = none := fun l => by
        by_cases hl : l = k
        · rw [hl, hown]
        · rw [hothers l hl, hlast l hl]
      rw [afterSplice_last hgoes (hasPending_none hempty), endPass_record (hvmode.trans hmode)]
      exact ProgramStops.setEng_state ..

theorem afterSplice_tl (punch lay : Bool) (s : State) : (afterSplice punch lay s).tl = s.tl := by
  have hset : ∀ st u, (setEng st u).tl = u.tl := fun st u => by rw [setEng_frame]
  unfold afterSplice endPass
  split
  · rfl
  · split
    · exact hset ..
    · split
      · exact hset ..
      · split <;> exact hset ..

theorem finishSplice_tl (hsplice : s.eng.splice = some sp) (o : Outcome) (r : Option Reason) (out : Option Point) :
    (finishSplice o r out false s).tl = laidOff sp s.tl s.geo.d := by
  obtain ⟨f, b, k, v, bank, h⟩ := endSplice_frame hsplice o r out false
  rw [finishSplice_eq hsplice, afterSplice_tl, h]

end

/-- What a lay leaves of the timeline, from the address `a` that it handed on last. -/
structure LayEnds (a d : Nat) (t : Timeline) : Prop where
  generated : t.generated = none
  handed : t.handed = none
  run : t.run = 0
  onTape : a + d - 2 < 2592000 → t.state = .acquiring ∧ t.candidate = some (a + d - 2)
  offTape : 2592000 ≤ a + d - 2 → t.state = .unlocked ∧ t.candidate = none

theorem leaveLaying_ends {a : Nat} {t : Timeline} (h : t.handed = some a) (d : Nat) : LayEnds a d (leaveLaying t d) := by
  unfold leaveLaying
  rw [h]
  by_cases hlegal : a + d - 2 < 2592000
  · have hleave : legalAddr (a + d - 2) = true := decide_eq_true hlegal
    dsimp only
    rw [if_pos hleave]
    exact ⟨rfl, rfl, rfl, fun _ => ⟨rfl, rfl⟩, fun hoff => absurd hlegal (Nat.not_lt.mpr hoff)⟩
  · have hleave : ¬legalAddr (a + d - 2) = true := fun hl => hlegal (of_decide_eq_true hl)
    dsimp only
    rw [if_neg hleave]
    exact ⟨rfl, rfl, rfl, fun hon => absurd hon hlegal, fun _ => ⟨rfl, rfl⟩⟩

theorem LayEnds.unplaced {a d : Nat} {t : Timeline} (h : LayEnds a d t) : ¬(t.state = .locked ∨ t.state = .coasting) := by
  by_cases hlegal : a + d - 2 < 2592000
  · rw [(h.onTape hlegal).1]
    nofun
  · rw [(h.offTape (Nat.not_lt.mp hlegal)).1]
    nofun

theorem dropUnbanked_state (p : Prepared) (e : Entry) (o : Outcome) (r : Option Reason) (s : State) :
    (dropUnbanked p e o r s).eng.state = s.eng.state := by
  obtain ⟨k, hk⟩ := nameAfter_frame (endPending p.index e o r p.late { s with
    intake := { s.intake with flyStart := none }, eng := { s.eng with prepared := s.eng.prepared.filter fun q => q != p } })
  exact (congrArg (fun x : State => x.eng.state) hk).trans (endPending_splice ..).2

theorem askFor_state (p : Prepared) (e : Entry) (s : State) : (askFor p e s).eng.state = s.eng.state := by
  obtain ⟨b, hb⟩ := CueActs.askBank_frame { s with intake := { s.intake with flyStart := some p.start.offset } }
  unfold askFor
  cases hask : askBank { s with intake := { s.intake with flyStart := some p.start.offset } } with
  | mk a v =>
    rw [hask] at hb
    obtain rfl : v = _ := hb
    cases a with
    | granted n => rfl
    | unavailable => exact dropUnbanked_state ..
    | mismatch =>
      refine (dropUnbanked_state ..).trans ?_
      split <;> rfl

theorem askDue_state (l : List Prepared) (s : State) : (askDue l s).eng.state = s.eng.state := by
  unfold askDue
  split
  · exact askFor_state ..
  · rfl

/-- The engine's work at a mark that is not reckoned keeps the splice in progress and the state. -/
theorem takeMark_unplaced (h : Reads s f g i j) (hstate : ¬((entered s).tl.state = .locked ∨ (entered s).tl.state = .coasting)) :
    (takeMark s).eng.splice = (entered s).eng.splice ∧ (takeMark s).eng.state = (entered s).eng.state := by
  by_cases hno : s.tl.mode ≠ .play ∨ (entered s).tl.offered = none
  · rw [(takeMark_unoffered h hno).1]
    exact ⟨rfl, rfl⟩
  · rw [not_or, not_not] at hno
    obtain ⟨x, hx⟩ := Option.ne_none_iff_exists'.mp hno.2
    rw [(takeMark_offered h hno.1 hx).eng, prepareAt_idle (.inl fun hactive => hstate hactive.2)]
    exact ⟨(askDue_prep ..).splice, askDue_state ..⟩

/-- A head that enters a frame with the gate in LAST completes the splice, and works without it from there. -/
theorem entered_last {sp : Splice} {w : Nat} (hconf : s.conf.assembly = some g) (hhead : (marked s).tl.head = some w)
    (hgate : (marked s).gate.state = .last) (hsplice : (marked s).eng.splice = some sp) : ∃ v o r out,
    v.eng = (marked s).eng ∧ v.tl = (marked s).tl ∧ v.geo = (marked s).geo ∧ CutWork (finishSplice o r out false v) (entered s) := by
  have hclose := (intakeClose_work (marked s)).frame
  have hmet := (met_stands hconf).1
  generalize (intakeClose (marked s)).2 = m at hclose hmet
  have hmtl : (met s).tl = (marked s).tl := by rw [hmet]; exact (congrArg State.tl hclose :)
  have hmgate : (met s).gate = (marked s).gate := by rw [hmet]; exact (congrArg State.gate hclose :)
  have hmgeo : (met s).geo = (marked s).geo := by rw [hmet]; exact (congrArg State.geo hclose :)
  have hmeng : (met s).eng = (marked s).eng := by rw [hmet]; exact (congrArg State.eng hclose :)
  have hcsplice : (closeGate (met s)).eng.splice = some sp := (congrArg Engine.splice hmeng).trans hsplice
  refine ⟨closeGate (met s), sp.reason.elim .done Prod.fst, sp.reason.bind Prod.snd, if sp.early.isSome then sp.early else sp.outPoint,
    hmeng, hmtl, hmgeo, ?_⟩
  have henter : gateEnter w (met s) = completeSplice (closeGate (met s)) := by
    unfold gateEnter
    rw [hmgate, hgate]
  rw [completeSplice_eq hcsplice] at henter
  unfold entered
  rw [enterHead_some (by rw [hmtl, hhead]), enterFrame, henter, rehearseMark_none (CodingEnds.finishSplice_splice ..)]
  exact ((abandonOps_cutWork ..).trans (.ofSlots (releasePassed_work ..))).trans (.ofSlots (releaseBehind_work _))

/-- The mark that enters the frame after the last of a lay (R17, R158). -/
theorem takeMark_endsLay {sp : Splice} {k : Fin 16} {a w : Nat} (h : Reads s f g i j) (hmode : s.tl.mode = .play)
    (hstate : s.tl.state = .laying) (hwait : s.eng.layWait = none) (hgen : s.tl.generated.getD 2592000 = a) (ha : a < 2592000)
    (hw : s.tl.offered = some w) (hgate : s.gate.state = .last) (hsplice : s.eng.splice = some sp) (hlay : sp.lay = true)
    (hindex : sp.index = some k) : LayEnds a s.geo.d (takeMark s).tl ∧ EntryEnds k s (takeMark s) := by
  have hmarked : marked s = { s with tl := layHand a s.tl s.geo.d s.geo.c } := by
    unfold marked
    rw [layTick_idle hwait]
    exact reckon_hands hmode hstate hgen ha
  obtain ⟨v, o, r, out, hveng, hvtl, hvgeo, hcut⟩ := entered_last (s := s) (w := w) (sp := sp) h.conf (by rw [hmarked]; exact hw)
    (by rw [hmarked]; exact hgate) (by rw [hmarked]; exact hsplice)
  rw [hmarked] at hveng hvtl hvgeo
  have hvsplice : v.eng.splice = some sp := (congrArg Engine.splice hveng).trans hsplice
  have hends := (finishSplice_lay hvsplice hlay hindex o r out).of_eng hveng
  have htl : (finishSplice o r out false v).tl = leaveLaying (layHand a s.tl s.geo.d s.geo.c) s.geo.d := by
    rw [finishSplice_tl hvsplice, hvtl, hvgeo]
    exact if_pos ⟨hlay, hstate⟩
  generalize finishSplice o r out false v = u at hcut hends htl
  have hleft := leaveLaying_ends (t := layHand a s.tl s.geo.d s.geo.c) rfl s.geo.d
  have hetl : (entered s).tl = u.tl := (congrArg State.tl hcut.frame :)
  have heeng : (entered s).eng = u.eng := (congrArg State.eng hcut.frame :)
  rw [← htl, ← hetl] at hleft
  obtain ⟨hkeptSplice, hkeptState⟩ := takeMark_unplaced h hleft.unplaced
  rw [heeng] at hkeptSplice hkeptState
  refine ⟨by rw [(takeMark_head h).1]; exact hleft, hkeptSplice.trans hends.splice, fun hs => hkeptState.trans (hends.finishing hs), fun hs =>
    ⟨fun hl => hkeptState.trans ((hends.splicing hs).1 hl), fun hl hm => hkeptState.trans ((hends.splicing hs).2 hl hm)⟩⟩

end Sys2Proof.LayMarks
end

section
/-! SUPPORT. A lay at the end of the tape (R17, R149, R157). -/

namespace Sys2Proof.TapeEnds
open Sys2Proof.Machine Sys2Proof.SpliceEnds Sys2Proof.StoreCommands Sys2Proof.LockLoss Sys2Proof.EngineBreaks Sys2Proof.Prepares
open Sys2Proof.MarkStages Sys2Proof.MarkTurns Sys2Proof.LoneHeads Sys2Proof.MarkResults

variable {s t : State} {f g : CaptureFrame} {i j : SlotId} {e : Entry}

/-! ### A break of a running program (R149) -/

theorem engineBreak_splice (hrun : s.eng.state = .waiting ∨ s.eng.state = .splicing ∨ s.eng.state = .finishing) :
    (engineBreak s).eng.splice = none := by
  cases hpunch : punchOpen s with
  | true =>
    rw [engineBreak_punch hpunch]
    exact spliceBroken_splice s
  | false =>
    obtain ⟨k, b, f, hframe⟩ := unprepared_frame (spliceBroken s)
    rw [engineBreak_runs hpunch ((breakable_iff _).mpr hrun), (heldOver_goesOn _).splice, hframe]
    exact (breakLay_keeps _).1.trans (spliceBroken_splice s)

/-- The lay entry has ended BROKEN at the front of a RECORD run. -/
structure LayBroken (e : Entry) (s t : State) : Prop where
  active : t.eng.active[(0 : Fin 16)] = some ⟨e, .ended .broken⟩
  result : ∃ x ∈ t.eng.results, x.tag = .program s.eng.run s.eng.pass 0 ∧ x.outcome = .broken ∧ x.actualIn = none ∧ x.actualOut = none

theorem heldOver_record (hmode : s.eng.mode = some .record) : (heldOver s).eng.active = s.eng.active := by
  unfold heldOver
  rw [endPass_record hmode]
  split
  · rw [setEng_frame]
  · split <;> rw [setEng_frame]

theorem endPending_broken (hentry : pendingEntry s 0 = some e) : LayBroken e s (endPending 0 e .broken none false s) := by
  have hends := BankRequests.endPending_ends (p := ⟨0, e.inPoint, false, 0, 0, 0, false⟩) hentry .broken none false
  obtain ⟨x, hlast, htag, houtcome, -, hin, hout⟩ := hends.result
  exact ⟨hends.active, x, List.mem_of_getLast? hlast, htag, houtcome, hin, hout⟩

theorem engineBreak_lay (hrun : s.eng.state = .waiting ∨ s.eng.state = .splicing ∨ s.eng.state = .finishing)
    (hentry : pendingEntry s 0 = some e) (hlay : e.lay = true) (hsplice : s.eng.splice = none) (hmode : s.eng.mode = some .record) :
    LayBroken e s (engineBreak s) := by
  have hbroken : spliceBroken s = s := endSplice_none hsplice ..
  have hbreak : breakLay s = endPending 0 e .broken none false s := by
    unfold breakLay
    rw [hentry]
    exact if_pos hlay
  obtain ⟨hactive, hresult⟩ := endPending_broken hentry
  obtain ⟨k, b, x, hframe⟩ := unprepared_frame s
  rw [engineBreak_runs (punchOpen_none hsplice) ((breakable_iff _).mpr hrun), hbroken]
  have hmodeEnd : (endPending 0 e .broken none false s).eng.mode = s.eng.mode := by
    rw [endPending, addResult_eq]
    rfl
  rw [hbreak] at hframe
  generalize endPending 0 e .broken none false s = u at hactive hresult hframe hmodeEnd
  have hover := heldOver_record (s := unprepared s) (by rw [hframe]; exact hmodeEnd.trans hmode)
  have hgoes := heldOver_goesOn (unprepared s)
  rw [hframe] at hover hgoes ⊢
  refine ⟨?_, ?_⟩
  · rw [hover]
    exact hactive
  · rw [hgoes.results]
    exact hresult

/-! ### The mark (R17) -/

/-- The record of a timeline that has run off the tape. -/
def runOff (t : Timeline) (c : Nat) : Timeline := { (t.layHeads c).unlock with offered := none, generated := none, handed := none }

/-- The state that the lock loss breaks. -/
def offTape (s : State) : State := moved (runOff s.tl s.geo.c) (cutGate .lock (endWrite s))

theorem offTape_frame (s : State) : (offTape s).eng = s.eng ∧ (offTape s).tl = runOff s.tl s.geo.c := by
  have hcut := cutGate_cut (.inr rfl) (endWrite s)
  refine ⟨?_, moved_tl ..⟩
  exact (congrArg State.eng (moved_frame (runOff s.tl s.geo.c) (cutGate .lock (endWrite s))) :).trans hcut.eng

/-- With no address left to hand on the mark loses the lock, and the engine breaks. -/
theorem marked_offTape (hmode : s.tl.mode = .play) (hstate : s.tl.state = .laying) (hwait : s.eng.layWait = none)
    (hoff : 2592000 ≤ s.tl.generated.getD 2592000) :
    (marked s).tl = runOff s.tl s.geo.c ∧ marked s = jogSync (cutGate .lock (engineBreak (offTape s))) := by
  have hcut := cutGate_cut (.inr rfl) (endWrite s)
  have hmarked : marked s = timelineSet (runOff s.tl s.geo.c) (cutGate .lock (endWrite s)) := by
    unfold marked
    rw [layTick_idle hwait]
    unfold reckon
    refine (if_neg (not_not.mpr hmode)).trans ?_
    rw [hstate]
    exact if_neg fun hl => absurd (of_decide_eq_true hl) (Nat.not_lt.mpr hoff)
  have hloss : loses (cutGate .lock (endWrite s)).tl (runOff s.tl s.geo.c) = true := by
    rw [hcut.tl]
    show (s.tl.state.hasLock && true) = true
    rw [hstate]
    rfl
  refine ⟨?_, ?_⟩
  · rw [hmarked, timelineSet_tl (by nofun)]
  · rw [hmarked, timelineSet_loses (fun h => by cases h) hloss]
    rfl

theorem marked_runsOff (hmode : s.tl.mode = .play) (hstate : s.tl.state = .laying) (hwait : s.eng.layWait = none)
    (hoff : 2592000 ≤ s.tl.generated.getD 2592000) :
    (marked s).tl = runOff s.tl s.geo.c ∧ (marked s).eng = (engineBreak (offTape s)).eng := by
  obtain ⟨htl, hmarked⟩ := marked_offTape hmode hstate hwait hoff
  refine ⟨htl, ?_⟩
  rw [hmarked, (jogSync_rest _).2.2.1]
  exact (cutGate_cut (.inr rfl) (engineBreak (offTape s))).eng

/-- A lay that runs off the tape (R17, R149, R157). -/
structure RunsOff (s t : State) : Prop where
  state : t.tl.state = .unlocked
  generated : t.tl.generated = none
  splice : ∀ sp, s.eng.splice = some sp → t.eng.splice = none ∧ ∃ x ∈ t.eng.results, x.tag = sp.tag ∧ x.outcome = .lostLock
  lay : ∀ e, pendingEntry s 0 = some e → e.lay = true → s.eng.splice = none → s.eng.mode = some .record → LayBroken e s t

theorem takeMark_runsOff (h : Reads s f g i j) (hmode : s.tl.mode = .play) (hstate : s.tl.state = .laying) (hwait : s.eng.layWait = none)
    (hoff : 2592000 ≤ s.tl.generated.getD 2592000)
    (hrun : s.eng.state = .waiting ∨ s.eng.state = .splicing ∨ s.eng.state = .finishing) : RunsOff s (takeMark s) := by
  obtain ⟨hoffEng, hoffTl⟩ := offTape_frame s
  obtain ⟨hmtl, hmeng⟩ := marked_runsOff hmode hstate hwait hoff
  have hnone : (marked s).eng.splice = none := by
    rw [hmeng]
    exact engineBreak_splice (by rw [hoffEng]; exact hrun)
  obtain ⟨hveng, -, hvtl⟩ := entered_engine h.conf hnone
  have htl := (takeMark_head h).1.trans (hvtl.trans hmtl)
  have heng : (takeMark s).eng = (engineBreak (offTape s)).eng :=
    (takeMark_unoffered h (.inr (by rw [hvtl, hmtl]; rfl))).1.trans (hveng.trans hmeng)
  refine ⟨by rw [htl]; rfl, by rw [htl]; rfl, fun sp hsp => ?_, fun e he hlay hsplice hrecord => ?_⟩
  · obtain ⟨hnone, r, hr, hresult⟩ := engineBreak_breaks (s := offTape s) (sp := sp) (by rw [hoffEng, hsp]) (.inr (by rw [hoffEng]; exact hrun))
    have hoffMode : (offTape s).tl.mode = .play := by rw [hoffTl]; exact hmode
    rw [heng]
    refine ⟨hnone, r, hr, ?_, ?_⟩
    · rw [hresult]
      rfl
    · rw [hresult]
      exact if_pos hoffMode
  · have hentry : pendingEntry (offTape s) 0 = some e := by
      unfold pendingEntry at he ⊢
      rw [hoffEng]
      exact he
    obtain ⟨hactive, hresult⟩ := engineBreak_lay (by rw [hoffEng]; exact hrun) hentry hlay (by rw [hoffEng, hsplice]) (by rw [hoffEng, hrecord])
    rw [hoffEng] at hresult
    exact ⟨by rw [heng]; exact hactive, by rw [heng]; exact hresult⟩

end Sys2Proof.TapeEnds
end

section
/-! SUPPORT. A frame mark is reckoned with the engine IDLE and the gate CLOSED (R8, R17). -/

namespace Sys2Proof.IdleMarks
open Sys2Proof.Machine Sys2Proof.StoreCommands Sys2Proof.BlockWork Sys2Proof.GateCuts Sys2Proof.LockLoss Sys2Proof.EngineBreaks
open Sys2Proof.MarkStages Sys2Proof.MarkTurns Sys2Proof.LoneHeads Sys2Proof.LayMarks Sys2Proof.TapeEnds

variable {s t u : State}

/-- An engine at rest, with nothing to write. -/
structure Rests (s : State) : Prop where
  state : s.eng.state = .idle
  splice : s.eng.splice = none
  prepared : s.eng.prepared = []
  layWait : s.eng.layWait = none
  gate : s.gate.state = .closed
  write : s.gate.write = none
  coding : s.coding = []

/-- The timeline after a mark with the engine at rest (R8, R17). -/
def idleTl (s : State) : Timeline :=
  let q := s.tl.position
  let d := s.geo.d
  let c := s.geo.c
  let laid := s.tl.generated.getD 2592000
  if s.tl.mode = .play ∧ (s.tl.state = .locked ∨ s.tl.state = .coasting) then { s.tl with
    head := if d ≤ q + 2 then some (q + 2 - d) else none
    confHead := if d + c ≤ q + 2 then some (q + 2 - (d + c)) else none
    offered := if d ≤ q + 3 ∧ q + 3 - d < 2592000 then some (q + 3 - d) else none }
  else if s.tl.mode = .play ∧ s.tl.state = .laying then
    let heads : Timeline := { s.tl with
      head := s.tl.offered, confHead := s.tl.offered.bind fun w => if c ≤ w then some (w - c) else none }
    if laid < 2592000 then { heads with
      offered := some laid, handed := some laid, generated := some (laid + 1)
      position := if laid + d - 2 < 2592000 then laid + d - 2 else q }
    else { heads with
      offered := none, handed := none, generated := none, state := .unlocked, coast := 0, candidate := none, run := 0 }
  else { s.tl with head := none, confHead := none, offered := none }

/-- A mark at which a lay has no address left to hand on. -/
def OffTape (s : State) : Prop := s.tl.mode = .play ∧ s.tl.state = .laying ∧ 2592000 ≤ s.tl.generated.getD 2592000

/-! ### A mark that hands on (R8, R17) -/

theorem placedTl_eq (hmode : s.tl.mode = .play) (hstate : s.tl.state = .locked ∨ s.tl.state = .coasting) : placedTl s = idleTl s := by
  have hoffer : reckonedOffer s.tl.position s.geo.d = if s.geo.d ≤ s.tl.position + 3 ∧ s.tl.position + 3 - s.geo.d < 2592000
      then some (s.tl.position + 3 - s.geo.d) else none := if_congr (and_congr_right fun _ => decide_eq_true_iff) rfl rfl
  unfold idleTl placedTl
  rw [hoffer]
  exact (if_pos ⟨hmode, hstate⟩).symm

theorem handTl_eq (hmode : s.tl.mode = .play) (hstate : s.tl.state = .laying) (hlaid : s.tl.generated.getD 2592000 < 2592000) :
    layHand (s.tl.generated.getD 2592000) s.tl s.geo.d s.geo.c = idleTl s := by
  have hnot : ¬(s.tl.mode = .play ∧ (s.tl.state = .locked ∨ s.tl.state = .coasting)) := by
    rw [hstate]
    exact fun h => h.2.elim nofun nofun
  rw [layHand_eq]
  exact ((if_neg hnot).trans ((if_pos ⟨hmode, hstate⟩).trans (if_pos hlaid))).symm

theorem unreckoned_eq (h : ¬(s.tl.mode = .play ∧ (s.tl.state = .locked ∨ s.tl.state = .coasting)))
    (hlay : ¬(s.tl.mode = .play ∧ s.tl.state = .laying)) : s.tl.unreckoned = idleTl s :=
  ((if_neg h).trans (if_neg hlay)).symm

theorem runOff_eq (h : OffTape s) : runOff s.tl s.geo.c = idleTl s := by
  obtain ⟨hmode, hstate, hoff⟩ := h
  have hnot : ¬(s.tl.mode = .play ∧ (s.tl.state = .locked ∨ s.tl.state = .coasting)) := by
    rw [hstate]
    exact fun h => h.2.elim nofun nofun
  exact ((if_neg hnot).trans ((if_pos ⟨hmode, hstate⟩).trans (if_neg (Nat.not_lt.mpr hoff)))).symm

theorem marked_idle (h : Rests s) (hon : ¬OffTape s) : marked s = { s with tl := idleTl s } := by
  have hreckon : marked s = reckon s := congrArg reckon (layTick_idle h.layWait)
  by_cases hmode : s.tl.mode = .play
  · by_cases hplaced : s.tl.state = .locked ∨ s.tl.state = .coasting
    · rw [marked_placed hmode hplaced h.layWait, placedTl_eq hmode hplaced]
    · by_cases hlaying : s.tl.state = .laying
      · have hlaid : s.tl.generated.getD 2592000 < 2592000 := Nat.not_le.mp fun hoff => hon ⟨hmode, hlaying, hoff⟩
        rw [hreckon, reckon_hands hmode hlaying rfl hlaid, handTl_eq hmode hlaying hlaid]
      · rw [hreckon, ← unreckoned_eq (fun hp => hplaced hp.2) (fun hl => hlaying hl.2)]
        unfold reckon
        refine (if_neg (not_not.mpr hmode)).trans ?_
        cases hstate : s.tl.state with
        | locked => exact absurd (.inl hstate) hplaced
        | coasting => exact absurd (.inr hstate) hplaced
        | laying => exact absurd hstate hlaying
        | unlocked => rfl
        | acquiring => rfl
        | parked => rfl
  · rw [hreckon, ← unreckoned_eq (fun hp => hmode hp.1) (fun hl => hmode hl.1)]
    exact if_pos hmode

/-! ### A mark off the tape (R17) -/

/-- From `s` to `t` the slots, the jog window and the timeline change alone. -/
structure RestWork (s t : State) : Prop where
  frame : { t with slots := s.slots, order := s.order, jog := s.jog, tl := s.tl } = s

theorem RestWork.trans (h : RestWork s t) (k : RestWork t u) : RestWork s u :=
  ⟨(congrArg (fun x : State => { x with slots := s.slots, order := s.order, jog := s.jog, tl := s.tl }) k.frame).trans h.frame⟩

theorem RestWork.eng (h : RestWork s t) : t.eng = s.eng := (congrArg State.eng h.frame :)

theorem RestWork.gate (h : RestWork s t) : t.gate = s.gate := (congrArg State.gate h.frame :)

theorem RestWork.coding (h : RestWork s t) : t.coding = s.coding := (congrArg State.coding h.frame :)

theorem SlotWork.rest (h : SlotWork s t) : RestWork s t :=
  ⟨(congrArg (fun x : State => { x with jog := s.jog, tl := s.tl }) h.frame :)⟩

/-- With the gate CLOSED and nothing to code, a cut for the lock gives slots back and does nothing else. -/
theorem cutGate_rests (hclosed : s.gate.state = .closed) (hcoding : s.coding = []) : RestWork s (cutGate .lock s) := by
  have hwork := releaseUnwritten_work s
  have hsame : { s with coding := s.coding.map CodingOp.slotless } = s := by rw [hcoding, List.map_nil, ← hcoding]
  rw [hsame] at hwork
  rw [cutGate_releases hclosed (.inr rfl)]
  exact SlotWork.rest hwork

theorem jogSync_rests (s : State) : RestWork s (jogSync s) := by
  have hframe := jogSync_frame s
  generalize jogSync s = t at hframe
  exact ⟨(congrArg (fun x : State => { x with tl := s.tl }) hframe :)⟩

theorem marked_rests (h : Rests s) : RestWork s (marked s) ∧ (marked s).tl = idleTl s := by
  by_cases hoff : OffTape s
  · obtain ⟨hmode, hstate, hlaid⟩ := hoff
    have hwritten : endWrite s = s := by unfold endWrite; rw [← h.write]
    have hcut : RestWork s (cutGate .lock (endWrite s)) := by
      rw [hwritten]
      exact cutGate_rests h.gate h.coding
    have hcutTl := (cutGate_cut (.inr rfl) (endWrite s)).tl
    have hmoved : offTape s = { cutGate .lock (endWrite s) with tl := runOff s.tl s.geo.c } := by
      refine if_neg fun hl => ?_
      rw [hcutTl] at hl
      exact absurd (hstate.symm.trans hl.1) nofun
    have hoffWork : RestWork s (offTape s) := by
      rw [hmoved]
      exact hcut.trans ⟨rfl⟩
    have hstill : engineBreak (offTape s) = offTape s := engineBreak_still (by rw [hoffWork.eng, h.splice]) (by
      rw [hoffWork.eng, h.state]
      exact fun hr => hr.elim nofun fun hr => hr.elim nofun nofun)
    obtain ⟨htl, hmarked⟩ := marked_offTape hmode hstate h.layWait hlaid
    refine ⟨?_, htl.trans (runOff_eq ⟨hmode, hstate, hlaid⟩)⟩
    rw [hmarked, hstill]
    exact (hoffWork.trans (cutGate_rests (by rw [hoffWork.gate, h.gate]) (by rw [hoffWork.coding, h.coding]))).trans (jogSync_rests _)
  · rw [marked_idle h hoff]
    exact ⟨⟨rfl⟩, rfl⟩

end Sys2Proof.IdleMarks
end

section
/-! SUPPORT. The records after a mark with the engine at rest (R49, R84, R88, R91, R106). -/

namespace Sys2Proof.IdleRecords
open Sys2Proof.Machine Sys2Proof.StoreCommands Sys2Proof.BlockWork Sys2Proof.GateMarks Sys2Proof.HeadReleases Sys2Proof.SlotRequests
open Sys2Proof.IntakeCloses Sys2Proof.MarkStages Sys2Proof.MarkTurns Sys2Proof.MarkOutcomes Sys2Proof.LoneHeads Sys2Proof.MarkEngines
open Sys2Proof.MarkResults Sys2Proof.IdleMarks Sys2Proof.Readers

variable {s t m : State} {f g : CaptureFrame} {i j : SlotId}

/-! ### The head enters its frame (R29, R30) -/

/-- What the head has passed is given back, when there is a head. -/
def headPassed (m : State) : State := m.tl.head.elim m fun w => releasePassed w m

theorem headPassed_work (m : State) : SlotWork m (headPassed m) := by
  unfold headPassed
  cases m.tl.head with
  | none => exact .refl m
  | some w => exact releasePassed_work w m

/-- With the gate CLOSED, no splice and nothing to code, the head gives slots back and does nothing else. -/
theorem enterHead_rests (hgate : m.gate.state = .closed) (hsplice : m.eng.splice = none) (hcoding : m.coding = []) :
    enterHead m = headPassed m := by
  have hcleared : ∀ w, abandonUpTo w m = m := fun w => by
    unfold abandonUpTo
    rw [abandonOps_eq, hcoding, List.filter_nil, List.filter_nil]
    show { m with coding := [] } = m
    rw [← hcoding]
  unfold headPassed
  cases hw : m.tl.head with
  | none => exact enterHead_none hw
  | some w =>
    rw [enterHead_some hw, enterFrame, gateEnter_closed hgate, rehearseMark_none hsplice, hcleared]
    rfl

/-- What the head meets at a mark with the engine at rest. -/
theorem met_rests (h : Rests s) (hconf : s.conf.assembly = some g) : IntakeWork s { met s with
      slots := s.slots, order := s.order, jog := s.jog, tl := s.tl, judge := s.judge }
    ∧ (met s).tl = idleTl s ∧ (met s).judge = (tickJudge s).judge := by
  obtain ⟨hrest, htl⟩ := marked_rests h
  have hclose := (intakeClose_work (marked s)).frame
  have hmet := (met_stands hconf).1
  rw [hmet]
  generalize (intakeClose (marked s)).2 = c at hclose
  generalize marked s = d at hrest htl hclose
  have hjudge : c.judge = s.judge := (congrArg State.judge hclose :).trans (congrArg State.judge hrest.frame :)
  have hctl : c.tl = d.tl := (congrArg State.tl hclose :)
  refine ⟨⟨?_⟩, hctl.trans htl, by unfold tickJudge; rw [hjudge]⟩
  have hboth := (congrArg (fun x : State => { x with
    slots := s.slots, order := s.order, jog := s.jog, tl := s.tl, notices := s.notices, fresh := s.fresh, intake := s.intake }) hclose :)
  have hfirst := (congrArg (fun x : State => { x with notices := s.notices, fresh := s.fresh, intake := s.intake }) hrest.frame :)
  have hall := hboth.trans hfirst
  exact (congrArg (fun x : State => { x with judge := s.judge }) hall :)

/-- What the mark leaves when the head has entered its frame: the intake's close, the timeline, the judge list and slots given back. -/
theorem entered_rests (h : Rests s) (hconf : s.conf.assembly = some g) : entered s = releaseBehind (headPassed (met s))
    ∧ SlotWork (met s) (entered s) := by
  have hmet := (met_rests h hconf).1.frame
  generalize hm : met s = m at hmet
  have hgate : m.gate = s.gate := (congrArg State.gate hmet :)
  have heng : m.eng = s.eng := (congrArg State.eng hmet :)
  have hcoding : m.coding = s.coding := (congrArg State.coding hmet :)
  have hentered : entered s = releaseBehind (headPassed m) := by
    unfold entered
    rw [hm, enterHead_rests (by rw [hgate, h.gate]) (by rw [heng, h.splice]) (by rw [hcoding, h.coding])]
  refine ⟨hentered, ?_⟩
  rw [hentered]
  exact (headPassed_work m).trans (releaseBehind_work _)

/-- The records that stand when the head has entered its frame. -/
structure EnteredRests (s v : State) : Prop where
  tl : v.tl = idleTl s
  gate : v.gate = s.gate
  eng : v.eng = s.eng
  coding : v.coding = []
  judge : v.judge = (tickJudge s).judge
  mon : v.mon = s.mon
  intake : v.intake = (intakeClose (marked s)).2.intake

theorem entered_records (h : Rests s) (hconf : s.conf.assembly = some g) : EnteredRests s (entered s) := by
  obtain ⟨hmet, htl, hjudge⟩ := met_rests h hconf
  have hwork := (entered_rests h hconf).2.frame
  have hintake : (met s).intake = (intakeClose (marked s)).2.intake := by
    rw [(met_stands hconf).1]
    rfl
  have hmetFrame := hmet.frame
  generalize entered s = v at hwork
  generalize met s = m at hmetFrame htl hjudge hwork hintake
  exact ⟨(congrArg State.tl hwork :).trans htl, (congrArg State.gate hwork :).trans (congrArg State.gate hmetFrame :),
    (congrArg State.eng hwork :).trans (congrArg State.eng hmetFrame :),
    ((congrArg State.coding hwork :).trans (congrArg State.coding hmetFrame :)).trans h.coding, (congrArg State.judge hwork :).trans hjudge,
    (congrArg State.mon hwork :).trans (congrArg State.mon hmetFrame :), (congrArg State.intake hwork :).trans hintake⟩

/-! ### The other records -/

/-- An engine at rest does nothing at a mark. -/
theorem engineMark_rests (hstate : t.eng.state = .idle) (hprepared : t.eng.prepared = []) : engineMark t = t := by
  have hover : Over t := .inr ⟨by rw [hstate]; nofun, by rw [hstate]; nofun, hprepared⟩
  exact (engineMark_over hover).2.2 (by rw [hstate]; nofun) (by rw [hstate]; nofun)

theorem played_rests (h : Rests s) (hreads : Reads s f g i j) (hmode : s.tl.mode = .play) : played s f g = offeredAt s f g := by
  have heng := (entered_records h hreads.conf).eng
  have hoffered := (offeredAt_alike s f g).1.eng
  rw [played_play hmode]
  exact engineMark_rests (by rw [hoffered, heng, h.state]) (by rw [hoffered, heng, h.prepared])

/-- The channels after the mark (R49). -/
theorem takeMark_channels (h : Reads s f g i j) :
    (takeMark s).pre.closing = [⟨f, true, s.tl.mode, s.tl.dir, 0⟩] ∧ (takeMark s).pre.assembly.isSome = true
    ∧ (takeMark s).conf.closing = [⟨g, true, s.tl.mode, s.tl.dir, dueNow (intakeClose (marked s)).2⟩]
    ∧ (takeMark s).conf.assembly.isSome = true := by
  obtain ⟨hpre, hpreIn, hconf, hconfIn⟩ := turnedBoth_channels f g (dueNow (intakeClose (marked s)).2) (entered s)
  have hplayed := takeMark_played h
  have hwork := (played_work s f g).frame
  have hmode := entered_mode s
  unfold turnedAt at hwork
  generalize takeMark s = t at hplayed ⊢
  generalize played s f g = y at hplayed hwork
  generalize turnedBoth f g (dueNow (intakeClose (marked s)).2) (entered s) = z at *
  have htpre : t.pre = z.pre := (congrArg State.pre hplayed :).trans (congrArg State.pre hwork :)
  have htconf : t.conf = z.conf := (congrArg State.conf hplayed :).trans (congrArg State.conf hwork :)
  rw [hmode, entered_dir] at hpre hconf
  rw [htpre, htconf]
  exact ⟨hpre, hpreIn, hconf, hconfIn⟩

/-- The entries of the judge list that the mark designates (R106). -/
theorem dueNow_rests (h : Rests s) : dueNow (intakeClose (marked s)).2
    = (s.judge.filter fun e => !e.designated && decide (e.due ≤ 1)).length := by
  have hclose := (congrArg State.judge (intakeClose_work (marked s)).frame :)
  have hrest := (congrArg State.judge (marked_rests h).1.frame :)
  unfold dueNow
  rw [hclose, hrest]

/-- In PLAY the monitor chooses, and AUTO plays nothing while the gate is CLOSED. -/
theorem takeMark_mon_rests (h : Rests s) (hreads : Reads s f g i j) (hmode : s.tl.mode = .play) : (takeMark s).mon = { s.mon with
    current := s.mon.next.filter fun m => decide ((idleTl s).head = some m.addr), next := none, outPos := some 0
    preSlot := (takeMark s).mon.preSlot, confSlot := some j, autoMix := false } := by
  obtain ⟨hmon, hbegins, -, -⟩ := takeMark_mon_play hreads hmode
  obtain ⟨htl, hgate, -⟩ := takeMark_head hreads
  have hrecords := entered_records h hreads.conf
  have hshut : writeEnable (takeMark s) = false := by
    rw [writeEnable, hgate, hrecords.gate, h.gate]
    rfl
  have hauto : (takeMark s).mon.autoMix = false := Bool.eq_false_iff.mpr fun hm => by
    rw [(hbegins.mp hm).2.1] at hshut
    cases hshut
  have hoverride : (takeMark s).mon.override = s.mon.override := by
    rw [takeMark_override hreads hmode, hrecords.mon]
  rw [hauto, hoverride, htl, hrecords.tl] at hmon
  exact hmon

/-! ### The intake (R88) -/

theorem marked_intake (h : Rests s) : (marked s).intake = s.intake ∧ (marked s).clock = s.clock := by
  have hrest := (marked_rests h).1.frame
  exact ⟨(congrArg State.intake hrest :), (congrArg State.clock hrest :)⟩

theorem intakeStale_rests (h : Rests s) : intakeStale (marked s) = true ↔ ∃ k, s.intake.frame = some k ∧ k.rate ≠ s.clock.rate := by
  obtain ⟨hintake, hclock⟩ := marked_intake h
  unfold intakeStale
  rw [hintake, hclock, Option.any_eq_true]
  exact exists_congr fun k => and_congr_right fun _ => bne_iff_ne

/-- In PLAY the intake begins its next frame, unless the one that closed was of another rate. -/
theorem takeMark_intake (h : Rests s) (hreads : Reads s f g i j) (hmode : s.tl.mode = .play) :
    (takeMark s).intake.flyStart = none ∧ ((∃ k, s.intake.frame = some k ∧ k.rate ≠ s.clock.rate) → (takeMark s).intake.frame = none)
    ∧ (¬(∃ k, s.intake.frame = some k ∧ k.rate ≠ s.clock.rate) → ∃ o, (takeMark s).intake.frame = some (bareIntake o s.clock.rate)) := by
  have hplayed := takeMark_played hreads
  have hclosed := intakeClose_intake ((marked_mode s).trans hmode)
  have hin := (entered_records h hreads.conf).intake
  have hturned := (turnedBoth_work f g (dueNow (intakeClose (marked s)).2) (entered s)).frame
  have hclock := (entered_stands hreads.conf).clock
  have hoffer := offer_frame (intakeClose (marked s)).1 (begun (intakeStale (marked s)) (turnedAt s f g))
  have hbegun := begun_eq (intakeStale (marked s)) (turnedAt s f g)
  have hgranted := granted_frame .intake none (turnedAt s f g)
  rw [hclosed] at hin
  rw [played_rests h hreads hmode] at hplayed
  rw [← intakeStale_rests h]
  unfold offeredAt offered at hplayed
  generalize takeMark s = t at hplayed ⊢
  generalize offer (intakeClose (marked s)).1 (begun (intakeStale (marked s)) (turnedAt s f g)) = o at hplayed hoffer
  generalize begun (intakeStale (marked s)) (turnedAt s f g) = b at hbegun hoffer
  unfold turnedAt at hbegun hgranted
  generalize turnedBoth f g (dueNow (intakeClose (marked s)).2) (entered s) = z at hturned hbegun hgranted
  have hz : z.intake = (entered s).intake := (congrArg State.intake hturned :)
  have hzclock : z.clock = s.clock := (congrArg State.clock hturned :).trans hclock
  have ht : t.intake = b.intake := (congrArg State.intake hplayed :).trans (congrArg State.intake hoffer :)
  have hgintake : (granted .intake none z).intake = z.intake := (congrArg State.intake hgranted :)
  rw [ht, hbegun]
  cases intakeStale (marked s) with
  | true =>
    rw [if_pos rfl, hz, hin]
    exact ⟨rfl, fun _ => rfl, fun hn => absurd rfl hn⟩
  | false =>
    rw [if_neg Bool.false_ne_true]
    refine ⟨?_, fun hn => absurd hn Bool.false_ne_true, fun _ => ⟨chooseSlot z, ?_⟩⟩
    · show (granted .intake none z).intake.flyStart = none
      rw [hgintake, hz, hin]
    · rw [← hzclock]
      rfl

/-- Outside PLAY the intake stands. -/
theorem takeMark_intake_still (h : Rests s) (hreads : Reads s f g i j) (hmode : s.tl.mode ≠ .play) : (takeMark s).intake = s.intake := by
  have hplayed := takeMark_played hreads
  have hmarkedMode : (marked s).tl.mode ≠ .play := by rw [marked_mode]; exact hmode
  have hin := (entered_records h hreads.conf).intake
  have hturned := (turnedBoth_work f g (dueNow (intakeClose (marked s)).2) (entered s)).frame
  rw [played_still hmode] at hplayed
  rw [intakeClose_still hmarkedMode, (marked_intake h).1] at hin
  unfold turnedAt at hplayed
  generalize turnedBoth f g (dueNow (intakeClose (marked s)).2) (entered s) = z at hturned hplayed
  generalize takeMark s = t at hplayed ⊢
  exact (congrArg State.intake hplayed :).trans ((congrArg State.intake hturned :).trans hin)

/-- What the mark hands on. -/
def handed (s : State) : ClosedIntake := s.intake.frame.elim failedIntake (handedOn s)

theorem intakeClose_handed (h : Rests s) (hmode : s.tl.mode = .play) : (intakeClose (marked s)).1.getD failedIntake = handed s := by
  obtain ⟨hintake, hclock⟩ := marked_intake h
  have hsame : ∀ k, handedOn (marked s) k = handedOn s k := fun k => by
    unfold handedOn fullSlips fullTags lacks
    rw [hintake, hclock]
  rw [intakeClose_play ((marked_mode s).trans hmode), handed]
  cases hframe : s.intake.frame with
  | none =>
    rw [closeIntake_none (by rw [hintake, hframe])]
    rfl
  | some k =>
    rw [closeIntake_some (by rw [hintake, hframe])]
    exact hsame k

theorem takeMark_coding_rests (h : Rests s) (hreads : Reads s f g i j) :
    (s.tl.mode = .play → (takeMark s).coding = (idleTl s).offered.toList.map fun x => ⟨x, handed s, 1 + s.conceal.list.length, none⟩)
    ∧ (s.tl.mode ≠ .play → (takeMark s).coding = []) := by
  obtain ⟨hno, hyes⟩ := takeMark_coding hreads
  have hrecords := entered_records h hreads.conf
  refine ⟨fun hmode => ?_, fun hmode => (hno (.inl hmode)).trans hrecords.coding⟩
  cases hx : (idleTl s).offered with
  | none => exact (hno (.inr (by rw [hrecords.tl, hx]))).trans hrecords.coding
  | some x =>
    rw [hyes x hmode (by rw [hrecords.tl, hx]), hrecords.coding, intakeClose_handed h hmode]
    rfl

end Sys2Proof.IdleRecords
end

section
/-! SUPPORT. The PRE-READ slots, in allocation order, through a frame mark (R29, R30, R88). -/

namespace Sys2Proof.ReadOrder
open Sys2Proof.Machine Sys2Proof.StepLaws Sys2Proof.StoreCommands Sys2Proof.SlotSteps Sys2Proof.HeadReleases
open Sys2Proof.IntakeCloses Sys2Proof.IntakeSlots Sys2Proof.MarkStages

variable {s t u : State} {i k : SlotId} {l : List SlotId} {w : Nat}

/-- The PRE-READ slots in the order of their allocation. -/
def readsOf (s : State) : List SlotId := s.order.filter fun i => s.slots[i].isPreRead

/-- From `s` to `t` the PRE-READ slots keep their order and their addresses. -/
structure SameReads (s t : State) : Prop where
  reads : readsOf t = readsOf s
  addr : ∀ k ∈ readsOf s, t.slots[k].addr = s.slots[k].addr
  nodup : s.order.Nodup → t.order.Nodup

theorem SameReads.refl (s : State) : SameReads s s := ⟨rfl, fun _ _ => rfl, id⟩

theorem SameReads.trans (h : SameReads s t) (k : SameReads t u) : SameReads s u :=
  ⟨k.reads.trans h.reads, fun i hi => (k.addr i (h.reads ▸ hi)).trans (h.addr i hi), fun hn => k.nodup (h.nodup hn)⟩

theorem filter_erase_of_not {α : Type} [BEq α] [LawfulBEq α] {p : α → Bool} {a : α} (h : p a = false) (l : List α) :
    (l.erase a).filter p = l.filter p := by
  induction l with
  | nil => rfl
  | cons b l ih =>
    by_cases hba : b = a
    · subst hba
      rw [List.erase_cons_head, List.filter_cons_of_neg (by rw [h]; exact Bool.false_ne_true)]
    · rw [List.erase_cons_tail (by rw [beq_iff_eq]; exact hba), List.filter_cons, List.filter_cons, ih]

/-- A slot without pre-read audio, before and after, leaves the others as they are. -/
theorem SameReads.of (hother : ∀ k, k ≠ i → t.slots[k] = s.slots[k]) (hs : s.slots[i].isPreRead = false)
    (ht : t.slots[i].isPreRead = false) (horder : t.order = s.order ∨ t.order = s.order.erase i) : SameReads s t := by
  have hread : (fun k : SlotId => t.slots[k].isPreRead) = fun k : SlotId => s.slots[k].isPreRead := funext fun k => by
    by_cases hk : k = i
    · rw [hk, ht, hs]
    · rw [hother k hk]
  refine ⟨?_, fun k hk => ?_, fun hn => ?_⟩
  · unfold readsOf
    rw [hread]
    rcases horder with h | h
    · rw [h]
    · rw [h]
      exact filter_erase_of_not (p := fun k : SlotId => s.slots[k].isPreRead) hs s.order
  · have hki : k ≠ i := fun hki => by
      subst hki
      exact Bool.false_ne_true (hs.symm.trans (List.mem_filter.mp hk).2)
    rw [hother k hki]
  · rcases horder with h | h
    · rw [h]
      exact hn
    · rw [h]
      exact hn.erase i

/-! ### Slots given back (R31) -/

theorem releaseOrDue_reads (h : s.slots[i].isPreRead = false) : SameReads s (releaseOrDue i s)
    ∧ ∀ k : SlotId, s.slots[k].isPreRead = false → (releaseOrDue i s).slots[k].isPreRead = false := by
  have hown : (releaseOrDue i s).slots[i].isPreRead = false := by
    unfold releaseOrDue
    split
    · rw [modifySlot_get_same]
      exact h
    · rw [releaseSlot_get_same]
      rfl
  refine ⟨.of (i := i) (fun k hk => releaseOrDue_get_other (Ne.symm hk) s) h hown ?_, fun k hk => ?_⟩
  · unfold releaseOrDue
    split
    · exact .inl rfl
    · exact .inr rfl
  · by_cases hik : i = k
    · exact hik ▸ hown
    · rw [releaseOrDue_get_other hik]
      exact hk

theorem releaseAll_reads (h : ∀ i ∈ l, s.slots[i].isPreRead = false) : SameReads s (releaseAll l s) := by
  induction l generalizing s with
  | nil => exact .refl s
  | cons i l ih =>
    obtain ⟨hfirst, hkept⟩ := releaseOrDue_reads (h i List.mem_cons_self)
    exact hfirst.trans (ih fun k hk => hkept k (h k (List.mem_cons_of_mem _ hk)))

theorem releasePassed_reads (w : Nat) (s : State) : SameReads s (releasePassed w s) :=
  releaseAll_reads fun _ hi => LockLoss.coded_isPreRead (mem_passed.mp hi).1

/-! ### The intake's frame (R88) -/

theorem letIn_reads {f : IntakeFrame} (hfilling : ∀ n, f.slot = some n → s.slots[n].state = .filling) (o : Option Nat) :
    SameReads s (letIn o f s) := by
  cases hslot : f.slot with
  | none =>
    have hother : ∀ k : SlotId, (letIn o f s).slots[k] = s.slots[k] := fun k => letIn_other (by rw [hslot]; nofun) o s
    have horder : (letIn o f s).order = s.order := (letIn_order o f s).elim id fun ⟨n, hn, _⟩ => by rw [hslot] at hn; cases hn
    have hread : (fun k : SlotId => (letIn o f s).slots[k].isPreRead) = fun k : SlotId => s.slots[k].isPreRead :=
      funext fun k => by rw [hother k]
    exact ⟨by rw [readsOf, hread, horder]; rfl, fun k _ => by rw [hother k], fun hn => by rw [horder]; exact hn⟩
  | some n =>
    refine .of (i := n) (fun k hk => letIn_other (by rw [hslot]; exact fun h => hk (Option.some.inj h).symm) o s) ?_ ?_ ?_
    · rw [Slot.isPreRead, hfilling n hslot]
      rfl
    · rcases letIn_closed hslot o s with h | h <;> rw [Slot.isPreRead, h] <;> rfl
    · refine (letIn_order o f s).imp_right fun ⟨n', hn', horder⟩ => ?_
      rw [horder, Option.some.inj (hslot.symm.trans hn')]

theorem intakeClose_reads (hfilling : ∀ x n, s.intake.frame = some x → x.slot = some n → s.slots[n].state = .filling) :
    SameReads s (intakeClose s).2 := by
  by_cases hmode : s.tl.mode = .play
  · rw [intakeClose_play hmode]
    cases hframe : s.intake.frame with
    | none =>
      rw [closeIntake_none hframe]
      exact ⟨rfl, fun _ _ => rfl, id⟩
    | some x =>
      rw [closeIntake_some hframe]
      exact letIn_reads (fun n hn => hfilling x n hframe hn) _
  · rw [intakeClose_still hmode]
    exact .refl s

theorem intakeClose_other (hk : ∀ x, s.intake.frame = some x → x.slot ≠ some k) : (intakeClose s).2.slots[k] = s.slots[k] := by
  by_cases hmode : s.tl.mode = .play
  · rw [intakeClose_play hmode]
    cases hframe : s.intake.frame with
    | none => rw [closeIntake_none hframe]
    | some x =>
      rw [closeIntake_some hframe]
      exact letIn_other (hk x hframe) ..
  · rw [intakeClose_still hmode]

/-! ### Behind the head (R29) -/

theorem behindHead_congr (h : SameReads s t) (hhead : t.tl.head = s.tl.head) (hgeo : t.geo = s.geo) : behindHead t = behindHead s := by
  have hreads : (t.order.filter fun i => t.slots[i].isPreRead) = s.order.filter fun i => s.slots[i].isPreRead := h.reads
  unfold behindHead
  dsimp only
  rw [hreads, hhead, hgeo]
  refine List.filter_congr fun k hk => ?_
  rw [h.addr k hk]

/-- A slot is behind the head by what the reads, the head and D are. -/
theorem behind_congr (h : SameReads s t) (hnodup : s.order.Nodup) (hhead : t.tl.head = s.tl.head) (hgeo : t.geo = s.geo) :
    Behind t k ↔ Behind s k := by
  rw [← mem_behindHead (h.nodup hnodup), ← mem_behindHead hnodup, behindHead_congr h hhead hgeo]

end Sys2Proof.ReadOrder
end

section
/-! SUPPORT. The slots and the notices after a mark with the engine at rest (R26, R29, R30, R88). -/

namespace Sys2Proof.IdleSlots
open Sys2Proof.Machine Sys2Proof.SpliceEnds Sys2Proof.StoreCommands Sys2Proof.SlotSteps Sys2Proof.HeadReleases Sys2Proof.SlotRequests
open Sys2Proof.IntakeCloses Sys2Proof.IntakeSlots Sys2Proof.MarkStages Sys2Proof.MarkTurns Sys2Proof.MarkOutcomes Sys2Proof.MarkResults
open Sys2Proof.IdleMarks Sys2Proof.IdleRecords Sys2Proof.ReadOrder

variable {s t : State} {f g : CaptureFrame} {i j k : SlotId} {x : IntakeFrame}

/-- A mark with the engine at rest, from a proper store. -/
structure AtRest (s : State) (f g : CaptureFrame) (i j : SlotId) : Prop where
  rests : Rests s
  reads : Reads s f g i j
  onTape : ¬OffTape s
  nodup : s.order.Nodup
  filling : ∀ x n, s.intake.frame = some x → x.slot = some n → s.slots[n].state = .filling

/-- The state whose timeline the mark has reckoned. -/
def reckoned (s : State) : State := { s with tl := idleTl s }

theorem AtRest.marked (h : AtRest s f g i j) : marked s = reckoned s := marked_idle h.rests h.onTape

theorem AtRest.met (h : AtRest s f g i j) : met s = tickJudge (intakeClose (reckoned s)).2 := by
  rw [(met_stands h.reads.conf).1, h.marked]

theorem closing_work (s : State) : IntakeWork (reckoned s) (intakeClose (reckoned s)).2 := intakeClose_work _

/-! ### What the head gives back (R29, R30) -/

theorem headPassed_reads (m : State) : SameReads m (headPassed m) := by
  unfold headPassed
  cases m.tl.head with
  | none => exact .refl m
  | some w => exact releasePassed_reads w m

theorem met_reads (h : AtRest s f g i j) : SameReads (reckoned s) (met s) := by
  have hclose := intakeClose_reads (s := reckoned s) h.filling
  rw [h.met]
  exact ⟨hclose.reads, hclose.addr, hclose.nodup⟩

/-- The head's list of what lies behind it is that of the reckoned state. -/
theorem behind_met (h : AtRest s f g i j) (k : SlotId) : Behind (headPassed (met s)) k ↔ Behind (reckoned s) k := by
  have hwork := (headPassed_work (met s)).frame
  have hmet := (closing_work s).frame
  have hreads := (met_reads h).trans (headPassed_reads (met s))
  refine behind_congr hreads h.nodup ?_ ?_
  · have h1 : (headPassed (met s)).tl = (met s).tl := (congrArg State.tl hwork :)
    rw [h1, h.met]
    exact (congrArg (fun y : State => y.tl.head) hmet :)
  · have h1 : (headPassed (met s)).geo = (met s).geo := (congrArg State.geo hwork :)
    rw [h1, h.met]
    exact (congrArg State.geo hmet :)

/-- A CODED slot that the head of the mark has passed. -/
def PassedBy (s : State) (k : SlotId) : Prop := s.slots[k].state = .coded ∧ (∀ e ∈ s.judge, e.slot ≠ k)
  ∧ ∃ w a, (idleTl s).head = some w ∧ s.slots[k].addr = some a ∧ a ≤ w

/-- What gives slot `k` back. -/
def GivesUp (s : State) (k : SlotId) (t : State) : Prop :=
  t.slots[k] = if blocked s k = true then { s.slots[k] with due := true } else Slot.reset

theorem met_rest (h : AtRest s f g i j) : (met s).fetch = s.fetch ∧ (met s).tl.head = (idleTl s).head
    ∧ (met s).judge = (tickJudge s).judge := by
  have hwork := (closing_work s).frame
  rw [h.met]
  generalize (intakeClose (reckoned s)).2 = c at hwork
  have hjudge : c.judge = s.judge := (congrArg State.judge hwork :)
  exact ⟨(congrArg State.fetch hwork :), (congrArg (fun y : State => y.tl.head) hwork :), by unfold tickJudge; rw [hjudge]⟩

/-- The mark designates entries of the judge list, and takes none away. -/
theorem tickJudge_slots (s : State) (k : SlotId) : (∀ e ∈ (tickJudge s).judge, e.slot ≠ k) ↔ ∀ e ∈ s.judge, e.slot ≠ k := by
  unfold tickJudge
  rw [List.forall_mem_map]
  refine forall₂_congr fun e _ => ?_
  split
  · exact Iff.rfl
  · split <;> exact Iff.rfl

/-- The head gives slot `k` back when it has passed it. -/
theorem headPassed_slot (h : AtRest s f g i j) (hslot : (met s).slots[k] = s.slots[k]) :
    (PassedBy s k → GivesUp s k (headPassed (met s))) ∧ (¬PassedBy s k → (headPassed (met s)).slots[k] = s.slots[k]) := by
  obtain ⟨hfetch, hhead, hjudge⟩ := met_rest h
  have hblocked := blocked_of_slot hslot hfetch
  have hpassed : ∀ w, (idleTl s).head = some w → (Passed (met s) w k ↔ PassedBy s k) := fun w hw => by
    unfold Passed PassedBy
    rw [hslot, hjudge, tickJudge_slots]
    refine and_congr_right fun _ => and_congr_right fun _ => ?_
    refine ⟨fun ⟨a, ha, hle⟩ => ⟨w, a, hw, ha, hle⟩, fun ⟨w', a, hw', ha, hle⟩ => ⟨a, ha, ?_⟩⟩
    rw [Option.some.inj (hw.symm.trans hw')]
    exact hle
  unfold headPassed GivesUp
  rw [hhead]
  cases hw : (idleTl s).head with
  | none =>
    refine ⟨fun ⟨_, _, w, _, hw', _⟩ => ?_, fun _ => hslot⟩
    rw [hw] at hw'
    cases hw'
  | some w =>
    refine ⟨fun hp => ?_, fun hp => (releasePassed_other fun hq => hp ((hpassed w hw).mp hq)).trans hslot⟩
    have hfreed := releasePassed_passed ((hpassed w hw).mpr hp)
    rw [hblocked, hslot] at hfreed
    exact hfreed

theorem GivesUp.isPreRead (h : GivesUp s k t) (hs : s.slots[k].isPreRead = false) : t.slots[k].isPreRead = false := by
  rw [GivesUp] at h
  rw [h]
  split
  · exact hs
  · rfl

/-- What the mark gives back and what it leaves when the head has entered its frame (R29, R30). -/
theorem entered_slot (h : AtRest s f g i j) (hslot : (met s).slots[k] = s.slots[k]) :
    (Behind (reckoned s) k ∨ PassedBy s k → GivesUp s k (entered s))
    ∧ (¬Behind (reckoned s) k → ¬PassedBy s k → (entered s).slots[k] = s.slots[k]) := by
  obtain ⟨hup, hstays⟩ := headPassed_slot h hslot
  have hbehind := behind_met h k
  have hnodup := ((met_reads h).trans (headPassed_reads (met s))).nodup h.nodup
  have hfetch : (headPassed (met s)).fetch = s.fetch :=
    (congrArg State.fetch (headPassed_work (met s)).frame :).trans (met_rest h).1
  rw [(entered_rests h.rests h.reads.conf).1]
  by_cases hpassed : PassedBy s k
  · have hread : s.slots[k].isPreRead = false := LockLoss.coded_isPreRead hpassed.1
    have hnot : ¬Behind (reckoned s) k := fun hb => Bool.false_ne_true (hread.symm.trans hb.1)
    refine ⟨fun _ => ?_, fun _ hn => absurd hpassed hn⟩
    have hother := releaseBehind_other hnodup fun hb => hnot (hbehind.mp hb)
    rw [GivesUp, hother]
    exact hup hpassed
  · refine ⟨fun hor => ?_, fun hn _ => (releaseBehind_other hnodup fun hb => hn (hbehind.mp hb)).trans (hstays hpassed)⟩
    have hfreed := releaseBehind_behind hnodup (hbehind.mpr (hor.resolve_right hpassed))
    rw [blocked_of_slot (hstays hpassed) hfetch, hstays hpassed] at hfreed
    exact hfreed

/-! ### The slots after the mark -/

/-- A slot of another holder than the intake's frame meets the head as it was. -/
theorem met_slot (h : AtRest s f g i j) (hk : ∀ x, s.intake.frame = some x → x.slot ≠ some k) : (met s).slots[k] = s.slots[k] := by
  rw [h.met]
  exact intakeClose_other (s := reckoned s) hk

/-- A slot that has been given back stays due while it is blocked, and is empty or taken otherwise. -/
theorem takeMark_givesUp (h : AtRest s f g i j) (hk : ∀ x, s.intake.frame = some x → x.slot ≠ some k)
    (hgone : Behind (reckoned s) k ∨ PassedBy s k) : if blocked s k = true then (takeMark s).slots[k] = { s.slots[k] with due := true }
      else (takeMark s).slots[k] = Slot.reset ∨ ∃ r, (takeMark s).slots[k] = filled r s.clock.rate := by
  obtain ⟨hstays, hempties, -, -⟩ := takeMark_serves h.reads fun _ => handed_other hk
  have hup := (entered_slot h (met_slot h hk)).1 hgone
  have hfetch := (entered_stands h.reads.conf).fetch
  rw [(entered_stands h.reads.conf).clock] at hempties
  rw [GivesUp] at hup
  split at hup
  · next hblocked =>
    rw [if_pos hblocked]
    have hstate : s.slots[k].state ≠ .free := fun hf => by
      rcases hgone with hb | hp
      · have hread : s.slots[k].isPreRead = true := hb.1
        rw [Slot.isPreRead, hf] at hread
        cases hread
      · rw [hp.1] at hf
        cases hf
    refine (hstays ⟨by rw [hup]; exact hstate, fun _ _ => ?_⟩).trans hup
    have hsame : (entered s).slots[k].isHeld = s.slots[k].isHeld ∧ (entered s).slots[k].pinned = s.slots[k].pinned := by
      rw [hup]
      exact ⟨rfl, rfl⟩
    have hfetched := CutSlots.beingFetched_congr hfetch k
    unfold blocked at hblocked ⊢
    rw [hsame.1, hsame.2, hfetched]
    exact hblocked
  · next hblocked =>
    rw [if_neg hblocked]
    exact hempties hup

theorem takeMark_keeps (h : AtRest s f g i j) (hk : ∀ x, s.intake.frame = some x → x.slot ≠ some k) (hb : ¬Behind (reckoned s) k)
    (hp : ¬PassedBy s k) (hstate : s.slots[k].state ≠ .free) (hdue : s.slots[k].due = true → blocked s k = true) :
    (takeMark s).slots[k] = s.slots[k] := by
  have hsame := (entered_slot h (met_slot h hk)).2 hb hp
  have hheld : Held (entered s) k := Held.of_slot ⟨hstate, fun _ => hdue⟩ hsame (entered_stands h.reads.conf).fetch
  exact ((takeMark_serves h.reads fun _ => handed_other hk).stays hheld).trans hsame

end Sys2Proof.IdleSlots
end

section
/-! SUPPORT. The intake's slot and the notices after a mark with the engine at rest (R26, R88, R90). -/

namespace Sys2Proof.IdleIntakes
open Sys2Proof.Machine Sys2Proof.StepLaws Sys2Proof.SpliceEnds Sys2Proof.StoreCommands Sys2Proof.SlotSteps Sys2Proof.HeadReleases
open Sys2Proof.SlotRequests Sys2Proof.IntakeCloses Sys2Proof.IntakeSlots Sys2Proof.MarkStages Sys2Proof.MarkTurns Sys2Proof.MarkOutcomes
open Sys2Proof.MarkResults Sys2Proof.IdleMarks Sys2Proof.IdleRecords Sys2Proof.ReadOrder Sys2Proof.IdleSlots

variable {s t : State} {f g : CaptureFrame} {i j k n : SlotId} {x : IntakeFrame}

/-! ### The intake's slot (R88) -/

/-- The intake's slot when its frame is full and handed on. -/
def readied (s : State) (x : IntakeFrame) (n : SlotId) : Slot := { s.slots[n] with
  state := .ready
  audio := (x.last.map fun y => putPairs s.slots[n].audio x.rate x.taken (List.replicate (lacks s x) y.1)).getD s.slots[n].audio }

theorem reckoned_play (h : AtRest s f g i j) (hmode : s.tl.mode = .play) : (reckoned s).tl.mode = .play := by
  rw [← h.marked, marked_mode, hmode]

theorem intakeClose_some (h : AtRest s f g i j) (hmode : s.tl.mode = .play) (hx : s.intake.frame = some x) :
    intakeClose (reckoned s) = (some (handedOn s x), letIn (idleTl s).offered x (reckoned s)) := by
  rw [intakeClose_play (reckoned_play h hmode)]
  exact closeIntake_some (s := reckoned s) hx _

theorem met_readied (h : AtRest s f g i j) (hmode : s.tl.mode = .play) (hx : s.intake.frame = some x) (hslot : x.slot = some n)
    (hrate : x.rate = s.clock.rate) : (met s).slots[n] = readied s x n := by
  have hkept := letIn_kept (s := reckoned s) hslot hrate (idleTl s).offered
  have hpairs : putPairs s.slots[n].audio x.rate x.taken (fullPairs (reckoned s) x)
      = (x.last.map fun y => putPairs s.slots[n].audio x.rate x.taken (List.replicate (lacks s x) y.1)).getD s.slots[n].audio := by
    unfold fullPairs
    cases x.last <;> rfl
  rw [h.met, intakeClose_some h hmode hx, readied, ← hpairs]
  exact hkept

theorem met_dropped (h : AtRest s f g i j) (hmode : s.tl.mode = .play) (hx : s.intake.frame = some x) (hslot : x.slot = some n)
    (hrate : x.rate ≠ s.clock.rate) : (met s).slots[n] = Slot.reset := by
  rw [h.met, intakeClose_some h hmode hx]
  exact letIn_dropped (s := reckoned s) hslot hrate _

/-- The head gives back CODED and PRE-READ slots alone. -/
theorem entered_other (h : AtRest s f g i j) (hcoded : (met s).slots[k].state ≠ .coded) (hread : (met s).slots[k].isPreRead = false) :
    (entered s).slots[k] = (met s).slots[k] := by
  have hpassed : (headPassed (met s)).slots[k] = (met s).slots[k] := by
    unfold headPassed
    cases (met s).tl.head with
    | none => rfl
    | some w => exact releasePassed_other fun hp => hcoded hp.1
  have hnodup := ((met_reads h).trans (headPassed_reads (met s))).nodup h.nodup
  rw [(entered_rests h.rests h.reads.conf).1]
  refine (releaseBehind_other hnodup fun hb => ?_).trans hpassed
  have hbehind := hb.1
  rw [hpassed, hread] at hbehind
  cases hbehind

theorem entered_readied (h : AtRest s f g i j) (hmode : s.tl.mode = .play) (hx : s.intake.frame = some x) (hslot : x.slot = some n)
    (hrate : x.rate = s.clock.rate) : (entered s).slots[n] = readied s x n ∧ Held (entered s) n := by
  have hmet := met_readied h hmode hx hslot hrate
  have hentered := entered_other (k := n) h (by rw [hmet]; nofun) (by rw [hmet]; rfl)
  rw [hmet] at hentered
  refine ⟨hentered, ?_⟩
  unfold Held
  rw [hentered]
  exact ⟨nofun, nofun⟩

theorem entered_offered (h : AtRest s f g i j) : (entered s).tl.offered = (idleTl s).offered :=
  congrArg Timeline.offered (entered_records h.rests h.reads.conf).tl

/-- A full frame that is offered for coding waits READY. -/
theorem takeMark_readied (h : AtRest s f g i j) (hmode : s.tl.mode = .play) (hx : s.intake.frame = some x) (hslot : x.slot = some n)
    (hrate : x.rate = s.clock.rate) (hoffered : (idleTl s).offered.isSome = true) : (takeMark s).slots[n] = readied s x n := by
  obtain ⟨hentered, hheld⟩ := entered_readied h hmode hx hslot hrate
  have hserves := takeMark_serves (k := n) h.reads fun hno => by
    rw [← entered_offered h, hno] at hoffered
    cases hoffered
  exact (hserves.stays hheld).trans hentered

theorem takeMark_dropped (h : AtRest s f g i j) (hmode : s.tl.mode = .play) (hx : s.intake.frame = some x) (hslot : x.slot = some n)
    (hrate : x.rate ≠ s.clock.rate) : (takeMark s).slots[n] = Slot.reset ∨ ∃ r, (takeMark s).slots[n] = filled r s.clock.rate := by
  have hmet := met_dropped h hmode hx hslot hrate
  have hentered := entered_other (k := n) h (by rw [hmet]; nofun) (by rw [hmet]; rfl)
  have hserves := takeMark_serves (k := n) h.reads fun _ => by
    have hnone : (handedOn s x).slot = none := by
      unfold handedOn
      rw [if_pos (.inr hrate)]
    rw [h.marked, intakeClose_some h hmode hx, Option.bind_some, hnone]
    nofun
  rw [hmet] at hentered
  rw [← (entered_stands h.reads.conf).clock]
  exact hserves.empties hentered

/-- A full frame that is not offered gives its slot back at once. -/
theorem takeMark_unread (h : AtRest s f g i j) (hmode : s.tl.mode = .play) (hx : s.intake.frame = some x) (hslot : x.slot = some n)
    (hrate : x.rate = s.clock.rate) (hno : (idleTl s).offered = none) (hblocked : blocked s n = false) :
    (takeMark s).slots[n] = Slot.reset := by
  obtain ⟨hentered, hheld⟩ := entered_readied h hmode hx hslot hrate
  have hplayed := takeMark_played h.reads
  have hfetch := (entered_stands h.reads.conf).fetch
  have htl := turnedAt_tl s f g
  have hserves : Served n (entered s) (begun (intakeStale (marked s)) (turnedAt s f g)) :=
    (turnedBoth_serves ..).trans (begun_serves ..)
  have hbegunTl := (congrArg State.tl (begun_playWork (intakeStale (marked s)) (turnedAt s f g)).frame :)
  have hclosed : (intakeClose (marked s)).1.bind (·.slot) = some n := by
    have hkept : (handedOn s x).slot = some n := by
      unfold handedOn
      rw [if_neg (not_or.mpr ⟨by rw [hslot]; nofun, not_not.mpr hrate⟩), hslot]
    rw [h.marked, intakeClose_some h hmode hx, Option.bind_some, hkept]
  rw [played_rests h.rests h.reads hmode, offeredAt, offered] at hplayed
  generalize begun (intakeStale (marked s)) (turnedAt s f g) = b at hserves hbegunTl hplayed
  have hslotNow : b.slots[n] = readied s x n := (hserves.stays hheld).trans hentered
  have hbno : b.tl.offered = none := by rw [hbegunTl, htl, entered_offered h, hno]
  have hfree : blocked b n = false := by
    have hfetched := CutSlots.beingFetched_congr (hserves.fetch.trans hfetch) n
    unfold blocked at hblocked ⊢
    rw [hfetched, hslotNow]
    exact hblocked
  rw [offer_none hbno, hclosed] at hplayed
  have hreleased : releaseOpt (some n) b = releaseSlot n b := if_neg (by rw [hfree]; exact Bool.false_ne_true)
  rw [hreleased] at hplayed
  generalize takeMark s = t at hplayed ⊢
  have hslots : t.slots = (releaseSlot n b).slots := (congrArg State.slots hplayed :)
  rw [hslots, releaseSlot_get_same]

/-! ### Free slots (R27) -/

/-- The head's entry leaves what was FREE. -/
theorem entered_free (h : AtRest s f g i j) (hfree : s.slots[k].state = .free) : (entered s).slots[k] = s.slots[k] := by
  have hk : ∀ x, s.intake.frame = some x → x.slot ≠ some k := fun x hx hslot => by
    have hfilling := h.filling x k hx hslot
    rw [hfree] at hfilling
    cases hfilling
  refine (entered_slot h (met_slot h hk)).2 (fun hb => ?_) (fun hp => ?_)
  · have hread : s.slots[k].isPreRead = true := hb.1
    rw [Slot.isPreRead, hfree] at hread
    cases hread
  · have hcoded := hp.1
    rw [hfree] at hcoded
    cases hcoded

theorem entered_freeSlots (h : AtRest s f g i j) : freeSlots s ≤ freeSlots (entered s) := by
  unfold freeSlots
  refine List.Sublist.length_le (List.monotone_filter_right _ fun k hk => ?_)
  have hfree := beq_iff_eq.mp hk
  rw [entered_free h hfree]
  exact hk

/-! ### Notices (R90) -/

theorem handed_slips (hx : s.intake.frame = some x) : (handed s).slips = fullSlips s x := by
  rw [handed, hx]
  show (handedOn s x).slips = _
  unfold handedOn
  split <;> rfl

/-- The notices of the intake's close. -/
theorem entered_notices (h : AtRest s f g i j) : (s.tl.mode ≠ .play ∨ (handed s).slips = 0 → (entered s).notices = s.notices)
    ∧ (s.tl.mode = .play → (handed s).slips ≠ 0 → ∃ n, (entered s).notices = (post .intakeSlip n (idleTl s).offered none s).notices
      ∧ (s.intake.source = .analog → n = 0) ∧ (s.intake.source = .digital → n = 1)) := by
  have hmet : (entered s).notices = (intakeClose (reckoned s)).2.notices := by
    have hwork := (entered_rests h.rests h.reads.conf).2.frame
    rw [h.met] at hwork
    generalize entered s = v at hwork ⊢
    exact (congrArg State.notices hwork :)
  rw [hmet]
  by_cases hmode : s.tl.mode = .play
  · cases hx : s.intake.frame with
    | none =>
      have hslips : (handed s).slips = 0 := by
        rw [handed, hx]
        rfl
      have hclose : (intakeClose (reckoned s)).2.notices = s.notices := by
        rw [intakeClose_play (reckoned_play h hmode), closeIntake_none (s := reckoned s) hx]
        rfl
      exact ⟨fun _ => hclose, fun _ hn => absurd hslips hn⟩
    | some x =>
      have hlet := (letIn_work (idleTl s).offered x (reckoned s)).2.2
      obtain ⟨hquiet, hslip⟩ := postSlip_notices (full (reckoned s) x) (idleTl s).offered
        (storeIntake x.slot x.rate x.taken (fullPairs (reckoned s) x) (reckoned s))
      have hstore := (storeIntake_work x.slot x.rate x.taken (fullPairs (reckoned s) x) (reckoned s)).frame
      have hslips : (full (reckoned s) x).slips = (handed s).slips := (handed_slips hx).symm
      rw [intakeClose_some h hmode hx]
      dsimp only
      rw [hlet, slipped]
      rw [hslips] at hquiet hslip
      generalize storeIntake x.slot x.rate x.taken (fullPairs (reckoned s) x) (reckoned s) = c at hquiet hslip hstore ⊢
      have hnotices : c.notices = s.notices := (congrArg State.notices hstore :)
      have hroutes : c.routes = s.routes := (congrArg State.routes hstore :)
      have hintake : c.intake = s.intake := (congrArg State.intake hstore :)
      refine ⟨fun hq => (hquiet (hq.resolve_left (not_not.mpr hmode))).trans hnotices, fun _ hn => ?_⟩
      obtain ⟨m, hm, hanalog, hdigital⟩ := hslip hn
      rw [hintake] at hanalog hdigital
      exact ⟨m, hm.trans (post_notices_congr hroutes hnotices ..), hanalog, hdigital⟩
  · have hstill : (reckoned s).tl.mode ≠ .play := by
      rw [← h.marked, marked_mode]
      exact hmode
    rw [intakeClose_still hstill]
    exact ⟨fun _ => rfl, fun hp => absurd hp hmode⟩

/-- With slots for the next frames the mark posts nothing else. -/
theorem takeMark_notices (h : AtRest s f g i j) (hfree : 3 ≤ freeSlots s) : (takeMark s).notices = (entered s).notices := by
  have hleft := hfree.trans (entered_freeSlots h)
  by_cases hmode : s.tl.mode = .play
  · have hplayed := takeMark_played h.reads
    rw [played_rests h.rests h.reads hmode] at hplayed
    have hoffered := (offeredAt_alike s f g).1.notices hleft
    generalize takeMark s = t at hplayed ⊢
    exact (congrArg State.notices hplayed :).trans hoffered
  · exact (takeMark_unoffered h.reads (.inl hmode)).2.2 hleft

end Sys2Proof.IdleIntakes
end

section
/-! SUPPORT. The obligation on the frame mark (R8, R17, R29, R30, R49, R80, R88, R103, R106, R140 to R142). -/

namespace Sys2Proof.FrameMarkLaw
open Sys2Proof.Machine Sys2Proof.StoreCommands Sys2Proof.ProgramStops Sys2Proof.GateMarks Sys2Proof.HeadReleases Sys2Proof.Prepares
open Sys2Proof.BankRequests Sys2Proof.SlotRequests Sys2Proof.EngineMarks Sys2Proof.IntakeCloses Sys2Proof.MarkStages Sys2Proof.MarkTurns
open Sys2Proof.MarkOutcomes Sys2Proof.LoneHeads Sys2Proof.MarkResults Sys2Proof.LayMarks Sys2Proof.TapeEnds Sys2Proof.IdleMarks
open Sys2Proof.IdleRecords Sys2Proof.IdleSlots Sys2Proof.IdleIntakes

/-- Settles O49: a mark goes by its stages (`takeMark_eq`), and each case says what one of them does: the reckoning with the engine at rest,
the channels' turn and the monitor's choice, the engine's work from the head's, a lay, the gate, the releases, and the engine's requests. -/
theorem frameMark : Obligations.FrameMark := by
  refine ⟨?idle, ?turns, ?placed, ?lay, ?gate, fun s i hnodup => ⟨releaseBehind_behind hnodup, releaseBehind_other hnodup,
    fun w => ⟨releasePassed_passed, releasePassed_other⟩⟩, ?prepares, ?banks⟩
  case idle =>
    intro s f g i j hstate hsplice hprepared hwait hgate hwrite hcoding hpre hpreIdle hi hconf hconfIdle hj q d c laid lacks' slips handed' tl
    have hreads : Reads s f g i j := ⟨hpre, hpreIdle, hi, hconf, hconfIdle, hj⟩
    have hrests : Rests s := ⟨hstate, hsplice, hprepared, hwait, hgate, hwrite, hcoding⟩
    have hrecords := entered_records hrests hconf
    obtain ⟨htl, htgate, htjudge⟩ := takeMark_head hreads
    have hidle : tl = idleTl s := rfl
    have hhanded : handed' = handed s := by
      dsimp only [handed']
      unfold handed
      cases s.intake.frame <;> rfl
    obtain ⟨hprec, hpreIn, hconfc, hconfIn⟩ := takeMark_channels hreads
    rw [dueNow_rests hrests] at hconfc
    clear_value tl handed'
    subst hidle hhanded
    refine ⟨takeMark s, rfl, htl.trans hrecords.tl, htgate.trans hrecords.gate, hprec, hpreIn, hconfIn, hconfc,
      htjudge.trans hrecords.judge, fun hmode => ?play, fun hmode => ?still, ?settings, ?mon, fun hnodup hon hfilling => ?store⟩
    case settings => exact (takeMark_step (Move.refl s)).settings
    case play =>
      obtain ⟨hfly, hstale, hfresh⟩ := takeMark_intake hrests hreads hmode
      have hmon := takeMark_mon_rests hrests hreads hmode
      refine ⟨(congrArg Monitor.outPos hmon :), hfly, fun hrate => ?_, fun k hk hrate => hstale ⟨k, hk, hrate⟩,
        (takeMark_coding_rests hrests hreads).1 hmode⟩
      obtain ⟨o, ho⟩ := hfresh fun ⟨k, hk, hne⟩ => hne (hrate k hk)
      exact ⟨_, ho, rfl, rfl, rfl, rfl, rfl⟩
    case still =>
      have hmon := takeMark_mon_still hreads hmode
      exact ⟨(congrArg Monitor.outPos hmon :), takeMark_intake_still hrests hreads hmode,
        (takeMark_coding_rests hrests hreads).2 hmode⟩
    case mon =>
      by_cases hmode : s.tl.mode = .play
      · rw [if_pos hmode]
        exact takeMark_mon_rests hrests hreads hmode
      · rw [if_neg hmode]
        exact takeMark_mon_still hreads hmode
    case store =>
      have hrest : AtRest s f g i j := ⟨hrests, hreads, fun ⟨hm, hl, hoff⟩ => Nat.not_lt.mpr hoff (hon hm hl), hnodup, hfilling⟩
      refine ⟨fun hfree => ?_, fun x n hmode hx hslot => ⟨fun hrate hoffered => ?_, fun hor hblocked => ?_⟩,
        fun k hk => ⟨fun hgone => ?_, fun hb hp =>
        takeMark_keeps hrest hk hb hp⟩⟩
      · rw [takeMark_notices hrest hfree]
        exact entered_notices hrest
      · exact takeMark_readied hrest hmode hx hslot hrate hoffered
      · by_cases hrate : x.rate = s.clock.rate
        · exact .inl (takeMark_unread hrest hmode hx hslot hrate (hor.resolve_left (not_not.mpr hrate)) hblocked)
        · exact takeMark_dropped hrest hmode hx hslot hrate
      · exact takeMark_givesUp hrest hk hgone
  case turns =>
    intro s f g i j hpre hpreIdle hi hconf hconfIdle hj u v
    have hreads : Reads s f g i j := ⟨hpre, hpreIdle, hi, hconf, hconfIdle, hj⟩
    have hstands := entered_stands hconf
    obtain ⟨hclosedGate, hopenGate⟩ := entered_gate s
    obtain ⟨htl, hgate, -⟩ := takeMark_head hreads
    refine ⟨takeMark s, rfl, fun h => hgate.trans (hclosedGate h), fun w h => hgate.trans (hopenGate w h), htl, fun k hk => ?slots,
      fun h => takeMark_unoffered hreads h, fun x hm hx => ?offered, fun h => ?still, fun h => ?play⟩
    case slots =>
      obtain ⟨hstays, hempties, -, -⟩ := takeMark_serves hreads fun _ => handed_other hk
      rw [hstands.clock] at hempties
      exact ⟨fun hstate hdue => hstays ⟨hstate, fun _ => hdue⟩, hempties⟩
    case offered =>
      obtain ⟨heng, hbanks, hintake, hnotices⟩ := takeMark_offered hreads hm hx
      exact ⟨heng, hbanks, hintake, hnotices⟩
    case still =>
      rw [takeMark_mon_still hreads h]
    case play =>
      obtain ⟨hmon, hbegins, hplaced, haged⟩ := takeMark_mon_play hreads h
      exact ⟨hmon, hbegins, hplaced, haged⟩
  case placed =>
    intro s f g i j hpre hpreIdle hi hconf hconfIdle hj hmode hstate hlay hsplice hd hlegal w
    have hreads : Reads s f g i j := ⟨hpre, hpreIdle, hi, hconf, hconfIdle, hj⟩
    have hmarked := marked_placed hmode hstate hlay
    have hnone : (marked s).eng.splice = none := by rw [hmarked]; exact hsplice
    have hoffered : (entered s).tl.offered = some (s.tl.position + 3 - s.geo.d) := by
      rw [(entered_engine hconf hnone).2.2, hmarked]
      exact reckonedOffer_some hd hlegal
    have halike := entered_alike hconf hmarked rfl hmode hsplice
    have hprep := (Alike.engined ((halike.prepareAt (s.tl.position + 3 - s.geo.d)).askDue s.eng.prepared))
    have hplayed := Alike.engined (played_offered (f := f) (g := g) hmode hoffered)
    rw [halike.eng] at hplayed
    obtain ⟨heng, hbanks, hintake, -⟩ := (hprep.trans hplayed).monitor (some j)
    refine ⟨takeMark s, rfl, ?_⟩
    rw [takeMark_eq hreads]
    exact ⟨heng, hbanks, hintake⟩
  case lay =>
    intro s f g i j hpre hpreIdle hi hconf hconfIdle hj d laid
    have hreads : Reads s f g i j := ⟨hpre, hpreIdle, hi, hconf, hconfIdle, hj⟩
    refine ⟨takeMark s, rfl, fun n e hwait hentry hsplice => ⟨fun hn hlay hprepared hstate => ?_, fun hn hmode ha => ?_⟩,
      fun sp k w hmode hstate hwait hlaid hw hgate hsplice hlay hindex => ?_, fun hmode hstate hwait hoff hrun => ?_⟩
    · exact takeMark_waits hreads hwait hn hentry hlay hsplice hprepared hstate
    · obtain ⟨htl, heng, hcoding⟩ := takeMark_lays hreads hwait hn hentry hsplice hmode ha
      exact ⟨htl.trans (layHand_eq ..), heng, hcoding⟩
    · obtain ⟨⟨hgen, hhanded, hrunTl, hon, hofft⟩, hnone, hfinishing, hsplicing⟩ :=
        takeMark_endsLay hreads hmode hstate hwait rfl hlaid hw hgate hsplice hlay hindex
      exact ⟨hnone, hgen, hhanded, hrunTl, hon, hofft, hfinishing, hsplicing⟩
    · obtain ⟨hunlocked, hgen, hends, hbroken⟩ := takeMark_runsOff hreads hmode hstate hwait hoff hrun
      refine ⟨hunlocked, hgen, fun sp k hsp _ => hends sp hsp, fun e he hlay hsplice hrecord => ?_⟩
      obtain ⟨hactive, hresult⟩ := hbroken e he hlay hsplice hrecord
      exact ⟨hactive, hresult⟩
  case gate =>
    intro s a t ends cut
    have hcut : ∀ {o r}, CutAs o r s t → cut o r := fun h => ⟨h.gate, h.judge, fun sp hsp => by
      obtain ⟨hnone, x, hx, htag, ho, hr, hin, -⟩ := h.ended sp hsp
      exact ⟨hnone, x, hx, htag, ho, hr, hin⟩, h.mix⟩
    refine ⟨fun h => gateEnter_closed h a, fun h => ?last, fun h => gateEnter_waits h, fun tag next hholder hnext => ?tries⟩
    case last =>
      obtain ⟨hgate, hjudge, hends⟩ := gateEnter_last h a
      refine ⟨hgate, hjudge, fun sp hsp => ?_⟩
      obtain ⟨hnone, x, hx, htag, ho, hr, hin, hout⟩ := hends sp hsp sp hsp
      refine ⟨hnone, x, hx, htag, hin, hout, fun hreason => ?_, fun o r hreason => ?_⟩ <;> rw [ho, hr, hreason] <;> exact ⟨rfl, rfl⟩
    case tries =>
      intro coded here
      have hopen := Expects.opened hnext
      have htries : t = tryWrite tag next a s := gateEnter_tries hholder hnext
      refine ⟨fun h => hcut (htries ▸ tryWrite_stops hopen h), fun h => ⟨fun hmiss => hcut (htries ▸ tryWrite_misses hopen h hmiss),
        fun k hk honly ha => ⟨fun hbar => ?_, fun hguard hhere q hq => ?_⟩⟩⟩
      · have hgoes := (tryWrite_found h (codedSlot_only hk honly) ha).trans (if_pos (barred_iff.mpr hbar))
        obtain ⟨hg, hn⟩ := cutGate_guarded (v := endWrite s) hopen rfl a
        refine ⟨hcut (htries.trans hgoes ▸ endWrite_cut hopen hg), fun hnone => ?_⟩
        rw [htries, hgoes, hn hnone]
        rfl
      · have hbar : ¬barred s tag a = true := fun hb => (barred_iff.mp hb).elim (fun hg => by rw [hguard] at hg; cases hg) hhere
        have hgoes := (tryWrite_found h (codedSlot_only hk honly) ha).trans (if_neg hbar)
        have hbegins : Begins tag a k q s t := htries.trans hgoes ▸ beginWrite_begins hq
        exact ⟨hbegins.enabled, hbegins.slots, hbegins.gate, hbegins.judge, fun sp hsp => ⟨hbegins.other sp hsp, hbegins.own sp hsp⟩⟩
  case prepares =>
    intro s x t G S active beyond lays
    refine ⟨prepareAt_idle, fun hactive hbeyond hlay => ⟨fun hnone hsplice => ?_, fun k e hk hun hbefore => ?_⟩⟩
    · have hover : t = endPass s := by
        show prepareAt x s = _
        rw [prepareAt_scan hactive hbeyond hlay, prepareScan_none hnone, settled_over hnone hsplice]
      refine ⟨fun hmode => ?_, hover⟩
      rw [hover, endPass_record hmode]
      exact setEng_state ..
    · intro takes out past span fadeOut
      have hfirst : First s k e := ⟨hk, Bool.eq_false_iff.mpr fun hp => by
        obtain ⟨p, hp, hpk⟩ := isPrepared_iff.mp hp
        exact hun p hp hpk, fun l hl => (hbefore l hl).imp_right isPrepared_iff.mpr⟩
      have htakes := fun hpast : ¬past => prepareAt_takes hfirst hpast hactive hbeyond hlay
      refine ⟨fun hpast hmode honly => prepareAt_skips hfirst hpast hmode honly hactive hbeyond hlay, fun hpast hin => ?_, fun hpast hin => ?_,
        fun hpast hin => ?_⟩
      · refine (htakes hpast).trans ((if_pos hin).trans ?_)
        unfold preparedAtIn spanOf
        rw [hin]
        rfl
      · refine (htakes hpast).trans ((if_neg (Nat.ne_of_lt hin)).trans ((if_pos hin).trans ?_))
        rfl
      · exact (htakes hpast).trans ((if_neg (Nat.ne_of_gt hin)).trans (if_neg (Nat.lt_asymm hin)))
  case banks =>
    intro s p e hprepared hentry hok t tag dropped
    refine ⟨askDue_none hentry, fun hasked hfly => ?_⟩
    have ht : t = askFor p e s := askDue_some hprepared hentry hasked hfly
    clear_value t
    subst ht
    have hdropped : ∀ {o r}, Dropped p e o r s (askFor p e s) → dropped o r := fun h =>
      ⟨h.prepared, h.flyStart, h.bankFor, h.active, h.source, h.result⟩
    refine ⟨fun h0 h1 => ?_, fun n hfull hfirst => ⟨askFor_granted hprepared hok hfull hfirst, fun hrate => ?_⟩⟩
    · exact (askFor_unavailable hprepared hentry hok fun n => by cases n <;> assumption).imp_left hdropped
    · exact (askFor_mismatch hprepared hentry hok hfull hfirst hrate).imp_left hdropped

end Sys2Proof.FrameMarkLaw
end
